-- ==== Sys2Proof/Word.lean ====
section
/-!
DEFINITION. The word types of the module: bytes, 128-byte lines, and the sparse store in which every large
array of the machine (DRAM, the register fields, the directory, tables) is held as plain data.
-/

namespace Sys2Proof

/-- One byte of the pool (R7). -/
abbrev Byte := BitVec 8

/-- A coherence line: 128 bytes, byte 0 in the lowest bits (R9, R107). -/
abbrev Line := BitVec 1024

/-- A sparse store: keys strictly rising, and no entry that equals what an unlisted key reads as. -/
abbrev Store (α : Type) := List (Nat × α)

/-- Stack cores SC0-SC15 (R9). -/
abbrev Core := Fin 16
/-- Physical engines E0-E8 of a core (R9). -/
abbrev Eng := Fin 9
/-- Partitions PT0-PT15 (R9). -/
abbrev Ptn := Fin 16
/-- Fabric ports P0-P47 (R9). -/
abbrev Port := Fin 48
/-- Root ports 0-15. -/
abbrev Root := Fin 16
/-- Partner identifiers: 12 bits (Table 00-3). -/
abbrev Pid := Fin 4096
/-- The two Selvedge ports, 0 = SELV-A and 1 = SELV-B (R9). -/
abbrev Selv := Fin 2

end Sys2Proof
end

