-- ==== Sys2Proof/Syntax.lean ====
section
/-!
DEFINITION. The commands of the module: one constructor of `Instr` for each row of spec/opcode_table.json, with the
operands that the outside gives it. Everything else a command needs it finds in the state.
-/

namespace Sys2Proof

/-- What a training block says (Table 11-2): `crcOk` that it is of the type looked for and its CRC passes; `rsv` lists
RSV0 to RSV7. -/
structure TsBlock where
  crcOk   : Bool := true
  plane   : Nat := 0
  rtr     : Bool := false
  node    : Nat := 0
  coef    : Nat := 0
  atLimit : Bool := false
  eqDone  : Bool := false
  vmin    : Nat := 0
  vmax    : Nat := 0
  feat    : Nat := 0
  rxgood  : Nat := 0
  wreq    : Nat := 0
  att     : Nat := 0
  maxvc   : Nat := 0
  lanes   : Nat := 0
  width   : Nat := 0
  ver     : Nat := 0
  nvc     : Nat := 0
  afeat   : Nat := 0
  nextSeq : Nat := 0
  pool    : Nat := 0
  rsv     : List Nat := []
  deriving DecidableEq, Repr

/-- What a flit says (Tables 11-4, 11-5): whether its CRC passes, its header fields and its 246-byte body. -/
structure RxFlit where
  crcOk : Bool := true
  seq   : Nat := 0
  kind  : Nat := 0
  keyPh : Bool := false
  wsw   : Bool := false
  ack   : Nat := 0
  av    : Bool := false
  nak   : Bool := false
  rsvd  : Bool := false
  cvc   : Nat := 0
  cv    : Bool := false
  cret  : Nat := 0
  body  : Nat := 0
  deriving DecidableEq, Repr

/-- The IEEE 802.3 frame that brings a Selvedge message (R498): the Selvedge port it comes in by, its source address, its
EtherType, whether its frame check sequence passes, the message's WORDS, and the bytes of its payload. -/
structure SelvFrame where
  port      : Selv
  src       : Nat
  etherType : Nat := 0x88B5
  fcsOk     : Bool := true
  words     : Nat
  len       : Nat
  deriving DecidableEq, Repr

/-- Accesses to a slice that become ready with an engine's (R123): partners, and other engines. -/
structure Ties where
  pids : List Pid := []
  engs : List (Core × Eng) := []
  deriving DecidableEq, Repr

/-- Who sends a message to the module: a partner, and the link port it comes by. -/
structure Sender where
  pid  : Pid
  port : Port
  deriving DecidableEq, Repr

/-- A physical engine of a core. -/
structure EngId where
  core : Core
  eng  : Eng
  deriving DecidableEq, Repr

/-- The index that a stalled pattern of a core's local or segment context waits for, and how many lines past it are filled
by then (R159). -/
structure IndexFill where
  seg   : Bool
  ahead : Nat := 0
  deriving DecidableEq, Repr

/-- What happens while a physical engine works on a tile. `found`: 0 no detection; 1 to 7 the block of Table 07-12 that
detects; 8 the write path, and the retry passes; 9 the write path, and the retry fails; 10 a TLB entry; 11 a tile queue
entry. `bad`: for 5 which input lines, in order, fail parity; for 9 first which line's retry fails. `ahead`: how many lines
of the next tile it has then fetched. -/
structure TileRun where
  found : Fin 12 := 0
  bad   : List Nat := []
  ahead : Nat := 0
  ties  : Ties := {}
  deriving DecidableEq, Repr

/-- A request that a drive sends: `outside` its private bus space; `errors` correctable PCIe errors came with it. -/
structure DriveReq where
  outside : Bool
  errors  : Nat := 0
  deriving DecidableEq, Repr

/-- What a drive identifies itself as (R285, Table 10-1), but for the size of its namespace. -/
structure DriveId where
  nvme2       : Bool := true
  /-- Namespace 1: active, its LBA and metadata sizes in bytes. -/
  active      : Bool := true
  lbaBytes    : Nat := 4096
  metadata    : Nat := 0
  /-- Queue pairs and their entries. -/
  adminPairs  : Nat := 1
  ioPairs     : Nat := 4
  entries     : Nat := 256
  mdtsKiB     : Nat := 128
  cryptoErase : Bool := true
  deriving DecidableEq, Repr

/-- A packet (R348, Table 12-1); `rsvd` says that some reserved bit is 1, `payload` is its LEN bytes as a number. -/
structure Packet where
  opcode  : Nat := 0
  cls     : Nat := 0
  fwded   : Bool := false
  mc      : Bool := false
  dst     : Nat := 0
  src     : Nat := 0
  srcPid  : Nat := 0
  tag     : Nat := 0
  status  : Nat := 0
  epoch   : Nat := 0
  lslot   : Nat := 0
  lsv     : Bool := false
  ce      : Bool := false
  ece     : Bool := false
  isNew   : Bool := false
  hv      : Bool := false
  len     : Nat := 0
  auxPid  : Nat := 0
  addr    : Nat := 0
  auxNode : Nat := 0
  auxTag  : Nat := 0
  ecred   : Nat := 0
  ecv     : Bool := false
  rsvd    : Bool := false
  payload : Nat := 0
  deriving DecidableEq, Repr

/-- The commands: every operation and event of spec/opcode_table.json. -/
inductive Instr where
  /-- TIME_SYNC with t1 in half nanoseconds; it arrives `sub` half nanoseconds after the present tick and
  DELAY_REQ leaves `turn` half nanoseconds later. -/
  | timeSync (f : SelvFrame) (t1 : Nat) (sub : Fin 8) (turn : Nat)
  /-- DELAY_RSP with t4 in half nanoseconds. -/
  | delayRsp (f : SelvFrame) (t4 : Nat)
  | missedExchange
  | holdoverLimit
  | ftLoad
  | loadTakesEffect
  | gingFlip
  | gingCopy
  | gingFlipFrame
  | gingEntData (value : Nat)
  | detModeWrite (value : Nat)
  | detModeTakesEffect
  | drunOpen (pt : Ptn)
  | runColdStart (pt : Ptn)
  | runFrame0 (pt : Ptn)
  | drunClose (pt : Ptn)
  | dxUnaligned
  /-- The heartbeat check of a frame; the present cores that sent no heartbeat. -/
  | heartbeat (missing : List Core)
  | mirrorFailoverDone (pt : Ptn)
  | tclkLossOfLock
  | tblCommit (level : Nat)
  | tblCommitDone
  | tblRead (level : Nat)
  /-- INV_CMD.GO with PT, SCOPE and RECALL. -/
  | xltInvalidate (pt : Ptn) (kind : Nat) (rcl : Bool)
  | invDone
  | pageMove (pt : Ptn)
  | moveDone (pt : Ptn)
  | xltDigest (pt : Ptn)
  | xltDigestDone
  | pxcWaysWrite (pt : Ptn) (mask : Nat)
  | cntClear (core : Core)
  | cntClearAll
  | cntData
  | hotPop
  /-- The home slice serializes a partner's RD_SHARED; `ties` are the PIDs of the partners whose requests for the line
  became ready in the same cycle or slot. -/
  | rdShared (pid : Pid) (tag : Nat) (ties : List Pid)
  | rdOwn (pid : Pid) (tag : Nat) (ties : List Pid)
  | upgrade (pid : Pid) (tag : Nat) (ties : List Pid)
  | rdOnce (pid : Pid) (tag : Nat) (ties : List Pid)
  | wrFull (pid : Pid) (tag : Nat) (ties : List Pid)
  | wrPart (pid : Pid) (tag : Nat) (ties : List Pid)
  | wb (pid : Pid) (tag : Nat)
  | evict (pid : Pid) (tag : Nat)
  | atomic (pid : Pid) (tag : Nat) (ties : List Pid)
  | publish (pid : Pid) (tag : Nat) (ties : List Pid)
  | rdVersion (pid : Pid) (tag : Nat) (ties : List Pid)
  /-- An answer of `pid` reaches the slice of `core` for the line at stack offset `off`. -/
  | invAck (core : Core) (pid : Pid) (off : Nat)
  | snpAck (core : Core) (pid : Pid) (off : Nat) (isNew : Bool)
  | snpData (core : Core) (pid : Pid) (off : Nat) (isNew : Bool) (data : Nat)
  | snpFwded (core : Core) (pid : Pid) (off : Nat) (data : Option Nat)
  | wbPending (core : Core) (pid : Pid) (off : Nat)
  | compAck (core : Core) (pid : Pid) (off : Nat)
  | pushAck (core : Core) (pid : Pid) (off : Nat)
  | pushDecline (core : Core) (pid : Pid) (off : Nat)
  | leaseRenew (sender : Sender) (seq : Nat)
  | unknownOpcode (core : Core) (pid : Pid) (opcode off : Nat)
  | partnerLeaseCheck
  | fence
  | release
  | sweepDone (pt : Ptn)
  | unfence
  | fencePop
  | rgnCtlWrite (core : Core) (value : Nat)
  /-- A write of one half of RGN_VER. -/
  | rgnVerWrite (core : Core) (hi : Bool) (value : Nat)
  /-- A core processes a partner's stored CMD_WRITE to any offset but FLUSH; `ties` are the PIDs of the aperture messages
  that became ready in the same slot. -/
  | cmdWriteDesc (pid : Pid) (tag : Nat) (ties : List Pid)
  | cmdRead (pid : Pid) (tag : Nat) (ties : List Pid)
  | cmdWriteFlush (pid : Pid) (tag : Nat) (ties : List Pid)
  | seqCmdFlush (core : Core)
  | flushTakesEffect (core : Core)
  | descRead (core : Core)
  | orderRelease (core : Core)
  | patternFetchDone (core : Core)
  /-- The lead `core` sends a segment to the core `dest`. -/
  | segment (core dest : Core)
  /-- The sequencer of a core runs the pattern of its local or its segment context to the next EMIT. -/
  | tileEmit (core : Core) (seg : Bool)
  | indexArrival (core : Core) (fill : IndexFill)
  /-- The sequencer's hint for the tier block that byte `va` of tile `t`, not dispatched yet, lies in. -/
  | tierHint (core : Core) (seg : Bool) (t va : Nat)
  | tileDispatch (core : Core)
  /-- A physical engine works on the tile at the head of its queue. -/
  | tileExecute (core : Core) (eng : Eng) (run : TileRun)
  | tileReexecute (core : Core) (eng : Eng)
  | detLimit (core : Core) (eng : Eng)
  | tileDone (e : EngId) (ties : Ties)
  /-- `core` reports its share of the descriptor that `lead` accepted as number `num`. -/
  | segmentReport (core lead : Core) (num : Nat)
  /-- Engine `e` of the lead computes ROOT of the lead's descriptor `num`; `found`: a parity detection in the sponge state. -/
  | rootCompute (e : EngId) (num : Nat) (found : Bool)
  /-- Line `j` of tile `t` of a contribution of `pid` reaches a core. -/
  | collPut (core : Core) (pid : Pid) (t j data : Nat)
  | selftestRotationStep (core : Core)
  /-- The self-test of a core ends; `block` 0: it passed, else the first failing block of ST_LAST. -/
  | selftestDone (core : Core) (block : Fin 7)
  /-- A write of CHK_INJECT with GO. -/
  | chkInject (core : Core) (eng : Eng) (value : Nat)
  /-- A request of a slice for a line at a stack offset. `src`: 0 directory, tables, frame map or tags; 1 partner read that
  came by `port`; 2 walker; 3 engine or sequencer; 4 tier; 5 corrected write-back. `part`: it covers part of the line. -/
  | dramRequest (core : Core) (off : Nat) (src : Fin 6) (port : Port) (write part : Bool)
  | ageExpired (core : Core) (pc : Fin 64)
  | dataWindow (core : Core) (pc : Fin 64)
  /-- Read data reach the decoder, with the symbol errors that the stored codeword shows now. -/
  | dramReadData (core : Core) (off : Nat) (src : Fin 6) (errors : List (Nat × Nat))
  | correctedWriteback (core : Core)
  | refreshSlot (core : Core)
  /-- The core's next MAINT slot: pseudo-channels that would fail a training in it, and the errors that lines (by stack
  offset) show at their verify or patrol read. -/
  | maintSlot (core : Core) (untrained : List Nat) (again : List (Nat × List (Nat × Nat)))
  /-- A write of REMAP_CMD with GO. -/
  | remapRequest (core : Core) (value : Nat)
  | pinErased (core : Core) (pc : Fin 64)
  | bistStart (core : Core) (kind : Fin 2)
  | bistDone (core : Core) (errors : List (Nat × List (Nat × Nat)))
  | testWrite (core : Core)
  | testRead (core : Core)
  | testReadRaw (core : Core)
  /-- A partner's stored request for tier space reaches the tier controller. -/
  | tierAccess (pid : Pid) (tag : Nat)
  | tierWayWait (pid : Pid) (tag : Nat)
  /-- The lines of the victim in a way of a core's set are recalled. -/
  | evictRecallDone (core : Core) (set way : Nat)
  | fillComplete (core : Core) (set way : Nat)
  | writebackComplete (core : Core) (set way : Nat) (drive : Root)
  | nvmeTimeout (core : Core) (set way : Nat) (drive : Root)
  | nvmeCommandFail (core : Core) (set way : Nat) (drive : Root)
  | rootLinkDown (root : Root)
  | rebuildGo (port : Root)
  | rebuildDone
  | tierFlush (pt : Ptn)
  | tierFlushDone (pt : Ptn)
  | ptCacheWrite (pt : Ptn) (gib : Nat)
  | driveAssign (root : Root) (value : Nat)
  | portReset (root : Root)
  /-- What the root port finds of the drive when it is brought up: the highest rate (1 to 6 as LINK_STS.SPEED), the widest
  width and FLIT mode that it supports, what it identifies itself as, and the size of its namespace 1 in LBAs. -/
  | driveReady (root : Root) (rate lanes : Nat) (flit : Bool) (id : DriveId) (lbas : Nat)
  | driveRequest (root : Root) (req : DriveReq)
  | portTrain (port : Port)
  | portRetrain (port : Port)
  | detectSignal (port : Port)
  /-- A TSEQ block on a lane; `good` is the receiver's verdict on the lane where it is reached. -/
  | tseq (port : Port) (lane : Fin 5) (block : Nat) (good : Option Bool)
  | ts1 (port : Port) (lane : Fin 5) (block : Nat)
  | ts2 (port : Port) (block : Nat)
  | ts3 (port : Port) (block : Nat)
  | trainStateLimit (port : Port)
  | failedHoldEnd (port : Port)
  | laneLossOfLock (port : Port) (lane : Fin 5)
  /-- A lane's corrected symbols of the present 1 ms. -/
  | laneSerLimit (port : Port) (lane : Fin 5) (symbols : Nat)
  /-- The uncorrectable codewords of the present 1 ms. -/
  | fecUncorrectableLimit (port : Port) (words : Nat)
  | lwcRequest (port : Port) (width : Nat)
  | lwcReq (port : Port) (width : Nat)
  | lwcGo (port : Port) (width lanes : Nat)
  /-- The 256 bytes of a flit. -/
  | flit (port : Port) (bytes : Nat)
  | replayTimer (port : Port)
  | replayLimit (port : Port)
  | tagFailLimit (port : Port)
  /-- CREDIT_CHECK with the peer's freed-unit counts of VC0 to VC7. -/
  | creditCheck (port : Port) (freed : List Nat)
  | creditStall (port : Port)
  | cchkPeriod (port : Port)
  /-- A packet arrives at a port; `replayed`: one of its flits was replayed. -/
  | packetArrival (port : Port) (p : Packet) (replayed : Bool)
  | processingSlot (port : Port)
  /-- A ROUTE_RETURN of a packet of the module's own. -/
  | routeReturn (status : Nat) (p : Packet)
  | portOutOfService (port : Port)
  | routeFlip
  | routeCopy
  | routeFlipDrained
  | drainTimeout
  | oldBankEnd
  | routeTblData (value : Nat)
  | creditRelease (pid : Pid)
  | e2eCredit (pid : Pid)
  | e2eLimitWrite (value : Nat)
  /-- A write of MC_CTL, MC_ID, MC_PORTS_LO or MC_PORTS_HI (0 to 3). -/
  | mcGroupWrite (reg : Fin 4) (value : Nat)
  | egressLaunch (port : Port)
  /-- A TRNG health test fails; the number of the test. -/
  | trngFail (test : Nat)
  | fwData (value : Nat)
  | fwVerify
  | fwStaged
  | fwDiscard
  | svnCommit
  | quote (pt : Ptn)
  | akCertificate
  | dikPublicKey
  | quoteDone
  | qbufData
  | releasePairExpiry (pt : Ptn)
  | relData (value : Nat)
  | keyRelease
  | relDone
  | kslotLoad
  | kslotLock
  | kslotClear
  | kslotEvicted (slot : Fin 16)
  | imgBind
  | imgDone (slot : Fin 16)
  | imgUnbind
  | quiesce
  | quiesced (pt : Ptn)
  | resume
  | cfgGo
  | pairCopyDone (pt : Ptn)
  | bind (pt : Ptn)
  | unbind
  | scrubGo
  /-- A partner has not answered a scrub snoop within 250 us. -/
  | scrubSnoopTimeout (pid : Pid)
  | scrubDone (pt : Ptn)
  | sanitizeDone (root : Root)
  | lcRma
  | lcVoid
  | lcDone
  | debugLevelWrite (level : Nat)
  | debugLevelTakesEffect
  /-- LINK_KEY_ROTATION of a port. -/
  | linkKeyRotation (port : Port)
  /-- A KEYX message that a port has received whole: its length and its content as a number (Table 13-3). -/
  | offer (port : Port) (len content : Nat)
  | accept (port : Port) (len content : Nat)
  | confirm (port : Port) (len content : Nat)
  | nonce (port : Port) (len content : Nat)
  | rotOffer (port : Port) (len content : Nat)
  | rotAccept (port : Port) (len content : Nat)
  | ready (port : Port) (len content : Nat)
  | keyxTimeout (port : Port)
  | frameCounterLimit (port : Port)
  /-- Cap-loop update: mean input power over the period in 0.1 W; energy over it in uJ: of VSTK0 to VSTK15, of VDRAM and VDDQ
  together, of VFAB, of VAUX, and of the input. -/
  | capLoopUpdate (avg : Nat) (cores : List Nat) (dram fab aux input : Nat)
  /-- Sixteen slot averages lie over the fast limit, the highest `peak` in 0.1 W. -/
  | fastLimit (peak : Nat)
  | droopStretch (core : Core)
  | stretchEnd (core : Core)
  | deferEnd (core : Core)
  | monitorAlarm (core : Core)
  | monitorStepUp (core : Core)
  /-- A filler window ends in which `issued` sixteenths of the core's arithmetic cycles issued. -/
  | fillerWindow (core : Core) (issued : Nat)
  /-- Telemetry: per rail (mV, 0.1 A, hottest phase), stack and die temperatures, supply (mV, 10 mA), and the root
  ports whose drives report a failure. -/
  | telemetrySample (rails : List (Nat × Nat × Nat)) (dram die : List Nat) (supply : Nat × Nat) (drives : List Root)
  | pwrRun
  | pwrIdle
  | pwrHibernate
  | pwrOff
  | enClear
  /-- VIN is applied. -/
  | vinApplied
  /-- VIN has stayed above 37.0 V for 1 ms. -/
  | vinGood
  /-- RESET_N is low for `ns` nanoseconds. -/
  | resetNLow (ns : Nat)
  /-- The internal reset is released while the strap contacts read `straps` (Table 15-3, bits as the STRAPS register). -/
  | internalResetRelease (straps : Nat)
  | chipResetCold
  | chipResetWarm
  | inputLow
  | inputLowClear
  | inputShutdown
  /-- Sensor `sensor` (0-20 die, 21-36 DRAM stacks, 37 up regulator phases) reaches its trip value. -/
  | thermalTrip (sensor : Nat)
  /-- A chip-domain fault of the block with register page `page`. -/
  | chipFatal (page detail : Nat)
  /-- Phase `phase` of rail `rail` (index of Table 14-1) is lost. -/
  | phaseLost (rail : Fin 20) (phase : Nat)
  | railOutOfRegulation (core : Core)
  | attach
  | detach
  /-- M0; `eccBad`: a fuse word is uncorrectable. -/
  | m0Identify (eccBad : Bool)
  /-- M1; the PLLs lock or not, and the regulator phases found bad (rail, phase). -/
  | m1ClocksAndRails (pllOk : Bool) (badPhases : List (Fin 20 × Nat))
  | m2Time
  /-- M3; the die logic passes or not, and the engines that fail their self-test. -/
  | m3DieSelfTest (logicOk : Bool) (badEngines : List (Core × Eng))
  | m4Reconcile
  /-- M5; the TRNG start-up tests pass, or the number of the failing test. -/
  | m5SecurityRoot (failing : Option Nat)
  /-- M6; the pseudo-channels (core, pseudo-channel) that do not train. -/
  | m6DramTraining (untrained : List (Core × Nat))
  /-- M7; the lines (core, stack offset) that BIST finds bad. -/
  | m7DramTest (bad : List (Core × Nat))
  /-- M8; the fabric lanes (port, lane) that fail. -/
  | m8FabricPorts (badLanes : List (Port × Fin 5))
  /-- M9; the root ports that fail. -/
  | m9RootPorts (badRoots : List Root)
  | m10Admission
  | m11Service
  /-- The step that runs ends after `ms` milliseconds. -/
  | stepDone (ms : Nat)
  /-- The step that runs fails with a code of Table 15-6. -/
  | stepFail (code ms : Nat)
  | driveReadyTimeout (root : Root)
  /-- HELLO: lowest and highest Selvedge version. -/
  | hello (f : SelvFrame) (vmin vmax : Nat)
  | selvLinkUp (m : Selv)
  | selvLinkDown (m : Selv)
  | renew (f : SelvFrame) (seq : Nat)
  | claim (f : SelvFrame) (epoch : Nat)
  | handover
  | selvedgeLeaseCheck
  | dualWindowClose
  /-- REG_READ of `n` registers from register address `addr`. -/
  | regRead (f : SelvFrame) (tag addr n : Nat) (fixed : Bool)
  /-- REG_WRITE; `epoch` is the header's. -/
  | regWrite (f : SelvFrame) (tag epoch addr n : Nat) (fixed : Bool) (data : List Nat)
  /-- A write that the holder has been allowed, of a register without behaviour of its own. -/
  | registerWrite (addr value : Nat)
  /-- A write of PAGE_EVT; `setSame` are the bits that events set in the same MCLK cycle. -/
  | pageEvtClear (page value setSame : Nat)
  | pageEvtEnWrite (page value : Nat)
  | msgHoldWrite (page value : Nat)
  | faultPop
  | clearLost
  /-- The debug port shifts in instruction IDCODE. -/
  | idcode
  /-- MSG: one 32-bit word of a Selvedge message goes in when `valid`. -/
  | msg (word : Nat) (valid : Bool)
  | scan
  /-- BYPASS, with the instruction code that selects it. -/
  | bypass (code : Nat)
  | fieldProgram (entry : Nat)
  deriving DecidableEq, Repr

end Sys2Proof
end

