-- ==== Sys2Proof/WellFormed.lean ====
section
/-!
DEFINITION. Which commands are well formed: every operand fits the field that carries it (Tables 00-3, 04-2, 11-2, 11-4,
12-1, 13-3, 16-2 and 16-3, and the register tables).
-/

namespace Sys2Proof

/-- `v` fits `w` bits. -/
def bits (w v : Nat) : Bool := decide (v < 2 ^ w)

/-- An operand that may be absent fits `w` bits. -/
def optBits (w : Nat) : Option Nat → Bool
  | none => true
  | some v => bits w v

/-- The fields of an Ethernet frame (R498, Table 16-2). -/
def SelvFrame.wellFormed (f : SelvFrame) : Bool :=
  bits 48 f.src && bits 16 f.etherType && bits 8 f.words && decide (f.len ≤ 1500)

/-- The fields of a packet (Table 12-1). -/
def Packet.wellFormed (p : Packet) : Bool :=
  bits 8 p.opcode && bits 3 p.cls && bits 16 p.dst && bits 16 p.src && bits 12 p.srcPid && bits 16 p.tag && bits 6 p.status
    && bits 2 p.epoch && bits 6 p.lslot && bits 8 p.len && bits 12 p.auxPid && bits 64 p.addr && bits 16 p.auxNode
    && bits 16 p.auxTag && bits 16 p.ecred && bits (8 * p.len) p.payload

/-- What a drive reports (Table 10-1, Table 10-8). -/
def DriveId.wf (i : DriveId) : Bool :=
  bits 32 i.lbaBytes && bits 16 i.metadata && bits 16 i.adminPairs && bits 16 i.ioPairs && bits 17 i.entries
    && bits 32 i.mdtsKiB

/-- The command's operands fit. -/
def Instr.wellFormed : Instr → Bool
  | .timeSync f t1 _ turn => f.wellFormed && bits 65 t1 && bits 32 turn
  | .delayRsp f t4 => f.wellFormed && bits 65 t4
  | .gingEntData value => bits 32 value
  | .detModeWrite value => bits 32 value
  | .tblCommit level => bits 3 level
  | .tblRead level => bits 3 level
  | .xltInvalidate _ kind _ => bits 2 kind
  | .pxcWaysWrite _ mask => bits 16 mask
  | .rdShared _ tag _ => bits 16 tag
  | .rdOwn _ tag _ => bits 16 tag
  | .upgrade _ tag _ => bits 16 tag
  | .rdOnce _ tag _ => bits 16 tag
  | .wrFull _ tag _ => bits 16 tag
  | .wrPart _ tag _ => bits 16 tag
  | .wb _ tag => bits 16 tag
  | .evict _ tag => bits 16 tag
  | .atomic _ tag _ => bits 16 tag
  | .publish _ tag _ => bits 16 tag
  | .rdVersion _ tag _ => bits 16 tag
  | .invAck _ _ off => bits 36 off
  | .snpAck _ _ off _ => bits 36 off
  | .snpData _ _ off _ data => bits 36 off && bits 1024 data
  | .snpFwded _ _ off data => bits 36 off && optBits 1024 data
  | .wbPending _ _ off => bits 36 off
  | .compAck _ _ off => bits 36 off
  | .pushAck _ _ off => bits 36 off
  | .pushDecline _ _ off => bits 36 off
  | .leaseRenew _ seq => bits 32 seq
  | .unknownOpcode _ _ opcode off => bits 8 opcode && bits 36 off
  | .rgnCtlWrite _ value => bits 32 value
  | .rgnVerWrite _ _ value => bits 32 value
  | .cmdWriteDesc _ tag _ => bits 16 tag
  | .cmdRead _ tag _ => bits 16 tag
  | .cmdWriteFlush _ tag _ => bits 16 tag
  | .tierHint _ _ t va => bits 32 t && bits 57 va
  | .segmentReport _ _ num => bits 32 num
  | .rootCompute _ num _ => bits 32 num
  | .collPut _ _ t j data => bits 32 t && bits 5 j && bits 1024 data
  | .chkInject _ _ value => bits 32 value
  | .dramRequest _ off _ _ _ _ => bits 36 off
  | .dramReadData _ off _ errors => bits 36 off && (errors.all fun e => decide (e.1 < 144) && bits 8 e.2)
  | .maintSlot _ untrained again => untrained.all (· < 64) && (again.all fun x => bits 36 x.1 && x.2.all fun e => decide (e.1 < 144) && bits 8 e.2)
  | .remapRequest _ value => bits 32 value
  | .bistDone _ errors => errors.all fun x => bits 36 x.1 && x.2.all fun e => decide (e.1 < 144) && bits 8 e.2
  | .tierAccess _ tag => bits 16 tag
  | .tierWayWait _ tag => bits 16 tag
  | .evictRecallDone _ set way => bits 20 set && bits 3 way
  | .fillComplete _ set way => bits 20 set && bits 3 way
  | .writebackComplete _ set way _ => bits 20 set && bits 3 way
  | .nvmeTimeout _ set way _ => bits 20 set && bits 3 way
  | .nvmeCommandFail _ set way _ => bits 20 set && bits 3 way
  | .ptCacheWrite _ gib => bits 6 gib
  | .driveAssign _ value => bits 32 value
  | .driveReady _ rate lanes _ id lbas => bits 3 rate && bits 5 lanes && id.wf && bits 64 lbas
  | .tseq _ _ block _ => bits 256 block
  | .ts1 _ _ block => bits 256 block
  | .ts2 _ block => bits 256 block
  | .ts3 _ block => bits 256 block
  | .laneSerLimit _ _ symbols => bits 32 symbols
  | .fecUncorrectableLimit _ words => bits 32 words
  | .lwcRequest _ width => bits 2 width
  | .lwcReq _ width => bits 2 width
  | .lwcGo _ width lanes => bits 2 width && bits 5 lanes
  | .flit _ bytes => bits 2048 bytes
  | .creditCheck _ freed => freed.length == 8 && freed.all (bits 16)
  | .packetArrival _ p _ => p.wellFormed
  | .routeReturn status p => bits 6 status && p.wellFormed
  | .routeTblData value => bits 32 value
  | .e2eLimitWrite value => bits 32 value
  | .mcGroupWrite _ value => bits 32 value
  | .fwData value => bits 32 value
  | .relData value => bits 32 value
  | .debugLevelWrite level => bits 2 level
  | .offer _ len content => bits 16 len && bits (8 * len) content
  | .accept _ len content => bits 16 len && bits (8 * len) content
  | .confirm _ len content => bits 16 len && bits (8 * len) content
  | .nonce _ len content => bits 16 len && bits (8 * len) content
  | .rotOffer _ len content => bits 16 len && bits (8 * len) content
  | .rotAccept _ len content => bits 16 len && bits (8 * len) content
  | .ready _ len content => bits 16 len && bits (8 * len) content
  | .fillerWindow _ issued => decide (issued ≤ 16)
  | .internalResetRelease straps => bits 10 straps
  | .chipFatal page detail => bits 16 page && bits 64 detail
  | .m6DramTraining untrained => untrained.all fun x => decide (x.2 < 64)
  | .m7DramTest bad => bad.all fun x => bits 36 x.2
  | .stepFail code _ => bits 8 code
  | .hello f vmin vmax => f.wellFormed && bits 8 vmin && bits 8 vmax
  | .renew f seq => f.wellFormed && bits 32 seq
  | .claim f epoch => f.wellFormed && bits 16 epoch
  | .regRead f tag addr n _ => f.wellFormed && bits 16 tag && bits 32 addr && bits 7 n
  | .regWrite f tag epoch addr n _ data =>
    f.wellFormed && bits 16 tag && bits 16 epoch && bits 32 addr && bits 7 n && data.all (bits 32)
  | .registerWrite addr value => bits 28 addr && bits 32 value
  | .pageEvtClear page value setSame => bits 16 page && bits 32 value && bits 32 setSame
  | .pageEvtEnWrite page value => bits 16 page && bits 32 value
  | .msgHoldWrite page value => bits 16 page && bits 32 value
  | .msg word _ => bits 32 word
  | .bypass code => bits 8 code
  | .fieldProgram entry => bits 16 entry
  | .missedExchange | .holdoverLimit | .ftLoad | .loadTakesEffect | .gingFlip | .gingCopy | .gingFlipFrame
  | .detModeTakesEffect | .drunOpen .. | .runColdStart .. | .runFrame0 .. | .drunClose .. | .dxUnaligned
  | .heartbeat .. | .mirrorFailoverDone .. | .tclkLossOfLock | .tblCommitDone | .invDone | .pageMove ..
  | .moveDone .. | .xltDigest .. | .xltDigestDone | .cntClear .. | .cntClearAll | .cntData | .hotPop
  | .partnerLeaseCheck | .fence | .release | .sweepDone .. | .unfence | .fencePop | .seqCmdFlush ..
  | .flushTakesEffect .. | .descRead .. | .orderRelease .. | .patternFetchDone .. | .segment .. | .tileEmit ..
  | .indexArrival .. | .tileDispatch .. | .tileExecute .. | .tileReexecute .. | .detLimit .. | .tileDone ..
  | .selftestRotationStep .. | .selftestDone .. | .ageExpired .. | .dataWindow .. | .correctedWriteback ..
  | .refreshSlot .. | .pinErased .. | .bistStart .. | .testWrite .. | .testRead .. | .testReadRaw ..
  | .rootLinkDown .. | .rebuildGo .. | .rebuildDone | .tierFlush .. | .tierFlushDone .. | .portReset ..
  | .driveRequest .. | .portTrain .. | .portRetrain .. | .detectSignal .. | .trainStateLimit ..
  | .failedHoldEnd .. | .laneLossOfLock .. | .replayTimer .. | .replayLimit .. | .tagFailLimit ..
  | .creditStall .. | .cchkPeriod .. | .processingSlot .. | .portOutOfService .. | .routeFlip | .routeCopy
  | .routeFlipDrained | .drainTimeout | .oldBankEnd | .creditRelease .. | .e2eCredit .. | .egressLaunch ..
  | .trngFail .. | .fwVerify | .fwStaged | .fwDiscard | .svnCommit | .quote .. | .akCertificate | .dikPublicKey
  | .quoteDone | .qbufData | .releasePairExpiry .. | .keyRelease | .relDone | .kslotLoad | .kslotLock
  | .kslotClear | .kslotEvicted .. | .imgBind | .imgDone .. | .imgUnbind | .quiesce | .quiesced .. | .resume
  | .cfgGo | .pairCopyDone .. | .bind .. | .unbind | .scrubGo | .scrubSnoopTimeout .. | .scrubDone ..
  | .sanitizeDone .. | .lcRma | .lcVoid | .lcDone | .debugLevelTakesEffect | .linkKeyRotation .. | .keyxTimeout ..
  | .frameCounterLimit .. | .capLoopUpdate .. | .fastLimit .. | .droopStretch .. | .stretchEnd .. | .deferEnd ..
  | .monitorAlarm .. | .monitorStepUp .. | .telemetrySample .. | .pwrRun | .pwrIdle | .pwrHibernate | .pwrOff
  | .enClear | .vinApplied | .vinGood | .resetNLow .. | .chipResetCold | .chipResetWarm | .inputLow
  | .inputLowClear | .inputShutdown | .thermalTrip .. | .phaseLost .. | .railOutOfRegulation .. | .attach
  | .detach | .m0Identify .. | .m1ClocksAndRails .. | .m2Time | .m3DieSelfTest .. | .m4Reconcile
  | .m5SecurityRoot .. | .m8FabricPorts .. | .m9RootPorts .. | .m10Admission | .m11Service | .stepDone ..
  | .driveReadyTimeout .. | .selvLinkUp .. | .selvLinkDown .. | .handover | .selvedgeLeaseCheck | .dualWindowClose
  | .faultPop | .clearLost | .idcode | .scan => true

end Sys2Proof
end

