-- ==== Sys2Proof/Machine/Store.lean ====
section
/-!
DEFINITION. The operations of the sparse store, and the register field: the unit in which the register pages are
held. A register is a list of views of fields; a field has ONE home, whichever registers show it.
-/

namespace Sys2Proof.Machine

/-- What the store holds at a key; `d` is what an unlisted key reads as. -/
def Store.get {α : Type} (d : α) : Store α → Nat → α
  | [], _ => d
  | (k, v) :: m, a => if a = k then v else if a < k then d else Store.get d m a

/-- Remove a key. -/
def Store.del {α : Type} : Store α → Nat → Store α
  | [], _ => []
  | (k, v) :: m, a => if a = k then m else if a < k then (k, v) :: m else (k, v) :: Store.del m a

/-- List a key with a value. -/
def Store.ins {α : Type} : Store α → Nat → α → Store α
  | [], a, w => [(a, w)]
  | (k, v) :: m, a, w =>
    if a = k then (a, w) :: m else if a < k then (a, w) :: (k, v) :: m else (k, v) :: Store.ins m a w

/-- Write a key; writing what an unlisted key reads as removes the entry, so equal contents are equal data. -/
def Store.set {α : Type} [DecidableEq α] (d : α) (m : Store α) (a : Nat) (w : α) : Store α :=
  if w = d then Store.del m a else Store.ins m a w

/-- Every key of the list lies above `a`. -/
def Store.above {α : Type} (a : Nat) : Store α → Bool
  | [] => true
  | (k, _) :: m => decide (a < k) && Store.above a m

/-- The keys of a store rise: each key is listed once. -/
def Store.rising {α : Type} : Store α → Bool
  | [] => true
  | (k, _) :: m => Store.above k m && Store.rising m

/-- The canonical form: keys strictly rising, no entry equal to `d`. -/
def Store.wf {α : Type} [DecidableEq α] (d : α) : Store α → Bool
  | [] => true
  | (k, v) :: m => decide (v ≠ d) && Store.above k m && Store.wf d m

/-- Every (key, value) whose key satisfies `p` is removed. -/
def Store.drop {α : Type} (p : Nat → Bool) (m : Store α) : Store α :=
  m.filter (fun e => !p e.1)

/-- A register field: the register address it lies at (R12), the bank a select register shows it under, its lowest
bit, its width and its reset value (R15). A value wider than one register is one field shown by several registers. -/
structure Fld where
  addr  : Nat
  bank  : Nat
  lsb   : Nat
  width : Nat
  reset : Nat
  deriving DecidableEq, Repr

/-- The key of a field in the field store: bank, then address, then lowest bit. -/
def Fld.key (f : Fld) : Nat := (f.bank * 0x10000000 + f.addr) * 32 + f.lsb

end Sys2Proof.Machine
end

