-- ==== Sys2Proof/Machine/Arith.lean ====
section
/-!
DEFINITION. Formats, rounding and accumulation (chapter 7): exact values, the element formats, the rounding modes, MX
blocks, FP32 and FP64 operations, felt partials and integer sums.
-/

namespace Sys2Proof.Machine

/-- An exact value: NaN, an infinity, or a signed m * 2^e. -/
inductive Num where
  | nan
  | inf (neg : Bool)
  | fin (neg : Bool) (m : Nat) (e : Int)
  deriving DecidableEq, Repr

/-! Arithmetic flags (Table 07-9). -/

def fNV : Nat := 0x001
def fOF : Nat := 0x002
def fUF : Nat := 0x004
def fNX : Nat := 0x008
def fNanIn : Nat := 0x010
def fSAT : Nat := 0x020
def fScaleClamp : Nat := 0x040
def fBlockNan : Nat := 0x080
def fIOVF : Nat := 0x100
def fFeltOvf : Nat := 0x200
def fFelt : Nat := 0x400
def fSR : Nat := 0x800

/-! Formats (Table 07-1). -/

/-- A floating-point element format: exponent and fraction bits, bias, and what its top codes mean: infinities and NaNs,
one NaN code (E4M3), or numbers only. -/
structure FFmt where
  eb   : Nat
  fb   : Nat
  bias : Nat
  /-- 0 infinities and NaNs; 1 the E4M3 form; 2 numbers only. -/
  kind : Nat
  deriving DecidableEq, Repr

/-- The format of a floating-point code; an MX code gives its element format. -/
def ffmt (c : Nat) : FFmt :=
  match c with
  | 0 => ⟨8, 23, 127, 0⟩
  | 1 => ⟨8, 7, 127, 0⟩
  | 2 => ⟨5, 10, 15, 0⟩
  | 3 => ⟨4, 3, 7, 1⟩
  | 4 => ⟨5, 2, 15, 0⟩
  | 5 => ⟨4, 3, 7, 1⟩
  | 6 => ⟨5, 2, 15, 0⟩
  | 7 => ⟨3, 2, 3, 2⟩
  | 8 => ⟨2, 3, 1, 2⟩
  | 9 => ⟨2, 1, 1, 2⟩
  | _ => ⟨11, 52, 1023, 0⟩

/-- MX codes. -/
def isMX (c : Nat) : Bool := decide (5 ≤ c ∧ c ≤ 9)
/-- Floating-point codes. -/
def isFP (c : Nat) : Bool := decide (c ≤ 10)
/-- Integer codes. -/
def isInt (c : Nat) : Bool := decide (16 ≤ c ∧ c ≤ 19)
/-- A code that is not reserved. -/
def fmtDefined (c : Nat) : Bool := isFP c || isInt c || c == 24

/-- Bits of one element of a format. -/
def fmtBits (c : Nat) : Nat :=
  match c with
  | 0 => 32 | 1 => 16 | 2 => 16 | 3 => 8 | 4 => 8 | 5 => 8 | 6 => 8 | 7 => 6 | 8 => 6 | 9 => 4
  | 10 => 64 | 16 => 32 | 17 => 64 | 18 => 32 | 19 => 64 | _ => 512

/-- Bytes that a stream of the format is counted in: its element, or its block (R158, R181). -/
def fmtUnit (c : Nat) : Nat := if isMX c then 4 * fmtBits c else fmtBits c / 8

/-- Elements in one such unit. -/
def unitElems (c : Nat) : Nat := if isMX c then 32 else 1

/-- The exponent of the smallest normal value. -/
def FFmt.emin (f : FFmt) : Int := 1 - (f.bias : Int)
/-- The magnitude code of the largest finite value. -/
def FFmt.maxCode (f : FFmt) : Nat :=
  match f.kind with
  | 0 => (2 ^ f.eb - 1) * 2 ^ f.fb - 1
  | 1 => 2 ^ (f.eb + f.fb) - 2
  | _ => 2 ^ (f.eb + f.fb) - 1
/-- The exponent of the largest binade. -/
def FFmt.emax (f : FFmt) : Int := (f.maxCode / 2 ^ f.fb : Nat) - (f.bias : Int)
/-- The sign bit's weight. -/
def FFmt.sign (f : FFmt) : Nat := 2 ^ (f.eb + f.fb)
/-- The canonical NaN (Table 07-2); formats without a NaN have none of their own. -/
def FFmt.nanCode (f : FFmt) : Nat :=
  match f.kind with
  | 0 => (2 ^ f.eb - 1) * 2 ^ f.fb + 2 ^ (f.fb - 1)
  | 1 => 2 ^ (f.eb + f.fb) - 1
  | _ => 0

/-- The value of an element's bits (R178, R182); NaN payloads are not told apart (R179). -/
def FFmt.decode (f : FFmt) (b : Nat) : Num :=
  let neg := decide (f.sign ≤ b % (2 * f.sign))
  let c := b % f.sign
  let ex := c / 2 ^ f.fb
  let fr := c % 2 ^ f.fb
  if f.maxCode < c then (if f.kind = 0 ∧ fr = 0 then .inf neg else .nan)
  else if ex = 0 then .fin neg fr (f.emin - f.fb)
  else .fin neg (2 ^ f.fb + fr) ((ex : Int) - f.bias - f.fb)

/-! Rounding (R183 to R187). -/

/-- The binding generator of R187. (DEDUCED, log 51) -/
def srBits (seed e : Nat) : Nat :=
  let m := 2 ^ 64
  let x0 := (seed % m) ^^^ (e * 0x9E3779B97F4A7C15 % m)
  let x1 := x0 ^^^ (x0 / 2 ^ 31)
  let x2 := x1 * 0x8C3A51E72D94F6B3 % m
  let x3 := x2 ^^^ (x2 / 2 ^ 29)
  let x4 := x3 * 0xE3B107C59A2F4D61 % m
  let x5 := x4 ^^^ (x4 / 2 ^ 32)
  x5 % 2 ^ 24

/-- A multiplied power of two, as whole part and remainder over 2^d: m * 2^e in units of 2^q. -/
def inUnits (m : Nat) (e q : Int) : Nat × Nat × Nat :=
  if q ≤ e then (m * 2 ^ (e - q).toNat, 0, 0)
  else
    let d := (q - e).toNat
    (m / 2 ^ d, m % 2 ^ d, d)

/-- Floor of log2 of a non-zero m * 2^e. -/
def flog2 (m : Nat) (e : Int) : Int := (Nat.log2 m : Int) + e

/-- Round a non-zero magnitude m * 2^e under a mode with generator output `u`: the magnitude code (one above the largest
stands for infinity) and the flags. -/
def roundMag (f : FFmt) (mode u : Nat) (m : Nat) (e : Int) : Nat × Nat :=
  let k := flog2 m e
  let ex := min (max k f.emin) f.emax
  let (a, r, d) := inUnits m e (ex - f.fb)
  let base := (ex - f.emin).toNat * 2 ^ f.fb
  let up := match mode with
    | 0 => decide (2 ^ d < 2 * r) || (decide (2 * r = 2 ^ d ∧ r ≠ 0) && a % 2 == 1)
    | 1 => false
    | _ => r != 0 && decide (2 ^ 24 ≤ r * 2 ^ 24 / 2 ^ d + u)
  let c := base + a + up.toNat
  let inexact := r != 0
  let sr := if mode = 2 ∧ inexact then fSR else 0
  let fl := sr ||| (if inexact then fNX ||| (if k < f.emin then fUF else 0) else 0)
  if f.maxCode < base + a ∨ (base + a = f.maxCode ∧ inexact) then
    if f.kind = 0 then
      (if mode ≠ 1 ∧ f.maxCode < c then f.maxCode + 1 else f.maxCode, fl ||| fOF ||| fNX)
    else (f.maxCode, fl ||| fOF ||| fNX ||| fSAT)
  else (c, fl)

/-- The mode in force for a destination: FP64 has no stochastic rounding (R183). (DEDUCED, log 51) -/
def modeFor (f : FFmt) (mode : Nat) : Nat := if f.fb = 52 ∧ mode = 2 then 0 else mode

/-- Round a value into a format: its bits and flags (R183 to R190, Table 07-4). -/
def FFmt.encode (f : FFmt) (mode u : Nat) (x : Num) : Nat × Nat :=
  match x with
  | .nan => (f.nanCode, 0)
  | .inf neg => if f.kind = 0 then (neg.toNat * f.sign + f.maxCode + 1, 0) else (f.nanCode, fNV)
  | .fin neg m e =>
    if m = 0 then (neg.toNat * f.sign, 0)
    else
      let (c, fl) := roundMag f (modeFor f mode) u m e
      (neg.toNat * f.sign + c, fl)

/-- Round to nearest even into a format and take the value. -/
def roundTo (f : FFmt) (x : Num) : Num × Nat :=
  let (b, fl) := f.encode 0 0 x
  match x with
  | .nan => (.nan, 0)
  | _ => (f.decode b, fl)

/-! Exact sums and products. -/

/-- A signed m * 2^e as an integer in units of 2^q, q at most e. -/
def asInt (neg : Bool) (m : Nat) (e q : Int) : Int :=
  let v : Int := (m * 2 ^ (e - q).toNat : Nat)
  if neg then -v else v

/-- An integer in units of 2^q as a value; zero takes the sign given. -/
def ofInt (v : Int) (q : Int) (zneg : Bool) : Num :=
  if v = 0 then .fin zneg 0 0 else .fin (decide (v < 0)) v.natAbs q

/-- An exact sum, with NV where it is infinity minus infinity. A zero sum is -0 only for two negative zeros. -/
def addExact (x y : Num) : Num × Nat :=
  match x, y with
  | .nan, _ => (.nan, 0)
  | _, .nan => (.nan, 0)
  | .inf a, .inf b => if a = b then (.inf a, 0) else (.nan, fNV)
  | .inf a, .fin _ _ _ => (.inf a, 0)
  | .fin _ _ _, .inf b => (.inf b, 0)
  | .fin a m e, .fin b n g =>
    let q := min e g
    (ofInt (asInt a m e q + asInt b n g q) q (a && b && m == 0 && n == 0), 0)

/-- An exact product, with NV where it is zero times infinity. -/
def mulExact (x y : Num) : Num × Nat :=
  match x, y with
  | .nan, _ => (.nan, 0)
  | _, .nan => (.nan, 0)
  | .inf a, .inf b => (.inf (a != b), 0)
  | .inf a, .fin b n _ => if n = 0 then (.nan, fNV) else (.inf (a != b), 0)
  | .fin a m _, .inf b => if m = 0 then (.nan, fNV) else (.inf (a != b), 0)
  | .fin a m e, .fin b n g => (.fin (a != b) (m * n) (e + g), 0)

/-- The negative of a value. -/
def negNum (x : Num) : Num :=
  match x with
  | .nan => .nan
  | .inf a => .inf (!a)
  | .fin a m e => .fin (!a) m e

/-! Operations rounded to nearest even. -/

/-- An exact outcome rounded into a format. -/
def rounded (f : FFmt) (x : Num × Nat) : Num × Nat :=
  let (v, fl) := roundTo f x.1
  (v, x.2 ||| fl)

/-- One addition. -/
def addR (f : FFmt) (x y : Num) : Num × Nat := rounded f (addExact x y)

/-- One multiplication. -/
def mulR (f : FFmt) (x y : Num) : Num × Nat := rounded f (mulExact x y)

/-- One fused multiply-add: x * y + z. -/
def fmaR (f : FFmt) (x y z : Num) : Num × Nat :=
  let (p, fp) := mulExact x y
  let (v, fv) := rounded f (addExact p z)
  (v, fp ||| fv)

/-- One division. The quotient carries 128 bits and a last bit that says whether anything lies below. -/
def divR (f : FFmt) (x y : Num) : Num × Nat :=
  match x, y with
  | .nan, _ => (.nan, 0)
  | _, .nan => (.nan, 0)
  | .inf _, .inf _ => (.nan, fNV)
  | .inf a, .fin b _ _ => (.inf (a != b), 0)
  | .fin a _ _, .inf b => (.fin (a != b) 0 0, 0)
  | .fin a m e, .fin b n g =>
    if n = 0 then (if m = 0 then (.nan, fNV) else (.inf (a != b), 0))
    else if m = 0 then (.fin (a != b) 0 0, 0)
    else
      let s := Nat.log2 n + 128
      let t := m * 2 ^ s
      rounded f (.fin (a != b) (2 * (t / n) + (if t % n = 0 then 0 else 1)) (e - g - s - 1), 0)

/-- One square root. -/
def sqrtR (f : FFmt) (x : Num) : Num × Nat :=
  match x with
  | .nan => (.nan, 0)
  | .inf neg => if neg then (.nan, fNV) else (.inf false, 0)
  | .fin neg m e =>
    if m = 0 then (.fin neg 0 0, 0)
    else if neg then (.nan, fNV)
    else
      let odd : Nat := (e % 2).toNat
      let t := m * 2 ^ (odd + 256)
      let r := Nat.sqrt t
      rounded f (.fin false (2 * r + (if r * r = t then 0 else 1)) ((e - odd - 256) / 2 - 1), 0)

/-- FP32. -/
def f32 : FFmt := ffmt 0
/-- FP64. -/
def f64 : FFmt := ffmt 10

/-! Reading elements. -/

/-- `n` elements of `w` bits of a little-endian stream, in ascending order (R180). -/
def elems (w : Nat) : Nat → Nat → List Nat
  | 0, _ => []
  | n + 1, v => v % 2 ^ w :: elems w n (v / 2 ^ w)

/-- Elements put together again. -/
def packElems (w : Nat) : List Nat → Nat
  | [] => 0
  | x :: xs => x % 2 ^ w + packElems w xs * 2 ^ w

/-- An element of an MX block under its scale byte (R191). -/
def decodeMX (c scale b : Nat) : Num :=
  if scale = 255 then .nan
  else match (ffmt c).decode b with
    | .fin s m e => .fin s m (e + (scale : Int) - 127)
    | x => x

/-- An integer element. -/
def decodeInt (c b : Nat) : Int :=
  let w := fmtBits c
  if c < 18 ∧ 2 ^ (w - 1) ≤ b then (b : Int) - 2 ^ w else b

/-- NAN_IN where an operand is NaN. -/
def nanIn (x : Num) : Nat := if x = .nan then fNanIn else 0

/-- The elements of a floating-point stream as exact values; `scales` are the bytes of an MX stream's blocks. -/
def readNums (c n data : Nat) (scales : List Nat) : List Num :=
  let bs := elems (fmtBits c) n data
  if isMX c then (bs.zip (List.range n)).map fun x => decodeMX c (scales.getD (x.2 / 32) 0) x.1
  else bs.map (ffmt c).decode

/-! MX blocks (R192). -/

/-- Whether m * 2^e is at most n * 2^g. -/
def leMag (m : Nat) (e : Int) (n : Nat) (g : Int) : Bool :=
  let q := min e g
  decide (m * 2 ^ (e - q).toNat ≤ n * 2 ^ (g - q).toNat)

/-- The largest magnitude of the finite values. -/
def amaxOf : List Num → Nat × Int
  | [] => (0, 0)
  | .fin _ m e :: xs =>
    let (n, g) := amaxOf xs
    if leMag m e n g then (n, g) else (m, e)
  | _ :: xs => amaxOf xs

/-- The largest finite value of an element format as m * 2^e. -/
def FFmt.largest (f : FFmt) : Nat × Int := (2 ^ f.fb + f.maxCode % 2 ^ f.fb, f.emax - f.fb)

/-- The unclamped scale exponent under scale rule `rule`. -/
def scaleExp (f : FFmt) (rule m : Nat) (e : Int) : Int :=
  let x := flog2 m e - f.emax
  if rule = 0 then x
  else if leMag m e f.largest.1 (f.largest.2 + x) then x else x + 1

/-- A value divided by 2^x. -/
def shiftNum (x : Int) (v : Num) : Num :=
  match v with
  | .fin s m e => .fin s m (e - x)
  | v => v

/-- Encode one block: the scale byte, the element codes, the flags. `u i` is the generator output of element i. -/
def encodeBlock (c rule mode : Nat) (u : Nat → Nat) (vs : List Num) : Nat × List Nat × Nat :=
  let f := ffmt c
  let special := vs.any fun v => match v with | .fin _ _ _ => false | _ => true
  let infs := vs.any fun v => match v with | .inf _ => true | _ => false
  if f.kind = 2 && special then (255, vs.map (fun _ => 0), fBlockNan ||| (if infs then fNV else 0))
  else
    let (m, e) := amaxOf vs
    let x := if m = 0 then -127 else scaleExp f rule m e
    let y := min (max x (-127)) 127
    let es := (vs.zip (List.range vs.length)).map fun p => f.encode mode (u p.2) (shiftNum y p.1)
    ((y + 127).toNat, es.map (·.1), es.foldl (fun a b => a ||| b.2) (if x = y then 0 else fScaleClamp))

/-- Values cut into blocks of 32. -/
def blocksOf : Nat → List Num → List (List Num)
  | 0, _ => []
  | n + 1, vs => if vs.isEmpty then [] else vs.take 32 :: blocksOf n (vs.drop 32)

/-- Encode a list of values into a format: element data, scale bytes, flags; `e0` is the index of the first element
(R187). -/
def encodeNums (c rule mode seed e0 : Nat) (vs : List Num) : Nat × List Nat × Nat :=
  if isMX c then
    let bs := blocksOf vs.length vs
    let rs := (bs.zip (List.range bs.length)).map fun b =>
      encodeBlock c rule mode (fun i => srBits seed (e0 + 32 * b.2 + i)) b.1
    (packElems (fmtBits c) (rs.flatMap (·.2.1)), rs.map (·.1), rs.foldl (fun a r => a ||| r.2.2) 0)
  else
    let rs := (vs.zip (List.range vs.length)).map fun v => (ffmt c).encode mode (srBits seed (e0 + v.2)) v.1
    (packElems (fmtBits c) (rs.map (·.1)), [], rs.foldl (fun a r => a ||| r.2) 0)

/-! Felt partials (R197 to R201, Table 07-7). -/

/-- A felt partial; ACC weighs 2^-149 a unit and is kept modulo 2^352. -/
structure Felt where
  acc   : Int := 0
  count : Nat := 0
  nan   : Bool := false
  pinf  : Bool := false
  ninf  : Bool := false
  nz    : Bool := false
  ovf   : Bool := false
  deriving DecidableEq, Repr

/-- An integer kept to `w` bits of two's complement. -/
def wrapInt (w : Nat) (v : Int) : Int := (v + 2 ^ (w - 1)) % 2 ^ w - 2 ^ (w - 1)

/-- COUNT saturates. -/
def feltCap : Nat := 2 ^ 40 - 1

/-- Add to ACC: OVF where the exact sum reaches 2^202 in magnitude. -/
def Felt.addAcc (p : Felt) (v : Int) : Felt :=
  let t := p.acc + v
  { p with acc := wrapInt 352 t, ovf := p.ovf || decide (2 ^ 351 ≤ t.natAbs) }

/-- Add a value (R197). -/
def Felt.add (p : Felt) (x : Num) : Felt :=
  match x with
  | .nan => { p with nan := true, nz := true }
  | .inf neg => if neg then { p with ninf := true, nz := true } else { p with pinf := true, nz := true }
  | .fin neg m e =>
    let (a, _, _) := inUnits m e (-149)
    let q := p.addAcc (if neg then -(a : Int) else a)
    { q with count := min (p.count + 1) feltCap, nz := p.nz || !(neg && m == 0) }

/-- Combine two partials (R200). -/
def Felt.join (p q : Felt) : Felt :=
  let r := p.addAcc q.acc
  { acc := r.acc, count := min (p.count + q.count) feltCap, nan := p.nan || q.nan, pinf := p.pinf || q.pinf,
    ninf := p.ninf || q.ninf, nz := p.nz || q.nz, ovf := r.ovf || q.ovf }

/-- The stored form of a partial. -/
def Felt.bits (p : Felt) : Nat :=
  (p.acc % 2 ^ 352).toNat + p.count * 2 ^ 384
    + (p.nan.toNat + 2 * p.pinf.toNat + 4 * p.ninf.toNat + 8 * p.nz.toNat + 16 * p.ovf.toNat) * 2 ^ 448

/-- A partial from its stored form. -/
def Felt.ofBits (b : Nat) : Felt :=
  { acc := wrapInt 352 (b % 2 ^ 352), count := b / 2 ^ 384 % 2 ^ 40,
    nan := b.testBit 448, pinf := b.testBit 449, ninf := b.testBit 450, nz := b.testBit 451, ovf := b.testBit 452 }

/-- The value a partial stands for before its final rounding, and the flags of R201. -/
def Felt.value (p : Felt) : Num × Nat :=
  if p.ovf then (.nan, fFeltOvf)
  else if p.nan then (.nan, fNanIn)
  else if p.pinf && p.ninf then (.nan, fNV)
  else if p.pinf then (.inf false, 0)
  else if p.ninf then (.inf true, 0)
  else (ofInt p.acc (-149) (decide (0 < p.count) && !p.nz), 0)

/-! Reductions (R193 to R201, R227). -/

/-- Widen a value to FP32 for ordinary accumulation (R193): an MX value of 2^128 or more becomes an infinity with OF. -/
def widen32 (x : Num) : Num × Nat :=
  match x with
  | .fin neg m e => if m ≠ 0 ∧ 128 ≤ flog2 m e then (.inf neg, fOF) else (x, 0)
  | x => (x, 0)

/-- Add addends in order in a format, starting from the first. -/
def sumOrdered (f : FFmt) : List Num → Num × Nat
  | [] => (.fin false 0 0, 0)
  | x :: xs => xs.foldl (fun a y => let (v, fl) := addR f a.1 y; (v, a.2 ||| fl)) (x, 0)

/-- The ordinary FP32 sum of one element (R193). -/
def sum32 (xs : List Num) : Num × Nat :=
  let ws := xs.map widen32
  let (v, fl) := sumOrdered f32 (ws.map (·.1))
  (v, ws.foldl (fun a w => a ||| w.2) fl)

/-- An integer sum written to a format: its bits, and IOVF (R195). -/
def storeInt (c : Nat) (v : Int) : Nat × Nat :=
  let w := fmtBits c
  let b := (v % 2 ^ w).toNat
  (b, if decodeInt c b = v then 0 else fIOVF)

end Sys2Proof.Machine
end

