-- ==== Sys2Proof/Machine/Regs.lean ====
section
/-!
DEFINITION. Every field of every register table of the spec (Tables 03-5 to 16-5), under its own block, register and
field name: address, bank, lowest bit, width, reset value. `n` is the page's unit number within its block (for ENG,
core × 16 + engine), `i` the index of an array register, `b` the bank that a select register shows. A LO and HI pair is
one field; a digest or a test buffer that spans several registers is one field. A reset value that the tables give as
Fuse or Strap is written by the reset itself (State.reset).
-/

namespace Sys2Proof.Machine


/-! GING page -/
def GING.GING_CMD_FLIP : Fld := ⟨0x0011040, 0, 0, 1, 0⟩
def GING.GING_CMD_COPY : Fld := ⟨0x0011040, 0, 1, 1, 0⟩
def GING.GING_STS_ACTIVE : Fld := ⟨0x0011044, 0, 0, 1, 0⟩
def GING.GING_STS_FLIP_PENDING : Fld := ⟨0x0011044, 0, 1, 1, 0⟩
def GING.GING_STS_RESULT : Fld := ⟨0x0011044, 0, 4, 4, 0⟩
def GING.GING_STS_FAIL_SLOT : Fld := ⟨0x0011044, 0, 8, 6, 0⟩
def GING.GING_STS_FAIL_COL : Fld := ⟨0x0011044, 0, 14, 6, 0⟩
def GING.FLIP_FRAME : Fld := ⟨0x0011048, 0, 0, 52, 0⟩
def GING.ENT_ADDR_INDEX : Fld := ⟨0x0011050, 0, 0, 12, 0⟩
def GING.ENT_ADDR_READ_ACTIVE : Fld := ⟨0x0011050, 0, 12, 1, 0⟩
def GING.ENT_ADDR_AUTOINC : Fld := ⟨0x0011050, 0, 13, 1, 1⟩
def GING.ENT_DATA_ENTRIES : Fld := ⟨0x0011054, 0, 0, 32, 0⟩
def GING.DIGEST : Fld := ⟨0x0011080, 0, 0, 512, 0⟩

/-! TOP page -/
def TOP.DET_MODE_EN : Fld := ⟨0x0000060, 0, 0, 1, 0⟩
def TOP.DET_MODE_LOCK : Fld := ⟨0x0000060, 0, 1, 1, 0⟩
def TOP.DET_MODE_ACTIVE : Fld := ⟨0x0000060, 0, 2, 1, 0⟩
def TOP.DET_MODE_REFUSED : Fld := ⟨0x0000060, 0, 3, 1, 0⟩

/-! PART page -/
def PART.DRUN_CMD_PT : Fld := ⟨0x0030400, 0, 0, 4, 0⟩
def PART.DRUN_CMD_OPEN : Fld := ⟨0x0030400, 0, 4, 1, 0⟩
def PART.DRUN_CMD_CLOSE : Fld := ⟨0x0030400, 0, 5, 1, 0⟩
def PART.DRUN_START : Fld := ⟨0x0030404, 0, 0, 52, 0⟩
def PART.DRUN_OPEN_OPEN : Fld := ⟨0x003040C, 0, 0, 16, 0⟩
def PART.DX_SEL_PT : Fld := ⟨0x0030410, 0, 0, 4, 0⟩
def PART.DX_CAUSE_CAUSE (b : Nat) : Fld := ⟨0x0030414, b, 0, 10, 0⟩
def PART.DX_COUNT_COUNT (b : Nat) : Fld := ⟨0x0030418, b, 0, 32, 0⟩
def PART.PIN_PIN : Fld := ⟨0x003041C, 0, 0, 16, 65535⟩

/-! FT page -/
def FT.FT_CTL_SYNC_LOG2 : Fld := ⟨0x0010040, 0, 0, 4, 8⟩
def FT.FT_CTL_MISS_LIMIT : Fld := ⟨0x0010040, 0, 4, 4, 4⟩
def FT.FT_STS_STATE : Fld := ⟨0x0010044, 0, 0, 3, 0⟩
def FT.FT_STS_ALIGNED : Fld := ⟨0x0010044, 0, 3, 1, 0⟩
def FT.FT_STS_SRC : Fld := ⟨0x0010044, 0, 4, 1, 0⟩
def FT.FT_STS_LOAD_PENDING : Fld := ⟨0x0010044, 0, 5, 1, 0⟩
def FT.NOW : Fld := ⟨0x0010048, 0, 0, 64, 0⟩
def FT.LOAD : Fld := ⟨0x0010050, 0, 0, 64, 0⟩
def FT.FT_CMD_LOAD : Fld := ⟨0x0010058, 0, 0, 1, 0⟩
def FT.OFFSET_OFFSET : Fld := ⟨0x001005C, 0, 0, 32, 0⟩
def FT.PATH_PATH : Fld := ⟨0x0010060, 0, 0, 32, 0⟩
def FT.RATE_RATE : Fld := ⟨0x0010064, 0, 0, 32, 0⟩
def FT.STEP_THRESH_NS : Fld := ⟨0x0010068, 0, 0, 32, 1000⟩
def FT.HOLD_LIMIT_FRAMES : Fld := ⟨0x001006C, 0, 0, 32, 24576⟩
def FT.HOLD_ELAPSED_FRAMES : Fld := ⟨0x0010070, 0, 0, 32, 0⟩
def FT.ALIGN_THRESH_NS : Fld := ⟨0x0010074, 0, 0, 8, 10⟩

/-! XLT page -/
def XLT.ROOT_V (i : Nat) : Fld := ⟨0x0400040 + i * 4, 0, 0, 1, 0⟩
def XLT.ROOT_OFFSET (i : Nat) : Fld := ⟨0x0400040 + i * 4, 0, 12, 16, 0⟩
def XLT.TBL_ADDR_OFFSET : Fld := ⟨0x0400080, 0, 3, 25, 0⟩
def XLT.TBL_ADDR_PT : Fld := ⟨0x0400080, 0, 28, 4, 0⟩
def XLT.TBL_DATA : Fld := ⟨0x0400088, 0, 0, 64, 0⟩
def XLT.TBL_CMD_COMMIT : Fld := ⟨0x0400090, 0, 0, 1, 0⟩
def XLT.TBL_CMD_READ : Fld := ⟨0x0400090, 0, 1, 1, 0⟩
def XLT.TBL_CMD_LEVEL : Fld := ⟨0x0400090, 0, 2, 3, 0⟩
def XLT.TBL_STS_BUSY : Fld := ⟨0x0400094, 0, 0, 1, 0⟩
def XLT.TBL_STS_RESULT : Fld := ⟨0x0400094, 0, 4, 4, 0⟩
def XLT.INV_CMD_PT : Fld := ⟨0x04000A0, 0, 0, 4, 0⟩
def XLT.INV_CMD_SCOPE : Fld := ⟨0x04000A0, 0, 4, 2, 0⟩
def XLT.INV_CMD_RECALL : Fld := ⟨0x04000A0, 0, 6, 1, 0⟩
def XLT.INV_CMD_GO : Fld := ⟨0x04000A0, 0, 7, 1, 0⟩
def XLT.INV_PVA : Fld := ⟨0x04000A4, 0, 16, 41, 0⟩
def XLT.INV_COUNT_UNITS : Fld := ⟨0x04000AC, 0, 0, 24, 0⟩
def XLT.INV_STS_BUSY : Fld := ⟨0x04000B0, 0, 0, 1, 0⟩
def XLT.INV_STS_RESULT : Fld := ⟨0x04000B0, 0, 4, 4, 0⟩
def XLT.MOVE_PVA : Fld := ⟨0x04000C0, 0, 16, 41, 0⟩
def XLT.MOVE_DST : Fld := ⟨0x04000C8, 0, 16, 32, 0⟩
def XLT.MOVE_CMD_PT : Fld := ⟨0x04000D0, 0, 0, 4, 0⟩
def XLT.MOVE_CMD_GO : Fld := ⟨0x04000D0, 0, 4, 1, 0⟩
def XLT.MOVE_STS_BUSY : Fld := ⟨0x04000D4, 0, 0, 16, 0⟩
def XLT.MOVE_STS_RESULT : Fld := ⟨0x04000D4, 0, 16, 4, 0⟩
def XLT.DIGEST_CMD_PT : Fld := ⟨0x04000E0, 0, 0, 4, 0⟩
def XLT.DIGEST_CMD_GO : Fld := ⟨0x04000E0, 0, 4, 1, 0⟩
def XLT.DIGEST_STS_BUSY : Fld := ⟨0x04000E4, 0, 0, 1, 0⟩
def XLT.DIGEST_STS_RECORDS : Fld := ⟨0x04000E4, 0, 8, 24, 0⟩
def XLT.DIGEST : Fld := ⟨0x0400100, 0, 0, 512, 0⟩
def XLT.FAULT_SEL_PT : Fld := ⟨0x0400140, 0, 0, 4, 0⟩
def XLT.FAULT_COUNT_COUNT (b : Nat) : Fld := ⟨0x0400144, b, 0, 32, 0⟩
def XLT.FAULT_PVA (b : Nat) : Fld := ⟨0x0400148, b, 0, 57, 0⟩
def XLT.FAULT_INFO_CAUSE (b : Nat) : Fld := ⟨0x0400150, b, 0, 3, 0⟩
def XLT.FAULT_INFO_ENGINE (b : Nat) : Fld := ⟨0x0400150, b, 3, 1, 0⟩
def XLT.FAULT_INFO_SRC (b : Nat) : Fld := ⟨0x0400150, b, 4, 12, 0⟩
def XLT.FAULT_INFO_VALID (b : Nat) : Fld := ⟨0x0400150, b, 31, 1, 0⟩
def XLT.CNT_ADDR_CORE : Fld := ⟨0x0400160, 0, 0, 4, 0⟩
def XLT.CNT_ADDR_INDEX : Fld := ⟨0x0400160, 0, 4, 15, 0⟩
def XLT.CNT_ADDR_AUTOINC : Fld := ⟨0x0400160, 0, 31, 1, 1⟩
def XLT.CNT_DATA_PARTNER (b : Nat) : Fld := ⟨0x0400164, b, 0, 16, 0⟩
def XLT.CNT_DATA_ENGINE (b : Nat) : Fld := ⟨0x0400164, b, 16, 15, 0⟩
def XLT.CNT_DATA_HOT (b : Nat) : Fld := ⟨0x0400164, b, 31, 1, 0⟩
def XLT.CNT_CMD_CORE : Fld := ⟨0x0400168, 0, 0, 4, 0⟩
def XLT.CNT_CMD_CLEAR : Fld := ⟨0x0400168, 0, 4, 1, 0⟩
def XLT.CNT_CMD_CLEAR_ALL : Fld := ⟨0x0400168, 0, 5, 1, 0⟩
def XLT.HOT_THRESH_LINES : Fld := ⟨0x040016C, 0, 0, 17, 32768⟩
def XLT.HOT_POP_VALID : Fld := ⟨0x0400170, 0, 0, 1, 0⟩
def XLT.HOT_POP_CORE : Fld := ⟨0x0400170, 0, 1, 4, 0⟩
def XLT.HOT_POP_INDEX : Fld := ⟨0x0400170, 0, 5, 15, 0⟩
def XLT.HOT_POP_LOST : Fld := ⟨0x0400170, 0, 30, 1, 0⟩

/-! PXC page -/
def PXC.WAYS_MASK (i : Nat) : Fld := ⟨0x0410040 + i * 4, 0, 0, 16, 2 ^ i⟩
def PXC.PXC_STS_REFUSED : Fld := ⟨0x0410080, 0, 0, 1, 0⟩
def PXC.STAT_SEL_PT : Fld := ⟨0x0410090, 0, 0, 4, 0⟩
def PXC.HITS (b : Nat) : Fld := ⟨0x0410094, b, 0, 64, 0⟩
def PXC.MISSES (b : Nat) : Fld := ⟨0x041009C, b, 0, 64, 0⟩

/-! DIR page -/
def DIR.DC_HITS (n : Nat) : Fld := ⟨0x0330040 + n * 4096, 0, 0, 64, 0⟩
def DIR.DC_MISSES (n : Nat) : Fld := ⟨0x0330048 + n * 4096, 0, 0, 64, 0⟩
def DIR.SNOOPS (n : Nat) : Fld := ⟨0x0330050 + n * 4096, 0, 0, 64, 0⟩
def DIR.GROUPED_COUNT (n : Nat) : Fld := ⟨0x0330058 + n * 4096, 0, 0, 32, 0⟩
def DIR.PUSH_PLACED_COUNT (n : Nat) : Fld := ⟨0x033005C + n * 4096, 0, 0, 32, 0⟩
def DIR.PUSH_DECLINED_COUNT (n : Nat) : Fld := ⟨0x0330060 + n * 4096, 0, 0, 32, 0⟩
def DIR.BUSY_NOW (n : Nat) : Fld := ⟨0x0330064 + n * 4096, 0, 0, 13, 0⟩
def DIR.BUSY_MAX (n : Nat) : Fld := ⟨0x0330064 + n * 4096, 0, 16, 13, 0⟩
def DIR.PROTO_COUNT_COUNT (n : Nat) : Fld := ⟨0x0330068 + n * 4096, 0, 0, 32, 0⟩
def DIR.PROTO_INFO_PID (n : Nat) : Fld := ⟨0x033006C + n * 4096, 0, 0, 12, 0⟩
def DIR.PROTO_INFO_OPCODE (n : Nat) : Fld := ⟨0x033006C + n * 4096, 0, 12, 8, 0⟩
def DIR.PROTO_INFO_STATE (n : Nat) : Fld := ⟨0x033006C + n * 4096, 0, 20, 3, 0⟩
def DIR.PROTO_INFO_VALID (n : Nat) : Fld := ⟨0x033006C + n * 4096, 0, 31, 1, 0⟩
def DIR.RGN_SEL_INDEX (n : Nat) : Fld := ⟨0x0330080 + n * 4096, 0, 0, 8, 0⟩
def DIR.RGN_CTL_V (n : Nat) (b : Nat) : Fld := ⟨0x0330084 + n * 4096, b, 0, 1, 0⟩
def DIR.RGN_CTL_LOCK (n : Nat) (b : Nat) : Fld := ⟨0x0330084 + n * 4096, b, 1, 1, 0⟩
def DIR.RGN_CTL_PT (n : Nat) (b : Nat) : Fld := ⟨0x0330084 + n * 4096, b, 2, 4, 0⟩
def DIR.RGN_VER (n : Nat) (b : Nat) : Fld := ⟨0x0330088 + n * 4096, b, 0, 64, 0⟩
def DIR.RGN_STS_REFUSED (n : Nat) : Fld := ⟨0x0330090 + n * 4096, 0, 0, 1, 0⟩

/-! PART page -/
def PART.LEASE_SEL_PT : Fld := ⟨0x0030500, 0, 0, 4, 0⟩
def PART.LEASE_CFG_LEN_US (b : Nat) : Fld := ⟨0x0030504, b, 0, 16, 2000⟩
def PART.LEASE_CFG_REVERT (b : Nat) : Fld := ⟨0x0030504, b, 16, 1, 0⟩
def PART.FENCE_PID_PID : Fld := ⟨0x0030510, 0, 0, 12, 0⟩
def PART.FENCE_CMD_FENCE : Fld := ⟨0x0030514, 0, 0, 1, 0⟩
def PART.FENCE_CMD_RELEASE : Fld := ⟨0x0030514, 0, 1, 1, 0⟩
def PART.FENCE_CMD_UNFENCE : Fld := ⟨0x0030514, 0, 2, 1, 0⟩
def PART.FENCE_STS_STATE (b : Nat) : Fld := ⟨0x0030518, b, 0, 3, 0⟩
def PART.FENCE_STS_REVERTED (b : Nat) : Fld := ⟨0x0030518, b, 3, 1, 0⟩
def PART.FENCE_STS_RESULT (b : Nat) : Fld := ⟨0x0030518, b, 4, 4, 0⟩
def PART.FENCE_LINES_LINES (b : Nat) : Fld := ⟨0x003051C, b, 0, 32, 0⟩
def PART.FENCE_POP_PID : Fld := ⟨0x0030520, 0, 0, 12, 0⟩
def PART.FENCE_POP_LOST : Fld := ⟨0x0030520, 0, 30, 1, 0⟩
def PART.FENCE_POP_VALID : Fld := ⟨0x0030520, 0, 31, 1, 0⟩
def PART.LEASE_LEFT_US (b : Nat) : Fld := ⟨0x0030524, b, 0, 32, 0⟩

/-! SCORE page -/
def SCORE.SEQ_STS_COUNT (n : Nat) : Fld := ⟨0x0100040 + n * 4096, 0, 0, 6, 0⟩
def SCORE.SEQ_STS_FLUSH_PENDING (n : Nat) : Fld := ⟨0x0100040 + n * 4096, 0, 6, 1, 0⟩
def SCORE.SEQ_STS_EMPTY_STALL (n : Nat) : Fld := ⟨0x0100040 + n * 4096, 0, 7, 1, 0⟩
def SCORE.SEQ_STS_PT (n : Nat) : Fld := ⟨0x0100040 + n * 4096, 0, 8, 4, 0⟩
def SCORE.SEQ_STS_OWNED (n : Nat) : Fld := ⟨0x0100040 + n * 4096, 0, 12, 1, 0⟩
def SCORE.SEQ_STS_SEGQ (n : Nat) : Fld := ⟨0x0100040 + n * 4096, 0, 13, 6, 0⟩
def SCORE.SEQ_STS_ORDER_WAIT (n : Nat) : Fld := ⟨0x0100040 + n * 4096, 0, 19, 1, 0⟩
def SCORE.SEQ_CMD_FLUSH (n : Nat) : Fld := ⟨0x0100044 + n * 4096, 0, 0, 1, 0⟩
def SCORE.ENG_MAP_PHYS (n : Nat) : Fld := ⟨0x0100048 + n * 4096, 0, 0, 32, 1985229328⟩
def SCORE.SPARE_STS_SPARE (n : Nat) : Fld := ⟨0x010004C + n * 4096, 0, 0, 4, 8⟩
def SCORE.SPARE_STS_ENGINE_SHORT (n : Nat) : Fld := ⟨0x010004C + n * 4096, 0, 4, 1, 0⟩
def SCORE.SPARE_STS_STANDIN (n : Nat) : Fld := ⟨0x010004C + n * 4096, 0, 5, 1, 0⟩
def SCORE.SPARE_STS_STANDIN_FOR (n : Nat) : Fld := ⟨0x010004C + n * 4096, 0, 6, 4, 0⟩
def SCORE.SPARE_STS_NEXT_STEP (n : Nat) : Fld := ⟨0x010004C + n * 4096, 0, 10, 4, 0⟩
def SCORE.ST_CTL_ROT_EN (n : Nat) : Fld := ⟨0x0100050 + n * 4096, 0, 0, 1, 1⟩
def SCORE.ST_LAST_UNIT (n : Nat) : Fld := ⟨0x0100054 + n * 4096, 0, 0, 4, 0⟩
def SCORE.ST_LAST_PASS (n : Nat) : Fld := ⟨0x0100054 + n * 4096, 0, 4, 1, 0⟩
def SCORE.ST_LAST_ABORTED (n : Nat) : Fld := ⟨0x0100054 + n * 4096, 0, 5, 1, 0⟩
def SCORE.ST_LAST_BLOCK (n : Nat) : Fld := ⟨0x0100054 + n * 4096, 0, 8, 8, 0⟩
def SCORE.TIER_AHEAD_TILES (n : Nat) : Fld := ⟨0x0100058 + n * 4096, 0, 0, 16, 1024⟩
def SCORE.DESC_DONE (n : Nat) : Fld := ⟨0x0100060 + n * 4096, 0, 0, 64, 0⟩
def SCORE.TILES (n : Nat) : Fld := ⟨0x0100068 + n * 4096, 0, 0, 64, 0⟩
def SCORE.FLUSHED_COUNT (n : Nat) : Fld := ⟨0x0100070 + n * 4096, 0, 0, 32, 0⟩
def SCORE.CMPL_LOST_COUNT (n : Nat) : Fld := ⟨0x0100074 + n * 4096, 0, 0, 32, 0⟩

/-! ENG page -/
def ENG.ENG_STS_ROLE (n : Nat) : Fld := ⟨0x0200040 + n * 4096, 0, 0, 2, if n % 16 = 8 then 1 else 0⟩
def ENG.ENG_STS_SELFTEST (n : Nat) : Fld := ⟨0x0200040 + n * 4096, 0, 2, 1, 0⟩
def ENG.ENG_STS_BUSY (n : Nat) : Fld := ⟨0x0200040 + n * 4096, 0, 3, 1, 0⟩
def ENG.ENG_STS_LOGICAL (n : Nat) : Fld := ⟨0x0200040 + n * 4096, 0, 4, 4, if n % 16 = 8 then 15 else n % 16⟩
def ENG.ENG_STS_QUEUED (n : Nat) : Fld := ⟨0x0200040 + n * 4096, 0, 8, 2, 0⟩
def ENG.TILES (n : Nat) : Fld := ⟨0x0200044 + n * 4096, 0, 0, 64, 0⟩
def ENG.FETCH_WAIT (n : Nat) : Fld := ⟨0x020004C + n * 4096, 0, 0, 64, 0⟩
def ENG.BUSY (n : Nat) : Fld := ⟨0x0200054 + n * 4096, 0, 0, 64, 0⟩
def ENG.DETECTS_COUNT (n : Nat) : Fld := ⟨0x020005C + n * 4096, 0, 0, 32, 0⟩
def ENG.ST_COUNT_RUNS (n : Nat) : Fld := ⟨0x0200060 + n * 4096, 0, 0, 16, 0⟩
def ENG.ST_COUNT_FAILS (n : Nat) : Fld := ⟨0x0200060 + n * 4096, 0, 16, 16, 0⟩
def ENG.DET_INFO_BLOCK (n : Nat) : Fld := ⟨0x0200064 + n * 4096, 0, 0, 3, 0⟩
def ENG.DET_INFO_ATTEMPT (n : Nat) : Fld := ⟨0x0200064 + n * 4096, 0, 3, 2, 0⟩
def ENG.DET_INFO_WRPATH (n : Nat) : Fld := ⟨0x0200064 + n * 4096, 0, 5, 1, 0⟩
def ENG.DET_INFO_INJECTED (n : Nat) : Fld := ⟨0x0200064 + n * 4096, 0, 6, 1, 0⟩
def ENG.DET_INFO_VALID (n : Nat) : Fld := ⟨0x0200064 + n * 4096, 0, 31, 1, 0⟩
def ENG.REEXEC_SECOND (n : Nat) : Fld := ⟨0x0200068 + n * 4096, 0, 0, 16, 0⟩
def ENG.REEXEC_THIRD (n : Nat) : Fld := ⟨0x0200068 + n * 4096, 0, 16, 16, 0⟩
def ENG.DET_SINCE_ST_COUNT (n : Nat) : Fld := ⟨0x020006C + n * 4096, 0, 0, 4, 0⟩
def ENG.CHK_INJECT_GO (n : Nat) : Fld := ⟨0x0200070 + n * 4096, 0, 0, 1, 0⟩
def ENG.CHK_INJECT_KIND (n : Nat) : Fld := ⟨0x0200070 + n * 4096, 0, 1, 2, 0⟩
def ENG.CHK_INJECT_COUNT (n : Nat) : Fld := ⟨0x0200070 + n * 4096, 0, 3, 2, 0⟩
def ENG.CHK_INJECT_REFUSED (n : Nat) : Fld := ⟨0x0200070 + n * 4096, 0, 31, 1, 0⟩

/-! SCORE page -/
def SCORE.COLL_STS_ACTIVE (n : Nat) : Fld := ⟨0x0100078 + n * 4096, 0, 0, 1, 0⟩
def SCORE.COLL_STS_RESERVED (n : Nat) : Fld := ⟨0x0100078 + n * 4096, 0, 1, 5, 0⟩
def SCORE.COLL_STS_NCONTRIB (n : Nat) : Fld := ⟨0x0100078 + n * 4096, 0, 6, 13, 0⟩
def SCORE.COLL_DROPPED_COUNT (n : Nat) : Fld := ⟨0x010007C + n * 4096, 0, 0, 32, 0⟩

/-! DRC page -/
def DRC.TC_TARGET01_TC0 (n : Nat) : Fld := ⟨0x0300040 + n * 4096, 0, 0, 16, 250⟩
def DRC.TC_TARGET01_TC1 (n : Nat) : Fld := ⟨0x0300040 + n * 4096, 0, 16, 16, 500⟩
def DRC.TC_TARGET23_TC2 (n : Nat) : Fld := ⟨0x0300044 + n * 4096, 0, 0, 16, 1000⟩
def DRC.TC_TARGET23_TC3 (n : Nat) : Fld := ⟨0x0300044 + n * 4096, 0, 16, 16, 4000⟩
def DRC.AGE_LIMIT_NS (n : Nat) : Fld := ⟨0x0300048 + n * 4096, 0, 0, 16, 6000⟩
def DRC.WR_WATER_HIGH (n : Nat) : Fld := ⟨0x030004C + n * 4096, 0, 0, 6, 24⟩
def DRC.WR_WATER_LOW (n : Nat) : Fld := ⟨0x030004C + n * 4096, 0, 8, 6, 8⟩
def DRC.SRC_TC_ENG_TC (n : Nat) : Fld := ⟨0x0300050 + n * 4096, 0, 0, 2, 2⟩
def DRC.SRC_TC_TIER_TC (n : Nat) : Fld := ⟨0x0300050 + n * 4096, 0, 2, 2, 3⟩
def DRC.PORT_TC_TC (n : Nat) (i : Nat) : Fld := ⟨0x0300054 + n * 4096 + i * 4, 0, 0, 32, 1431655765⟩
def DRC.RD (n : Nat) : Fld := ⟨0x0300060 + n * 4096, 0, 0, 64, 0⟩
def DRC.WR (n : Nat) : Fld := ⟨0x0300068 + n * 4096, 0, 0, 64, 0⟩
def DRC.RMW_COUNT (n : Nat) : Fld := ⟨0x0300070 + n * 4096, 0, 0, 32, 0⟩
def DRC.AGE_EXPIRED_COUNT (n : Nat) : Fld := ⟨0x0300074 + n * 4096, 0, 0, 32, 0⟩
def DRC.RFM_COUNT (n : Nat) : Fld := ⟨0x0300078 + n * 4096, 0, 0, 32, 0⟩

/-! HPHY page -/
def HPHY.CH_UP_CH (n : Nat) : Fld := ⟨0x0310040 + n * 4096, 0, 0, 32, 0⟩
def HPHY.TRAIN_RUNS (n : Nat) : Fld := ⟨0x0310044 + n * 4096, 0, 0, 16, 0⟩
def HPHY.TRAIN_FAILS (n : Nat) : Fld := ⟨0x0310044 + n * 4096, 0, 16, 16, 0⟩
def HPHY.CAL_RUNS (n : Nat) : Fld := ⟨0x0310048 + n * 4096, 0, 0, 32, 0⟩
def HPHY.TEMP_NOW (n : Nat) : Fld := ⟨0x031004C + n * 4096, 0, 0, 8, 0⟩
def HPHY.TEMP_MAX (n : Nat) : Fld := ⟨0x031004C + n * 4096, 0, 8, 8, 0⟩
def HPHY.BIST_CMD_GO (n : Nat) : Fld := ⟨0x0310050 + n * 4096, 0, 0, 1, 0⟩
def HPHY.BIST_CMD_KIND (n : Nat) : Fld := ⟨0x0310050 + n * 4096, 0, 1, 1, 0⟩
def HPHY.BIST_STS_BUSY (n : Nat) : Fld := ⟨0x0310054 + n * 4096, 0, 0, 1, 0⟩
def HPHY.BIST_STS_RESULT (n : Nat) : Fld := ⟨0x0310054 + n * 4096, 0, 1, 2, 0⟩
def HPHY.BIST_STS_FAIL_LINES (n : Nat) : Fld := ⟨0x0310054 + n * 4096, 0, 16, 16, 0⟩

/-! EDAC page -/
def EDAC.CE (n : Nat) : Fld := ⟨0x0320040 + n * 4096, 0, 0, 64, 0⟩
def EDAC.UE_COUNT_COUNT (n : Nat) : Fld := ⟨0x0320048 + n * 4096, 0, 0, 32, 0⟩
def EDAC.CE_CAP_ADDR_LINE (n : Nat) : Fld := ⟨0x032004C + n * 4096, 0, 0, 29, 0⟩
def EDAC.CE_CAP_INFO_SYMBOL (n : Nat) : Fld := ⟨0x0320050 + n * 4096, 0, 0, 8, 0⟩
def EDAC.CE_CAP_INFO_SYMBOLS (n : Nat) : Fld := ⟨0x0320050 + n * 4096, 0, 8, 3, 0⟩
def EDAC.CE_CAP_INFO_SCRUB (n : Nat) : Fld := ⟨0x0320050 + n * 4096, 0, 11, 1, 0⟩
def EDAC.CE_CAP_INFO_VALID (n : Nat) : Fld := ⟨0x0320050 + n * 4096, 0, 31, 1, 0⟩
def EDAC.UE_CAP_ADDR_LINE (n : Nat) : Fld := ⟨0x0320054 + n * 4096, 0, 0, 29, 0⟩
def EDAC.UE_CAP_INFO_SCRUB (n : Nat) : Fld := ⟨0x0320058 + n * 4096, 0, 0, 1, 0⟩
def EDAC.UE_CAP_INFO_VALID (n : Nat) : Fld := ⟨0x0320058 + n * 4096, 0, 31, 1, 0⟩
def EDAC.SCRUB_CTL_EN (n : Nat) : Fld := ⟨0x0320060 + n * 4096, 0, 0, 1, 1⟩
def EDAC.SCRUB_CTL_LINES (n : Nat) : Fld := ⟨0x0320060 + n * 4096, 0, 1, 4, 14⟩
def EDAC.SCRUB_PTR_INDEX (n : Nat) : Fld := ⟨0x0320064 + n * 4096, 0, 0, 29, 0⟩
def EDAC.SCRUB_PASSES_COUNT (n : Nat) : Fld := ⟨0x0320068 + n * 4096, 0, 0, 32, 0⟩
def EDAC.WBQ_PENDING (n : Nat) : Fld := ⟨0x032006C + n * 4096, 0, 0, 7, 0⟩
def EDAC.WBQ_DROPPED (n : Nat) : Fld := ⟨0x032006C + n * 4096, 0, 16, 16, 0⟩
def EDAC.REMAP_STS_USED (n : Nat) : Fld := ⟨0x0320070 + n * 4096, 0, 0, 5, 0⟩
def EDAC.REMAP_STS_LOW (n : Nat) : Fld := ⟨0x0320070 + n * 4096, 0, 5, 1, 0⟩
def EDAC.REMAP_STS_FULL (n : Nat) : Fld := ⟨0x0320070 + n * 4096, 0, 6, 1, 0⟩
def EDAC.REMAP_STS_COPYING (n : Nat) : Fld := ⟨0x0320070 + n * 4096, 0, 7, 1, 0⟩
def EDAC.REMAP_STS_WAITING (n : Nat) : Fld := ⟨0x0320070 + n * 4096, 0, 8, 3, 0⟩
def EDAC.REMAP_STS_DEFERRED (n : Nat) : Fld := ⟨0x0320070 + n * 4096, 0, 11, 1, 0⟩
def EDAC.REMAP_CTL_AUTO (n : Nat) : Fld := ⟨0x0320074 + n * 4096, 0, 0, 1, 1⟩
def EDAC.REMAP_CTL_ERASE_AUTO (n : Nat) : Fld := ⟨0x0320074 + n * 4096, 0, 1, 1, 1⟩
def EDAC.REMAP_SEL_ENTRY (n : Nat) : Fld := ⟨0x0320078 + n * 4096, 0, 0, 4, 0⟩
def EDAC.REMAP_ENT_KIND (n : Nat) (b : Nat) : Fld := ⟨0x032007C + n * 4096, b, 0, 2, 0⟩
def EDAC.REMAP_ENT_STATE (n : Nat) (b : Nat) : Fld := ⟨0x032007C + n * 4096, b, 2, 2, 0⟩
def EDAC.REMAP_ENT_PC (n : Nat) (b : Nat) : Fld := ⟨0x032007C + n * 4096, b, 4, 6, 0⟩
def EDAC.REMAP_ENT_BANK (n : Nat) (b : Nat) : Fld := ⟨0x032007C + n * 4096, b, 10, 6, 0⟩
def EDAC.REMAP_ENT_POS (n : Nat) (b : Nat) : Fld := ⟨0x032007C + n * 4096, b, 16, 14, 0⟩
def EDAC.REMAP_CMD_KIND (n : Nat) : Fld := ⟨0x0320080 + n * 4096, 0, 0, 2, 0⟩
def EDAC.REMAP_CMD_PC (n : Nat) : Fld := ⟨0x0320080 + n * 4096, 0, 2, 6, 0⟩
def EDAC.REMAP_CMD_BANK (n : Nat) : Fld := ⟨0x0320080 + n * 4096, 0, 8, 6, 0⟩
def EDAC.REMAP_CMD_POS (n : Nat) : Fld := ⟨0x0320080 + n * 4096, 0, 14, 14, 0⟩
def EDAC.REMAP_CMD_GO (n : Nat) : Fld := ⟨0x0320080 + n * 4096, 0, 31, 1, 0⟩
def EDAC.REMAP_RES_RESULT (n : Nat) : Fld := ⟨0x0320084 + n * 4096, 0, 0, 4, 0⟩
def EDAC.REMAP_RES_PROGRESS (n : Nat) : Fld := ⟨0x0320084 + n * 4096, 0, 16, 15, 0⟩
def EDAC.ERASE_SEL_PC (n : Nat) : Fld := ⟨0x0320088 + n * 4096, 0, 0, 6, 0⟩
def EDAC.ERASE_PIN (n : Nat) (b : Nat) : Fld := ⟨0x032008C + n * 4096, b, 0, 6, 0⟩
def EDAC.ERASE_EN (n : Nat) (b : Nat) : Fld := ⟨0x032008C + n * 4096, b, 6, 1, 0⟩
def EDAC.ERASE_AUTO_SET (n : Nat) (b : Nat) : Fld := ⟨0x032008C + n * 4096, b, 7, 1, 0⟩
def EDAC.DIR_RECOVER_COUNT (n : Nat) : Fld := ⟨0x0320090 + n * 4096, 0, 0, 32, 0⟩
def EDAC.MIRROR_REPAIR_COUNT (n : Nat) : Fld := ⟨0x0320094 + n * 4096, 0, 0, 32, 0⟩
def EDAC.TEST_ADDR_LINE (n : Nat) : Fld := ⟨0x03200A0 + n * 4096, 0, 0, 29, 0⟩
def EDAC.TEST_CMD_WRITE (n : Nat) : Fld := ⟨0x03200A4 + n * 4096, 0, 0, 1, 0⟩
def EDAC.TEST_CMD_READ (n : Nat) : Fld := ⟨0x03200A4 + n * 4096, 0, 1, 1, 0⟩
def EDAC.TEST_CMD_READ_RAW (n : Nat) : Fld := ⟨0x03200A4 + n * 4096, 0, 2, 1, 0⟩
def EDAC.TEST_STS_BUSY (n : Nat) : Fld := ⟨0x03200A8 + n * 4096, 0, 0, 1, 0⟩
def EDAC.TEST_STS_RESULT (n : Nat) : Fld := ⟨0x03200A8 + n * 4096, 0, 1, 2, 0⟩
def EDAC.TEST_STS_SYMBOLS (n : Nat) : Fld := ⟨0x03200A8 + n * 4096, 0, 3, 3, 0⟩
def EDAC.TEST_STS_REFUSED (n : Nat) : Fld := ⟨0x03200A8 + n * 4096, 0, 6, 1, 0⟩
def EDAC.TEST_DATA (n : Nat) : Fld := ⟨0x03200C0 + n * 4096, 0, 0, 1024, 0⟩
def EDAC.TEST_CHK (n : Nat) : Fld := ⟨0x0320140 + n * 4096, 0, 0, 128, 0⟩

/-! TIER page -/
def TIER.TIER_CTL_EN : Fld := ⟨0x0500040, 0, 0, 1, 0⟩
def TIER.TIER_CTL_HINT_EN : Fld := ⟨0x0500040, 0, 1, 1, 1⟩
def TIER.TIMEOUT_MS : Fld := ⟨0x0500044, 0, 0, 16, 100⟩
def TIER.HINT_LIMIT_OPS : Fld := ⟨0x0500048, 0, 0, 15, 8192⟩
def TIER.OPS_NOW : Fld := ⟨0x050004C, 0, 0, 15, 0⟩
def TIER.OPS_MAX : Fld := ⟨0x050004C, 0, 16, 15, 0⟩
def TIER.PT_SEL_PT : Fld := ⟨0x0500050, 0, 0, 4, 0⟩
def TIER.PT_CACHE_GIB (b : Nat) : Fld := ⟨0x0500054, b, 0, 6, 0⟩
def TIER.PT_STS_EMPTY (b : Nat) : Fld := ⟨0x0500058, b, 0, 1, 1⟩
def TIER.PT_STS_FLUSHING (b : Nat) : Fld := ⟨0x0500058, b, 1, 1, 0⟩
def TIER.PT_STS_REFUSED (b : Nat) : Fld := ⟨0x0500058, b, 2, 1, 0⟩
def TIER.PT_CMD_FLUSH : Fld := ⟨0x050005C, 0, 0, 1, 0⟩
def TIER.DRIVE_PT (i : Nat) : Fld := ⟨0x0500060 + i * 4, 0, 0, 4, 0⟩
def TIER.DRIVE_EN (i : Nat) : Fld := ⟨0x0500060 + i * 4, 0, 4, 1, 0⟩
def TIER.DRIVE_PAIR (i : Nat) : Fld := ⟨0x0500060 + i * 4, 0, 5, 1, 0⟩
def TIER.HITS (b : Nat) : Fld := ⟨0x05000A0, b, 0, 64, 0⟩
def TIER.FILLS (b : Nat) : Fld := ⟨0x05000A8, b, 0, 64, 0⟩
def TIER.WB (b : Nat) : Fld := ⟨0x05000B0, b, 0, 64, 0⟩
def TIER.MERGED_COUNT (b : Nat) : Fld := ⟨0x05000B8, b, 0, 32, 0⟩
def TIER.HINTS_DROPPED_COUNT (b : Nat) : Fld := ⟨0x05000BC, b, 0, 32, 0⟩
def TIER.STRANDED_COUNT (b : Nat) : Fld := ⟨0x05000C0, b, 0, 32, 0⟩
def TIER.TAG_REPAIR_COUNT (b : Nat) : Fld := ⟨0x05000C4, b, 0, 16, 0⟩
def TIER.TAG_REPAIR_TAG_LOST (b : Nat) : Fld := ⟨0x05000C4, b, 16, 16, 0⟩
def TIER.REBUILD_CMD_PORT : Fld := ⟨0x05000D0, 0, 0, 4, 0⟩
def TIER.REBUILD_CMD_GO : Fld := ⟨0x05000D0, 0, 4, 1, 0⟩
def TIER.REBUILD_STS_BUSY : Fld := ⟨0x05000D4, 0, 0, 1, 0⟩
def TIER.REBUILD_STS_REFUSED : Fld := ⟨0x05000D4, 0, 1, 1, 0⟩
def TIER.REBUILD : Fld := ⟨0x05000D8, 0, 0, 64, 0⟩
def TIER.TAG_ADDR_CORE : Fld := ⟨0x05000E0, 0, 0, 4, 0⟩
def TIER.TAG_ADDR_SET : Fld := ⟨0x05000E0, 0, 4, 20, 0⟩
def TIER.TAG_DATA (b : Nat) : Fld := ⟨0x05000E4, b, 0, 512, 0⟩

/-! PCIE page -/
def PCIE.LINK_STS_UP (n : Nat) : Fld := ⟨0x0510040 + n * 4096, 0, 0, 1, 0⟩
def PCIE.LINK_STS_SPEED (n : Nat) : Fld := ⟨0x0510040 + n * 4096, 0, 1, 3, 0⟩
def PCIE.LINK_STS_WIDTH (n : Nat) : Fld := ⟨0x0510040 + n * 4096, 0, 4, 3, 0⟩
def PCIE.LINK_STS_FLIT (n : Nat) : Fld := ⟨0x0510040 + n * 4096, 0, 7, 1, 0⟩
def PCIE.DRV_STS_STATE (n : Nat) : Fld := ⟨0x0510044 + n * 4096, 0, 0, 3, 0⟩
def PCIE.DRV_STS_REASON (n : Nat) : Fld := ⟨0x0510044 + n * 4096, 0, 3, 5, 0⟩
def PCIE.NS (n : Nat) : Fld := ⟨0x0510048 + n * 4096, 0, 0, 64, 0⟩
def PCIE.PORT_CMD_RESET (n : Nat) : Fld := ⟨0x0510050 + n * 4096, 0, 0, 1, 0⟩
def PCIE.ERRORS_CMD (n : Nat) : Fld := ⟨0x0510054 + n * 4096, 0, 0, 16, 0⟩
def PCIE.ERRORS_TIMEOUT (n : Nat) : Fld := ⟨0x0510054 + n * 4096, 0, 16, 16, 0⟩
def PCIE.AER_CORRECTABLE (n : Nat) : Fld := ⟨0x0510058 + n * 4096, 0, 0, 16, 0⟩
def PCIE.AER_UNCORRECTABLE (n : Nat) : Fld := ⟨0x0510058 + n * 4096, 0, 16, 16, 0⟩
def PCIE.RD (n : Nat) : Fld := ⟨0x0510060 + n * 4096, 0, 0, 64, 0⟩
def PCIE.WR (n : Nat) : Fld := ⟨0x0510068 + n * 4096, 0, 0, 64, 0⟩

/-! PORT page -/
def PORT.PORT_CTL_EN (n : Nat) : Fld := ⟨0x0600040 + n * 4096, 0, 0, 1, 1⟩
def PORT.PORT_CTL_WREQ (n : Nat) : Fld := ⟨0x0600040 + n * 4096, 0, 1, 2, 2⟩
def PORT.PORT_CTL_SPARE_EN (n : Nat) : Fld := ⟨0x0600040 + n * 4096, 0, 3, 1, 1⟩
def PORT.PORT_CTL_LWC_EN (n : Nat) : Fld := ⟨0x0600040 + n * 4096, 0, 4, 1, 1⟩
def PORT.PORT_CTL_VCAP (n : Nat) : Fld := ⟨0x0600040 + n * 4096, 0, 8, 4, 3⟩
def PORT.PORT_CTL_VC_MAX (n : Nat) : Fld := ⟨0x0600040 + n * 4096, 0, 12, 4, 8⟩
def PORT.PORT_CMD_TRAIN (n : Nat) : Fld := ⟨0x0600044 + n * 4096, 0, 0, 1, 0⟩
def PORT.PORT_CMD_RETRAIN (n : Nat) : Fld := ⟨0x0600044 + n * 4096, 0, 1, 1, 0⟩
def PORT.LINK_STS_STATE (n : Nat) : Fld := ⟨0x0600048 + n * 4096, 0, 0, 4, 0⟩
def PORT.LINK_STS_RETRAINING (n : Nat) : Fld := ⟨0x0600048 + n * 4096, 0, 4, 1, 0⟩
def PORT.LINK_STS_WIDTH (n : Nat) : Fld := ⟨0x0600048 + n * 4096, 0, 5, 2, 0⟩
def PORT.LINK_STS_LANES (n : Nat) : Fld := ⟨0x0600048 + n * 4096, 0, 7, 5, 0⟩
def PORT.LINK_STS_REVERSED (n : Nat) : Fld := ⟨0x0600048 + n * 4096, 0, 12, 1, 0⟩
def PORT.LINK_STS_DEGRADED (n : Nat) : Fld := ⟨0x0600048 + n * 4096, 0, 13, 1, 0⟩
def PORT.LINK_STS_LEADER (n : Nat) : Fld := ⟨0x0600048 + n * 4096, 0, 14, 1, 0⟩
def PORT.LINK_STS_VER (n : Nat) : Fld := ⟨0x0600048 + n * 4096, 0, 16, 8, 0⟩
def PORT.LINK_STS_NVC (n : Nat) : Fld := ⟨0x0600048 + n * 4096, 0, 24, 4, 0⟩
def PORT.LINK_STS_AFEAT (n : Nat) : Fld := ⟨0x0600048 + n * 4096, 0, 28, 4, 0⟩
def PORT.TRAIN_STS_ATTEMPT (n : Nat) : Fld := ⟨0x060004C + n * 4096, 0, 0, 2, 0⟩
def PORT.TRAIN_STS_REASON (n : Nat) : Fld := ⟨0x060004C + n * 4096, 0, 2, 5, 0⟩
def PORT.PEER_NODE_ID (n : Nat) : Fld := ⟨0x0600050 + n * 4096, 0, 0, 16, 0⟩
def PORT.PEER_VMIN (n : Nat) : Fld := ⟨0x0600050 + n * 4096, 0, 16, 8, 0⟩
def PORT.PEER_VMAX (n : Nat) : Fld := ⟨0x0600050 + n * 4096, 0, 24, 8, 0⟩
def PORT.LANE_CTL_DIS (n : Nat) : Fld := ⟨0x0600054 + n * 4096, 0, 0, 5, 0⟩
def PORT.LANE_STS_RXGOOD (n : Nat) : Fld := ⟨0x0600058 + n * 4096, 0, 0, 5, 0⟩
def PORT.LANE_STS_FAILED (n : Nat) : Fld := ⟨0x0600058 + n * 4096, 0, 5, 5, 0⟩
def PORT.LANE_SER_LIMIT_SYMBOLS (n : Nat) : Fld := ⟨0x060005C + n * 4096, 0, 0, 24, 32768⟩
def PORT.LANE_SER_SYMBOLS (n : Nat) (i : Nat) : Fld := ⟨0x0600060 + n * 4096 + i * 4, 0, 0, 32, 0⟩
def PORT.FEC_UNCORR_COUNT (n : Nat) : Fld := ⟨0x0600074 + n * 4096, 0, 0, 32, 0⟩
def PORT.CRC_ERR_COUNT (n : Nat) : Fld := ⟨0x0600078 + n * 4096, 0, 0, 32, 0⟩
def PORT.REPLAY_CTL_TIMER_NS (n : Nat) : Fld := ⟨0x0600080 + n * 4096, 0, 0, 16, 4000⟩
def PORT.REPLAY_CTL_LIMIT (n : Nat) : Fld := ⟨0x0600080 + n * 4096, 0, 16, 4, 4⟩
def PORT.REPLAYS_COUNT (n : Nat) : Fld := ⟨0x0600084 + n * 4096, 0, 0, 32, 0⟩
def PORT.NAKS_SENT (n : Nat) : Fld := ⟨0x0600088 + n * 4096, 0, 0, 16, 0⟩
def PORT.NAKS_RECEIVED (n : Nat) : Fld := ⟨0x0600088 + n * 4096, 0, 16, 16, 0⟩
def PORT.RETRAINS_COUNT (n : Nat) : Fld := ⟨0x060008C + n * 4096, 0, 0, 16, 0⟩
def PORT.RETRAINS_FAILED (n : Nat) : Fld := ⟨0x060008C + n * 4096, 0, 16, 16, 0⟩
def PORT.TAG_CTL_LIMIT (n : Nat) : Fld := ⟨0x0600090 + n * 4096, 0, 0, 4, 8⟩
def PORT.TAG_FAIL_COUNT (n : Nat) : Fld := ⟨0x0600094 + n * 4096, 0, 0, 32, 0⟩
def PORT.CREDIT_STS_LEAKS (n : Nat) : Fld := ⟨0x0600098 + n * 4096, 0, 0, 16, 0⟩
def PORT.CREDIT_STS_OVERRUNS (n : Nat) : Fld := ⟨0x0600098 + n * 4096, 0, 16, 16, 0⟩
def PORT.CREDIT_STALL_COUNT (n : Nat) : Fld := ⟨0x060009C + n * 4096, 0, 0, 32, 0⟩
def PORT.CCHK_PERIOD_FRAMES (n : Nat) : Fld := ⟨0x06000A0 + n * 4096, 0, 0, 16, 16⟩
def PORT.VC_RSV (n : Nat) : Fld := ⟨0x06000A4 + n * 4096, 0, 0, 64, 0x2020202020202020⟩
def PORT.LWC_CMD_WIDTH (n : Nat) : Fld := ⟨0x06000B0 + n * 4096, 0, 0, 2, 0⟩
def PORT.LWC_CMD_GO (n : Nat) : Fld := ⟨0x06000B0 + n * 4096, 0, 2, 1, 0⟩
def PORT.LWC_CMD_REFUSED (n : Nat) : Fld := ⟨0x06000B0 + n * 4096, 0, 3, 1, 0⟩
def PORT.FRAMES_TX (n : Nat) : Fld := ⟨0x06000B8 + n * 4096, 0, 0, 64, 0⟩
def PORT.FRAMES_RX (n : Nat) : Fld := ⟨0x06000C0 + n * 4096, 0, 0, 64, 0⟩
def PORT.KEY_STS_TX_PH (n : Nat) : Fld := ⟨0x06000C8 + n * 4096, 0, 0, 1, 0⟩
def PORT.KEY_STS_RX_PH (n : Nat) : Fld := ⟨0x06000C8 + n * 4096, 0, 1, 1, 0⟩
def PORT.XPORT_CTL_GROUP (n : Nat) : Fld := ⟨0x0600100 + n * 4096, 0, 0, 1, 0⟩
def PORT.XPORT_CTL_CC_MODE (n : Nat) : Fld := ⟨0x0600100 + n * 4096, 0, 1, 2, 0⟩
def PORT.INGRESS_DELAY_SLOTS (n : Nat) : Fld := ⟨0x0600104 + n * 4096, 0, 0, 6, 4⟩
def PORT.CC_THRESH_BYTES (n : Nat) : Fld := ⟨0x0600108 + n * 4096, 0, 0, 24, 65536⟩
def PORT.QDEPTH_BYTES (n : Nat) : Fld := ⟨0x060010C + n * 4096, 0, 0, 24, 0⟩
def PORT.PKT_TX (n : Nat) : Fld := ⟨0x0600110 + n * 4096, 0, 0, 64, 0⟩
def PORT.PKT_RX (n : Nat) : Fld := ⟨0x0600118 + n * 4096, 0, 0, 64, 0⟩
def PORT.LATE_COUNT (n : Nat) : Fld := ⟨0x0600120 + n * 4096, 0, 0, 32, 0⟩
def PORT.CE_MARKED_COUNT (n : Nat) : Fld := ⟨0x0600124 + n * 4096, 0, 0, 32, 0⟩
def PORT.ECE_RX_COUNT (n : Nat) : Fld := ⟨0x0600128 + n * 4096, 0, 0, 32, 0⟩
def PORT.CREDIT_HOLD_COUNT (n : Nat) : Fld := ⟨0x060012C + n * 4096, 0, 0, 32, 0⟩

/-! ROUTE page -/
def ROUTE.SELF_NODE_ID : Fld := ⟨0x0700040, 0, 0, 16, 0⟩
def ROUTE.ROUTE_STS_ACTIVE : Fld := ⟨0x0700044, 0, 0, 1, 0⟩
def ROUTE.ROUTE_STS_EPOCH : Fld := ⟨0x0700044, 0, 1, 2, 0⟩
def ROUTE.ROUTE_STS_DRAINING : Fld := ⟨0x0700044, 0, 3, 1, 0⟩
def ROUTE.ROUTE_STS_OLD_VALID : Fld := ⟨0x0700044, 0, 4, 1, 0⟩
def ROUTE.ROUTE_STS_RESULT : Fld := ⟨0x0700044, 0, 5, 3, 0⟩
def ROUTE.ROUTE_CMD_FLIP : Fld := ⟨0x0700048, 0, 0, 1, 0⟩
def ROUTE.ROUTE_CMD_COPY : Fld := ⟨0x0700048, 0, 1, 1, 0⟩
def ROUTE.DRAIN_LIMIT_US : Fld := ⟨0x070004C, 0, 0, 16, 100⟩
def ROUTE.TBL_ADDR_INDEX : Fld := ⟨0x0700050, 0, 0, 8, 0⟩
def ROUTE.TBL_ADDR_DIM : Fld := ⟨0x0700050, 0, 8, 1, 0⟩
def ROUTE.TBL_ADDR_READ_ACTIVE : Fld := ⟨0x0700050, 0, 9, 1, 0⟩
def ROUTE.TBL_ADDR_AUTOINC : Fld := ⟨0x0700050, 0, 10, 1, 1⟩
def ROUTE.TBL_DATA_ENTRY (b : Nat) : Fld := ⟨0x0700054, b, 0, 32, 0⟩
def ROUTE.PTAB_ADDR_PID : Fld := ⟨0x0700060, 0, 0, 12, 0⟩
def ROUTE.PTAB_ADDR_AUTOINC : Fld := ⟨0x0700060, 0, 12, 1, 1⟩
def ROUTE.PTAB_DATA_NODE_ID (b : Nat) : Fld := ⟨0x0700064, b, 0, 16, 0⟩
def ROUTE.PTAB_DATA_V (b : Nat) : Fld := ⟨0x0700064, b, 16, 1, 0⟩
def ROUTE.MC_SEL_GROUP : Fld := ⟨0x0700070, 0, 0, 8, 0⟩
def ROUTE.MC_CTL_V (b : Nat) : Fld := ⟨0x0700074, b, 0, 1, 0⟩
def ROUTE.MC_CTL_PT (b : Nat) : Fld := ⟨0x0700074, b, 1, 4, 0⟩
def ROUTE.MC_CTL_DIM (b : Nat) : Fld := ⟨0x0700074, b, 5, 1, 0⟩
def ROUTE.MC_ID_MCID (b : Nat) : Fld := ⟨0x0700078, b, 0, 16, 0⟩
def ROUTE.MC_PORTS (b : Nat) : Fld := ⟨0x070007C, b, 0, 48, 0⟩
def ROUTE.MC_STS_REFUSED : Fld := ⟨0x0700084, 0, 0, 1, 0⟩
def ROUTE.TURNS : Fld := ⟨0x0700090, 0, 0, 64, 0⟩
def ROUTE.RETURNED_STALE : Fld := ⟨0x0700098, 0, 0, 16, 0⟩
def ROUTE.RETURNED_OTHER : Fld := ⟨0x0700098, 0, 16, 16, 0⟩
def ROUTE.UNDELIVERED_COUNT : Fld := ⟨0x070009C, 0, 0, 32, 0⟩
def ROUTE.MALFORMED_COUNT : Fld := ⟨0x07000A0, 0, 0, 32, 0⟩
def ROUTE.MC_DISCARD_COUNT : Fld := ⟨0x07000A4, 0, 0, 32, 0⟩

/-! SHAPE page -/
def SHAPE.SHAPE_CTL_MODE : Fld := ⟨0x0710040, 0, 0, 1, 0⟩
def SHAPE.SHAPE_CTL_OVH : Fld := ⟨0x0710040, 0, 8, 8, 8⟩
def SHAPE.SHAPE_CTL_QUANTUM : Fld := ⟨0x0710040, 0, 16, 16, 256⟩
def SHAPE.WEIGHT_W (i : Nat) : Fld := ⟨0x0710044 + i * 4, 0, 0, 32, 16843009⟩
def SHAPE.WEIGHT_FWD_W : Fld := ⟨0x0710054, 0, 0, 8, 1⟩
def SHAPE.GWEIGHT_W : Fld := ⟨0x0710058, 0, 0, 32, 16843009⟩
def SHAPE.RATE_ADDR_PORT : Fld := ⟨0x0710060, 0, 0, 6, 0⟩
def SHAPE.RATE_ADDR_FLOW : Fld := ⟨0x0710060, 0, 6, 5, 0⟩
def SHAPE.RATE_ADDR_AUTOINC : Fld := ⟨0x0710060, 0, 11, 1, 1⟩
def SHAPE.RATE_DATA_RATE (b : Nat) : Fld := ⟨0x0710064, b, 0, 16, 0⟩
def SHAPE.RATE_DATA_BURST (b : Nat) : Fld := ⟨0x0710064, b, 16, 16, 16⟩
def SHAPE.E2E_ADDR_PID : Fld := ⟨0x0710070, 0, 0, 12, 0⟩
def SHAPE.E2E_DATA_LIMIT (b : Nat) : Fld := ⟨0x0710074, b, 0, 8, 0⟩
def SHAPE.E2E_DATA_OUT (b : Nat) : Fld := ⟨0x0710074, b, 8, 8, 0⟩
def SHAPE.E2E_DATA_ECRED (b : Nat) : Fld := ⟨0x0710074, b, 16, 16, 0⟩
def SHAPE.E2E_STS_REFUSED : Fld := ⟨0x0710078, 0, 0, 1, 0⟩
def SHAPE.POL_SEL_PT : Fld := ⟨0x0710080, 0, 0, 4, 0⟩
def SHAPE.POL_CFG_RATE (b : Nat) : Fld := ⟨0x0710084, b, 0, 16, 0⟩
def SHAPE.POL_CFG_BURST (b : Nat) : Fld := ⟨0x0710084, b, 16, 16, 64⟩
def SHAPE.THR_NS_NS : Fld := ⟨0x0710088, 0, 0, 16, 1000⟩
def SHAPE.NO_CREDIT_COUNT : Fld := ⟨0x071008C, 0, 0, 32, 0⟩
def SHAPE.WITHHELD_COUNT : Fld := ⟨0x0710090, 0, 0, 32, 0⟩

/-! PART page -/
def PART.CFG_CORES_CORES : Fld := ⟨0x0030620, 0, 0, 16, 0⟩
def PART.CFG_PRIMARY_PRIMARY : Fld := ⟨0x0030624, 0, 0, 16, 0⟩
def PART.CFG_SEC : Fld := ⟨0x0030628, 0, 0, 64, 0⟩
def PART.CFG_CMD_GO : Fld := ⟨0x0030630, 0, 0, 1, 0⟩
def PART.CFG_STS_COPYING (b : Nat) : Fld := ⟨0x0030634, b, 0, 1, 0⟩
def PART.CFG_STS_RESULT (b : Nat) : Fld := ⟨0x0030634, b, 4, 4, 0⟩
def PART.BIND_PID_PID : Fld := ⟨0x0030640, 0, 0, 12, 0⟩
def PART.BIND_CMD_PT : Fld := ⟨0x0030644, 0, 0, 4, 0⟩
def PART.BIND_CMD_BIND : Fld := ⟨0x0030644, 0, 4, 1, 0⟩
def PART.BIND_CMD_UNBIND : Fld := ⟨0x0030644, 0, 5, 1, 0⟩
def PART.BIND_STS_STATE (b : Nat) : Fld := ⟨0x0030648, b, 0, 3, 0⟩
def PART.BIND_STS_RESULT (b : Nat) : Fld := ⟨0x0030648, b, 4, 4, 0⟩
def PART.BIND_STS_PT (b : Nat) : Fld := ⟨0x0030648, b, 8, 4, 0⟩

/-! FUSE page -/
def FUSE.PART_INFO_PART : Fld := ⟨0x0001040, 0, 0, 4, 0⟩
def FUSE.PART_INFO_PROFILE : Fld := ⟨0x0001040, 0, 4, 1, 0⟩
def FUSE.PART_INFO_STACKS : Fld := ⟨0x0001040, 0, 5, 5, 0⟩
def FUSE.PART_INFO_STEPPING : Fld := ⟨0x0001040, 0, 16, 8, 0⟩
def FUSE.SERIAL : Fld := ⟨0x0001044, 0, 0, 64, 0⟩
def FUSE.LIFECYCLE_STATE : Fld := ⟨0x000104C, 0, 0, 2, 0⟩
def FUSE.LIFECYCLE_KEYS_KILLED : Fld := ⟨0x000104C, 0, 2, 1, 0⟩
def FUSE.SVN_SVN : Fld := ⟨0x0001050, 0, 0, 7, 0⟩
def FUSE.BAD_ADDR_INDEX : Fld := ⟨0x0001058, 0, 0, 7, 0⟩
def FUSE.BAD_ADDR_AUTOINC : Fld := ⟨0x0001058, 0, 7, 1, 1⟩
def FUSE.BAD_DATA_ENTRY (b : Nat) : Fld := ⟨0x000105C, b, 0, 16, 0⟩
def FUSE.FIELD_CMD_ENTRY : Fld := ⟨0x0001060, 0, 0, 16, 0⟩
def FUSE.FIELD_CMD_GO : Fld := ⟨0x0001060, 0, 16, 1, 0⟩
def FUSE.FIELD_STS_USED : Fld := ⟨0x0001064, 0, 0, 7, 0⟩
def FUSE.FIELD_STS_BUSY : Fld := ⟨0x0001064, 0, 7, 1, 0⟩
def FUSE.FIELD_STS_REFUSED : Fld := ⟨0x0001064, 0, 8, 1, 0⟩
def FUSE.AVK : Fld := ⟨0x0001080, 0, 0, 512, 0⟩

/-! SEC page -/
def SEC.LC_CMD_TARGET : Fld := ⟨0x0020040, 0, 0, 2, 0⟩
def SEC.LC_CMD_GO : Fld := ⟨0x0020040, 0, 2, 1, 0⟩
def SEC.SEC_STS_LC_BUSY : Fld := ⟨0x0020044, 0, 0, 1, 0⟩
def SEC.SEC_STS_LC_RESULT : Fld := ⟨0x0020044, 0, 1, 2, 0⟩
def SEC.SEC_STS_TRNG_FAIL : Fld := ⟨0x0020044, 0, 3, 1, 0⟩
def SEC.DEBUG_LEVEL : Fld := ⟨0x0020048, 0, 0, 2, 0⟩
def SEC.DEBUG_REFUSED : Fld := ⟨0x0020048, 0, 2, 1, 0⟩
def SEC.DEBUG_EVER : Fld := ⟨0x0020048, 0, 3, 1, 0⟩
def SEC.FW_ADDR_OFFSET : Fld := ⟨0x0020050, 0, 0, 22, 0⟩
def SEC.FW_ADDR_AUTOINC : Fld := ⟨0x0020050, 0, 31, 1, 1⟩
def SEC.FW_DATA_BYTES : Fld := ⟨0x0020054, 0, 0, 32, 0⟩
def SEC.FW_CMD_VERIFY : Fld := ⟨0x0020058, 0, 0, 1, 0⟩
def SEC.FW_CMD_DISCARD : Fld := ⟨0x0020058, 0, 1, 1, 0⟩
def SEC.FW_CMD_SVN_COMMIT : Fld := ⟨0x0020058, 0, 2, 1, 0⟩
def SEC.FW_STS_BUSY : Fld := ⟨0x002005C, 0, 0, 1, 0⟩
def SEC.FW_STS_STAGED : Fld := ⟨0x002005C, 0, 1, 1, 0⟩
def SEC.FW_STS_RESULT : Fld := ⟨0x002005C, 0, 2, 3, 0⟩
def SEC.FW_STS_RUN_SVN : Fld := ⟨0x002005C, 0, 5, 7, 0⟩
def SEC.FW_RUN : Fld := ⟨0x0020080, 0, 0, 512, 0⟩
def SEC.FW_STG : Fld := ⟨0x00200C0, 0, 0, 512, 0⟩

/-! ATT page -/
def ATT.QUOTE_CMD_PT : Fld := ⟨0x0021040, 0, 0, 4, 0⟩
def ATT.QUOTE_CMD_KIND : Fld := ⟨0x0021040, 0, 4, 2, 0⟩
def ATT.QUOTE_CMD_GO : Fld := ⟨0x0021040, 0, 6, 1, 0⟩
def ATT.QUOTE_STS_BUSY : Fld := ⟨0x0021044, 0, 0, 1, 0⟩
def ATT.QUOTE_STS_RESULT : Fld := ⟨0x0021044, 0, 1, 2, 0⟩
def ATT.QUOTE_STS_LENGTH : Fld := ⟨0x0021044, 0, 16, 16, 0⟩
def ATT.QBUF_ADDR_OFFSET : Fld := ⟨0x0021048, 0, 0, 13, 0⟩
def ATT.QBUF_ADDR_AUTOINC : Fld := ⟨0x0021048, 0, 31, 1, 1⟩
def ATT.QBUF_DATA_BYTES : Fld := ⟨0x002104C, 0, 0, 32, 0⟩
def ATT.GEN_SEL_PT : Fld := ⟨0x0021050, 0, 0, 4, 0⟩
def ATT.GEN (b : Nat) : Fld := ⟨0x0021054, b, 0, 64, 0⟩
def ATT.NONCE : Fld := ⟨0x0021080, 0, 0, 512, 0⟩
def ATT.IMG_SEL_SLOT : Fld := ⟨0x00210C0, 0, 0, 4, 0⟩
def ATT.IMG_CTL_PT (b : Nat) : Fld := ⟨0x00210C4, b, 0, 4, 0⟩
def ATT.IMG_CTL_STATE (b : Nat) : Fld := ⟨0x00210C4, b, 4, 2, 0⟩
def ATT.IMG_CTL_BIND (b : Nat) : Fld := ⟨0x00210C4, b, 6, 1, 0⟩
def ATT.IMG_CTL_UNBIND (b : Nat) : Fld := ⟨0x00210C4, b, 7, 1, 0⟩
def ATT.IMG_PVA (b : Nat) : Fld := ⟨0x00210C8, b, 16, 41, 0⟩
def ATT.IMG_LEN_UNITS (b : Nat) : Fld := ⟨0x00210D0, b, 0, 21, 0⟩
def ATT.IMG_RES_RESULT (b : Nat) : Fld := ⟨0x00210D4, b, 0, 4, 0⟩
def ATT.IMG_RES_STATUS (b : Nat) : Fld := ⟨0x00210D4, b, 8, 8, 0⟩
def ATT.IMG_EXP (b : Nat) : Fld := ⟨0x0021100, b, 0, 512, 0⟩
def ATT.IMG_MEAS (b : Nat) : Fld := ⟨0x0021140, b, 0, 512, 0⟩

/-! KEY page -/
def KEY.ROT_CTL_ROT_LOG2 : Fld := ⟨0x0022040, 0, 0, 5, 24⟩
def KEY.KX_SEL_PORT : Fld := ⟨0x0022044, 0, 0, 6, 0⟩
def KEY.KX_STS_STATE (b : Nat) : Fld := ⟨0x0022048, b, 0, 2, 0⟩
def KEY.KX_STS_FAIL (b : Nat) : Fld := ⟨0x0022048, b, 4, 3, 0⟩
def KEY.KX_STS_SKIPPED (b : Nat) : Fld := ⟨0x0022048, b, 7, 9, 0⟩
def KEY.KX_STS_ROTATIONS (b : Nat) : Fld := ⟨0x0022048, b, 16, 16, 0⟩
def KEY.PEER_DIG (b : Nat) : Fld := ⟨0x0022080, b, 0, 512, 0⟩
def KEY.KSLOT_SEL_SLOT : Fld := ⟨0x00220C0, 0, 0, 4, 0⟩
def KEY.KSLOT_CTL_PT (b : Nat) : Fld := ⟨0x00220C4, b, 0, 4, 0⟩
def KEY.KSLOT_CTL_STATE (b : Nat) : Fld := ⟨0x00220C4, b, 4, 2, 0⟩
def KEY.KSLOT_CTL_LOAD (b : Nat) : Fld := ⟨0x00220C4, b, 6, 1, 0⟩
def KEY.KSLOT_CTL_LOCK (b : Nat) : Fld := ⟨0x00220C4, b, 7, 1, 0⟩
def KEY.KSLOT_CTL_CLEAR (b : Nat) : Fld := ⟨0x00220C4, b, 8, 1, 0⟩
def KEY.KSLOT_BASE_GIB (b : Nat) : Fld := ⟨0x00220C8, b, 0, 17, 0⟩
def KEY.KSLOT_LEN_GIB (b : Nat) : Fld := ⟨0x00220CC, b, 0, 16, 0⟩
def KEY.KSLOT_RES_RESULT (b : Nat) : Fld := ⟨0x00220D0, b, 0, 4, 0⟩
def KEY.REL_ADDR_OFFSET : Fld := ⟨0x0022100, 0, 0, 11, 0⟩
def KEY.REL_ADDR_AUTOINC : Fld := ⟨0x0022100, 0, 31, 1, 1⟩
def KEY.REL_DATA_BYTES : Fld := ⟨0x0022104, 0, 0, 32, 0⟩
def KEY.REL_CMD_GO : Fld := ⟨0x0022108, 0, 0, 1, 0⟩
def KEY.REL_STS_BUSY : Fld := ⟨0x002210C, 0, 0, 1, 0⟩
def KEY.REL_STS_RESULT : Fld := ⟨0x002210C, 0, 1, 3, 0⟩
def KEY.TGEN_SEL_PT : Fld := ⟨0x0022140, 0, 0, 4, 0⟩
def KEY.TGEN_GEN (b : Nat) : Fld := ⟨0x0022144, b, 0, 32, 0⟩

/-! PART page -/
def PART.PT_SEL_PT : Fld := ⟨0x0030600, 0, 0, 4, 0⟩
def PART.PT_STS_STATE (b : Nat) : Fld := ⟨0x0030604, b, 0, 3, 0⟩
def PART.PT_STS_QUIESCING (b : Nat) : Fld := ⟨0x0030604, b, 3, 1, 0⟩
def PART.PT_STS_QRESULT (b : Nat) : Fld := ⟨0x0030604, b, 4, 4, 0⟩
def PART.QUIESCE_CMD_GO : Fld := ⟨0x0030608, 0, 0, 1, 0⟩
def PART.QUIESCE_CMD_RESUME : Fld := ⟨0x0030608, 0, 1, 1, 0⟩
def PART.SCRUB_CORES_CORES : Fld := ⟨0x003060C, 0, 0, 16, 0⟩
def PART.SCRUB_DRIVES_DRIVES : Fld := ⟨0x0030610, 0, 0, 16, 0⟩
def PART.SCRUB_CMD_GO : Fld := ⟨0x0030614, 0, 0, 1, 0⟩
def PART.SCRUB_STS_BUSY (b : Nat) : Fld := ⟨0x0030618, b, 0, 1, 0⟩
def PART.SCRUB_STS_STEP (b : Nat) : Fld := ⟨0x0030618, b, 1, 3, 0⟩
def PART.SCRUB_STS_RESULT (b : Nat) : Fld := ⟨0x0030618, b, 4, 4, 0⟩
def PART.SCRUB_STS_DRIVES_LEFT (b : Nat) : Fld := ⟨0x0030618, b, 8, 16, 0⟩

/-! PWR page -/
def PWR.CAP_WATTS : Fld := ⟨0x0008040, 0, 0, 11, 1400⟩
def PWR.CAP_HYST : Fld := ⟨0x0008040, 0, 16, 8, 30⟩
def PWR.FAST_CTL_PCT : Fld := ⟨0x0008044, 0, 0, 7, 25⟩
def PWR.PWR_CMD_TARGET : Fld := ⟨0x0008048, 0, 0, 3, 0⟩
def PWR.PWR_CMD_GO : Fld := ⟨0x0008048, 0, 3, 1, 0⟩
def PWR.PWR_STS_STATE : Fld := ⟨0x000804C, 0, 0, 3, 0⟩
def PWR.PWR_STS_LEVEL : Fld := ⟨0x000804C, 0, 3, 5, 0⟩
def PWR.PWR_STS_THERM_LEVEL : Fld := ⟨0x000804C, 0, 8, 5, 0⟩
def PWR.PWR_STS_CAP_UNATTAINABLE : Fld := ⟨0x000804C, 0, 13, 1, 0⟩
def PWR.PWR_STS_FAST : Fld := ⟨0x000804C, 0, 14, 1, 0⟩
def PWR.PWR_STS_BUSY : Fld := ⟨0x000804C, 0, 15, 1, 0⟩
def PWR.PWR_STS_RESULT : Fld := ⟨0x000804C, 0, 16, 3, 0⟩
def PWR.IN_POWER_AVG : Fld := ⟨0x0008050, 0, 0, 16, 0⟩
def PWR.IN_POWER_PEAK : Fld := ⟨0x0008050, 0, 16, 16, 0⟩
def PWR.IN_SUPPLY_MV : Fld := ⟨0x0008054, 0, 0, 16, 0⟩
def PWR.IN_SUPPLY_CURRENT : Fld := ⟨0x0008054, 0, 16, 16, 0⟩
def PWR.DROOP_CTL_DROOP_MV : Fld := ⟨0x0008058, 0, 0, 7, 45⟩
def PWR.DROOP_CTL_RECOV_MV : Fld := ⟨0x0008058, 0, 8, 7, 15⟩
def PWR.FILL_CTL_EN : Fld := ⟨0x000805C, 0, 0, 1, 1⟩
def PWR.FILL_CTL_FLOOR : Fld := ⟨0x000805C, 0, 1, 4, 0⟩
def PWR.FILL_CTL_STEP : Fld := ⟨0x000805C, 0, 8, 8, 4⟩
def PWR.THERM_CTL_DIE_THROT : Fld := ⟨0x0008060, 0, 0, 8, 95⟩
def PWR.THERM_CTL_DRAM_THROT : Fld := ⟨0x0008060, 0, 8, 8, 88⟩
def PWR.THERM_STS_DIE_NOW : Fld := ⟨0x0008064, 0, 0, 8, 0⟩
def PWR.THERM_STS_DRAM_NOW : Fld := ⟨0x0008064, 0, 8, 8, 0⟩
def PWR.THERM_STS_DIE_PEAK : Fld := ⟨0x0008064, 0, 16, 8, 0⟩
def PWR.THERM_STS_DRAM_PEAK : Fld := ⟨0x0008064, 0, 24, 8, 0⟩
def PWR.FAN_CTL_DUTY : Fld := ⟨0x0008068, 0, 0, 7, 100⟩
def PWR.FAN_CTL_FORCED : Fld := ⟨0x0008068, 0, 7, 1, 0⟩
def PWR.THR_ACTIVE_REASONS : Fld := ⟨0x000806C, 0, 0, 9, 0⟩
def PWR.THR_SEL_REASON : Fld := ⟨0x0008070, 0, 0, 4, 0⟩
def PWR.THR_DUR (b : Nat) : Fld := ⟨0x0008074, b, 0, 64, 0⟩
def PWR.DEFERRED_COUNT : Fld := ⟨0x000807C, 0, 0, 32, 0⟩
def PWR.RAIL_SEL_RAIL : Fld := ⟨0x0008080, 0, 0, 5, 0⟩
def PWR.RAIL_TEL_MV (b : Nat) : Fld := ⟨0x0008084, b, 0, 16, 0⟩
def PWR.RAIL_TEL_AMPS (b : Nat) : Fld := ⟨0x0008084, b, 16, 16, 0⟩
def PWR.RAIL_STS_PHASES_OK (b : Nat) : Fld := ⟨0x0008088, b, 0, 4, 0⟩
def PWR.RAIL_STS_PHASES_REQ (b : Nat) : Fld := ⟨0x0008088, b, 4, 4, 0⟩
def PWR.RAIL_STS_TEMP (b : Nat) : Fld := ⟨0x0008088, b, 8, 8, 0⟩
def PWR.RAIL_STS_OUT_OF_REG (b : Nat) : Fld := ⟨0x0008088, b, 16, 1, 0⟩
def PWR.RAIL_STS_SHUT (b : Nat) : Fld := ⟨0x0008088, b, 17, 1, 0⟩
def PWR.EN_SEL_KIND : Fld := ⟨0x0008090, 0, 0, 2, 0⟩
def PWR.EN_SEL_PT : Fld := ⟨0x0008090, 0, 2, 4, 0⟩
def PWR.EN_SEL_PORT : Fld := ⟨0x0008090, 0, 6, 6, 0⟩
def PWR.EN_SEL_QUEUE : Fld := ⟨0x0008090, 0, 12, 3, 0⟩
def PWR.EN (b : Nat) : Fld := ⟨0x0008094, b, 0, 64, 0⟩
def PWR.EN_CMD_CLEAR : Fld := ⟨0x000809C, 0, 0, 1, 0⟩

/-! CLK page -/
def CLK.CORE_SEL_CORE : Fld := ⟨0x0004040, 0, 0, 4, 0⟩
def CLK.CORE_CLK_MHZ (b : Nat) : Fld := ⟨0x0004044, b, 0, 11, 1100⟩
def CLK.CORE_CLK_PINNED (b : Nat) : Fld := ⟨0x0004044, b, 11, 1, 1⟩
def CLK.CORE_CLK_STRETCH (b : Nat) : Fld := ⟨0x0004044, b, 12, 1, 0⟩
def CLK.CORE_CLK_CEIL (b : Nat) : Fld := ⟨0x0004044, b, 13, 3, 5⟩
def CLK.CORE_CLK_FMAX_STEP (b : Nat) : Fld := ⟨0x0004044, b, 16, 4, 0⟩
def CLK.CORE_CLK_VPIN (b : Nat) : Fld := ⟨0x0004044, b, 20, 6, 0⟩
def CLK.CORE_CLK_DEFER (b : Nat) : Fld := ⟨0x0004044, b, 26, 1, 0⟩
def CLK.STRETCHES_COUNT (b : Nat) : Fld := ⟨0x0004048, b, 0, 32, 0⟩
def CLK.STRETCH (b : Nat) : Fld := ⟨0x000404C, b, 0, 64, 0⟩
def CLK.TRIM_DOWN (b : Nat) : Fld := ⟨0x0004054, b, 0, 16, 0⟩
def CLK.TRIM_UP (b : Nat) : Fld := ⟨0x0004054, b, 16, 16, 0⟩

/-! TOP page -/
def TOP.CHIP_RESET_GO : Fld := ⟨0x0000040, 0, 0, 1, 0⟩
def TOP.CHIP_RESET_KIND : Fld := ⟨0x0000040, 0, 1, 1, 0⟩
def TOP.SEQ_STEP_STEP : Fld := ⟨0x0000044, 0, 0, 4, 0⟩
def TOP.SEQ_STEP_GO : Fld := ⟨0x0000044, 0, 4, 1, 0⟩
def TOP.SEQ_STS_STEP : Fld := ⟨0x0000048, 0, 0, 4, 15⟩
def TOP.SEQ_STS_STATE : Fld := ⟨0x0000048, 0, 4, 2, 0⟩
def TOP.SEQ_STS_FAST : Fld := ⟨0x0000048, 0, 6, 1, 0⟩
def TOP.SEQ_STS_REFUSED : Fld := ⟨0x0000048, 0, 7, 1, 0⟩
def TOP.SEQ_STS_CODE : Fld := ⟨0x0000048, 0, 8, 8, 0⟩
def TOP.SEQ_STS_MS : Fld := ⟨0x0000048, 0, 16, 16, 0⟩
def TOP.BOOT_CTL_FAST : Fld := ⟨0x000004C, 0, 0, 1, 0⟩
def TOP.RESET_STS_CAUSE : Fld := ⟨0x0000050, 0, 0, 2, 0⟩
def TOP.RESET_STS_REFUSED : Fld := ⟨0x0000050, 0, 2, 1, 0⟩
def TOP.RESET_STS_REASON : Fld := ⟨0x0000050, 0, 3, 4, 0⟩
def TOP.CTL_STS_HOLDER : Fld := ⟨0x0000054, 0, 0, 2, 0⟩
def TOP.CTL_STS_WINDOW : Fld := ⟨0x0000054, 0, 2, 1, 0⟩
def TOP.CTL_STS_PREF : Fld := ⟨0x0000054, 0, 3, 1, 0⟩
def TOP.CTL_STS_HANDOVER_REFUSED : Fld := ⟨0x0000054, 0, 4, 1, 0⟩
def TOP.CTL_STS_EPOCH : Fld := ⟨0x0000054, 0, 16, 16, 0⟩
def TOP.CTL_CFG_AUTO_RETURN : Fld := ⟨0x0000058, 0, 0, 1, 1⟩
def TOP.CTL_CMD_HANDOVER : Fld := ⟨0x000005C, 0, 0, 1, 0⟩
def TOP.YIELD_DELTA_COUNT : Fld := ⟨0x0000070, 0, 0, 8, 0⟩
def TOP.YIELD_DELTA_FULL : Fld := ⟨0x0000070, 0, 8, 1, 0⟩
def TOP.YD_ADDR_INDEX : Fld := ⟨0x0000074, 0, 0, 7, 0⟩
def TOP.YD_ADDR_AUTOINC : Fld := ⟨0x0000074, 0, 7, 1, 1⟩
def TOP.YD_DATA_ENTRY (b : Nat) : Fld := ⟨0x0000078, b, 0, 16, 0⟩
def TOP.YD_DATA_STEP (b : Nat) : Fld := ⟨0x0000078, b, 16, 4, 0⟩

/-! STRAP page -/
def STRAP.STRAPS_BOOT_FAST : Fld := ⟨0x0002040, 0, 0, 1, 0⟩
def STRAP.STRAPS_DET_DEFAULT : Fld := ⟨0x0002040, 0, 1, 1, 0⟩
def STRAP.STRAPS_SELV_PREF : Fld := ⟨0x0002040, 0, 2, 1, 0⟩
def STRAP.STRAPS_MOD_ID : Fld := ⟨0x0002040, 0, 3, 4, 0⟩
def STRAP.STRAPS_FAB_RATE : Fld := ⟨0x0002040, 0, 7, 2, 0⟩
def STRAP.STRAPS_REFCLK_SEL : Fld := ⟨0x0002040, 0, 9, 1, 0⟩

/-! SELV page -/
def SELV.LINK_STS_UP (n : Nat) : Fld := ⟨0x0048040 + n * 4096, 0, 0, 1, 0⟩
def SELV.LINK_STS_VER (n : Nat) : Fld := ⟨0x0048040 + n * 4096, 0, 1, 2, 0⟩
def SELV.LEASE_STATE (n : Nat) : Fld := ⟨0x0048044 + n * 4096, 0, 0, 2, 0⟩
def SELV.LEASE_LEFT_US (n : Nat) : Fld := ⟨0x0048044 + n * 4096, 0, 16, 16, 0⟩
def SELV.LIVE_FOR_US (n : Nat) : Fld := ⟨0x0048048 + n * 4096, 0, 0, 32, 0⟩
def SELV.RENEWS_COUNT (n : Nat) : Fld := ⟨0x004804C + n * 4096, 0, 0, 32, 0⟩
def SELV.REFUSED_STALE (n : Nat) : Fld := ⟨0x0048050 + n * 4096, 0, 0, 16, 0⟩
def SELV.REFUSED_NOT_HOLDER (n : Nat) : Fld := ⟨0x0048050 + n * 4096, 0, 16, 16, 0⟩
def SELV.OLD_EPOCH_WR_COUNT (n : Nat) : Fld := ⟨0x0048054 + n * 4096, 0, 0, 32, 0⟩
def SELV.LINK_DROPS_COUNT (n : Nat) : Fld := ⟨0x0048058 + n * 4096, 0, 0, 32, 0⟩

/-! FAULT page -/
def FAULT.LOG_STS_USED : Fld := ⟨0x0040040, 0, 0, 10, 0⟩
def FAULT.LOG_STS_RSV_USED : Fld := ⟨0x0040040, 0, 10, 5, 0⟩
def FAULT.LOG_STS_LOST : Fld := ⟨0x0040040, 0, 15, 1, 0⟩
def FAULT.LOG_STS_LATCHED : Fld := ⟨0x0040040, 0, 16, 1, 0⟩
def FAULT.FATAL_CAUSE_CAUSE : Fld := ⟨0x0040044, 0, 0, 2, 0⟩
def FAULT.FATAL_CAUSE_CLASS : Fld := ⟨0x0040044, 0, 2, 5, 0⟩
def FAULT.FAULT_CMD_POP : Fld := ⟨0x0040048, 0, 0, 1, 0⟩
def FAULT.FAULT_CMD_CLEAR_LOST : Fld := ⟨0x0040048, 0, 1, 1, 0⟩
def FAULT.OVF_SEL_CLASS : Fld := ⟨0x004004C, 0, 0, 5, 0⟩
def FAULT.OVF_COUNT_COUNT (b : Nat) : Fld := ⟨0x0040050, b, 0, 32, 0⟩
def FAULT.SEQ_NEXT_SEQ : Fld := ⟨0x0040054, 0, 0, 32, 0⟩
def FAULT.ENT : Fld := ⟨0x0040080, 0, 0, 256, 0⟩

/-! DBG page -/
def DBG.DBG_CTL_PORT_EN : Fld := ⟨0x0800040, 0, 0, 1, 1⟩
def DBG.DBG_STS_LEVEL : Fld := ⟨0x0800044, 0, 0, 2, 0⟩
def DBG.DBG_STS_ATTACHED : Fld := ⟨0x0800044, 0, 2, 1, 0⟩
def DBG.DBG_STS_SCAN : Fld := ⟨0x0800044, 0, 3, 1, 0⟩
def DBG.DBG_ACCESS_COUNT : Fld := ⟨0x0800048, 0, 0, 32, 0⟩

/-! TOP page -/
def TOP.CORE_MAP_IN_SERVICE : Fld := ⟨0x000007C, 0, 0, 16, 0⟩
def TOP.CORE_MAP_LOST : Fld := ⟨0x000007C, 0, 16, 16, 0⟩

end Sys2Proof.Machine
end

