-- ==== Sys2Proof/Machine/RegMap.lean ====
section
/-!
DEFINITION. The register map: which fields each register shows, with their access types (Table 00-2), and which select
register banks it. From the register tables of the spec.
-/

namespace Sys2Proof.Machine

/-- The access types of Table 00-2. -/
inductive Access where
  | rw | ro | w1c | wo | rwl
  deriving DecidableEq, Repr

/-- One field as a register shows it: register bits `lsb` up, `width` of them, show the field from bit `shift` up. -/
structure View where
  fld   : Fld
  acc   : Access
  lsb   : Nat
  width : Nat
  shift : Nat
  deriving DecidableEq, Repr

/-- Whether a register is the LO or the HI half of a latching pair (R14), or neither. -/
inductive Latch where
  | plain | latchLo | latchHi
  deriving DecidableEq, Repr

/-- One register: its latching and its fields. -/
structure RegDesc where
  latch : Latch
  views : List View
  deriving DecidableEq, Repr


/-- The registers of the GING page, by offset (from its register tables). -/
def GING.views (o b : Nat) : Option RegDesc :=
  match o with
  | 0x040 => some ⟨.plain, [⟨GING.GING_CMD_FLIP, .wo, 0, 1, 0⟩, ⟨GING.GING_CMD_COPY, .wo, 1, 1, 0⟩]⟩
  | 0x044 => some ⟨.plain, [⟨GING.GING_STS_ACTIVE, .ro, 0, 1, 0⟩, ⟨GING.GING_STS_FLIP_PENDING, .ro, 1, 1, 0⟩, ⟨GING.GING_STS_RESULT, .ro, 4, 4, 0⟩, ⟨GING.GING_STS_FAIL_SLOT, .ro, 8, 6, 0⟩, ⟨GING.GING_STS_FAIL_COL, .ro, 14, 6, 0⟩]⟩
  | 0x048 => some ⟨.plain, [⟨GING.FLIP_FRAME, .rw, 0, 32, 0⟩]⟩
  | 0x04C => some ⟨.plain, [⟨GING.FLIP_FRAME, .rw, 0, 20, 32⟩]⟩
  | 0x050 => some ⟨.plain, [⟨GING.ENT_ADDR_INDEX, .rw, 0, 12, 0⟩, ⟨GING.ENT_ADDR_READ_ACTIVE, .rw, 12, 1, 0⟩, ⟨GING.ENT_ADDR_AUTOINC, .rw, 13, 1, 0⟩]⟩
  | 0x054 => some ⟨.plain, [⟨GING.ENT_DATA_ENTRIES, .rw, 0, 32, 0⟩]⟩
  | _ => if 0x080 ≤ o ∧ o < 0x0C0 ∧ o % 4 = 0 then
      let i := (o - 0x080) / 4
      some ⟨.plain, [⟨GING.DIGEST, .ro, 0, 32, 32 * i⟩]⟩
    else none

/-- The registers of the TOP page, by offset (from its register tables). -/
def TOP.views (o b : Nat) : Option RegDesc :=
  match o with
  | 0x060 => some ⟨.plain, [⟨TOP.DET_MODE_EN, .rwl, 0, 1, 0⟩, ⟨TOP.DET_MODE_LOCK, .rwl, 1, 1, 0⟩, ⟨TOP.DET_MODE_ACTIVE, .ro, 2, 1, 0⟩, ⟨TOP.DET_MODE_REFUSED, .ro, 3, 1, 0⟩]⟩
  | 0x040 => some ⟨.plain, [⟨TOP.CHIP_RESET_GO, .wo, 0, 1, 0⟩, ⟨TOP.CHIP_RESET_KIND, .wo, 1, 1, 0⟩]⟩
  | 0x044 => some ⟨.plain, [⟨TOP.SEQ_STEP_STEP, .wo, 0, 4, 0⟩, ⟨TOP.SEQ_STEP_GO, .wo, 4, 1, 0⟩]⟩
  | 0x048 => some ⟨.plain, [⟨TOP.SEQ_STS_STEP, .ro, 0, 4, 0⟩, ⟨TOP.SEQ_STS_STATE, .ro, 4, 2, 0⟩, ⟨TOP.SEQ_STS_FAST, .ro, 6, 1, 0⟩, ⟨TOP.SEQ_STS_REFUSED, .ro, 7, 1, 0⟩, ⟨TOP.SEQ_STS_CODE, .ro, 8, 8, 0⟩, ⟨TOP.SEQ_STS_MS, .ro, 16, 16, 0⟩]⟩
  | 0x04C => some ⟨.plain, [⟨TOP.BOOT_CTL_FAST, .rw, 0, 1, 0⟩]⟩
  | 0x050 => some ⟨.plain, [⟨TOP.RESET_STS_CAUSE, .ro, 0, 2, 0⟩, ⟨TOP.RESET_STS_REFUSED, .ro, 2, 1, 0⟩, ⟨TOP.RESET_STS_REASON, .ro, 3, 4, 0⟩]⟩
  | 0x054 => some ⟨.plain, [⟨TOP.CTL_STS_HOLDER, .ro, 0, 2, 0⟩, ⟨TOP.CTL_STS_WINDOW, .ro, 2, 1, 0⟩, ⟨TOP.CTL_STS_PREF, .ro, 3, 1, 0⟩, ⟨TOP.CTL_STS_HANDOVER_REFUSED, .ro, 4, 1, 0⟩, ⟨TOP.CTL_STS_EPOCH, .ro, 16, 16, 0⟩]⟩
  | 0x058 => some ⟨.plain, [⟨TOP.CTL_CFG_AUTO_RETURN, .rw, 0, 1, 0⟩]⟩
  | 0x05C => some ⟨.plain, [⟨TOP.CTL_CMD_HANDOVER, .wo, 0, 1, 0⟩]⟩
  | 0x070 => some ⟨.plain, [⟨TOP.YIELD_DELTA_COUNT, .ro, 0, 8, 0⟩, ⟨TOP.YIELD_DELTA_FULL, .ro, 8, 1, 0⟩]⟩
  | 0x074 => some ⟨.plain, [⟨TOP.YD_ADDR_INDEX, .rw, 0, 7, 0⟩, ⟨TOP.YD_ADDR_AUTOINC, .rw, 7, 1, 0⟩]⟩
  | 0x078 => some ⟨.plain, [⟨TOP.YD_DATA_ENTRY b, .ro, 0, 16, 0⟩, ⟨TOP.YD_DATA_STEP b, .ro, 16, 4, 0⟩]⟩
  | 0x07C => some ⟨.plain, [⟨TOP.CORE_MAP_IN_SERVICE, .ro, 0, 16, 0⟩, ⟨TOP.CORE_MAP_LOST, .ro, 16, 16, 0⟩]⟩
  | _ => none

/-- The select register (offset, low bits) that chooses the bank shown at an offset of the TOP page. -/
def TOP.select (o : Nat) : Option (Nat × Nat) :=
  if o = 0x078 then some (0x074, 7)
  else none

/-- The registers of the PART page, by offset (from its register tables). -/
def PART.views (o b : Nat) : Option RegDesc :=
  match o with
  | 0x400 => some ⟨.plain, [⟨PART.DRUN_CMD_PT, .wo, 0, 4, 0⟩, ⟨PART.DRUN_CMD_OPEN, .wo, 4, 1, 0⟩, ⟨PART.DRUN_CMD_CLOSE, .wo, 5, 1, 0⟩]⟩
  | 0x404 => some ⟨.plain, [⟨PART.DRUN_START, .rw, 0, 32, 0⟩]⟩
  | 0x408 => some ⟨.plain, [⟨PART.DRUN_START, .rw, 0, 20, 32⟩]⟩
  | 0x40C => some ⟨.plain, [⟨PART.DRUN_OPEN_OPEN, .ro, 0, 16, 0⟩]⟩
  | 0x410 => some ⟨.plain, [⟨PART.DX_SEL_PT, .rw, 0, 4, 0⟩]⟩
  | 0x414 => some ⟨.plain, [⟨PART.DX_CAUSE_CAUSE b, .w1c, 0, 10, 0⟩]⟩
  | 0x418 => some ⟨.plain, [⟨PART.DX_COUNT_COUNT b, .ro, 0, 32, 0⟩]⟩
  | 0x41C => some ⟨.plain, [⟨PART.PIN_PIN, .rw, 0, 16, 0⟩]⟩
  | 0x500 => some ⟨.plain, [⟨PART.LEASE_SEL_PT, .rw, 0, 4, 0⟩]⟩
  | 0x504 => some ⟨.plain, [⟨PART.LEASE_CFG_LEN_US b, .rw, 0, 16, 0⟩, ⟨PART.LEASE_CFG_REVERT b, .rw, 16, 1, 0⟩]⟩
  | 0x510 => some ⟨.plain, [⟨PART.FENCE_PID_PID, .rw, 0, 12, 0⟩]⟩
  | 0x514 => some ⟨.plain, [⟨PART.FENCE_CMD_FENCE, .wo, 0, 1, 0⟩, ⟨PART.FENCE_CMD_RELEASE, .wo, 1, 1, 0⟩, ⟨PART.FENCE_CMD_UNFENCE, .wo, 2, 1, 0⟩]⟩
  | 0x518 => some ⟨.plain, [⟨PART.FENCE_STS_STATE b, .ro, 0, 3, 0⟩, ⟨PART.FENCE_STS_REVERTED b, .ro, 3, 1, 0⟩, ⟨PART.FENCE_STS_RESULT 0, .ro, 4, 4, 0⟩]⟩
  | 0x51C => some ⟨.plain, [⟨PART.FENCE_LINES_LINES b, .ro, 0, 32, 0⟩]⟩
  | 0x520 => some ⟨.plain, [⟨PART.FENCE_POP_PID, .ro, 0, 12, 0⟩, ⟨PART.FENCE_POP_LOST, .ro, 30, 1, 0⟩, ⟨PART.FENCE_POP_VALID, .ro, 31, 1, 0⟩]⟩
  | 0x524 => some ⟨.plain, [⟨PART.LEASE_LEFT_US b, .ro, 0, 32, 0⟩]⟩
  | 0x620 => some ⟨.plain, [⟨PART.CFG_CORES_CORES, .rw, 0, 16, 0⟩]⟩
  | 0x624 => some ⟨.plain, [⟨PART.CFG_PRIMARY_PRIMARY, .rw, 0, 16, 0⟩]⟩
  | 0x628 => some ⟨.plain, [⟨PART.CFG_SEC, .rw, 0, 32, 0⟩]⟩
  | 0x62C => some ⟨.plain, [⟨PART.CFG_SEC, .rw, 0, 32, 32⟩]⟩
  | 0x630 => some ⟨.plain, [⟨PART.CFG_CMD_GO, .wo, 0, 1, 0⟩]⟩
  | 0x634 => some ⟨.plain, [⟨PART.CFG_STS_COPYING b, .ro, 0, 1, 0⟩, ⟨PART.CFG_STS_RESULT b, .ro, 4, 4, 0⟩]⟩
  | 0x640 => some ⟨.plain, [⟨PART.BIND_PID_PID, .rw, 0, 12, 0⟩]⟩
  | 0x644 => some ⟨.plain, [⟨PART.BIND_CMD_PT, .wo, 0, 4, 0⟩, ⟨PART.BIND_CMD_BIND, .wo, 4, 1, 0⟩, ⟨PART.BIND_CMD_UNBIND, .wo, 5, 1, 0⟩]⟩
  | 0x648 => some ⟨.plain, [⟨PART.BIND_STS_STATE b, .ro, 0, 3, 0⟩, ⟨PART.BIND_STS_RESULT b, .ro, 4, 4, 0⟩, ⟨PART.BIND_STS_PT b, .ro, 8, 4, 0⟩]⟩
  | 0x600 => some ⟨.plain, [⟨PART.PT_SEL_PT, .rw, 0, 4, 0⟩]⟩
  | 0x604 => some ⟨.plain, [⟨PART.PT_STS_STATE b, .ro, 0, 3, 0⟩, ⟨PART.PT_STS_QUIESCING b, .ro, 3, 1, 0⟩, ⟨PART.PT_STS_QRESULT b, .ro, 4, 4, 0⟩]⟩
  | 0x608 => some ⟨.plain, [⟨PART.QUIESCE_CMD_GO, .wo, 0, 1, 0⟩, ⟨PART.QUIESCE_CMD_RESUME, .wo, 1, 1, 0⟩]⟩
  | 0x60C => some ⟨.plain, [⟨PART.SCRUB_CORES_CORES, .rw, 0, 16, 0⟩]⟩
  | 0x610 => some ⟨.plain, [⟨PART.SCRUB_DRIVES_DRIVES, .rw, 0, 16, 0⟩]⟩
  | 0x614 => some ⟨.plain, [⟨PART.SCRUB_CMD_GO, .wo, 0, 1, 0⟩]⟩
  | 0x618 => some ⟨.plain, [⟨PART.SCRUB_STS_BUSY b, .ro, 0, 1, 0⟩, ⟨PART.SCRUB_STS_STEP b, .ro, 1, 3, 0⟩, ⟨PART.SCRUB_STS_RESULT b, .ro, 4, 4, 0⟩, ⟨PART.SCRUB_STS_DRIVES_LEFT b, .ro, 8, 16, 0⟩]⟩
  | _ => none

/-- The select register (offset, low bits) that chooses the bank shown at an offset of the PART page. -/
def PART.select (o : Nat) : Option (Nat × Nat) :=
  if o = 0x414 ∨ o = 0x418 then some (0x410, 4)
  else if o = 0x504 then some (0x500, 4)
  else if o = 0x518 ∨ o = 0x51C ∨ o = 0x524 then some (0x510, 12)
  else if o = 0x634 ∨ o = 0x604 ∨ o = 0x618 then some (0x600, 4)
  else if o = 0x648 then some (0x640, 12)
  else none

/-- The registers of the FT page, by offset (from its register tables). -/
def FT.views (o b : Nat) : Option RegDesc :=
  match o with
  | 0x040 => some ⟨.plain, [⟨FT.FT_CTL_SYNC_LOG2, .rw, 0, 4, 0⟩, ⟨FT.FT_CTL_MISS_LIMIT, .rw, 4, 4, 0⟩]⟩
  | 0x044 => some ⟨.plain, [⟨FT.FT_STS_STATE, .ro, 0, 3, 0⟩, ⟨FT.FT_STS_ALIGNED, .ro, 3, 1, 0⟩, ⟨FT.FT_STS_SRC, .ro, 4, 1, 0⟩, ⟨FT.FT_STS_LOAD_PENDING, .ro, 5, 1, 0⟩]⟩
  | 0x048 => some ⟨.latchLo, [⟨FT.NOW, .ro, 0, 32, 0⟩]⟩
  | 0x04C => some ⟨.latchHi, [⟨FT.NOW, .ro, 0, 32, 32⟩]⟩
  | 0x050 => some ⟨.plain, [⟨FT.LOAD, .rw, 0, 32, 0⟩]⟩
  | 0x054 => some ⟨.plain, [⟨FT.LOAD, .rw, 0, 32, 32⟩]⟩
  | 0x058 => some ⟨.plain, [⟨FT.FT_CMD_LOAD, .wo, 0, 1, 0⟩]⟩
  | 0x05C => some ⟨.plain, [⟨FT.OFFSET_OFFSET, .ro, 0, 32, 0⟩]⟩
  | 0x060 => some ⟨.plain, [⟨FT.PATH_PATH, .ro, 0, 32, 0⟩]⟩
  | 0x064 => some ⟨.plain, [⟨FT.RATE_RATE, .ro, 0, 32, 0⟩]⟩
  | 0x068 => some ⟨.plain, [⟨FT.STEP_THRESH_NS, .rw, 0, 32, 0⟩]⟩
  | 0x06C => some ⟨.plain, [⟨FT.HOLD_LIMIT_FRAMES, .rw, 0, 32, 0⟩]⟩
  | 0x070 => some ⟨.plain, [⟨FT.HOLD_ELAPSED_FRAMES, .ro, 0, 32, 0⟩]⟩
  | 0x074 => some ⟨.plain, [⟨FT.ALIGN_THRESH_NS, .rw, 0, 8, 0⟩]⟩
  | _ => none

/-- The registers of the XLT page, by offset (from its register tables). -/
def XLT.views (o b : Nat) : Option RegDesc :=
  match o with
  | 0x080 => some ⟨.plain, [⟨XLT.TBL_ADDR_OFFSET, .rw, 3, 25, 0⟩, ⟨XLT.TBL_ADDR_PT, .rw, 28, 4, 0⟩]⟩
  | 0x088 => some ⟨.plain, [⟨XLT.TBL_DATA, .rw, 0, 32, 0⟩]⟩
  | 0x08C => some ⟨.plain, [⟨XLT.TBL_DATA, .rw, 0, 32, 32⟩]⟩
  | 0x090 => some ⟨.plain, [⟨XLT.TBL_CMD_COMMIT, .wo, 0, 1, 0⟩, ⟨XLT.TBL_CMD_READ, .wo, 1, 1, 0⟩, ⟨XLT.TBL_CMD_LEVEL, .wo, 2, 3, 0⟩]⟩
  | 0x094 => some ⟨.plain, [⟨XLT.TBL_STS_BUSY, .ro, 0, 1, 0⟩, ⟨XLT.TBL_STS_RESULT, .ro, 4, 4, 0⟩]⟩
  | 0x0A0 => some ⟨.plain, [⟨XLT.INV_CMD_PT, .wo, 0, 4, 0⟩, ⟨XLT.INV_CMD_SCOPE, .wo, 4, 2, 0⟩, ⟨XLT.INV_CMD_RECALL, .wo, 6, 1, 0⟩, ⟨XLT.INV_CMD_GO, .wo, 7, 1, 0⟩]⟩
  | 0x0A4 => some ⟨.plain, [⟨XLT.INV_PVA, .rw, 16, 16, 0⟩]⟩
  | 0x0A8 => some ⟨.plain, [⟨XLT.INV_PVA, .rw, 0, 25, 16⟩]⟩
  | 0x0AC => some ⟨.plain, [⟨XLT.INV_COUNT_UNITS, .rw, 0, 24, 0⟩]⟩
  | 0x0B0 => some ⟨.plain, [⟨XLT.INV_STS_BUSY, .ro, 0, 1, 0⟩, ⟨XLT.INV_STS_RESULT, .ro, 4, 4, 0⟩]⟩
  | 0x0C0 => some ⟨.plain, [⟨XLT.MOVE_PVA, .rw, 16, 16, 0⟩]⟩
  | 0x0C4 => some ⟨.plain, [⟨XLT.MOVE_PVA, .rw, 0, 25, 16⟩]⟩
  | 0x0C8 => some ⟨.plain, [⟨XLT.MOVE_DST, .rw, 16, 16, 0⟩]⟩
  | 0x0CC => some ⟨.plain, [⟨XLT.MOVE_DST, .rw, 0, 16, 16⟩]⟩
  | 0x0D0 => some ⟨.plain, [⟨XLT.MOVE_CMD_PT, .wo, 0, 4, 0⟩, ⟨XLT.MOVE_CMD_GO, .wo, 4, 1, 0⟩]⟩
  | 0x0D4 => some ⟨.plain, [⟨XLT.MOVE_STS_BUSY, .ro, 0, 16, 0⟩, ⟨XLT.MOVE_STS_RESULT, .ro, 16, 4, 0⟩]⟩
  | 0x0E0 => some ⟨.plain, [⟨XLT.DIGEST_CMD_PT, .wo, 0, 4, 0⟩, ⟨XLT.DIGEST_CMD_GO, .wo, 4, 1, 0⟩]⟩
  | 0x0E4 => some ⟨.plain, [⟨XLT.DIGEST_STS_BUSY, .ro, 0, 1, 0⟩, ⟨XLT.DIGEST_STS_RECORDS, .ro, 8, 24, 0⟩]⟩
  | 0x140 => some ⟨.plain, [⟨XLT.FAULT_SEL_PT, .rw, 0, 4, 0⟩]⟩
  | 0x144 => some ⟨.plain, [⟨XLT.FAULT_COUNT_COUNT b, .ro, 0, 32, 0⟩]⟩
  | 0x148 => some ⟨.plain, [⟨XLT.FAULT_PVA b, .ro, 0, 32, 0⟩]⟩
  | 0x14C => some ⟨.plain, [⟨XLT.FAULT_PVA b, .ro, 0, 25, 32⟩]⟩
  | 0x150 => some ⟨.plain, [⟨XLT.FAULT_INFO_CAUSE b, .ro, 0, 3, 0⟩, ⟨XLT.FAULT_INFO_ENGINE b, .ro, 3, 1, 0⟩, ⟨XLT.FAULT_INFO_SRC b, .ro, 4, 12, 0⟩, ⟨XLT.FAULT_INFO_VALID b, .w1c, 31, 1, 0⟩]⟩
  | 0x160 => some ⟨.plain, [⟨XLT.CNT_ADDR_CORE, .rw, 0, 4, 0⟩, ⟨XLT.CNT_ADDR_INDEX, .rw, 4, 15, 0⟩, ⟨XLT.CNT_ADDR_AUTOINC, .rw, 31, 1, 0⟩]⟩
  | 0x164 => some ⟨.plain, [⟨XLT.CNT_DATA_PARTNER b, .ro, 0, 16, 0⟩, ⟨XLT.CNT_DATA_ENGINE b, .ro, 16, 15, 0⟩, ⟨XLT.CNT_DATA_HOT b, .ro, 31, 1, 0⟩]⟩
  | 0x168 => some ⟨.plain, [⟨XLT.CNT_CMD_CORE, .wo, 0, 4, 0⟩, ⟨XLT.CNT_CMD_CLEAR, .wo, 4, 1, 0⟩, ⟨XLT.CNT_CMD_CLEAR_ALL, .wo, 5, 1, 0⟩]⟩
  | 0x16C => some ⟨.plain, [⟨XLT.HOT_THRESH_LINES, .rw, 0, 17, 0⟩]⟩
  | 0x170 => some ⟨.plain, [⟨XLT.HOT_POP_VALID, .ro, 0, 1, 0⟩, ⟨XLT.HOT_POP_CORE, .ro, 1, 4, 0⟩, ⟨XLT.HOT_POP_INDEX, .ro, 5, 15, 0⟩, ⟨XLT.HOT_POP_LOST, .ro, 30, 1, 0⟩]⟩
  | _ => if 0x040 ≤ o ∧ o < 0x080 ∧ o % 4 = 0 then
      let i := (o - 0x040) / 4
      some ⟨.plain, [⟨XLT.ROOT_V i, .rw, 0, 1, 0⟩, ⟨XLT.ROOT_OFFSET i, .rw, 12, 16, 0⟩]⟩
    else if 0x100 ≤ o ∧ o < 0x140 ∧ o % 4 = 0 then
      let i := (o - 0x100) / 4
      some ⟨.plain, [⟨XLT.DIGEST, .ro, 0, 32, 32 * i⟩]⟩
    else none

/-- The select register (offset, low bits) that chooses the bank shown at an offset of the XLT page. -/
def XLT.select (o : Nat) : Option (Nat × Nat) :=
  if o = 0x144 ∨ o = 0x148 ∨ o = 0x14C ∨ o = 0x150 then some (0x140, 4)
  else if o = 0x164 then some (0x160, 19)
  else none

/-- The registers of the PXC page, by offset (from its register tables). -/
def PXC.views (o b : Nat) : Option RegDesc :=
  match o with
  | 0x080 => some ⟨.plain, [⟨PXC.PXC_STS_REFUSED, .ro, 0, 1, 0⟩]⟩
  | 0x090 => some ⟨.plain, [⟨PXC.STAT_SEL_PT, .rw, 0, 4, 0⟩]⟩
  | 0x094 => some ⟨.latchLo, [⟨PXC.HITS b, .ro, 0, 32, 0⟩]⟩
  | 0x098 => some ⟨.latchHi, [⟨PXC.HITS b, .ro, 0, 32, 32⟩]⟩
  | 0x09C => some ⟨.latchLo, [⟨PXC.MISSES b, .ro, 0, 32, 0⟩]⟩
  | 0x0A0 => some ⟨.latchHi, [⟨PXC.MISSES b, .ro, 0, 32, 32⟩]⟩
  | _ => if 0x040 ≤ o ∧ o < 0x080 ∧ o % 4 = 0 then
      let i := (o - 0x040) / 4
      some ⟨.plain, [⟨PXC.WAYS_MASK i, .rw, 0, 16, 0⟩]⟩
    else none

/-- The select register (offset, low bits) that chooses the bank shown at an offset of the PXC page. -/
def PXC.select (o : Nat) : Option (Nat × Nat) :=
  if o = 0x094 ∨ o = 0x098 ∨ o = 0x09C ∨ o = 0x0A0 then some (0x090, 4)
  else none

/-- The registers of the DIR page, by offset (from its register tables). -/
def DIR.views (n : Nat) (o b : Nat) : Option RegDesc :=
  match o with
  | 0x040 => some ⟨.latchLo, [⟨DIR.DC_HITS n, .ro, 0, 32, 0⟩]⟩
  | 0x044 => some ⟨.latchHi, [⟨DIR.DC_HITS n, .ro, 0, 32, 32⟩]⟩
  | 0x048 => some ⟨.latchLo, [⟨DIR.DC_MISSES n, .ro, 0, 32, 0⟩]⟩
  | 0x04C => some ⟨.latchHi, [⟨DIR.DC_MISSES n, .ro, 0, 32, 32⟩]⟩
  | 0x050 => some ⟨.latchLo, [⟨DIR.SNOOPS n, .ro, 0, 32, 0⟩]⟩
  | 0x054 => some ⟨.latchHi, [⟨DIR.SNOOPS n, .ro, 0, 32, 32⟩]⟩
  | 0x058 => some ⟨.plain, [⟨DIR.GROUPED_COUNT n, .ro, 0, 32, 0⟩]⟩
  | 0x05C => some ⟨.plain, [⟨DIR.PUSH_PLACED_COUNT n, .ro, 0, 32, 0⟩]⟩
  | 0x060 => some ⟨.plain, [⟨DIR.PUSH_DECLINED_COUNT n, .ro, 0, 32, 0⟩]⟩
  | 0x064 => some ⟨.plain, [⟨DIR.BUSY_NOW n, .ro, 0, 13, 0⟩, ⟨DIR.BUSY_MAX n, .ro, 16, 13, 0⟩]⟩
  | 0x068 => some ⟨.plain, [⟨DIR.PROTO_COUNT_COUNT n, .ro, 0, 32, 0⟩]⟩
  | 0x06C => some ⟨.plain, [⟨DIR.PROTO_INFO_PID n, .ro, 0, 12, 0⟩, ⟨DIR.PROTO_INFO_OPCODE n, .ro, 12, 8, 0⟩, ⟨DIR.PROTO_INFO_STATE n, .ro, 20, 3, 0⟩, ⟨DIR.PROTO_INFO_VALID n, .w1c, 31, 1, 0⟩]⟩
  | 0x080 => some ⟨.plain, [⟨DIR.RGN_SEL_INDEX n, .rw, 0, 8, 0⟩]⟩
  | 0x084 => some ⟨.plain, [⟨DIR.RGN_CTL_V n b, .rw, 0, 1, 0⟩, ⟨DIR.RGN_CTL_LOCK n b, .rw, 1, 1, 0⟩, ⟨DIR.RGN_CTL_PT n b, .rw, 2, 4, 0⟩]⟩
  | 0x088 => some ⟨.latchLo, [⟨DIR.RGN_VER n b, .rw, 0, 32, 0⟩]⟩
  | 0x08C => some ⟨.latchHi, [⟨DIR.RGN_VER n b, .rw, 0, 32, 32⟩]⟩
  | 0x090 => some ⟨.plain, [⟨DIR.RGN_STS_REFUSED n, .ro, 0, 1, 0⟩]⟩
  | _ => none

/-- The select register (offset, low bits) that chooses the bank shown at an offset of the DIR page. -/
def DIR.select (o : Nat) : Option (Nat × Nat) :=
  if o = 0x084 ∨ o = 0x088 ∨ o = 0x08C then some (0x080, 8)
  else none

/-- The registers of the SCORE page, by offset (from its register tables). -/
def SCORE.views (n : Nat) (o b : Nat) : Option RegDesc :=
  match o with
  | 0x040 => some ⟨.plain, [⟨SCORE.SEQ_STS_COUNT n, .ro, 0, 6, 0⟩, ⟨SCORE.SEQ_STS_FLUSH_PENDING n, .ro, 6, 1, 0⟩, ⟨SCORE.SEQ_STS_EMPTY_STALL n, .ro, 7, 1, 0⟩, ⟨SCORE.SEQ_STS_PT n, .ro, 8, 4, 0⟩, ⟨SCORE.SEQ_STS_OWNED n, .ro, 12, 1, 0⟩, ⟨SCORE.SEQ_STS_SEGQ n, .ro, 13, 6, 0⟩, ⟨SCORE.SEQ_STS_ORDER_WAIT n, .ro, 19, 1, 0⟩]⟩
  | 0x044 => some ⟨.plain, [⟨SCORE.SEQ_CMD_FLUSH n, .wo, 0, 1, 0⟩]⟩
  | 0x048 => some ⟨.plain, [⟨SCORE.ENG_MAP_PHYS n, .ro, 0, 32, 0⟩]⟩
  | 0x04C => some ⟨.plain, [⟨SCORE.SPARE_STS_SPARE n, .ro, 0, 4, 0⟩, ⟨SCORE.SPARE_STS_ENGINE_SHORT n, .ro, 4, 1, 0⟩, ⟨SCORE.SPARE_STS_STANDIN n, .ro, 5, 1, 0⟩, ⟨SCORE.SPARE_STS_STANDIN_FOR n, .ro, 6, 4, 0⟩, ⟨SCORE.SPARE_STS_NEXT_STEP n, .ro, 10, 4, 0⟩]⟩
  | 0x050 => some ⟨.plain, [⟨SCORE.ST_CTL_ROT_EN n, .rw, 0, 1, 0⟩]⟩
  | 0x054 => some ⟨.plain, [⟨SCORE.ST_LAST_UNIT n, .ro, 0, 4, 0⟩, ⟨SCORE.ST_LAST_PASS n, .ro, 4, 1, 0⟩, ⟨SCORE.ST_LAST_ABORTED n, .ro, 5, 1, 0⟩, ⟨SCORE.ST_LAST_BLOCK n, .ro, 8, 8, 0⟩]⟩
  | 0x058 => some ⟨.plain, [⟨SCORE.TIER_AHEAD_TILES n, .rw, 0, 16, 0⟩]⟩
  | 0x060 => some ⟨.latchLo, [⟨SCORE.DESC_DONE n, .ro, 0, 32, 0⟩]⟩
  | 0x064 => some ⟨.latchHi, [⟨SCORE.DESC_DONE n, .ro, 0, 32, 32⟩]⟩
  | 0x068 => some ⟨.latchLo, [⟨SCORE.TILES n, .ro, 0, 32, 0⟩]⟩
  | 0x06C => some ⟨.latchHi, [⟨SCORE.TILES n, .ro, 0, 32, 32⟩]⟩
  | 0x070 => some ⟨.plain, [⟨SCORE.FLUSHED_COUNT n, .ro, 0, 32, 0⟩]⟩
  | 0x074 => some ⟨.plain, [⟨SCORE.CMPL_LOST_COUNT n, .ro, 0, 32, 0⟩]⟩
  | 0x078 => some ⟨.plain, [⟨SCORE.COLL_STS_ACTIVE n, .ro, 0, 1, 0⟩, ⟨SCORE.COLL_STS_RESERVED n, .ro, 1, 5, 0⟩, ⟨SCORE.COLL_STS_NCONTRIB n, .ro, 6, 13, 0⟩]⟩
  | 0x07C => some ⟨.plain, [⟨SCORE.COLL_DROPPED_COUNT n, .ro, 0, 32, 0⟩]⟩
  | _ => none

/-- The registers of the ENG page, by offset (from its register tables). -/
def ENG.views (n : Nat) (o b : Nat) : Option RegDesc :=
  match o with
  | 0x040 => some ⟨.plain, [⟨ENG.ENG_STS_ROLE n, .ro, 0, 2, 0⟩, ⟨ENG.ENG_STS_SELFTEST n, .ro, 2, 1, 0⟩, ⟨ENG.ENG_STS_BUSY n, .ro, 3, 1, 0⟩, ⟨ENG.ENG_STS_LOGICAL n, .ro, 4, 4, 0⟩, ⟨ENG.ENG_STS_QUEUED n, .ro, 8, 2, 0⟩]⟩
  | 0x044 => some ⟨.latchLo, [⟨ENG.TILES n, .ro, 0, 32, 0⟩]⟩
  | 0x048 => some ⟨.latchHi, [⟨ENG.TILES n, .ro, 0, 32, 32⟩]⟩
  | 0x04C => some ⟨.latchLo, [⟨ENG.FETCH_WAIT n, .ro, 0, 32, 0⟩]⟩
  | 0x050 => some ⟨.latchHi, [⟨ENG.FETCH_WAIT n, .ro, 0, 32, 32⟩]⟩
  | 0x054 => some ⟨.latchLo, [⟨ENG.BUSY n, .ro, 0, 32, 0⟩]⟩
  | 0x058 => some ⟨.latchHi, [⟨ENG.BUSY n, .ro, 0, 32, 32⟩]⟩
  | 0x05C => some ⟨.plain, [⟨ENG.DETECTS_COUNT n, .ro, 0, 32, 0⟩]⟩
  | 0x060 => some ⟨.plain, [⟨ENG.ST_COUNT_RUNS n, .ro, 0, 16, 0⟩, ⟨ENG.ST_COUNT_FAILS n, .ro, 16, 16, 0⟩]⟩
  | 0x064 => some ⟨.plain, [⟨ENG.DET_INFO_BLOCK n, .ro, 0, 3, 0⟩, ⟨ENG.DET_INFO_ATTEMPT n, .ro, 3, 2, 0⟩, ⟨ENG.DET_INFO_WRPATH n, .ro, 5, 1, 0⟩, ⟨ENG.DET_INFO_INJECTED n, .ro, 6, 1, 0⟩, ⟨ENG.DET_INFO_VALID n, .w1c, 31, 1, 0⟩]⟩
  | 0x068 => some ⟨.plain, [⟨ENG.REEXEC_SECOND n, .ro, 0, 16, 0⟩, ⟨ENG.REEXEC_THIRD n, .ro, 16, 16, 0⟩]⟩
  | 0x06C => some ⟨.plain, [⟨ENG.DET_SINCE_ST_COUNT n, .ro, 0, 4, 0⟩]⟩
  | 0x070 => some ⟨.plain, [⟨ENG.CHK_INJECT_GO n, .wo, 0, 1, 0⟩, ⟨ENG.CHK_INJECT_KIND n, .wo, 1, 2, 0⟩, ⟨ENG.CHK_INJECT_COUNT n, .wo, 3, 2, 0⟩, ⟨ENG.CHK_INJECT_REFUSED n, .ro, 31, 1, 0⟩]⟩
  | _ => none

/-- The registers of the DRC page, by offset (from its register tables). -/
def DRC.views (n : Nat) (o b : Nat) : Option RegDesc :=
  match o with
  | 0x040 => some ⟨.plain, [⟨DRC.TC_TARGET01_TC0 n, .rw, 0, 16, 0⟩, ⟨DRC.TC_TARGET01_TC1 n, .rw, 16, 16, 0⟩]⟩
  | 0x044 => some ⟨.plain, [⟨DRC.TC_TARGET23_TC2 n, .rw, 0, 16, 0⟩, ⟨DRC.TC_TARGET23_TC3 n, .rw, 16, 16, 0⟩]⟩
  | 0x048 => some ⟨.plain, [⟨DRC.AGE_LIMIT_NS n, .rw, 0, 16, 0⟩]⟩
  | 0x04C => some ⟨.plain, [⟨DRC.WR_WATER_HIGH n, .rw, 0, 6, 0⟩, ⟨DRC.WR_WATER_LOW n, .rw, 8, 6, 0⟩]⟩
  | 0x050 => some ⟨.plain, [⟨DRC.SRC_TC_ENG_TC n, .rw, 0, 2, 0⟩, ⟨DRC.SRC_TC_TIER_TC n, .rw, 2, 2, 0⟩]⟩
  | 0x060 => some ⟨.latchLo, [⟨DRC.RD n, .ro, 0, 32, 0⟩]⟩
  | 0x064 => some ⟨.latchHi, [⟨DRC.RD n, .ro, 0, 32, 32⟩]⟩
  | 0x068 => some ⟨.latchLo, [⟨DRC.WR n, .ro, 0, 32, 0⟩]⟩
  | 0x06C => some ⟨.latchHi, [⟨DRC.WR n, .ro, 0, 32, 32⟩]⟩
  | 0x070 => some ⟨.plain, [⟨DRC.RMW_COUNT n, .ro, 0, 32, 0⟩]⟩
  | 0x074 => some ⟨.plain, [⟨DRC.AGE_EXPIRED_COUNT n, .ro, 0, 32, 0⟩]⟩
  | 0x078 => some ⟨.plain, [⟨DRC.RFM_COUNT n, .ro, 0, 32, 0⟩]⟩
  | _ => if 0x054 ≤ o ∧ o < 0x060 ∧ o % 4 = 0 then
      let i := (o - 0x054) / 4
      some ⟨.plain, [⟨DRC.PORT_TC_TC n i, .rw, 0, 32, 0⟩]⟩
    else none

/-- The registers of the HPHY page, by offset (from its register tables). -/
def HPHY.views (n : Nat) (o b : Nat) : Option RegDesc :=
  match o with
  | 0x040 => some ⟨.plain, [⟨HPHY.CH_UP_CH n, .ro, 0, 32, 0⟩]⟩
  | 0x044 => some ⟨.plain, [⟨HPHY.TRAIN_RUNS n, .ro, 0, 16, 0⟩, ⟨HPHY.TRAIN_FAILS n, .ro, 16, 16, 0⟩]⟩
  | 0x048 => some ⟨.plain, [⟨HPHY.CAL_RUNS n, .ro, 0, 32, 0⟩]⟩
  | 0x04C => some ⟨.plain, [⟨HPHY.TEMP_NOW n, .ro, 0, 8, 0⟩, ⟨HPHY.TEMP_MAX n, .ro, 8, 8, 0⟩]⟩
  | 0x050 => some ⟨.plain, [⟨HPHY.BIST_CMD_GO n, .wo, 0, 1, 0⟩, ⟨HPHY.BIST_CMD_KIND n, .wo, 1, 1, 0⟩]⟩
  | 0x054 => some ⟨.plain, [⟨HPHY.BIST_STS_BUSY n, .ro, 0, 1, 0⟩, ⟨HPHY.BIST_STS_RESULT n, .ro, 1, 2, 0⟩, ⟨HPHY.BIST_STS_FAIL_LINES n, .ro, 16, 16, 0⟩]⟩
  | _ => none

/-- The registers of the EDAC page, by offset (from its register tables). -/
def EDAC.views (n : Nat) (o b : Nat) : Option RegDesc :=
  match o with
  | 0x040 => some ⟨.latchLo, [⟨EDAC.CE n, .ro, 0, 32, 0⟩]⟩
  | 0x044 => some ⟨.latchHi, [⟨EDAC.CE n, .ro, 0, 32, 32⟩]⟩
  | 0x048 => some ⟨.plain, [⟨EDAC.UE_COUNT_COUNT n, .ro, 0, 32, 0⟩]⟩
  | 0x04C => some ⟨.plain, [⟨EDAC.CE_CAP_ADDR_LINE n, .ro, 0, 29, 0⟩]⟩
  | 0x050 => some ⟨.plain, [⟨EDAC.CE_CAP_INFO_SYMBOL n, .ro, 0, 8, 0⟩, ⟨EDAC.CE_CAP_INFO_SYMBOLS n, .ro, 8, 3, 0⟩, ⟨EDAC.CE_CAP_INFO_SCRUB n, .ro, 11, 1, 0⟩, ⟨EDAC.CE_CAP_INFO_VALID n, .w1c, 31, 1, 0⟩]⟩
  | 0x054 => some ⟨.plain, [⟨EDAC.UE_CAP_ADDR_LINE n, .ro, 0, 29, 0⟩]⟩
  | 0x058 => some ⟨.plain, [⟨EDAC.UE_CAP_INFO_SCRUB n, .ro, 0, 1, 0⟩, ⟨EDAC.UE_CAP_INFO_VALID n, .w1c, 31, 1, 0⟩]⟩
  | 0x060 => some ⟨.plain, [⟨EDAC.SCRUB_CTL_EN n, .rw, 0, 1, 0⟩, ⟨EDAC.SCRUB_CTL_LINES n, .rw, 1, 4, 0⟩]⟩
  | 0x064 => some ⟨.plain, [⟨EDAC.SCRUB_PTR_INDEX n, .ro, 0, 29, 0⟩]⟩
  | 0x068 => some ⟨.plain, [⟨EDAC.SCRUB_PASSES_COUNT n, .ro, 0, 32, 0⟩]⟩
  | 0x06C => some ⟨.plain, [⟨EDAC.WBQ_PENDING n, .ro, 0, 7, 0⟩, ⟨EDAC.WBQ_DROPPED n, .ro, 16, 16, 0⟩]⟩
  | 0x070 => some ⟨.plain, [⟨EDAC.REMAP_STS_USED n, .ro, 0, 5, 0⟩, ⟨EDAC.REMAP_STS_LOW n, .ro, 5, 1, 0⟩, ⟨EDAC.REMAP_STS_FULL n, .ro, 6, 1, 0⟩, ⟨EDAC.REMAP_STS_COPYING n, .ro, 7, 1, 0⟩, ⟨EDAC.REMAP_STS_WAITING n, .ro, 8, 3, 0⟩, ⟨EDAC.REMAP_STS_DEFERRED n, .ro, 11, 1, 0⟩]⟩
  | 0x074 => some ⟨.plain, [⟨EDAC.REMAP_CTL_AUTO n, .rw, 0, 1, 0⟩, ⟨EDAC.REMAP_CTL_ERASE_AUTO n, .rw, 1, 1, 0⟩]⟩
  | 0x078 => some ⟨.plain, [⟨EDAC.REMAP_SEL_ENTRY n, .rw, 0, 4, 0⟩]⟩
  | 0x07C => some ⟨.plain, [⟨EDAC.REMAP_ENT_KIND n b, .ro, 0, 2, 0⟩, ⟨EDAC.REMAP_ENT_STATE n b, .ro, 2, 2, 0⟩, ⟨EDAC.REMAP_ENT_PC n b, .ro, 4, 6, 0⟩, ⟨EDAC.REMAP_ENT_BANK n b, .ro, 10, 6, 0⟩, ⟨EDAC.REMAP_ENT_POS n b, .ro, 16, 14, 0⟩]⟩
  | 0x080 => some ⟨.plain, [⟨EDAC.REMAP_CMD_KIND n, .wo, 0, 2, 0⟩, ⟨EDAC.REMAP_CMD_PC n, .wo, 2, 6, 0⟩, ⟨EDAC.REMAP_CMD_BANK n, .wo, 8, 6, 0⟩, ⟨EDAC.REMAP_CMD_POS n, .wo, 14, 14, 0⟩, ⟨EDAC.REMAP_CMD_GO n, .wo, 31, 1, 0⟩]⟩
  | 0x084 => some ⟨.plain, [⟨EDAC.REMAP_RES_RESULT n, .ro, 0, 4, 0⟩, ⟨EDAC.REMAP_RES_PROGRESS n, .ro, 16, 15, 0⟩]⟩
  | 0x088 => some ⟨.plain, [⟨EDAC.ERASE_SEL_PC n, .rw, 0, 6, 0⟩]⟩
  | 0x08C => some ⟨.plain, [⟨EDAC.ERASE_PIN n b, .rw, 0, 6, 0⟩, ⟨EDAC.ERASE_EN n b, .rw, 6, 1, 0⟩, ⟨EDAC.ERASE_AUTO_SET n b, .ro, 7, 1, 0⟩]⟩
  | 0x090 => some ⟨.plain, [⟨EDAC.DIR_RECOVER_COUNT n, .ro, 0, 32, 0⟩]⟩
  | 0x094 => some ⟨.plain, [⟨EDAC.MIRROR_REPAIR_COUNT n, .ro, 0, 32, 0⟩]⟩
  | 0x0A0 => some ⟨.plain, [⟨EDAC.TEST_ADDR_LINE n, .rw, 0, 29, 0⟩]⟩
  | 0x0A4 => some ⟨.plain, [⟨EDAC.TEST_CMD_WRITE n, .wo, 0, 1, 0⟩, ⟨EDAC.TEST_CMD_READ n, .wo, 1, 1, 0⟩, ⟨EDAC.TEST_CMD_READ_RAW n, .wo, 2, 1, 0⟩]⟩
  | 0x0A8 => some ⟨.plain, [⟨EDAC.TEST_STS_BUSY n, .ro, 0, 1, 0⟩, ⟨EDAC.TEST_STS_RESULT n, .ro, 1, 2, 0⟩, ⟨EDAC.TEST_STS_SYMBOLS n, .ro, 3, 3, 0⟩, ⟨EDAC.TEST_STS_REFUSED n, .ro, 6, 1, 0⟩]⟩
  | _ => if 0x0C0 ≤ o ∧ o < 0x140 ∧ o % 4 = 0 then
      let i := (o - 0x0C0) / 4
      some ⟨.plain, [⟨EDAC.TEST_DATA n, .rw, 0, 32, 32 * i⟩]⟩
    else if 0x140 ≤ o ∧ o < 0x150 ∧ o % 4 = 0 then
      let i := (o - 0x140) / 4
      some ⟨.plain, [⟨EDAC.TEST_CHK n, .rw, 0, 32, 32 * i⟩]⟩
    else none

/-- The select register (offset, low bits) that chooses the bank shown at an offset of the EDAC page. -/
def EDAC.select (o : Nat) : Option (Nat × Nat) :=
  if o = 0x07C then some (0x078, 4)
  else if o = 0x08C then some (0x088, 6)
  else none

/-- The registers of the TIER page, by offset (from its register tables). -/
def TIER.views (o b : Nat) : Option RegDesc :=
  match o with
  | 0x040 => some ⟨.plain, [⟨TIER.TIER_CTL_EN, .rw, 0, 1, 0⟩, ⟨TIER.TIER_CTL_HINT_EN, .rw, 1, 1, 0⟩]⟩
  | 0x044 => some ⟨.plain, [⟨TIER.TIMEOUT_MS, .rw, 0, 16, 0⟩]⟩
  | 0x048 => some ⟨.plain, [⟨TIER.HINT_LIMIT_OPS, .rw, 0, 15, 0⟩]⟩
  | 0x04C => some ⟨.plain, [⟨TIER.OPS_NOW, .ro, 0, 15, 0⟩, ⟨TIER.OPS_MAX, .ro, 16, 15, 0⟩]⟩
  | 0x050 => some ⟨.plain, [⟨TIER.PT_SEL_PT, .rw, 0, 4, 0⟩]⟩
  | 0x054 => some ⟨.plain, [⟨TIER.PT_CACHE_GIB b, .rw, 0, 6, 0⟩]⟩
  | 0x058 => some ⟨.plain, [⟨TIER.PT_STS_EMPTY b, .ro, 0, 1, 0⟩, ⟨TIER.PT_STS_FLUSHING b, .ro, 1, 1, 0⟩, ⟨TIER.PT_STS_REFUSED b, .ro, 2, 1, 0⟩]⟩
  | 0x05C => some ⟨.plain, [⟨TIER.PT_CMD_FLUSH, .wo, 0, 1, 0⟩]⟩
  | 0x0A0 => some ⟨.latchLo, [⟨TIER.HITS b, .ro, 0, 32, 0⟩]⟩
  | 0x0A4 => some ⟨.latchHi, [⟨TIER.HITS b, .ro, 0, 32, 32⟩]⟩
  | 0x0A8 => some ⟨.latchLo, [⟨TIER.FILLS b, .ro, 0, 32, 0⟩]⟩
  | 0x0AC => some ⟨.latchHi, [⟨TIER.FILLS b, .ro, 0, 32, 32⟩]⟩
  | 0x0B0 => some ⟨.latchLo, [⟨TIER.WB b, .ro, 0, 32, 0⟩]⟩
  | 0x0B4 => some ⟨.latchHi, [⟨TIER.WB b, .ro, 0, 32, 32⟩]⟩
  | 0x0B8 => some ⟨.plain, [⟨TIER.MERGED_COUNT b, .ro, 0, 32, 0⟩]⟩
  | 0x0BC => some ⟨.plain, [⟨TIER.HINTS_DROPPED_COUNT b, .ro, 0, 32, 0⟩]⟩
  | 0x0C0 => some ⟨.plain, [⟨TIER.STRANDED_COUNT b, .ro, 0, 32, 0⟩]⟩
  | 0x0C4 => some ⟨.plain, [⟨TIER.TAG_REPAIR_COUNT b, .ro, 0, 16, 0⟩, ⟨TIER.TAG_REPAIR_TAG_LOST b, .ro, 16, 16, 0⟩]⟩
  | 0x0D0 => some ⟨.plain, [⟨TIER.REBUILD_CMD_PORT, .wo, 0, 4, 0⟩, ⟨TIER.REBUILD_CMD_GO, .wo, 4, 1, 0⟩]⟩
  | 0x0D4 => some ⟨.plain, [⟨TIER.REBUILD_STS_BUSY, .ro, 0, 1, 0⟩, ⟨TIER.REBUILD_STS_REFUSED, .ro, 1, 1, 0⟩]⟩
  | 0x0D8 => some ⟨.latchLo, [⟨TIER.REBUILD, .ro, 0, 32, 0⟩]⟩
  | 0x0DC => some ⟨.latchHi, [⟨TIER.REBUILD, .ro, 0, 32, 32⟩]⟩
  | 0x0E0 => some ⟨.plain, [⟨TIER.TAG_ADDR_CORE, .rw, 0, 4, 0⟩, ⟨TIER.TAG_ADDR_SET, .rw, 4, 20, 0⟩]⟩
  | _ => if 0x060 ≤ o ∧ o < 0x0A0 ∧ o % 4 = 0 then
      let i := (o - 0x060) / 4
      some ⟨.plain, [⟨TIER.DRIVE_PT i, .rw, 0, 4, 0⟩, ⟨TIER.DRIVE_EN i, .rw, 4, 1, 0⟩, ⟨TIER.DRIVE_PAIR i, .rw, 5, 1, 0⟩]⟩
    else if 0x0E4 ≤ o ∧ o < 0x124 ∧ o % 4 = 0 then
      let i := (o - 0x0E4) / 4
      some ⟨.plain, [⟨TIER.TAG_DATA b, .ro, 0, 32, 32 * i⟩]⟩
    else none

/-- The select register (offset, low bits) that chooses the bank shown at an offset of the TIER page. -/
def TIER.select (o : Nat) : Option (Nat × Nat) :=
  if o = 0x054 ∨ o = 0x058 ∨ o = 0x0A0 ∨ o = 0x0A4 ∨ o = 0x0A8 ∨ o = 0x0AC ∨ o = 0x0B0 ∨ o = 0x0B4 ∨ o = 0x0B8 ∨ o = 0x0BC ∨ o = 0x0C0 ∨ o = 0x0C4 then some (0x050, 4)
  else if (0x0E4 ≤ o ∧ o < 0x124) then some (0x0E0, 24)
  else none

/-- The registers of the PCIE page, by offset (from its register tables). -/
def PCIE.views (n : Nat) (o b : Nat) : Option RegDesc :=
  match o with
  | 0x040 => some ⟨.plain, [⟨PCIE.LINK_STS_UP n, .ro, 0, 1, 0⟩, ⟨PCIE.LINK_STS_SPEED n, .ro, 1, 3, 0⟩, ⟨PCIE.LINK_STS_WIDTH n, .ro, 4, 3, 0⟩, ⟨PCIE.LINK_STS_FLIT n, .ro, 7, 1, 0⟩]⟩
  | 0x044 => some ⟨.plain, [⟨PCIE.DRV_STS_STATE n, .ro, 0, 3, 0⟩, ⟨PCIE.DRV_STS_REASON n, .ro, 3, 5, 0⟩]⟩
  | 0x048 => some ⟨.latchLo, [⟨PCIE.NS n, .ro, 0, 32, 0⟩]⟩
  | 0x04C => some ⟨.latchHi, [⟨PCIE.NS n, .ro, 0, 32, 32⟩]⟩
  | 0x050 => some ⟨.plain, [⟨PCIE.PORT_CMD_RESET n, .wo, 0, 1, 0⟩]⟩
  | 0x054 => some ⟨.plain, [⟨PCIE.ERRORS_CMD n, .ro, 0, 16, 0⟩, ⟨PCIE.ERRORS_TIMEOUT n, .ro, 16, 16, 0⟩]⟩
  | 0x058 => some ⟨.plain, [⟨PCIE.AER_CORRECTABLE n, .ro, 0, 16, 0⟩, ⟨PCIE.AER_UNCORRECTABLE n, .ro, 16, 16, 0⟩]⟩
  | 0x060 => some ⟨.latchLo, [⟨PCIE.RD n, .ro, 0, 32, 0⟩]⟩
  | 0x064 => some ⟨.latchHi, [⟨PCIE.RD n, .ro, 0, 32, 32⟩]⟩
  | 0x068 => some ⟨.latchLo, [⟨PCIE.WR n, .ro, 0, 32, 0⟩]⟩
  | 0x06C => some ⟨.latchHi, [⟨PCIE.WR n, .ro, 0, 32, 32⟩]⟩
  | _ => none

/-- The registers of the PORT page, by offset (from its register tables). -/
def PORT.views (n : Nat) (o b : Nat) : Option RegDesc :=
  match o with
  | 0x040 => some ⟨.plain, [⟨PORT.PORT_CTL_EN n, .rw, 0, 1, 0⟩, ⟨PORT.PORT_CTL_WREQ n, .rw, 1, 2, 0⟩, ⟨PORT.PORT_CTL_SPARE_EN n, .rw, 3, 1, 0⟩, ⟨PORT.PORT_CTL_LWC_EN n, .rw, 4, 1, 0⟩, ⟨PORT.PORT_CTL_VCAP n, .rw, 8, 4, 0⟩, ⟨PORT.PORT_CTL_VC_MAX n, .rw, 12, 4, 0⟩]⟩
  | 0x044 => some ⟨.plain, [⟨PORT.PORT_CMD_TRAIN n, .wo, 0, 1, 0⟩, ⟨PORT.PORT_CMD_RETRAIN n, .wo, 1, 1, 0⟩]⟩
  | 0x048 => some ⟨.plain, [⟨PORT.LINK_STS_STATE n, .ro, 0, 4, 0⟩, ⟨PORT.LINK_STS_RETRAINING n, .ro, 4, 1, 0⟩, ⟨PORT.LINK_STS_WIDTH n, .ro, 5, 2, 0⟩, ⟨PORT.LINK_STS_LANES n, .ro, 7, 5, 0⟩, ⟨PORT.LINK_STS_REVERSED n, .ro, 12, 1, 0⟩, ⟨PORT.LINK_STS_DEGRADED n, .ro, 13, 1, 0⟩, ⟨PORT.LINK_STS_LEADER n, .ro, 14, 1, 0⟩, ⟨PORT.LINK_STS_VER n, .ro, 16, 8, 0⟩, ⟨PORT.LINK_STS_NVC n, .ro, 24, 4, 0⟩, ⟨PORT.LINK_STS_AFEAT n, .ro, 28, 4, 0⟩]⟩
  | 0x04C => some ⟨.plain, [⟨PORT.TRAIN_STS_ATTEMPT n, .ro, 0, 2, 0⟩, ⟨PORT.TRAIN_STS_REASON n, .ro, 2, 5, 0⟩]⟩
  | 0x050 => some ⟨.plain, [⟨PORT.PEER_NODE_ID n, .ro, 0, 16, 0⟩, ⟨PORT.PEER_VMIN n, .ro, 16, 8, 0⟩, ⟨PORT.PEER_VMAX n, .ro, 24, 8, 0⟩]⟩
  | 0x054 => some ⟨.plain, [⟨PORT.LANE_CTL_DIS n, .rw, 0, 5, 0⟩]⟩
  | 0x058 => some ⟨.plain, [⟨PORT.LANE_STS_RXGOOD n, .ro, 0, 5, 0⟩, ⟨PORT.LANE_STS_FAILED n, .ro, 5, 5, 0⟩]⟩
  | 0x05C => some ⟨.plain, [⟨PORT.LANE_SER_LIMIT_SYMBOLS n, .rw, 0, 24, 0⟩]⟩
  | 0x074 => some ⟨.plain, [⟨PORT.FEC_UNCORR_COUNT n, .ro, 0, 32, 0⟩]⟩
  | 0x078 => some ⟨.plain, [⟨PORT.CRC_ERR_COUNT n, .ro, 0, 32, 0⟩]⟩
  | 0x080 => some ⟨.plain, [⟨PORT.REPLAY_CTL_TIMER_NS n, .rw, 0, 16, 0⟩, ⟨PORT.REPLAY_CTL_LIMIT n, .rw, 16, 4, 0⟩]⟩
  | 0x084 => some ⟨.plain, [⟨PORT.REPLAYS_COUNT n, .ro, 0, 32, 0⟩]⟩
  | 0x088 => some ⟨.plain, [⟨PORT.NAKS_SENT n, .ro, 0, 16, 0⟩, ⟨PORT.NAKS_RECEIVED n, .ro, 16, 16, 0⟩]⟩
  | 0x08C => some ⟨.plain, [⟨PORT.RETRAINS_COUNT n, .ro, 0, 16, 0⟩, ⟨PORT.RETRAINS_FAILED n, .ro, 16, 16, 0⟩]⟩
  | 0x090 => some ⟨.plain, [⟨PORT.TAG_CTL_LIMIT n, .rw, 0, 4, 0⟩]⟩
  | 0x094 => some ⟨.plain, [⟨PORT.TAG_FAIL_COUNT n, .ro, 0, 32, 0⟩]⟩
  | 0x098 => some ⟨.plain, [⟨PORT.CREDIT_STS_LEAKS n, .ro, 0, 16, 0⟩, ⟨PORT.CREDIT_STS_OVERRUNS n, .ro, 16, 16, 0⟩]⟩
  | 0x09C => some ⟨.plain, [⟨PORT.CREDIT_STALL_COUNT n, .ro, 0, 32, 0⟩]⟩
  | 0x0A0 => some ⟨.plain, [⟨PORT.CCHK_PERIOD_FRAMES n, .rw, 0, 16, 0⟩]⟩
  | 0x0A4 => some ⟨.plain, [⟨PORT.VC_RSV n, .rw, 0, 32, 0⟩]⟩
  | 0x0A8 => some ⟨.plain, [⟨PORT.VC_RSV n, .rw, 0, 32, 32⟩]⟩
  | 0x0B0 => some ⟨.plain, [⟨PORT.LWC_CMD_WIDTH n, .wo, 0, 2, 0⟩, ⟨PORT.LWC_CMD_GO n, .wo, 2, 1, 0⟩, ⟨PORT.LWC_CMD_REFUSED n, .ro, 3, 1, 0⟩]⟩
  | 0x0B8 => some ⟨.latchLo, [⟨PORT.FRAMES_TX n, .ro, 0, 32, 0⟩]⟩
  | 0x0BC => some ⟨.latchHi, [⟨PORT.FRAMES_TX n, .ro, 0, 32, 32⟩]⟩
  | 0x0C0 => some ⟨.latchLo, [⟨PORT.FRAMES_RX n, .ro, 0, 32, 0⟩]⟩
  | 0x0C4 => some ⟨.latchHi, [⟨PORT.FRAMES_RX n, .ro, 0, 32, 32⟩]⟩
  | 0x0C8 => some ⟨.plain, [⟨PORT.KEY_STS_TX_PH n, .ro, 0, 1, 0⟩, ⟨PORT.KEY_STS_RX_PH n, .ro, 1, 1, 0⟩]⟩
  | 0x100 => some ⟨.plain, [⟨PORT.XPORT_CTL_GROUP n, .rw, 0, 1, 0⟩, ⟨PORT.XPORT_CTL_CC_MODE n, .rw, 1, 2, 0⟩]⟩
  | 0x104 => some ⟨.plain, [⟨PORT.INGRESS_DELAY_SLOTS n, .rw, 0, 6, 0⟩]⟩
  | 0x108 => some ⟨.plain, [⟨PORT.CC_THRESH_BYTES n, .rw, 0, 24, 0⟩]⟩
  | 0x10C => some ⟨.plain, [⟨PORT.QDEPTH_BYTES n, .ro, 0, 24, 0⟩]⟩
  | 0x110 => some ⟨.latchLo, [⟨PORT.PKT_TX n, .ro, 0, 32, 0⟩]⟩
  | 0x114 => some ⟨.latchHi, [⟨PORT.PKT_TX n, .ro, 0, 32, 32⟩]⟩
  | 0x118 => some ⟨.latchLo, [⟨PORT.PKT_RX n, .ro, 0, 32, 0⟩]⟩
  | 0x11C => some ⟨.latchHi, [⟨PORT.PKT_RX n, .ro, 0, 32, 32⟩]⟩
  | 0x120 => some ⟨.plain, [⟨PORT.LATE_COUNT n, .ro, 0, 32, 0⟩]⟩
  | 0x124 => some ⟨.plain, [⟨PORT.CE_MARKED_COUNT n, .ro, 0, 32, 0⟩]⟩
  | 0x128 => some ⟨.plain, [⟨PORT.ECE_RX_COUNT n, .ro, 0, 32, 0⟩]⟩
  | 0x12C => some ⟨.plain, [⟨PORT.CREDIT_HOLD_COUNT n, .ro, 0, 32, 0⟩]⟩
  | _ => if 0x060 ≤ o ∧ o < 0x074 ∧ o % 4 = 0 then
      let i := (o - 0x060) / 4
      some ⟨.plain, [⟨PORT.LANE_SER_SYMBOLS n i, .ro, 0, 32, 0⟩]⟩
    else none

/-- The registers of the ROUTE page, by offset (from its register tables). -/
def ROUTE.views (o b : Nat) : Option RegDesc :=
  match o with
  | 0x040 => some ⟨.plain, [⟨ROUTE.SELF_NODE_ID, .rw, 0, 16, 0⟩]⟩
  | 0x044 => some ⟨.plain, [⟨ROUTE.ROUTE_STS_ACTIVE, .ro, 0, 1, 0⟩, ⟨ROUTE.ROUTE_STS_EPOCH, .ro, 1, 2, 0⟩, ⟨ROUTE.ROUTE_STS_DRAINING, .ro, 3, 1, 0⟩, ⟨ROUTE.ROUTE_STS_OLD_VALID, .ro, 4, 1, 0⟩, ⟨ROUTE.ROUTE_STS_RESULT, .ro, 5, 3, 0⟩]⟩
  | 0x048 => some ⟨.plain, [⟨ROUTE.ROUTE_CMD_FLIP, .wo, 0, 1, 0⟩, ⟨ROUTE.ROUTE_CMD_COPY, .wo, 1, 1, 0⟩]⟩
  | 0x04C => some ⟨.plain, [⟨ROUTE.DRAIN_LIMIT_US, .rw, 0, 16, 0⟩]⟩
  | 0x050 => some ⟨.plain, [⟨ROUTE.TBL_ADDR_INDEX, .rw, 0, 8, 0⟩, ⟨ROUTE.TBL_ADDR_DIM, .rw, 8, 1, 0⟩, ⟨ROUTE.TBL_ADDR_READ_ACTIVE, .rw, 9, 1, 0⟩, ⟨ROUTE.TBL_ADDR_AUTOINC, .rw, 10, 1, 0⟩]⟩
  | 0x054 => some ⟨.plain, [⟨ROUTE.TBL_DATA_ENTRY b, .rw, 0, 32, 0⟩]⟩
  | 0x060 => some ⟨.plain, [⟨ROUTE.PTAB_ADDR_PID, .rw, 0, 12, 0⟩, ⟨ROUTE.PTAB_ADDR_AUTOINC, .rw, 12, 1, 0⟩]⟩
  | 0x064 => some ⟨.plain, [⟨ROUTE.PTAB_DATA_NODE_ID b, .rw, 0, 16, 0⟩, ⟨ROUTE.PTAB_DATA_V b, .rw, 16, 1, 0⟩]⟩
  | 0x070 => some ⟨.plain, [⟨ROUTE.MC_SEL_GROUP, .rw, 0, 8, 0⟩]⟩
  | 0x074 => some ⟨.plain, [⟨ROUTE.MC_CTL_V b, .rw, 0, 1, 0⟩, ⟨ROUTE.MC_CTL_PT b, .rw, 1, 4, 0⟩, ⟨ROUTE.MC_CTL_DIM b, .rw, 5, 1, 0⟩]⟩
  | 0x078 => some ⟨.plain, [⟨ROUTE.MC_ID_MCID b, .rw, 0, 16, 0⟩]⟩
  | 0x07C => some ⟨.plain, [⟨ROUTE.MC_PORTS b, .rw, 0, 32, 0⟩]⟩
  | 0x080 => some ⟨.plain, [⟨ROUTE.MC_PORTS b, .rw, 0, 16, 32⟩]⟩
  | 0x084 => some ⟨.plain, [⟨ROUTE.MC_STS_REFUSED, .ro, 0, 1, 0⟩]⟩
  | 0x090 => some ⟨.latchLo, [⟨ROUTE.TURNS, .ro, 0, 32, 0⟩]⟩
  | 0x094 => some ⟨.latchHi, [⟨ROUTE.TURNS, .ro, 0, 32, 32⟩]⟩
  | 0x098 => some ⟨.plain, [⟨ROUTE.RETURNED_STALE, .ro, 0, 16, 0⟩, ⟨ROUTE.RETURNED_OTHER, .ro, 16, 16, 0⟩]⟩
  | 0x09C => some ⟨.plain, [⟨ROUTE.UNDELIVERED_COUNT, .ro, 0, 32, 0⟩]⟩
  | 0x0A0 => some ⟨.plain, [⟨ROUTE.MALFORMED_COUNT, .ro, 0, 32, 0⟩]⟩
  | 0x0A4 => some ⟨.plain, [⟨ROUTE.MC_DISCARD_COUNT, .ro, 0, 32, 0⟩]⟩
  | _ => none

/-- The select register (offset, low bits) that chooses the bank shown at an offset of the ROUTE page. -/
def ROUTE.select (o : Nat) : Option (Nat × Nat) :=
  if o = 0x054 then some (0x050, 10)
  else if o = 0x064 then some (0x060, 12)
  else if o = 0x074 ∨ o = 0x078 ∨ o = 0x07C ∨ o = 0x080 then some (0x070, 8)
  else none

/-- The registers of the SHAPE page, by offset (from its register tables). -/
def SHAPE.views (o b : Nat) : Option RegDesc :=
  match o with
  | 0x040 => some ⟨.plain, [⟨SHAPE.SHAPE_CTL_MODE, .rw, 0, 1, 0⟩, ⟨SHAPE.SHAPE_CTL_OVH, .rw, 8, 8, 0⟩, ⟨SHAPE.SHAPE_CTL_QUANTUM, .rw, 16, 16, 0⟩]⟩
  | 0x054 => some ⟨.plain, [⟨SHAPE.WEIGHT_FWD_W, .rw, 0, 8, 0⟩]⟩
  | 0x058 => some ⟨.plain, [⟨SHAPE.GWEIGHT_W, .rw, 0, 32, 0⟩]⟩
  | 0x060 => some ⟨.plain, [⟨SHAPE.RATE_ADDR_PORT, .rw, 0, 6, 0⟩, ⟨SHAPE.RATE_ADDR_FLOW, .rw, 6, 5, 0⟩, ⟨SHAPE.RATE_ADDR_AUTOINC, .rw, 11, 1, 0⟩]⟩
  | 0x064 => some ⟨.plain, [⟨SHAPE.RATE_DATA_RATE b, .rw, 0, 16, 0⟩, ⟨SHAPE.RATE_DATA_BURST b, .rw, 16, 16, 0⟩]⟩
  | 0x070 => some ⟨.plain, [⟨SHAPE.E2E_ADDR_PID, .rw, 0, 12, 0⟩]⟩
  | 0x074 => some ⟨.plain, [⟨SHAPE.E2E_DATA_LIMIT b, .rw, 0, 8, 0⟩, ⟨SHAPE.E2E_DATA_OUT b, .ro, 8, 8, 0⟩, ⟨SHAPE.E2E_DATA_ECRED b, .ro, 16, 16, 0⟩]⟩
  | 0x078 => some ⟨.plain, [⟨SHAPE.E2E_STS_REFUSED, .ro, 0, 1, 0⟩]⟩
  | 0x080 => some ⟨.plain, [⟨SHAPE.POL_SEL_PT, .rw, 0, 4, 0⟩]⟩
  | 0x084 => some ⟨.plain, [⟨SHAPE.POL_CFG_RATE b, .rw, 0, 16, 0⟩, ⟨SHAPE.POL_CFG_BURST b, .rw, 16, 16, 0⟩]⟩
  | 0x088 => some ⟨.plain, [⟨SHAPE.THR_NS_NS, .rw, 0, 16, 0⟩]⟩
  | 0x08C => some ⟨.plain, [⟨SHAPE.NO_CREDIT_COUNT, .ro, 0, 32, 0⟩]⟩
  | 0x090 => some ⟨.plain, [⟨SHAPE.WITHHELD_COUNT, .ro, 0, 32, 0⟩]⟩
  | _ => if 0x044 ≤ o ∧ o < 0x054 ∧ o % 4 = 0 then
      let i := (o - 0x044) / 4
      some ⟨.plain, [⟨SHAPE.WEIGHT_W i, .rw, 0, 32, 0⟩]⟩
    else none

/-- The select register (offset, low bits) that chooses the bank shown at an offset of the SHAPE page. -/
def SHAPE.select (o : Nat) : Option (Nat × Nat) :=
  if o = 0x064 then some (0x060, 11)
  else if o = 0x074 then some (0x070, 12)
  else if o = 0x084 then some (0x080, 4)
  else none

/-- The registers of the FUSE page, by offset (from its register tables). -/
def FUSE.views (o b : Nat) : Option RegDesc :=
  match o with
  | 0x040 => some ⟨.plain, [⟨FUSE.PART_INFO_PART, .ro, 0, 4, 0⟩, ⟨FUSE.PART_INFO_PROFILE, .ro, 4, 1, 0⟩, ⟨FUSE.PART_INFO_STACKS, .ro, 5, 5, 0⟩, ⟨FUSE.PART_INFO_STEPPING, .ro, 16, 8, 0⟩]⟩
  | 0x044 => some ⟨.latchLo, [⟨FUSE.SERIAL, .ro, 0, 32, 0⟩]⟩
  | 0x048 => some ⟨.latchHi, [⟨FUSE.SERIAL, .ro, 0, 32, 32⟩]⟩
  | 0x04C => some ⟨.plain, [⟨FUSE.LIFECYCLE_STATE, .ro, 0, 2, 0⟩, ⟨FUSE.LIFECYCLE_KEYS_KILLED, .ro, 2, 1, 0⟩]⟩
  | 0x050 => some ⟨.plain, [⟨FUSE.SVN_SVN, .ro, 0, 7, 0⟩]⟩
  | 0x058 => some ⟨.plain, [⟨FUSE.BAD_ADDR_INDEX, .rw, 0, 7, 0⟩, ⟨FUSE.BAD_ADDR_AUTOINC, .rw, 7, 1, 0⟩]⟩
  | 0x05C => some ⟨.plain, [⟨FUSE.BAD_DATA_ENTRY b, .ro, 0, 16, 0⟩]⟩
  | 0x060 => some ⟨.plain, [⟨FUSE.FIELD_CMD_ENTRY, .wo, 0, 16, 0⟩, ⟨FUSE.FIELD_CMD_GO, .wo, 16, 1, 0⟩]⟩
  | 0x064 => some ⟨.plain, [⟨FUSE.FIELD_STS_USED, .ro, 0, 7, 0⟩, ⟨FUSE.FIELD_STS_BUSY, .ro, 7, 1, 0⟩, ⟨FUSE.FIELD_STS_REFUSED, .ro, 8, 1, 0⟩]⟩
  | _ => if 0x080 ≤ o ∧ o < 0x0C0 ∧ o % 4 = 0 then
      let i := (o - 0x080) / 4
      some ⟨.plain, [⟨FUSE.AVK, .ro, 0, 32, 32 * i⟩]⟩
    else none

/-- The select register (offset, low bits) that chooses the bank shown at an offset of the FUSE page. -/
def FUSE.select (o : Nat) : Option (Nat × Nat) :=
  if o = 0x05C then some (0x058, 7)
  else none

/-- The registers of the SEC page, by offset (from its register tables). -/
def SEC.views (o b : Nat) : Option RegDesc :=
  match o with
  | 0x040 => some ⟨.plain, [⟨SEC.LC_CMD_TARGET, .wo, 0, 2, 0⟩, ⟨SEC.LC_CMD_GO, .wo, 2, 1, 0⟩]⟩
  | 0x044 => some ⟨.plain, [⟨SEC.SEC_STS_LC_BUSY, .ro, 0, 1, 0⟩, ⟨SEC.SEC_STS_LC_RESULT, .ro, 1, 2, 0⟩, ⟨SEC.SEC_STS_TRNG_FAIL, .ro, 3, 1, 0⟩]⟩
  | 0x048 => some ⟨.plain, [⟨SEC.DEBUG_LEVEL, .rw, 0, 2, 0⟩, ⟨SEC.DEBUG_REFUSED, .ro, 2, 1, 0⟩, ⟨SEC.DEBUG_EVER, .ro, 3, 1, 0⟩]⟩
  | 0x050 => some ⟨.plain, [⟨SEC.FW_ADDR_OFFSET, .rw, 0, 22, 0⟩, ⟨SEC.FW_ADDR_AUTOINC, .rw, 31, 1, 0⟩]⟩
  | 0x054 => some ⟨.plain, [⟨SEC.FW_DATA_BYTES, .wo, 0, 32, 0⟩]⟩
  | 0x058 => some ⟨.plain, [⟨SEC.FW_CMD_VERIFY, .wo, 0, 1, 0⟩, ⟨SEC.FW_CMD_DISCARD, .wo, 1, 1, 0⟩, ⟨SEC.FW_CMD_SVN_COMMIT, .wo, 2, 1, 0⟩]⟩
  | 0x05C => some ⟨.plain, [⟨SEC.FW_STS_BUSY, .ro, 0, 1, 0⟩, ⟨SEC.FW_STS_STAGED, .ro, 1, 1, 0⟩, ⟨SEC.FW_STS_RESULT, .ro, 2, 3, 0⟩, ⟨SEC.FW_STS_RUN_SVN, .ro, 5, 7, 0⟩]⟩
  | _ => if 0x080 ≤ o ∧ o < 0x0C0 ∧ o % 4 = 0 then
      let i := (o - 0x080) / 4
      some ⟨.plain, [⟨SEC.FW_RUN, .ro, 0, 32, 32 * i⟩]⟩
    else if 0x0C0 ≤ o ∧ o < 0x100 ∧ o % 4 = 0 then
      let i := (o - 0x0C0) / 4
      some ⟨.plain, [⟨SEC.FW_STG, .ro, 0, 32, 32 * i⟩]⟩
    else none

/-- The registers of the ATT page, by offset (from its register tables). -/
def ATT.views (o b : Nat) : Option RegDesc :=
  match o with
  | 0x040 => some ⟨.plain, [⟨ATT.QUOTE_CMD_PT, .wo, 0, 4, 0⟩, ⟨ATT.QUOTE_CMD_KIND, .wo, 4, 2, 0⟩, ⟨ATT.QUOTE_CMD_GO, .wo, 6, 1, 0⟩]⟩
  | 0x044 => some ⟨.plain, [⟨ATT.QUOTE_STS_BUSY, .ro, 0, 1, 0⟩, ⟨ATT.QUOTE_STS_RESULT, .ro, 1, 2, 0⟩, ⟨ATT.QUOTE_STS_LENGTH, .ro, 16, 16, 0⟩]⟩
  | 0x048 => some ⟨.plain, [⟨ATT.QBUF_ADDR_OFFSET, .rw, 0, 13, 0⟩, ⟨ATT.QBUF_ADDR_AUTOINC, .rw, 31, 1, 0⟩]⟩
  | 0x04C => some ⟨.plain, [⟨ATT.QBUF_DATA_BYTES, .ro, 0, 32, 0⟩]⟩
  | 0x050 => some ⟨.plain, [⟨ATT.GEN_SEL_PT, .rw, 0, 4, 0⟩]⟩
  | 0x054 => some ⟨.latchLo, [⟨ATT.GEN b, .ro, 0, 32, 0⟩]⟩
  | 0x058 => some ⟨.latchHi, [⟨ATT.GEN b, .ro, 0, 32, 32⟩]⟩
  | 0x0C0 => some ⟨.plain, [⟨ATT.IMG_SEL_SLOT, .rw, 0, 4, 0⟩]⟩
  | 0x0C4 => some ⟨.plain, [⟨ATT.IMG_CTL_PT b, .rw, 0, 4, 0⟩, ⟨ATT.IMG_CTL_STATE b, .ro, 4, 2, 0⟩, ⟨ATT.IMG_CTL_BIND b, .wo, 6, 1, 0⟩, ⟨ATT.IMG_CTL_UNBIND b, .wo, 7, 1, 0⟩]⟩
  | 0x0C8 => some ⟨.plain, [⟨ATT.IMG_PVA b, .rw, 16, 16, 0⟩]⟩
  | 0x0CC => some ⟨.plain, [⟨ATT.IMG_PVA b, .rw, 0, 25, 16⟩]⟩
  | 0x0D0 => some ⟨.plain, [⟨ATT.IMG_LEN_UNITS b, .rw, 0, 21, 0⟩]⟩
  | 0x0D4 => some ⟨.plain, [⟨ATT.IMG_RES_RESULT b, .ro, 0, 4, 0⟩, ⟨ATT.IMG_RES_STATUS b, .ro, 8, 8, 0⟩]⟩
  | _ => if 0x080 ≤ o ∧ o < 0x0C0 ∧ o % 4 = 0 then
      let i := (o - 0x080) / 4
      some ⟨.plain, [⟨ATT.NONCE, .rw, 0, 32, 32 * i⟩]⟩
    else if 0x100 ≤ o ∧ o < 0x140 ∧ o % 4 = 0 then
      let i := (o - 0x100) / 4
      some ⟨.plain, [⟨ATT.IMG_EXP b, .rw, 0, 32, 32 * i⟩]⟩
    else if 0x140 ≤ o ∧ o < 0x180 ∧ o % 4 = 0 then
      let i := (o - 0x140) / 4
      some ⟨.plain, [⟨ATT.IMG_MEAS b, .ro, 0, 32, 32 * i⟩]⟩
    else none

/-- The select register (offset, low bits) that chooses the bank shown at an offset of the ATT page. -/
def ATT.select (o : Nat) : Option (Nat × Nat) :=
  if o = 0x054 ∨ o = 0x058 then some (0x050, 4)
  else if o = 0x0C4 ∨ o = 0x0C8 ∨ o = 0x0CC ∨ o = 0x0D0 ∨ o = 0x0D4 ∨ (0x100 ≤ o ∧ o < 0x140) ∨ (0x140 ≤ o ∧ o < 0x180) then some (0x0C0, 4)
  else none

/-- The registers of the KEY page, by offset (from its register tables). -/
def KEY.views (o b : Nat) : Option RegDesc :=
  match o with
  | 0x040 => some ⟨.plain, [⟨KEY.ROT_CTL_ROT_LOG2, .rw, 0, 5, 0⟩]⟩
  | 0x044 => some ⟨.plain, [⟨KEY.KX_SEL_PORT, .rw, 0, 6, 0⟩]⟩
  | 0x048 => some ⟨.plain, [⟨KEY.KX_STS_STATE b, .ro, 0, 2, 0⟩, ⟨KEY.KX_STS_FAIL b, .ro, 4, 3, 0⟩, ⟨KEY.KX_STS_SKIPPED b, .ro, 7, 9, 0⟩, ⟨KEY.KX_STS_ROTATIONS b, .ro, 16, 16, 0⟩]⟩
  | 0x0C0 => some ⟨.plain, [⟨KEY.KSLOT_SEL_SLOT, .rw, 0, 4, 0⟩]⟩
  | 0x0C4 => some ⟨.plain, [⟨KEY.KSLOT_CTL_PT b, .rw, 0, 4, 0⟩, ⟨KEY.KSLOT_CTL_STATE b, .ro, 4, 2, 0⟩, ⟨KEY.KSLOT_CTL_LOAD b, .wo, 6, 1, 0⟩, ⟨KEY.KSLOT_CTL_LOCK b, .wo, 7, 1, 0⟩, ⟨KEY.KSLOT_CTL_CLEAR b, .wo, 8, 1, 0⟩]⟩
  | 0x0C8 => some ⟨.plain, [⟨KEY.KSLOT_BASE_GIB b, .rw, 0, 17, 0⟩]⟩
  | 0x0CC => some ⟨.plain, [⟨KEY.KSLOT_LEN_GIB b, .rw, 0, 16, 0⟩]⟩
  | 0x0D0 => some ⟨.plain, [⟨KEY.KSLOT_RES_RESULT b, .ro, 0, 4, 0⟩]⟩
  | 0x100 => some ⟨.plain, [⟨KEY.REL_ADDR_OFFSET, .rw, 0, 11, 0⟩, ⟨KEY.REL_ADDR_AUTOINC, .rw, 31, 1, 0⟩]⟩
  | 0x104 => some ⟨.plain, [⟨KEY.REL_DATA_BYTES, .wo, 0, 32, 0⟩]⟩
  | 0x108 => some ⟨.plain, [⟨KEY.REL_CMD_GO, .wo, 0, 1, 0⟩]⟩
  | 0x10C => some ⟨.plain, [⟨KEY.REL_STS_BUSY, .ro, 0, 1, 0⟩, ⟨KEY.REL_STS_RESULT, .ro, 1, 3, 0⟩]⟩
  | 0x140 => some ⟨.plain, [⟨KEY.TGEN_SEL_PT, .rw, 0, 4, 0⟩]⟩
  | 0x144 => some ⟨.plain, [⟨KEY.TGEN_GEN b, .rw, 0, 32, 0⟩]⟩
  | _ => if 0x080 ≤ o ∧ o < 0x0C0 ∧ o % 4 = 0 then
      let i := (o - 0x080) / 4
      some ⟨.plain, [⟨KEY.PEER_DIG b, .rw, 0, 32, 32 * i⟩]⟩
    else none

/-- The select register (offset, low bits) that chooses the bank shown at an offset of the KEY page. -/
def KEY.select (o : Nat) : Option (Nat × Nat) :=
  if o = 0x048 ∨ (0x080 ≤ o ∧ o < 0x0C0) then some (0x044, 6)
  else if o = 0x0C4 ∨ o = 0x0C8 ∨ o = 0x0CC ∨ o = 0x0D0 then some (0x0C0, 4)
  else if o = 0x144 then some (0x140, 4)
  else none

/-- The registers of the PWR page, by offset (from its register tables). -/
def PWR.views (o b : Nat) : Option RegDesc :=
  match o with
  | 0x040 => some ⟨.plain, [⟨PWR.CAP_WATTS, .rw, 0, 11, 0⟩, ⟨PWR.CAP_HYST, .rw, 16, 8, 0⟩]⟩
  | 0x044 => some ⟨.plain, [⟨PWR.FAST_CTL_PCT, .rw, 0, 7, 0⟩]⟩
  | 0x048 => some ⟨.plain, [⟨PWR.PWR_CMD_TARGET, .wo, 0, 3, 0⟩, ⟨PWR.PWR_CMD_GO, .wo, 3, 1, 0⟩]⟩
  | 0x04C => some ⟨.plain, [⟨PWR.PWR_STS_STATE, .ro, 0, 3, 0⟩, ⟨PWR.PWR_STS_LEVEL, .ro, 3, 5, 0⟩, ⟨PWR.PWR_STS_THERM_LEVEL, .ro, 8, 5, 0⟩, ⟨PWR.PWR_STS_CAP_UNATTAINABLE, .ro, 13, 1, 0⟩, ⟨PWR.PWR_STS_FAST, .ro, 14, 1, 0⟩, ⟨PWR.PWR_STS_BUSY, .ro, 15, 1, 0⟩, ⟨PWR.PWR_STS_RESULT, .ro, 16, 3, 0⟩]⟩
  | 0x050 => some ⟨.plain, [⟨PWR.IN_POWER_AVG, .ro, 0, 16, 0⟩, ⟨PWR.IN_POWER_PEAK, .ro, 16, 16, 0⟩]⟩
  | 0x054 => some ⟨.plain, [⟨PWR.IN_SUPPLY_MV, .ro, 0, 16, 0⟩, ⟨PWR.IN_SUPPLY_CURRENT, .ro, 16, 16, 0⟩]⟩
  | 0x058 => some ⟨.plain, [⟨PWR.DROOP_CTL_DROOP_MV, .rw, 0, 7, 0⟩, ⟨PWR.DROOP_CTL_RECOV_MV, .rw, 8, 7, 0⟩]⟩
  | 0x05C => some ⟨.plain, [⟨PWR.FILL_CTL_EN, .rw, 0, 1, 0⟩, ⟨PWR.FILL_CTL_FLOOR, .rw, 1, 4, 0⟩, ⟨PWR.FILL_CTL_STEP, .rw, 8, 8, 0⟩]⟩
  | 0x060 => some ⟨.plain, [⟨PWR.THERM_CTL_DIE_THROT, .rw, 0, 8, 0⟩, ⟨PWR.THERM_CTL_DRAM_THROT, .rw, 8, 8, 0⟩]⟩
  | 0x064 => some ⟨.plain, [⟨PWR.THERM_STS_DIE_NOW, .ro, 0, 8, 0⟩, ⟨PWR.THERM_STS_DRAM_NOW, .ro, 8, 8, 0⟩, ⟨PWR.THERM_STS_DIE_PEAK, .ro, 16, 8, 0⟩, ⟨PWR.THERM_STS_DRAM_PEAK, .ro, 24, 8, 0⟩]⟩
  | 0x068 => some ⟨.plain, [⟨PWR.FAN_CTL_DUTY, .rw, 0, 7, 0⟩, ⟨PWR.FAN_CTL_FORCED, .ro, 7, 1, 0⟩]⟩
  | 0x06C => some ⟨.plain, [⟨PWR.THR_ACTIVE_REASONS, .ro, 0, 9, 0⟩]⟩
  | 0x070 => some ⟨.plain, [⟨PWR.THR_SEL_REASON, .rw, 0, 4, 0⟩]⟩
  | 0x074 => some ⟨.latchLo, [⟨PWR.THR_DUR b, .ro, 0, 32, 0⟩]⟩
  | 0x078 => some ⟨.latchHi, [⟨PWR.THR_DUR b, .ro, 0, 32, 32⟩]⟩
  | 0x07C => some ⟨.plain, [⟨PWR.DEFERRED_COUNT, .ro, 0, 32, 0⟩]⟩
  | 0x080 => some ⟨.plain, [⟨PWR.RAIL_SEL_RAIL, .rw, 0, 5, 0⟩]⟩
  | 0x084 => some ⟨.plain, [⟨PWR.RAIL_TEL_MV b, .ro, 0, 16, 0⟩, ⟨PWR.RAIL_TEL_AMPS b, .ro, 16, 16, 0⟩]⟩
  | 0x088 => some ⟨.plain, [⟨PWR.RAIL_STS_PHASES_OK b, .ro, 0, 4, 0⟩, ⟨PWR.RAIL_STS_PHASES_REQ b, .ro, 4, 4, 0⟩, ⟨PWR.RAIL_STS_TEMP b, .ro, 8, 8, 0⟩, ⟨PWR.RAIL_STS_OUT_OF_REG b, .ro, 16, 1, 0⟩, ⟨PWR.RAIL_STS_SHUT b, .ro, 17, 1, 0⟩]⟩
  | 0x090 => some ⟨.plain, [⟨PWR.EN_SEL_KIND, .rw, 0, 2, 0⟩, ⟨PWR.EN_SEL_PT, .rw, 2, 4, 0⟩, ⟨PWR.EN_SEL_PORT, .rw, 6, 6, 0⟩, ⟨PWR.EN_SEL_QUEUE, .rw, 12, 3, 0⟩]⟩
  | 0x094 => some ⟨.latchLo, [⟨PWR.EN b, .ro, 0, 32, 0⟩]⟩
  | 0x098 => some ⟨.latchHi, [⟨PWR.EN b, .ro, 0, 32, 32⟩]⟩
  | 0x09C => some ⟨.plain, [⟨PWR.EN_CMD_CLEAR, .wo, 0, 1, 0⟩]⟩
  | _ => none

/-- The select register (offset, low bits) that chooses the bank shown at an offset of the PWR page. -/
def PWR.select (o : Nat) : Option (Nat × Nat) :=
  if o = 0x074 ∨ o = 0x078 then some (0x070, 4)
  else if o = 0x084 ∨ o = 0x088 then some (0x080, 5)
  else if o = 0x094 ∨ o = 0x098 then some (0x090, 15)
  else none

/-- The registers of the CLK page, by offset (from its register tables). -/
def CLK.views (o b : Nat) : Option RegDesc :=
  match o with
  | 0x040 => some ⟨.plain, [⟨CLK.CORE_SEL_CORE, .rw, 0, 4, 0⟩]⟩
  | 0x044 => some ⟨.plain, [⟨CLK.CORE_CLK_MHZ b, .ro, 0, 11, 0⟩, ⟨CLK.CORE_CLK_PINNED b, .ro, 11, 1, 0⟩, ⟨CLK.CORE_CLK_STRETCH b, .ro, 12, 1, 0⟩, ⟨CLK.CORE_CLK_CEIL b, .ro, 13, 3, 0⟩, ⟨CLK.CORE_CLK_FMAX_STEP b, .ro, 16, 4, 0⟩, ⟨CLK.CORE_CLK_VPIN b, .ro, 20, 6, 0⟩, ⟨CLK.CORE_CLK_DEFER b, .ro, 26, 1, 0⟩]⟩
  | 0x048 => some ⟨.plain, [⟨CLK.STRETCHES_COUNT b, .ro, 0, 32, 0⟩]⟩
  | 0x04C => some ⟨.latchLo, [⟨CLK.STRETCH b, .ro, 0, 32, 0⟩]⟩
  | 0x050 => some ⟨.latchHi, [⟨CLK.STRETCH b, .ro, 0, 32, 32⟩]⟩
  | 0x054 => some ⟨.plain, [⟨CLK.TRIM_DOWN b, .ro, 0, 16, 0⟩, ⟨CLK.TRIM_UP b, .ro, 16, 16, 0⟩]⟩
  | _ => none

/-- The select register (offset, low bits) that chooses the bank shown at an offset of the CLK page. -/
def CLK.select (o : Nat) : Option (Nat × Nat) :=
  if o = 0x044 ∨ o = 0x048 ∨ o = 0x04C ∨ o = 0x050 ∨ o = 0x054 then some (0x040, 4)
  else none

/-- The registers of the STRAP page, by offset (from its register tables). -/
def STRAP.views (o b : Nat) : Option RegDesc :=
  match o with
  | 0x040 => some ⟨.plain, [⟨STRAP.STRAPS_BOOT_FAST, .ro, 0, 1, 0⟩, ⟨STRAP.STRAPS_DET_DEFAULT, .ro, 1, 1, 0⟩, ⟨STRAP.STRAPS_SELV_PREF, .ro, 2, 1, 0⟩, ⟨STRAP.STRAPS_MOD_ID, .ro, 3, 4, 0⟩, ⟨STRAP.STRAPS_FAB_RATE, .ro, 7, 2, 0⟩, ⟨STRAP.STRAPS_REFCLK_SEL, .ro, 9, 1, 0⟩]⟩
  | _ => none

/-- The registers of the SELV page, by offset (from its register tables). -/
def SELV.views (n : Nat) (o b : Nat) : Option RegDesc :=
  match o with
  | 0x040 => some ⟨.plain, [⟨SELV.LINK_STS_UP n, .ro, 0, 1, 0⟩, ⟨SELV.LINK_STS_VER n, .ro, 1, 2, 0⟩]⟩
  | 0x044 => some ⟨.plain, [⟨SELV.LEASE_STATE n, .ro, 0, 2, 0⟩, ⟨SELV.LEASE_LEFT_US n, .ro, 16, 16, 0⟩]⟩
  | 0x048 => some ⟨.plain, [⟨SELV.LIVE_FOR_US n, .ro, 0, 32, 0⟩]⟩
  | 0x04C => some ⟨.plain, [⟨SELV.RENEWS_COUNT n, .ro, 0, 32, 0⟩]⟩
  | 0x050 => some ⟨.plain, [⟨SELV.REFUSED_STALE n, .ro, 0, 16, 0⟩, ⟨SELV.REFUSED_NOT_HOLDER n, .ro, 16, 16, 0⟩]⟩
  | 0x054 => some ⟨.plain, [⟨SELV.OLD_EPOCH_WR_COUNT n, .ro, 0, 32, 0⟩]⟩
  | 0x058 => some ⟨.plain, [⟨SELV.LINK_DROPS_COUNT n, .ro, 0, 32, 0⟩]⟩
  | _ => none

/-- The registers of the FAULT page, by offset (from its register tables). -/
def FAULT.views (o b : Nat) : Option RegDesc :=
  match o with
  | 0x040 => some ⟨.plain, [⟨FAULT.LOG_STS_USED, .ro, 0, 10, 0⟩, ⟨FAULT.LOG_STS_RSV_USED, .ro, 10, 5, 0⟩, ⟨FAULT.LOG_STS_LOST, .ro, 15, 1, 0⟩, ⟨FAULT.LOG_STS_LATCHED, .ro, 16, 1, 0⟩]⟩
  | 0x044 => some ⟨.plain, [⟨FAULT.FATAL_CAUSE_CAUSE, .ro, 0, 2, 0⟩, ⟨FAULT.FATAL_CAUSE_CLASS, .ro, 2, 5, 0⟩]⟩
  | 0x048 => some ⟨.plain, [⟨FAULT.FAULT_CMD_POP, .wo, 0, 1, 0⟩, ⟨FAULT.FAULT_CMD_CLEAR_LOST, .wo, 1, 1, 0⟩]⟩
  | 0x04C => some ⟨.plain, [⟨FAULT.OVF_SEL_CLASS, .rw, 0, 5, 0⟩]⟩
  | 0x050 => some ⟨.plain, [⟨FAULT.OVF_COUNT_COUNT b, .ro, 0, 32, 0⟩]⟩
  | 0x054 => some ⟨.plain, [⟨FAULT.SEQ_NEXT_SEQ, .ro, 0, 32, 0⟩]⟩
  | _ => if 0x080 ≤ o ∧ o < 0x0A0 ∧ o % 4 = 0 then
      let i := (o - 0x080) / 4
      some ⟨.plain, [⟨FAULT.ENT, .ro, 0, 32, 32 * i⟩]⟩
    else none

/-- The select register (offset, low bits) that chooses the bank shown at an offset of the FAULT page. -/
def FAULT.select (o : Nat) : Option (Nat × Nat) :=
  if o = 0x050 then some (0x04C, 5)
  else none

/-- The registers of the DBG page, by offset (from its register tables). -/
def DBG.views (o b : Nat) : Option RegDesc :=
  match o with
  | 0x040 => some ⟨.plain, [⟨DBG.DBG_CTL_PORT_EN, .rw, 0, 1, 0⟩]⟩
  | 0x044 => some ⟨.plain, [⟨DBG.DBG_STS_LEVEL, .ro, 0, 2, 0⟩, ⟨DBG.DBG_STS_ATTACHED, .ro, 2, 1, 0⟩, ⟨DBG.DBG_STS_SCAN, .ro, 3, 1, 0⟩]⟩
  | 0x048 => some ⟨.plain, [⟨DBG.DBG_ACCESS_COUNT, .ro, 0, 32, 0⟩]⟩
  | _ => none

/-- The blocks of Table 16-6. -/
inductive Block where
  | top | fuse | strap | clk | pwr | ft | ging | sec | att | key | part | fault | selv | score | eng | drc | hphy | edac
  | dir | xlt | pxc | tier | pcie | port | route | shape | dbg
  deriving DecidableEq, Repr

/-- The block and unit number of a page, by Table 16-6; `none` for a reserved page (R474). -/
def pageBlock (p : Nat) : Option (Block × Nat) :=
  if p = 0x0000 then some (.top, 0)
  else if p = 0x0001 then some (.fuse, 0)
  else if p = 0x0002 then some (.strap, 0)
  else if p = 0x0004 then some (.clk, 0)
  else if p = 0x0008 then some (.pwr, 0)
  else if p = 0x0010 then some (.ft, 0)
  else if p = 0x0011 then some (.ging, 0)
  else if p = 0x0020 then some (.sec, 0)
  else if p = 0x0021 then some (.att, 0)
  else if p = 0x0022 then some (.key, 0)
  else if p = 0x0030 then some (.part, 0)
  else if p = 0x0040 then some (.fault, 0)
  else if 0x0048 ≤ p ∧ p < 0x004A then some (.selv, p - 0x0048)
  else if 0x0100 ≤ p ∧ p < 0x0110 then some (.score, p - 0x0100)
  else if 0x0200 ≤ p ∧ p < 0x0300 then (if p % 16 ≤ 8 then some (.eng, p - 0x0200) else none)
  else if 0x0300 ≤ p ∧ p < 0x0310 then some (.drc, p - 0x0300)
  else if 0x0310 ≤ p ∧ p < 0x0320 then some (.hphy, p - 0x0310)
  else if 0x0320 ≤ p ∧ p < 0x0330 then some (.edac, p - 0x0320)
  else if 0x0330 ≤ p ∧ p < 0x0340 then some (.dir, p - 0x0330)
  else if p = 0x0400 then some (.xlt, 0)
  else if p = 0x0410 then some (.pxc, 0)
  else if p = 0x0500 then some (.tier, 0)
  else if 0x0510 ≤ p ∧ p < 0x0520 then some (.pcie, p - 0x0510)
  else if 0x0600 ≤ p ∧ p < 0x0630 then some (.port, p - 0x0600)
  else if p = 0x0700 then some (.route, 0)
  else if p = 0x0710 then some (.shape, 0)
  else if p = 0x0800 then some (.dbg, 0)
  else none

/-- The block code of Table 16-6. -/
def Block.code : Block → Nat
  | .top => 0x01 | .fuse => 0x02 | .strap => 0x03 | .clk => 0x04 | .pwr => 0x05 | .ft => 0x06 | .ging => 0x07
  | .sec => 0x08 | .att => 0x09 | .key => 0x0A | .part => 0x0B | .fault => 0x0C | .selv => 0x0D | .score => 0x0E
  | .eng => 0x0F | .drc => 0x10 | .hphy => 0x11 | .edac => 0x12 | .dir => 0x13 | .xlt => 0x14 | .pxc => 0x15
  | .tier => 0x16 | .pcie => 0x17 | .port => 0x18 | .route => 0x19 | .shape => 0x1A | .dbg => 0x1B

/-- The number of event bits of a block (Table 16-6). -/
def Block.nevt : Block → Nat
  | .top => 6 | .pwr => 7 | .ft => 7 | .ging => 2 | .sec => 3 | .att => 2 | .key => 2 | .part => 5 | .fault => 4
  | .selv => 3 | .score => 5 | .eng => 1 | .hphy => 3 | .edac => 8 | .dir => 1 | .xlt => 3 | .tier => 6 | .pcie => 3
  | .port => 9 | .route => 4 | .dbg => 2
  | .fuse => 0 | .strap => 0 | .clk => 0 | .drc => 0 | .pxc => 0 | .shape => 0

/-- The number of event bits of a page. -/
def pageNevt (p : Nat) : Nat :=
  match pageBlock p with
  | some (b, _) => b.nevt
  | none => 0

/-! The common header (Table 16-1), by page number. -/

def HDR.MSG_HOLD (p : Nat) : Fld := ⟨p * 4096 + 0x00C, 0, 0, 1, 0⟩
def HDR.LOCKED_WR (p : Nat) : Fld := ⟨p * 4096 + 0x010, 0, 8, 8, 0⟩
def HDR.IGNORED (p : Nat) : Fld := ⟨p * 4096 + 0x010, 0, 16, 1, 0⟩
def HDR.EVT (p : Nat) : Fld := ⟨p * 4096 + 0x014, 0, 0, pageNevt p, 0⟩
def HDR.EVT_EN (p : Nat) : Fld := ⟨p * 4096 + 0x018, 0, 0, pageNevt p, 2 ^ pageNevt p - 1⟩
def HDR.ROUTE (p : Nat) : Fld := ⟨p * 4096 + 0x01C, 0, 0, 2, 0⟩

/-- The block registers of a page (offset 0x040 up) under a bank. -/
def blockViews (b : Block) (n o bank : Nat) : Option RegDesc :=
  match b with
  | .top => TOP.views o bank | .fuse => FUSE.views o bank | .strap => STRAP.views o bank | .clk => CLK.views o bank
  | .pwr => PWR.views o bank | .ft => FT.views o bank | .ging => GING.views o bank | .sec => SEC.views o bank
  | .att => ATT.views o bank | .key => KEY.views o bank | .part => PART.views o bank | .fault => FAULT.views o bank
  | .selv => SELV.views n o bank | .score => SCORE.views n o bank | .eng => ENG.views n o bank
  | .drc => DRC.views n o bank | .hphy => HPHY.views n o bank | .edac => EDAC.views n o bank
  | .dir => DIR.views n o bank | .xlt => XLT.views o bank | .pxc => PXC.views o bank | .tier => TIER.views o bank
  | .pcie => PCIE.views n o bank | .port => PORT.views n o bank | .route => ROUTE.views o bank
  | .shape => SHAPE.views o bank | .dbg => DBG.views o bank

/-- The select register of a banked register: its offset on the page and how many low bits choose the bank. -/
def blockSelect (b : Block) (o : Nat) : Option (Nat × Nat) :=
  match b with
  | .top => TOP.select o | .fuse => FUSE.select o | .clk => CLK.select o | .pwr => PWR.select o
  | .att => ATT.select o | .key => KEY.select o | .part => PART.select o | .fault => FAULT.select o
  | .edac => EDAC.select o | .dir => DIR.select o | .xlt => XLT.select o | .pxc => PXC.select o
  | .tier => TIER.select o | .route => ROUTE.select o | .shape => SHAPE.select o
  | .strap => none | .ft => none | .ging => none | .sec => none | .selv => none | .score => none | .eng => none
  | .drc => none | .hphy => none | .pcie => none | .port => none | .dbg => none

/-- The header registers of a page. PAGE_ID, PAGE_VER and PAGE_CAP are constants and have no field. -/
def headerViews (p o : Nat) : Option RegDesc :=
  match o with
  | 0x00C => some ⟨.plain, [⟨HDR.MSG_HOLD p, .rw, 0, 1, 0⟩]⟩
  | 0x010 => some ⟨.plain, [⟨HDR.LOCKED_WR p, .ro, 8, 8, 0⟩, ⟨HDR.IGNORED p, .w1c, 16, 1, 0⟩]⟩
  | 0x014 => some ⟨.plain, [⟨HDR.EVT p, .w1c, 0, pageNevt p, 0⟩]⟩
  | 0x018 => some ⟨.plain, [⟨HDR.EVT_EN p, .rw, 0, pageNevt p, 0⟩]⟩
  | 0x01C => some ⟨.plain, [⟨HDR.ROUTE p, .rw, 0, 2, 0⟩]⟩
  | _ => none

end Sys2Proof.Machine
end

