-- ==== Sys2Proof/Config.lean ====
section
/-!
DEFINITION. What the spec leaves to the part or leaves open. An opaque constant has no body that a proof could see: a
claim that holds, holds whatever its value. Cryptographic primitives that the spec names but does not give are here too.
-/

namespace Sys2Proof.Config

/-- A free value of `w` bits: the `n`-th value that the spec leaves open (DESIGN CHOICE, log 1). -/
opaque free (w n : Nat) : BitVec w

/-- The fixed energy of a DRAM command: 0 activate, 1 line read, 2 line written, 3 REFpb, 4 RFMpb. The spec gives no value
(R440; DESIGN CHOICE, log 148). -/
opaque dramEnergy (kind : Nat) : Nat

/-- Fresh random bits of the TRNG of `w` bits: the `n`-th draw (R384; DESIGN CHOICE, log 2). -/
opaque trng (w n : Nat) : BitVec w

/-- AES-256-XTS of one line under a 512-bit key and a tweak (R385; DESIGN CHOICE, log 3). -/
opaque xtsEncrypt (key tweak : Nat) (plain : Line) : Line

/-- AES-256-XTS decryption of one line under a 512-bit key and a tweak (R385; DESIGN CHOICE, log 3). -/
opaque xtsDecrypt (key tweak : Nat) (cipher : Line) : Line

/-- ML-DSA-87 public key of a seed, as a number (R387, R393; DESIGN CHOICE, log 3). -/
opaque mldsaPublic (seed : Nat) : Nat

/-- ML-DSA-87 signature of a message under a seed (DESIGN CHOICE, log 3). -/
opaque mldsaSign (seed message : Nat) : Nat

/-- ML-DSA-87 verification of a signature (DESIGN CHOICE, log 3). -/
opaque mldsaVerify (pk message signature : Nat) : Bool

/-- ML-KEM-1024 encapsulation key of a seed (DESIGN CHOICE, log 3). -/
opaque mlkemPublic (seed : Nat) : Nat

/-- The input check of an ML-KEM-1024 encapsulation key (DESIGN CHOICE, log 3). -/
opaque mlkemKeyOk (pk : Nat) : Bool

/-- ML-KEM-1024 ciphertext for an encapsulation key and a random seed (DESIGN CHOICE, log 3). -/
opaque mlkemCiphertext (pk random : Nat) : Nat

/-- ML-KEM-1024 shared secret as the encapsulator holds it (DESIGN CHOICE, log 3). -/
opaque mlkemShared (pk random : Nat) : Nat

/-- ML-KEM-1024 decapsulation under a seed (DESIGN CHOICE, log 3). -/
opaque mlkemDecapsulate (seed ciphertext : Nat) : Nat

/-- AES-256-GCM sealing of 1,952 bytes: the ciphertext with its tag after it (DESIGN CHOICE, log 3). -/
opaque gcmSeal (key nonce aad plaintext : Nat) : Nat

/-- AES-256-GCM opening of a ciphertext: none where the tag fails (DESIGN CHOICE, log 3). -/
opaque gcmOpen (key nonce aad ciphertext : Nat) : Option Nat

/-- What a firmware image in the staging window (as byte stores) names: its size, header SVN, public key, signed
message and signature. The spec does not give the image's layout (R392; DESIGN CHOICE, log 12). -/
opaque fwSize (window : Store Nat) : Nat
/-- The header SVN of a staged image (DESIGN CHOICE, log 12). -/
opaque fwSvn (window : Store Nat) : Nat
/-- The SHA3-512 of the public key that accompanies a staged image (DESIGN CHOICE, log 12). -/
opaque fwKeyDigest (window : Store Nat) : Nat
/-- The ML-DSA-87 signature over a staged image verifies (DESIGN CHOICE, log 12). -/
opaque fwSignatureOk (window : Store Nat) : Bool
/-- The SHA3-512 of a staged image (DESIGN CHOICE, log 12). -/
opaque fwDigest (window : Store Nat) : Nat
/-- The RMA token in the staging window names this serial number and verifies under a key with this digest (R409;
DESIGN CHOICE, log 12). -/
opaque rmaTokenOk (window : Store Nat) (serial avk : Nat) : Bool

end Sys2Proof.Config
end

