-- ==== Sys2Proof/Machine/State.lean ====
section
/-!
DEFINITION. The state of the module as plain data: every register field (in the field store), every FIFO, queue, buffer,
counter, mode and pin that the spec gives it, the reasons a command can stop, and the state after reset.
-/

namespace Sys2Proof.Machine

/-- The faults a step can end in. There is none: the module reports every fault in its own state. -/
inductive Fault where
  /-- Raised by no command; kept so that the type is not empty. Safe. -/
  | none
  deriving DecidableEq, Repr

/-- The refusals a step can end in. -/
inductive Refusal where
  /-- A command that has no meaning yet; raised by `exec` alone, and by no command now. Safe. -/
  | notModelled (mnemonic : String)
  deriving DecidableEq, Repr

/-- The time unit (R46 to R53) beside the FT page. Times are nanoseconds unless said otherwise. -/
structure TimeUnit where
  /-- Elapsed ticks, in ns (R51). -/
  elapsed : Nat := 0
  /-- Fabric Time. -/
  ft      : Nat := 0
  /-- Elapsed time of the last added or dropped tick (R48, R49). -/
  slewAt  : Nat := 0
  /-- The offset still to be slewed away, in quarter nanoseconds (R50). -/
  slew    : Int := 0
  /-- Accumulated phase of the kept rate, in 10^-9 ns (R48). -/
  phase   : Int := 0
  /-- The exchange that waits for DELAY_RSP: source, and t1, t2, t3 in half nanoseconds (R47). -/
  exch    : Option (Nat × Nat × Nat × Nat) := none
  /-- Consecutive exchanges within ALIGN_THRESH in ACQUIRE. -/
  within  : Nat := 0
  /-- The slew is that of a refused exchange: HOLDOVER keeps it (R50). -/
  refused : Bool := false
  /-- Fabric Time of the last exchange received, a refused one too (R48, R50). -/
  heard   : Nat := 0
  /-- Elapsed time from which HOLD_ELAPSED counts in HOLDOVER. -/
  holdAt  : Int := 0
  /-- The accepted load: its value, and the frame boundary at which it is due (R51). -/
  loadVal : Nat := 0
  loadAt  : Nat := 0
  /-- Fabric Time plus 1 of the last occurrence of each periodic event (R63). -/
  last    : Store Nat := []
  /-- The frame, plus 1, in which each core last missed its heartbeat (R19). -/
  missed  : Store Nat := []
  deriving DecidableEq, Repr

/-- The two gingham banks, 0 = A and 1 = B: entries keyed bank * 4096 + index (R56). -/
structure Gingham where
  bank : Store Nat := []
  /-- The frame of the armed flip (R59). -/
  flipAt : Nat := 0
  /-- M5 has ended since the cold reset: DIGEST holds a digest from then on (R60). -/
  digestOn : Bool := false
  deriving DecidableEq, Repr

/-- A deterministic run (R71): its frame F, and whether its cold start is over. -/
structure DetRun where
  frame : Nat
  /-- 0 armed, 1 in the cold start of frames F to F + 15, 2 run frame 0 has begun. -/
  phase : Nat
  deriving DecidableEq, Repr

/-- An entry of a translation cache: its set and way, the partition, the span it covers (base PVA and log2 of its size)
and the table entry it holds; a fragment of a 1 GiB leaf holds the leaf with the fragment's PPA (R90). -/
structure CacheEnt where
  set  : Nat
  way  : Nat
  pt   : Nat
  base : Nat
  span : Nat
  ent  : Nat
  deriving DecidableEq, Repr

/-- A frame-map record (R88). `cur` and `ret` name the leaf that maps or mapped the frame: partition, table offset of
the entry, level, the number of the 64 KiB piece, and its PVA where the tables give it one. -/
inductive FrameRec where
  | none
  | tier
  | cur (pt off lvl k : Nat) (pva : Option Nat)
  | ret (pt lvl k : Nat) (pva : Option Nat)
  deriving DecidableEq, Repr

/-- An invalidation that runs: its partition (R94); the requests (PID, TAG, whether a WB or
EVICT) and the tiles (core, job, index) translated before it; and the retired records it recalls, of frames and of tier
space (R95, R96). -/
structure InvJob where
  pt     : Nat
  reqs   : List (Nat × Nat × Bool) := []
  tiles  : List (Nat × Nat × Nat) := []
  frames : List Nat := []
  tframes : List Nat := []
  /-- The PVAs whose lines RECALL names, and whether they have been recalled again behind those requests and tiles. -/
  lo     : Nat := 0
  hi     : Nat := 0
  again  : Bool := false
  deriving DecidableEq, Repr

/-- A page move that runs (R105): the page's PVA and size, the table offset and level of its leaf, and the destination. -/
structure MoveJob where
  pva  : Nat
  size : Nat
  off  : Nat
  lvl  : Nat
  dst  : Nat
  deriving DecidableEq, Repr

/-- Translation (chapter 4) beside the XLT and PXC pages. The caches list their entries most recently used first. -/
structure Xlt where
  pxc     : List CacheEnt := []
  walker  : List CacheEnt := []
  /-- Second-level TLBs by core, engine TLBs by core * 16 + engine. -/
  l2      : Store (List CacheEnt) := []
  etlb    : Store (List CacheEnt) := []
  /-- Frame records by core * 2^20 + frame; tier frame records by GiB of tier space (R88). -/
  frames  : Store FrameRec := []
  tframes : Store FrameRec := []
  /-- Where the entry that points to a table lies, plus 1, by (partition * 8 + level of the table) * 2^28 + base. -/
  parent  : Store Nat := []
  /-- The hot list (R104): core, index; and whether a hot page was dropped since. -/
  hot     : List (Nat × Nat) := []
  hotLost : Bool := false
  /-- Result plus 1 of the commit that runs. -/
  tblNext : Nat := 0
  /-- The frames whose records that commit touches, as keys of the frame map. -/
  tblFrames : List Nat := []
  inv     : Option InvJob := none
  moves   : Store (Option MoveJob) := []
  /-- The absolute slot, plus 1, of each partition's last walk in deterministic mode (R42). -/
  walkSlot : Store Nat := []
  /-- Digest and record count of the digest that runs. -/
  digest  : Option (Nat × Nat) := none
  deriving DecidableEq, Repr

/-- Who sends a request to a home slice (R107): a partner; a tile's write of engine core * 16 + engine; or a recall on
behalf of a job of the module. -/
inductive Agent where
  | partner
  | engine (ce : Nat)
  | recall (job : Nat)
  deriving DecidableEq, Repr

/-- A request: of a partner as its ingress store keeps it (R363), or of an agent of the module. `op` is the opcode of
Table 05-2 or 06-1 (engine reads 0x04, engine writes 0x05 and 0x06, recalls 0x24). -/
structure Req where
  agent  : Agent := .partner
  op     : Nat := 0
  pid    : Nat := 0
  tag    : Nat := 0
  port   : Nat := 0
  pt     : Nat := 0
  pva    : Nat := 0
  /-- The DRAM line, once it is known (a tier access gets it from the tier controller). -/
  line   : Option Nat := none
  /-- The tier byte address, where the access is to tier space. -/
  tier   : Option Nat := none
  /-- Its home slice has serialized or queued it. -/
  taken  : Bool := false
  data   : Nat := 0
  mask   : Nat := 0
  hint   : Option Nat := none
  ce     : Bool := false
  /-- Fabric Time of its processing, and whether it has needed no snoop, no tier fill and no walk beyond the walker's
  cache (R70). -/
  since  : Nat := 0
  quick  : Bool := false
  /-- Fabric Time at which its walk is over, in deterministic mode: it crosses to its home slice from then on (R42, R57). -/
  walked : Nat := 0
  deriving DecidableEq, Repr

/-- A directory entry in a stable state (Table 05-1); `sh` is the pointer format, `grp` the group format. -/
inductive DirState where
  | unc
  | sh (ptrs : List Nat)
  | grp (groups : Nat)
  | exc (owner : Nat)
  | fenced (owner : Nat)
  deriving DecidableEq, Repr

/-- The transaction that keeps a line BUSY (R120 to R122, R126, R127). -/
structure Txn where
  req   : Req
  /-- PIDs that owe an INV_ACK. -/
  invs  : List Nat := []
  /-- The opcode of the owner snoop that is unanswered, 0 for none, and the owner. -/
  snoop : Nat := 0
  owner : Nat := 0
  /-- The requester's COMP_ACK is awaited. -/
  comp  : Bool := false
  /-- The hint target that owes an answer to a push. -/
  push  : Option Nat := none
  /-- The crossing WB or EVICT of the owner, and whether WB_PENDING came. -/
  held  : Option Req := none
  wbp   : Bool := false
  /-- GRANT_E answers this UPGRADE. -/
  upg   : Bool := false
  queue : List Req := []
  deriving DecidableEq, Repr

/-- Coherence (chapter 5) beside the DIR and PART pages. -/
structure Coh where
  /-- Directory entries by line. -/
  dir     : Store DirState := []
  txns    : Store (Option Txn) := []
  /-- Directory cache sets, by core * 2048 + set: (block, dirty), most recently used first (R112). -/
  dcache  : Store (List (Nat × Bool)) := []
  /-- The rotating pointer of each slice (R123). -/
  rotate  : Store Nat := []
  /-- Start of the lease of each PID, in elapsed ns (R129). -/
  lease   : Store Nat := []
  /-- The lease configuration in force: LEN_US + 65536 * REVERT, by partition (R141). -/
  cfg     : Store Nat := []
  /-- The fence list, and whether a fence was dropped since (R141). -/
  fences  : List Nat := []
  fenceLost : Bool := false
  /-- Engine accesses that a slice refused: core * 16 + engine, status, PVA of the line. -/
  engFail : List (Nat × Nat × Nat) := []
  /-- The PIDs that the sweep of a partition covers (R133). -/
  sweeps  : Store (List Nat) := []
  deriving DecidableEq, Repr

/-- A descriptor in a command FIFO: its 512 bits and the core's ACCEPTED number of it (R143, R146). -/
structure FifoEnt where
  desc : Nat
  num  : Nat
  /-- The image slot that the descriptor measures (R402). -/
  img  : Option Nat := none
  /-- Its pattern block, once fetched ahead (R155). -/
  words : List Nat := []
  deriving DecidableEq, Repr

/-- The rows of a stream in a tile (R157). -/
structure Rows where
  stream : Nat
  base   : Int
  bytes  : Nat
  rows   : Nat
  stride : Int
  deriving DecidableEq, Repr

/-- The lowest failing tile of a share: its index, the share's tiles below it, status, DETAIL, write-stream offset, and
the RESULT that a status of its own brings (R154, R167, R243). `open_` marks a lost core's entry, whose tile and offset
the lead finds when it has expanded the pattern. -/
structure TileFail where
  tile   : Nat
  below  : Nat
  status : Nat
  detail : Nat := 0
  offset : Nat := 0
  result : Nat := 0
  open_  : Bool := false
  deriving DecidableEq, Repr

/-- Parts of RESULT that a share gathers (R218): FIRST_DIFF, and three counters. -/
structure Tally where
  first : Nat := 2 ^ 64 - 1
  a     : Nat := 0
  b     : Nat := 0
  c     : Nat := 0
  deriving DecidableEq, Repr

/-- One core's share of a descriptor, with the state of its pattern (R152, R156, R157). -/
structure Share where
  job   : Nat
  core  : Nat
  lead  : Nat
  pt    : Nat
  desc  : Nat
  /-- ACCEPTED number in the lead's FIFO. -/
  num   : Nat := 0
  /-- 0 an ORDER descriptor held; 1 its pattern block is fetched, or a segment waits in its queue; 2 expanding;
  3 expanded; 4 reported to the lead. -/
  phase : Nat := 1
  /-- The share has started: group and contributor list are checked. -/
  begun : Bool := false
  /-- The pattern block, header first; empty for a built-in pattern. -/
  words : List Nat := []
  pc    : Nat := 1
  /-- Loops from the innermost: first word, last word, runs left. -/
  loops : List (Nat × Nat × Nat) := []
  regs  : List Int := List.replicate 16 0
  /-- Shape of each stream: row bytes, rows, stride; 0 rows for unset. -/
  shapes : List (Nat × Nat × Int) := List.replicate 16 (0, 0, 0)
  /-- The index read that the pattern waits for: address and bytes; and the index buffer, by PVA of the line (R159). -/
  want  : Option (Int × Nat) := none
  ibuf  : Store Nat := []
  /-- What a built-in pattern has read: NIDX; or the walk's token, tables and page. -/
  aux   : List Nat := []
  /-- Tiles emitted, and those of this share. -/
  emitted : Nat := 0
  mine  : Nat := 0
  /-- Running write-stream bytes, elements and stream-1 bytes of the tiles emitted. -/
  bytes : Nat := 0
  elems : Nat := 0
  in1   : Nat := 0
  /-- Write-stream offsets of the tiles emitted, last first, at the lead of a spread descriptor. -/
  starts : List Nat := []
  /-- Leaf base of a HASH with ROOT. -/
  leaf0 : Int := 0
  seed  : Nat := 0
  fail  : Option TileFail := none
  flags : Nat := 0
  tally : Tally := {}
  start : Option Nat := none
  fin   : Nat := 0
  /-- Cores that have still to be sent a segment. -/
  toSend : List Nat := []
  /-- ROOT of a HASH. -/
  root  : Option Nat := none
  /-- The image slot that it measures, and the leaves, by tile, that its core's table area holds (R402; DEDUCED, log 33). -/
  img   : Option Nat := none
  leaves : Store Nat := []
  deriving DecidableEq, Repr

/-- A core's report to the lead (R154). -/
structure Report where
  job   : Nat
  core  : Nat
  fail  : Option TileFail
  mine  : Nat
  flags : Nat
  tally : Tally
  start : Option Nat
  fin   : Nat
  deriving DecidableEq, Repr

/-- A tile of a share: its index, its place in the share, the word of its EMIT, its streams, and the counts of the
share before it. -/
structure Tile where
  job   : Nat
  core  : Nat
  pt    : Nat
  t     : Nat
  i     : Nat
  word  : Nat := 0
  rows  : List Rows
  bytes : Nat
  elems : Nat
  in1   : Nat
  /-- A KV page that this tile is the first of, and the tile's first token. -/
  aux   : List Nat := []
  /-- Attempt (R206). -/
  attempt : Nat := 1
  /-- 0 not computed in this attempt; 1 a detection waits; 2 its writes are issued; 3 attempt 3 not begun; 4 a write-path
  retry failed, and its writes are issued. -/
  st    : Nat := 0
  /-- An engine has started it. -/
  begun : Bool := false
  /-- Injected detections left, and their block (R212). -/
  inj   : Nat × Nat := (0, 0)
  /-- Writes not yet taken by a slice: line, data, mask, PVA; and the lines of those that were. -/
  out   : List (Nat × Nat × Nat × Nat) := []
  lines : List Nat := []
  hint  : Option Nat := none
  flags : Nat := 0
  tally : Tally := {}
  /-- Blocks of a TIER_MOVE under way: block and stage. -/
  moved : List (Nat × Nat) := []
  /-- Its lines in the Input region, by PVA: those fetched ahead, and those retained (R162, R163). -/
  input : Store Nat := []
  deriving DecidableEq, Repr

/-- A completion record on its way to memory (R169): its lines in order as (PVA, data), and the DRAM line of the one
that a slice has taken. -/
structure Rec where
  core  : Nat
  pt    : Nat
  num   : Nat
  hint  : Option Nat
  lines : List (Nat × Nat)
  issued : Option Nat := none
  deriving DecidableEq, Repr

/-- The slots of a reserved collective tile (R230 to R232): the lines accepted as (PID, line), and each element's felt
partial as it is stored, or its exact integer sum. -/
structure CollTile where
  t     : Nat
  seen  : List (Nat × Nat) := []
  felts : Store Nat := []
  ints  : Store Int := []
  deriving DecidableEq, Repr

/-- The COLLECTIVE that runs on a core: its job, partition, contributors, lines per contributor of each reserved tile,
and the PID that stopped it (R233). -/
structure Coll where
  job   : Nat
  pt    : Nat
  pids  : List Nat
  tiles : List CollTile := []
  stop  : Option Nat := none
  deriving DecidableEq, Repr

/-- Sequencers, engines and collectives (chapters 6 to 8) beside the SCORE and ENG pages. -/
structure Engines where
  /-- FIFO banks by core * 16 + partition; ACCEPTED of each core; a flush mark (the accepted number below which
  descriptors go) plus 1, and whether SEQ_CMD asked for it, by core. -/
  fifos  : Store (List FifoEnt) := []
  accepted : Store Nat := []
  mark   : Store Nat := []
  markCmd : Store Bool := []
  jobs   : Nat := 0
  shares : List Share := []
  reports : List Report := []
  /-- Tiles emitted and not dispatched, by core * 2 + context (1 the segment context), in order. -/
  ready  : Store (List Tile) := []
  /-- Tile queues by physical engine: core * 16 + engine. -/
  queues : Store (List Tile) := []
  /-- The logical engine that received the last tile of each core, plus 1 (R160). -/
  turn   : Store Nat := []
  /-- Index, plus 1, of the last tile dispatched of a job on a core, for the hint horizon: job * 16 + core. -/
  sent   : Store Nat := []
  recs   : List Rec := []
  colls  : Store (Option Coll) := []
  /-- Resident regions by engine: the job whose tiles the engine runs, and the lines held, by PVA (R162). -/
  resident : Store (Nat × Store Nat) := []
  /-- Injected detections by engine: block, attempts (R212). -/
  inject : Store (Nat × Nat) := []
  /-- The engine that each core tests, plus 1. -/
  testing : Store Nat := []
  /-- Engines of each core that have failed, as a mask. -/
  failed : Store Nat := []
  deriving DecidableEq, Repr

/-- A request in a pseudo-channel queue (R254, R255). -/
structure DramReq where
  line  : Nat
  write : Bool
  /-- A partial write: read, merge, write (R257). -/
  rmw   : Bool := false
  svc   : Nat
  tc    : Nat
  /-- Elapsed time of entry; the half from which it is eligible (R259); its place in the slice's issue order. -/
  since : Nat
  half  : Nat := 0
  order : Nat := 0
  /-- It reached the age limit and was counted (R256). -/
  aged  : Bool := false
  /-- The read half of a read-modify-write is done and its bank is held (R257). -/
  held  : Bool := false
  /-- The bank of the line's place in the stack. -/
  bank  : Nat := 0
  /-- A corrected write-back (R268). -/
  wb    : Bool := false
  deriving DecidableEq, Repr

/-- A write-back entry (R269): its line, the symbols corrected, and whether it has been written back and awaits its
verify read. -/
structure WbEntry where
  line    : Nat
  symbols : List Nat
  written : Bool := false
  deriving DecidableEq, Repr

/-- A remap request (R275): kind, pseudo-channel, bank, position. -/
structure RemapReq where
  kind : Nat
  pc   : Nat
  bank : Nat
  pos  : Nat
  deriving DecidableEq, Repr

/-- The DRAM subsystem (chapter 9) beside the DRC, HPHY and EDAC pages. -/
structure Dram where
  /-- Symbol errors of the stored codeword of each line: (symbol, error value). -/
  faults  : Store (List (Nat × Nat)) := []
  /-- Lines that the checker test mode stored: data bytes and check symbols as stored (R278). -/
  raw     : Store (Option (Nat × Nat)) := []
  /-- Down channels of each core (R263), and channels of a core that reported an error in a frame: (frame, mask). -/
  down    : Store Nat := []
  chErr   : Store (Nat × Nat) := []
  /-- Pseudo-channels (core * 64 + pc) whose last training failed (R263). -/
  failed  : List Nat := []
  /-- The frame, plus 1, in which training (core * 2) and calibration (core * 2 + 1) last ran (R64). -/
  due     : Store Nat := []
  /-- Lines to be rewritten from the mirror or the replica, by core (R271, R302). -/
  repairs : Store (List Nat) := []
  wbq     : Store (List WbEntry) := []
  /-- Entries of the remap table in the order made, by core (the last may still be copying), and the requests behind the
  first (R275, R276). -/
  remaps  : Store (List Nat) := []
  waitq   : Store (List RemapReq) := []
  /-- Rows with corrections on a pin in this scrub pass, by (core * 64 + pc) * 64 + pin (R267). -/
  pinRows : Store (List Nat) := []
  /-- Queues by core * 64 + pc; requests that wait in their tags for a full queue; the direction
  (1 read, 2 write) and Fabric Time of the last transfer. -/
  queues  : Store (List DramReq) := []
  tags    : Store (List DramReq) := []
  lastWr  : Store (Nat × Nat) := []
  /-- Pseudo-channels whose write-queue raise is in force (R255). -/
  raised  : Store Nat := []
  /-- The last half of each pseudo-channel in deterministic mode: its number plus 1 and direction (R258). -/
  halves  : Store (Nat × Nat) := []
  /-- Elapsed time from which each bank may be activated, by (core * 64 + pc) * 64 + bank. -/
  ready   : Store Nat := []
  /-- Last four activates of each pseudo-channel (tFAW). -/
  acts4   : Store (List Nat) := []
  /-- Rolling activation counts of the banks, and the banks queued for RFMpb (R261). -/
  acts    : Store Nat := []
  rfmq    : Store (List Nat) := []
  /-- REFRESH slots since cold reset, by core, and the elapsed time of each SID's last refresh (R260); the order counter
  of issued requests, by core. -/
  refresh : Store Nat := []
  sidAt   : Store Nat := []
  issued  : Store Nat := []
  /-- BIST that runs: kind plus 1, by core. -/
  bist    : Store Nat := []
  deriving DecidableEq, Repr

/-- A way of a tag set (Table 10-2, Table 10-3). -/
structure Way where
  block    : Nat := 0
  state    : Nat := 0
  redirty  : Bool := false
  stranded : Bool := false
  access   : Nat := 0
  /-- The state before EVICTING (R304). -/
  prior    : Nat := 0
  deriving DecidableEq, Repr

/-- Why a way is emptied: what happens once it is INVALID. -/
inductive WayGoal where
  /-- Another block is filled into it. -/
  | fill (block : Nat)
  /-- A flush, a DROP or a key slot wants the block gone. -/
  | empty
  deriving DecidableEq, Repr

/-- A block of an NVMe command on the module's behalf (R294, R298): the key of its way, its LBA and drive, the data of a
write. Blocks that were joined share `cmd`. -/
structure TierOp where
  way   : Nat
  lba   : Nat
  drive : Nat
  write : Bool
  data  : Nat := 0
  /-- Slot of submission, place in its command, the command's number, and whether it has been retried. -/
  slot  : Nat := 0
  place : Nat := 0
  cmd   : Nat := 0
  again : Bool := false
  /-- A prefetch hint's, for which no access waits. -/
  hint  : Bool := false
  deriving DecidableEq, Repr

/-- Who waits for a block's fill. -/
inductive TierWaiter where
  | req (pid tag : Nat)
  | engine (ce : Nat)
  deriving DecidableEq, Repr

/-- A block of a drive as it is stored: ciphertext of `data` under a key (plus 1) and tweak; under key 0, `data` is what
the drive holds. -/
structure FlashBlk where
  key   : Nat := 0
  tweak : Nat := 0
  data  : Nat := 0
  deriving DecidableEq, Repr

/-- The flash tier (chapter 10) beside the TIER and PCIE pages. -/
structure Tier where
  /-- Namespace size of each drive in GiB (R284). -/
  size    : Store Nat := []
  /-- Ways by (core * 2^20 + set) * 8 + way; pseudo-LRU trees by core * 2^20 + set; what a way is emptied for. -/
  ways    : Store Way := []
  plru    : Store Nat := []
  goals   : Store (Option WayGoal) := []
  ops     : List TierOp := []
  /-- Operations that wait for room on their drives (R294), and the port whose turn is next (R295). -/
  waiting : List TierOp := []
  turn    : Nat := 0
  /-- Commands submitted so far. -/
  cmds    : Nat := 0
  /-- Accesses that wait for the fill of a block. -/
  waiters : List (Nat × TierWaiter) := []
  /-- Consecutive timeouts by port. -/
  slow    : Store Nat := []
  /-- Namespace 1 of the drives, by drive * 2^31 + LBA. -/
  flash   : Store FlashBlk := []
  /-- Pairs (by even port) that a drive loss has degraded: the lost port plus 1. -/
  lostOf  : Store Nat := []
  /-- The rebuild that runs: the new drive's port. -/
  rebuild : Option Nat := none
  /-- Drives whose sanitize was cut short and that need another (R408). -/
  unclean : List Nat := []
  /-- Drives declared lost and not brought up again (R299). -/
  gone    : List Nat := []
  /-- Ways whose last write-back failed (R297, R298). -/
  failed  : List Nat := []
  /-- The tag cache (R289): the tag sets that it holds of each partition, most recent first. -/
  tagc    : Store (List Nat) := []
  deriving DecidableEq, Repr

/-- A flit of the replay buffer (R327): its secured-frame counter, the key and salt that secure it, plus 1 (0 none), and
its plaintext payload. -/
structure TxFlit where
  seq  : Nat
  kind : Nat
  kph  : Bool
  ctr  : Nat
  key  : Nat
  body : Nat
  deriving DecidableEq, Repr

/-- A link message that the port sends (Table 11-6); a KEYX message by its type, length and content. -/
inductive LinkMsg where
  | creditCheck (nvc : Nat) (freed : List Nat)
  | lwcReq (width : Nat)
  | lwcGo (width lanes : Nat)
  | keyx (kxtype length content : Nat)
  deriving DecidableEq, Repr

/-- The configuration of TS3 (R315). -/
structure LinkConf where
  lanes : Nat := 0
  width : Nat := 0
  ver   : Nat := 0
  nvc   : Nat := 0
  afeat : Nat := 0
  deriving DecidableEq, Repr

/-- A fabric port's link layer (chapter 11) beside the PORT page. Masks of lanes by physical lane. -/
structure LinkPort where
  /-- Elapsed time of entry to the present training state; retrains that have failed in a row (R323). -/
  since    : Nat := 0
  failed   : Nat := 0
  /-- A retrain was asked for that may widen (R320). -/
  widen    : Bool := false
  /-- Lanes judged, lanes good, lanes whose peer reports EQ_DONE. -/
  judged   : Nat := 0
  good     : Nat := 0
  eqDone   : Nat := 0
  /-- Transmit equalizer settings by lane: pre-cursor, main, post-cursor steps from the preset. -/
  taps     : Store (Int × Int × Int) := []
  /-- The PLANE of the peer's lane plus 1, by physical lane. -/
  planes   : Store Nat := []
  /-- The last TS2 or TS3 and how many identical ones have come in a row. -/
  last     : Option TsBlock := none
  run      : Nat := 0
  /-- The configuration computed here. -/
  conf     : LinkConf := {}
  /-- Transmitter: next SEQ, replay buffer, elapsed time the replay timer started, replays since the acknowledgement
  last advanced, messages that wait for room. -/
  nextTx   : Nat := 0
  replay   : List TxFlit := []
  timerAt  : Nat := 0
  stuck    : Nat := 0
  ctrlQ    : List LinkMsg := []
  /-- Flits sent since cold training. The secured frame, the last of the replay buffer, that is being filled: elapsed time
  of its start, payload bytes laid. The bytes of a packet that the next frame goes on with: their number and value. -/
  total    : Nat := 0
  filling  : Option (Nat × Nat) := none
  carry    : Nat × Nat := (0, 0)
  /-- Receiver: E, the flits held, the elapsed time of a NAK, whether it discards until SEQ = E, whether any flit has been
  accepted, consecutive tag failures. -/
  e        : Nat := 0
  held     : List RxFlit := []
  nakAt    : Option Nat := none
  waiting  : Bool := false
  accepted : Bool := false
  tagRun   : Nat := 0
  /-- The bytes of a packet that has not ended, and the packets delivered and not yet taken by the transport layer. -/
  part     : List Nat := []
  inbox    : List Packet := []
  /-- Credits toward the peer by channel: R_v, the pool, S_v, G_v (R334, R335). -/
  rsv      : Store Nat := []
  pool     : Nat := 0
  sent     : Store Nat := []
  known    : Store Nat := []
  /-- As receiver: the units received since CONFIG, F_v, and the VC_RSV and POOL last advertised (R334, R336). -/
  got      : Store Nat := []
  freed    : Store Nat := []
  advRsv   : Store Nat := []
  advPool  : Nat := 0
  /-- The width asked for and the width of an LWC_GO whose switch is pending, plus 1; the receive direction's WIDTH. -/
  lwcAsk   : Nat := 0
  /-- The width to which a retrain has narrowed the link, plus 1 (R320); an LWC_REQ's width that waits, plus 1 (R322). -/
  cap      : Nat := 0
  deferred : Nat := 0
  /-- A KEYX message that has not ended: its type, the next fragment and their number (R386). -/
  frag     : Option (Nat × Nat × Nat) := none
  lwcPend  : Nat := 0
  rxWidth  : Nat := 0
  /-- Link messages sent, oldest first: the port's output. -/
  ctrl     : List LinkMsg := []
  deriving DecidableEq, Repr

/-- A packet that waits in an egress queue, or for the end of a drain. -/
structure Sending where
  pkt    : Packet
  /-- 0 MGMT, 1 FWD, 2 FSNP, 3 + PT RSP, 19 + PT SNP, 35 + PT COLL (R354). -/
  kind   : Nat
  /-- The partner it goes to. -/
  pid    : Option Nat := none
  /-- The source core; 16 for a packet of the port stage, the partition manager or another node. -/
  core   : Nat := 16
  /-- Fabric Time from which it may launch; elapsed time of its entry, and whether it has been counted as stalled
  (R337). -/
  ready  : Nat := 0
  queued : Nat := 0
  stalled : Bool := false
  /-- The routing table that chose its port: 0 row, 1 column; and whether the old bank did. -/
  dim    : Nat := 0
  old    : Bool := false
  /-- The request (PID, TAG) whose store entry frees when this response leaves (R363). -/
  frees  : Option (Nat × Nat) := none
  /-- The slot, plus 1, in which it was last held for want of hop credit (R374). -/
  held   : Nat := 0
  /-- It is sent once more after a return with ROUTE_STALE (R357). -/
  again  : Bool := false
  deriving DecidableEq, Repr

/-- Transport (chapter 12) beside the PORT, ROUTE and SHAPE pages. -/
structure Net where
  /-- Egress queues by port * 64 + queue, oldest first. -/
  egress  : Store (List Sending) := []
  /-- Packets that wait for the end of a drain: the port they arrived on plus 1, 0 for the module's own. -/
  waiting : List (Nat × Sending) := []
  /-- The ingress stores and the WB allowance (R363, R364). -/
  store   : List Req := []
  /-- Credits freed and not yet released, by PID, as the tokens each spends; the PIDs whose next release has been
  counted as withheld. -/
  owed    : Store (List Nat) := []
  heldBack : List Nat := []
  /-- Elapsed time of the last release of each PID (R368). -/
  lastRel : Store Nat := []
  /-- The ECRED last sent to each PID, and the elapsed time of its last change. -/
  sent    : Store Nat := []
  changed : Store Nat := []
  /-- Routing entries by bank * 512 + table * 256 + index. -/
  route   : Store Nat := []
  /-- Elapsed time of the FLIP whose drain runs (R359), and the end of the old bank's use (R360). -/
  drainAt : Nat := 0
  oldEnd  : Nat := 0
  /-- Policer buckets by partition: tenths of a byte spent from a full bucket, and elapsed time of the last fill. -/
  policer : Store (Nat × Nat) := []
  /-- Shaper buckets by port * 32 + flow, in the same form but in fortieths of a byte; deficits by port * 64 + entry; the entry served. -/
  shaper  : Store (Nat × Nat) := []
  deficit : Store Nat := []
  turn    : Store Nat := []
  /-- The FWD flow's alternation: the queue served last by each port (R371). -/
  fwdLast : Store Nat := []
  /-- Stamped or late packets that wait for their processing slot: port, packet, absolute slot (0 = any slot of the
  partition after arrival), arrival time (R68). -/
  arrived : List (Nat × Packet × Nat × Nat) := []
  /-- The Fabric Time, in 1/96 ns, at which the transfer of the packet launched last on a port ends (R54). -/
  lineEnd : Store Nat := []
  /-- Packets of the module's own that have left for the second time, after a return with ROUTE_STALE (R357). -/
  resent  : List Packet := []
  /-- Packets launched, oldest first, with their port: the module's output. -/
  wire    : List (Nat × Packet) := []
  deriving DecidableEq, Repr

/-- A muslin scrub that runs (R405, R406): its cores and drives, the drives still sanitizing, and the scrub snoops owed
as (PID, elapsed time sent). -/
structure Scrub where
  cores  : List Nat
  drives : List Nat
  owed   : List (Nat × Nat) := []
  /-- A warm reset has cut it short; it restarts when the reset completes (R408). -/
  restart : Bool := false
  deriving DecidableEq, Repr

/-- Partitions (R394 to R396, R517, R518) beside the PART page. Sets of partitions and cores are bit masks. -/
structure Parts where
  /-- The partition that owns each stack core, plus 1. -/
  owner    : Store Nat := []
  /-- The secondary of each primary, plus 1 (R23). -/
  sec      : Store Nat := []
  /-- Primaries whose copy to a new secondary runs (R517). -/
  copying  : BitVec 16 := 0
  /-- Primaries whose pair lost a core: the pair is not whole (R25). -/
  broken   : BitVec 16 := 0
  /-- Regions (named by their primary) whose fail-over runs: their requests wait (R24). -/
  failing  : BitVec 16 := 0
  /-- The core that serves a region after a fail-over, plus 1 (R24). -/
  home     : Store Nat := []
  /-- Partitions that lost a core since their last accepted configuration (Table 13-4). -/
  lostOne  : BitVec 16 := 0
  /-- Partitions whose quiesce has completed (R395). -/
  quiesced : BitVec 16 := 0
  scrubs   : Store (Option Scrub) := []
  deriving DecidableEq, Repr

/-- The kept release key pair of a partition (R398). -/
structure Release where
  seed  : Nat
  hash  : Nat
  gen   : Nat
  /-- Frame of the quote. -/
  frame : Nat
  deriving DecidableEq, Repr

/-- A link key exchange of a port (R386 to R391). -/
structure KeyX where
  /-- Elapsed time of its start. -/
  start   : Nat
  /-- It runs in KEYING (true) or rotates in ACTIVE (false). -/
  cold    : Bool
  /-- The transcript so far, as the numbers of the messages, their own random seeds, and the ROT count. -/
  script  : List Nat := []
  seed    : Nat := 0
  nonce   : Nat := 0
  rot     : Nat := 0
  /-- New keys are derived; READY of the peer has come. -/
  derived : Bool := false
  ready   : Bool := false
  deriving DecidableEq, Repr

/-- The security root (chapter 13) beside its pages: fuses, the key store, the staging window and the buffers. -/
structure Security where
  /-- The fuse words by word number (Table 13-1 and R418), as the SEC-DED decoder gives them. -/
  fuses     : Store Nat := []
  /-- BOOT_NONCE (R383). -/
  bootNonce : Nat := 0
  /-- Core keys CK_n plus 1; 0 where none is held. -/
  ck        : Store Nat := []
  /-- Muslin scrubs of each core since cold reset. -/
  scrubs    : Store Nat := []
  /-- Tier keys TK_p plus 1. -/
  tk        : Store Nat := []
  /-- Image keys of the key slots plus 1. -/
  imageKey  : Store Nat := []
  /-- Scrub key K_T plus 1. -/
  kt        : Nat := 0
  /-- DIK and AK seeds plus 1; 0 where there is no identity. -/
  dik       : Nat := 0
  ak        : Nat := 0
  /-- Link keys and salts per port: (transmit, receive), each as key * 2^32 + salt, plus 1. -/
  linkKey   : Store (Nat × Nat) := []
  /-- The new link keys of a rotation, and the previous transcript hash of each port. -/
  linkNext  : Store (Nat × Nat) := []
  linkTh    : Store Nat := []
  linkRot   : Store Nat := []
  kx        : Store (Option KeyX) := []
  releases  : Store (Option Release) := []
  /-- The staging window by byte (R392). -/
  window    : Store Nat := []
  /-- SVN of the staged image. -/
  stagedSvn : Nat := 0
  /-- The image in the boot flash that the next cold reset loads: its SVN and SHA3-512. -/
  flashSvn  : Nat := 0
  flashHash : Nat := 0
  /-- The quote buffer's bytes (R397), and the quote that waits to be delivered. -/
  qbuf      : List Nat := []
  qnext     : List Nat := []
  /-- The state a key slot enters once its range is evicted, plus 1 (R399). -/
  slotNext  : Store Nat := []
  /-- Completion status plus 1 of the measurement of each image slot (R402). -/
  imgStatus : Store Nat := []
  /-- Image slots whose descriptor waits for room in its FIFO. -/
  imgWait   : List Nat := []
  /-- The release record's bytes (R400). -/
  record    : Store Nat := []
  /-- A debug level accepted and not yet in force, plus 1 (R410). -/
  debugNext : Nat := 0
  /-- TRNG draws made so far (R384). -/
  draws     : Nat := 0
  /-- What a transition, verification or release that runs will report at its end: result plus 1. -/
  lcNext    : Nat := 0
  relNext   : Nat := 0
  deriving DecidableEq, Repr

/-- Power control beside the PWR and CLK pages (R419 to R440). -/
structure Power where
  /-- Slot number plus 1 up to which each throttle reason has been counted in THR_DUR (R439). -/
  thrSlot   : Store Nat := []
  /-- Elapsed time at which the deferred change of a core may start, plus 1; 0 when none is set (R423). -/
  deferAt   : Store Nat := []
  /-- Sixteenths that issued in the last filler window of each core: A of R430. -/
  filler    : Store Nat := []
  /-- The filler floor in force in the present window of each core (R430). -/
  floor     : Store Nat := []
  /-- R0, the release rate before the loop first entered level 18, and the releases of the present period (R425). -/
  rate0     : Nat := 0
  released  : Nat := 0
  /-- Releases each partition may still make in the present period under stage C (R425). -/
  tokens    : Store Nat := []
  /-- Frequency of each core in units of 0.5 MHz (R419, R420). -/
  freq      : Store Nat := []
  /-- The monitor step that a deferral holds back: 1 down, 2 up (R423). -/
  held      : Store Nat := []
  /-- The lost phases of each rail (R30), keyed rail * 16 + phase. -/
  lost      : List (Nat × Nat) := []
  /-- Sensor temperatures: 0-20 die, 21-36 DRAM stacks (R432), 64 + rail the hottest phase of a rail. -/
  temps     : Store Nat := []
  /-- Setpoint of each stack rail in 0.1 mV (R421). -/
  vstk      : Store Nat := []
  /-- DRAM commands of the present period, by core * 8 + kind (0 activate, 1 line read, 2 line written, 3 REFpb,
  4 RFMpb), and charged bytes: launched, by port * 64 + queue, and received, by port * 32 + partition (16: of none)
  (R440). -/
  work      : Store Nat := []
  sentBytes : Store Nat := []
  gotBytes  : Store Nat := []
  /-- VDRAM and VDDQ are off (R434, R506). -/
  dramOff   : Bool := false
  /-- The stacks are in self refresh (R438, R469). -/
  selfRef   : Bool := false
  deriving DecidableEq, Repr

/-- A message that leaves through a Selvedge port (Tables 15-1 and 16-3). -/
inductive SelvMsg where
  | hello (vmin vmax modId serial : Nat)
  | renewAck (seq leaseUs holder epoch : Nat)
  | claimRsp (status epoch : Nat)
  /-- `cause` is absent under Selvedge 1.0 (R446). -/
  | controlChange (holder epoch : Nat) (cause : Option Nat)
  | delayReq
  | regRsp (tag epoch status performed : Nat) (data : List Nat)
  /-- EVENT with the port's event sequence number (R487). -/
  | event (seq page : Nat) (resync : Bool) (evt en time : Nat)
  deriving DecidableEq, Repr

/-- An event message that waits in an event queue (R487). -/
structure EvtMsg where
  page   : Nat
  resync : Bool
  evt    : Nat
  en     : Nat
  time   : Nat
  deriving DecidableEq, Repr

/-- The lease of a Selvedge port (R447, Table 15-12). -/
inductive LeaseState where
  | none | live | expired
  deriving DecidableEq, Repr

/-- One Selvedge port. `start` and `since` are elapsed nanoseconds: the lease's last start and the start of its
unbroken life (R447, R453). -/
structure SelvPort where
  lease  : LeaseState := .none
  start  : Nat := 0
  since  : Nat := 0
  queue  : List EvtMsg := []
  seq    : Nat := 0
  out    : List SelvMsg := []
  /-- Where its frames go: the source of the last valid frame received, at first the broadcast address (R498). -/
  peer   : Nat := 0xFFFFFFFFFFFF
  deriving DecidableEq, Repr

/-- Control of the module (R448 to R454) beside the TOP.CTL_STS register. -/
structure Control where
  selv       : Store SelvPort := []
  /-- The present holder, or the last one since reset. -/
  lastHolder : Nat := 0
  /-- The port that held control before the present holder (0 none, 1 SELV-A, 2 SELV-B) and its epoch (R450). -/
  prevHolder : Nat := 0
  prevEpoch  : Nat := 0
  /-- Elapsed time at which the dual-command window closes. -/
  windowEnd  : Nat := 0
  /-- There was a holder since the last reset (R449). -/
  hadHolder  : Bool := false
  /-- The NO_HOLDER entry of this loss has been made (R454). -/
  noHolderLogged : Bool := false
  /-- The output pins held while the module has no holder: LED_STAT_N on, LED_FAULT_N on, ALERT_N, FAN duty (R451). -/
  held       : Option (Bool × Bool × Bool × Nat) := none
  /-- The R14 latch of each source (0 SELV-A, 1 SELV-B, 2 debug port): LO register address plus 1, high word. -/
  latch      : Store (Nat × Nat) := []
  deriving DecidableEq, Repr

/-- The debug test access port: words of the message coming in, words of the response going out (R513). -/
structure DebugPort where
  /-- The instruction in force and the data register it last captured. -/
  ir       : Nat := 0xFF
  dr       : Nat := 0
  inWords  : List Nat := []
  outWords : List Nat := []
  deriving DecidableEq, Repr

/-- The 42 V input stage and the internal reset (R506, R507). -/
structure InputStage where
  applied : Bool := true
  good    : Bool := true
  vaux    : Bool := true
  inReset : Bool := false
  /-- The strap contacts as last sampled or seen (Table 15-3, bits as the STRAPS register). -/
  straps  : Nat := 0
  /-- INPUT_LOW holds (R436). -/
  low     : Bool := false
  /-- The REFCLK outputs of the root ports run (R510). -/
  refclk  : Bool := false
  /-- The PERST_N outputs of the root ports: bit `d` is 1 while that of root port `d` is high (R510). -/
  perst   : BitVec 16 := 0
  deriving DecidableEq, Repr

/-- An entry of the fault log (Table 15-9). -/
structure FaultEntry where
  seq   : Nat
  cls   : Nat
  rsv   : Bool
  lost  : Bool
  code  : Nat
  pt    : Option Nat
  page  : Nat
  unit  : Nat
  time  : Nat
  info  : Nat
  deriving DecidableEq, Repr

/-- Bring-up beside TOP.SEQ_STS (R458 to R463): what the steps have established, and the start-up failures. -/
structure Boot where
  /-- M7 is DONE after the last cold reset (R460). -/
  initialised : Bool := false
  /-- M10 is DONE since the last reset. -/
  admitted    : Bool := false
  /-- M11 is DONE since the last reset. -/
  service     : Bool := false
  /-- Cores that the unit map makes absent. -/
  absent      : BitVec 16 := 0
  /-- The units that failed a start-up test, in the order found: entry in the format of R380, and step (R462). -/
  yield       : List (Nat × Nat) := []
  /-- The work of the step that runs: 0 not done, else the failure code that it found plus 1 (0 for none; Table 15-6). -/
  work        : Nat := 0
  /-- The last reset: 0 cold, 1 warm with every step in full, 2 warm with the fast path (R460). -/
  path        : Nat := 0
  /-- Lanes of each port, and root ports, that the unit map takes out of use (R463). -/
  badLanes    : Store Nat := []
  badRoots    : BitVec 16 := 0
  /-- Faults were lost since the last entry was made: the next entry carries LOST (R467). -/
  faultsLost  : Bool := false
  deriving DecidableEq, Repr

/-- The state of the module. -/
structure State where
  /-- The commands that wait, first in, first out. -/
  pending : List Instr := []
  /-- Every register field that does not hold its reset value, by `Fld.key`. -/
  regs    : Store Nat := []
  /-- The DRAM of every stack: bytes keyed core * 2^36 + stack offset, as the encryption boundary shows them. -/
  mem     : Store Byte := []
  /-- How many free values the machine has drawn (the model's own field, DESIGN CHOICE, log 1). -/
  freeCtr : Nat := 0
  xlt     : Xlt := {}
  coh     : Coh := {}
  eng     : Engines := {}
  dram    : Dram := {}
  tier    : Tier := {}
  links   : Store LinkPort := []
  net     : Net := {}
  parts   : Parts := {}
  sec     : Security := {}
  pwr     : Power := {}
  ctl     : Control := {}
  dbg     : DebugPort := {}
  input   : InputStage := {}
  log     : List FaultEntry := []
  boot    : Boot := {}
  time    : TimeUnit := {}
  ging    : Gingham := {}
  runs    : Store (Option DetRun) := []
  deriving DecidableEq, Repr



/-- The fuses of the part that the model powers up as: VPF-P960-S, stepping B0, SEALED (PRESUMED, log 34). -/
def resetFuses : Store Nat := [(0, 1 + 16 + 16 * 32 + 0xB0 * 65536), (3, 1)]

/-- An entry of the default table of a part with `cores` stack cores, by slot and column (R62). -/
def defaultEntry (cores sl col : Nat) : Nat :=
  if col < 48 then (if sl = 63 then 0xA0 else 0)
  else if cores ≤ col - 48 then 0
  else if sl % 16 = 2 * (col % 8) then 0xC0
  else if sl = 2 * (col % 8) + 1 then 0xD0
  else 0

/-- The default table as bank A's entries (R62). -/
def defaultTable (cores : Nat) : Store Nat :=
  (List.range 4096).filterMap fun i =>
    let e := defaultEntry cores (i / 64) (i % 64)
    if e = 0 then none else some (i, e)

/-- The register fields that do not hold their tables' reset values after the reset: those of the fuses.
(PRESUMED, log 34) -/
def resetRegs : Store Nat :=
  [(FUSE.PART_INFO_PART, 1), (FUSE.PART_INFO_PROFILE, 1), (FUSE.PART_INFO_STACKS, 16), (FUSE.PART_INFO_STEPPING, 0xB0),
   (FUSE.LIFECYCLE_STATE, 1)].foldl (fun m (e : Fld × Nat) => Store.set e.1.reset m e.1.key e.2) []

/-- The machine right after reset: the internal reset has just been released after power-on with every strap 0
(R455, R457, R507). (PRESUMED, log 34) -/
def State.reset : State :=
  { regs := resetRegs, sec := { fuses := resetFuses }, ging := { bank := defaultTable 16 }, pwr := { dramOff := true } }

end Sys2Proof.Machine
end

