-- ==== Sys2Proof/Machine/Ops.lean ====
section
/-!
DEFINITION. The named operations that every family shares: register fields, the clocks, events and their messages
(R484 to R488), the fault log and the latch (R467 to R469), unit presence (R474), free values.
-/

namespace Sys2Proof.Machine

/-! Register fields. -/

/-- The value of a register field. -/
def getF (s : State) (f : Fld) : Nat := Store.get f.reset s.regs f.key

/-- Write a register field: the value keeps the field's width, and a field at its reset value is not listed. -/
def setF (s : State) (f : Fld) (v : Nat) : State :=
  { s with regs := Store.set f.reset s.regs f.key (v % 2 ^ f.width) }

/-- A one-bit field as a truth value. -/
def flag (s : State) (f : Fld) : Bool := getF s f != 0

/-- Write a one-bit field. -/
def setB (s : State) (f : Fld) (b : Bool) : State := setF s f b.toNat

/-- Add to a counter that saturates at its width. -/
def addF (s : State) (f : Fld) (n : Nat) : State := setF s f (min (getF s f + n) (2 ^ f.width - 1))

/-- Count one in a counter that saturates. -/
def bumpF (s : State) (f : Fld) : State := addF s f 1

/-- Add to a counter that wraps at its width. -/
def wrapF (s : State) (f : Fld) (n : Nat) : State := setF s f (getF s f + n)

/-- Bit `i` of a field. -/
def bitF (s : State) (f : Fld) (i : Nat) : Bool := (getF s f).testBit i

/-- A number with bit `i` set or cleared. -/
def withBit (v i : Nat) (b : Bool) : Nat :=
  if v.testBit i then (if b then v else v - 2 ^ i) else (if b then v + 2 ^ i else v)

/-- Set or clear bit `i` of a field. -/
def setBitF (s : State) (f : Fld) (i : Nat) (b : Bool) : State := setF s f (withBit (getF s f) i b)

/-- Write the low half of a 64-bit value's field, and so on: bits `[lsb + w - 1 : lsb]` of `v` replaced by `x`. -/
def insertBits (v lsb w x : Nat) : Nat :=
  v % 2 ^ lsb + (x % 2 ^ w) * 2 ^ lsb + v / 2 ^ (lsb + w) * 2 ^ (lsb + w)

/-- Bits `[lsb + w - 1 : lsb]` of a number. -/
def bitsOf (v lsb w : Nat) : Nat := v / 2 ^ lsb % 2 ^ w

/-- Apply an operation for each element of a list, in order. -/
def forAll {α : Type} (l : List α) (f : State → α → State) (s : State) : State := l.foldl f s

/-- The numbers below `n`. -/
def upTo (n : Nat) : List Nat := List.range n

/-! Free values (DESIGN CHOICE, log 1). -/

/-- A fresh free value of `w` bits. (DESIGN CHOICE, log 1) -/
def freeNat (s : State) (w : Nat) : Nat × State :=
  ((Config.free w s.freeCtr).toNat, { s with freeCtr := s.freeCtr + 1 })

/-! Presence of units (R2, R463, R474). -/

/-- The stack cores the part fits (Table 00-1): PART 3 is the VPF-P480-F. -/
def fittedCores (s : State) : Nat := if getF s FUSE.PART_INFO_PART = 3 then 8 else 16

/-- A core declared lost since the last cold reset (R20). -/
def lostCore (s : State) (c : Nat) : Bool := bitF s TOP.CORE_MAP_LOST c

/-- A core that is fitted, not made absent by the unit map, and not lost. -/
def coreUp (s : State) (c : Nat) : Bool :=
  decide (c < fittedCores s) && !s.boot.absent.getLsbD c && !lostCore s c

/-- The cores in service, in ascending order. -/
def coresUp (s : State) : List Nat := (upTo 16).filter (coreUp s)

/-- The core whose stack domain a page belongs to. -/
def pageCore (p : Nat) : Option Nat :=
  match pageBlock p with
  | some (.score, n) => some n
  | some (.eng, n) => some (n / 16)
  | some (.drc, n) => some n
  | some (.hphy, n) => some n
  | some (.edac, n) => some n
  | some (.dir, n) => some n
  | _ => none

/-- Whether a page belongs to a unit in service (R474). (DEDUCED, log 121) -/
def pagePresent (s : State) (p : Nat) : Bool :=
  match pageBlock p with
  | none => false
  | some _ => match pageCore p with
    | some c => coreUp s c
    | none => true

/-- Advance a partition's CONFIG_GEN (R396). (DEDUCED, log 90) -/
def bumpConfigGen (s : State) (pt : Nat) : State := wrapF s (ATT.GEN pt) 1

/-! Modes. -/

/-- The module is latched (R469). -/
def latched (s : State) : Bool := flag s FAULT.LOG_STS_LATCHED

/-- VAUX is up and the internal reset is released: the management complex runs. -/
def managed (s : State) : Bool := s.input.vaux && !s.input.inReset

/-- The module does its work: managed, not latched. -/
def alive (s : State) : Bool := managed s && !latched s

/-- `f s` while the module is alive; nothing otherwise. (DESIGN CHOICE, log 37) -/
def whenAlive (s : State) (f : State → State) : State := if alive s then f s else s

/-- `f s` while the management complex runs; nothing otherwise. (DESIGN CHOICE, log 37) -/
def whenManaged (s : State) (f : State → State) : State := if managed s then f s else s

/-- Deterministic mode is in force (R65). -/
def detOn (s : State) : Bool := flag s TOP.DET_MODE_ACTIVE

/-- A marionette step is running (R458). -/
def stepRunning (s : State) (n : Nat) : Bool :=
  getF s TOP.SEQ_STS_STATE = 1 && getF s TOP.SEQ_STS_STEP = n

/-- The step in SEQ_STS shows DONE and is at least `n`. -/
def stepDoneAtLeast (s : State) (n : Nat) : Bool :=
  let k := getF s TOP.SEQ_STS_STEP
  let st := getF s TOP.SEQ_STS_STATE
  decide (k < 15) && (decide (n < k) || (k == n && st == 2))

/-! The clocks (R10, R51). -/

/-- The frame number of the present Fabric Time. -/
def frameOf (s : State) : Nat := s.time.ft / 4096

/-- The slot of the present Fabric Time. -/
def slotOf (s : State) : Nat := s.time.ft / 64 % 64

/-- The frequency ceiling in MHz of a point of Table 14-2. -/
def ceilMHz (p : Nat) : Nat :=
  match p with
  | 0 => 800 | 1 => 900 | 2 => 1000 | 3 => 1100 | 4 => 1200 | _ => 1250

/-- The fused Fmax of a core in units of 0.5 MHz (R418): 1.1 GHz + 12.5 MHz a step, steps above 12 act as 12. -/
def fmaxHalf (s : State) (c : Nat) : Nat := 2200 + 25 * min (getF s (CLK.CORE_CLK_FMAX_STEP c)) 12

/-- A core whose partition is floating: it runs from SYNTH (R419). -/
def floating (s : State) (c : Nat) : Bool := coreUp s c && !flag s (CLK.CORE_CLK_PINNED c)

/-- The present frequency of a core in units of 0.5 MHz. -/
def freqHalf (s : State) (c : Nat) : Nat := Store.get 2200 s.pwr.freq c

/-- The highest frequency a floating core may run at: the lesser of its ceiling and its fused Fmax (R419). -/
def limitHalf (s : State) (c : Nat) : Nat := min (2 * ceilMHz (getF s (CLK.CORE_CLK_CEIL c))) (fmaxHalf s c)

/-- A floating core below its ceiling and its Fmax (Table 14-6, TRIM). -/
def trimmed (s : State) (c : Nat) : Bool := floating s c && decide (freqHalf s c < limitHalf s c)

/-- Whether throttle reason `r` of Table 14-6 holds now (R439). -/
def reasonHolds (s : State) (r : Nat) : Bool :=
  let lvl := getF s PWR.PWR_STS_LEVEL
  let th := getF s PWR.PWR_STS_THERM_LEVEL
  match r with
  | 0 => decide (1 ≤ lvl ∧ lvl ≤ 5)
  | 1 => decide (6 ≤ lvl ∧ lvl ≤ 17)
  | 2 => decide (18 ≤ lvl)
  | 3 => decide (0 < th ∧ lvl < th)
  | 4 => flag s PWR.PWR_STS_FAST
  | 5 => (upTo 16).any fun c => flag s (CLK.CORE_CLK_STRETCH c)
  | 6 => (upTo 16).any fun c => flag s (CLK.CORE_CLK_DEFER c)
  | 7 => s.input.low
  | 8 => (upTo 16).any (trimmed s)
  | _ => false

/-- PWR.THR_ACTIVE. -/
def thrActive (s : State) : Nat := (upTo 9).foldl (fun v r => v + if reasonHolds s r then 2 ^ r else 0) 0

/-- Count the slots from Fabric Time `t` to `t + dt` in THR_DUR of reason `r`, each slot once (R439). -/
def countReason (t dt : Nat) (s : State) (r : Nat) : State :=
  if dt ≠ 0 ∧ reasonHolds s r then
    let hi := (t + dt - 1) / 64 + 1
    let lo := max (t / 64) (Store.get 0 s.pwr.thrSlot r)
    { wrapF s (PWR.THR_DUR r) (hi - lo) with
      pwr := { s.pwr with thrSlot := Store.set 0 s.pwr.thrSlot r (max hi (Store.get 0 s.pwr.thrSlot r)) } }
  else s

/-- Time stretched (CLK.STRETCH) of a core (R422). -/
def countStretch (dt : Nat) (s : State) (c : Nat) : State :=
  if flag s (CLK.CORE_CLK_STRETCH c) then wrapF s (CLK.STRETCH c) dt else s

/-- Count DRAM commands of a core for the energy of the period (R440): 0 activate, 1 line read, 2 line written, 3 REFpb,
4 RFMpb. -/
def countWork (s : State) (c kind n : Nat) : State :=
  { s with pwr := { s.pwr with work := Store.set 0 s.pwr.work (c * 8 + kind) (Store.get 0 s.pwr.work (c * 8 + kind) + n) } }

/-- Let `dt` elapsed nanoseconds pass, in which Fabric Time advances by `dft`. (DESIGN CHOICE, log 4) -/
def advanceBy (s : State) (dt dft : Nat) : State :=
  let s1 := forAll (upTo 9) (countReason s.time.ft dt) s
  let s2 := forAll (upTo 16) (countStretch dt) s1
  { s2 with time := { s2.time with elapsed := s2.time.elapsed + dt, ft := (s2.time.ft + dft) % 2 ^ 64 } }

/-- Let the clocks reach Fabric Time `t`; nothing when it has passed (DESIGN CHOICE, log 4). -/
def advanceFt (s : State) (t : Nat) : State :=
  if s.time.ft < t then advanceBy s (t - s.time.ft) (t - s.time.ft) else s

/-- Let the clocks reach elapsed time `e`; nothing when it has passed (DESIGN CHOICE, log 4). -/
def advanceEl (s : State) (e : Nat) : State :=
  if s.time.elapsed < e then advanceBy s (e - s.time.elapsed) (e - s.time.elapsed) else s

/-- Let the clocks reach the next frame boundary; nothing when they stand at one. (DESIGN CHOICE, log 4) -/
def toFrameStart (s : State) : State := advanceFt s ((s.time.ft + 4095) / 4096 * 4096)

/-- The first time at or after `t` that is `place` modulo `period`. -/
def nextPlace (t period place : Nat) : Nat := t + (place + period - t % period) % period

/-- Let the clocks reach the next occurrence of the periodic event `id` (Table 03-6), which takes place once at each
time that is `place` modulo `period`. (DESIGN CHOICE, log 4) -/
def atPeriodic (s : State) (id period place : Nat) : State :=
  let t := nextPlace (max s.time.ft (Store.get 0 s.time.last id)) period place
  let s1 := advanceFt s t
  { s1 with time := { s1.time with last := Store.set 0 s1.time.last id (t + 1) } }

/-! Events (R484 to R488). -/

/-- A Selvedge port. -/
def getSelv (s : State) (m : Nat) : SelvPort := Store.get {} s.ctl.selv m

/-- Replace a Selvedge port. -/
def setSelv (s : State) (m : Nat) (p : SelvPort) : State :=
  { s with ctl := { s.ctl with selv := Store.set {} s.ctl.selv m p } }

/-- The link of a Selvedge port is up. -/
def selvUp (s : State) (m : Nat) : Bool := flag s (SELV.LINK_STS_UP m)

/-- The Selvedge port that holds control, 0 or 1. -/
def holder (s : State) : Option Nat :=
  match getF s TOP.CTL_STS_HOLDER with
  | 1 => some 0
  | 2 => some 1
  | _ => none

/-- A frame that a Selvedge port takes (R498): the EtherType of Selvedge, a frame check sequence that passes, and a payload
of the length that WORDS gives, padded to the least payload of a frame, 46 bytes. (DEDUCED, log 147) -/
def frameOk (f : SelvFrame) : Bool := f.etherType == 0x88B5 && f.fcsOk && f.len == max 46 (8 + 4 * f.words)

/-- The sender of a valid frame is where the port's frames go from then on (R498). (DESIGN CHOICE, log 147) -/
def noteSender (s : State) (f : SelvFrame) : State := setSelv s f.port { getSelv s f.port with peer := f.src }

/-- A message that comes in a frame: its sender is noted; another frame is discarded (R498).
(DESIGN CHOICE, log 147) -/
def onFrame (f : SelvFrame) (g : State → State) (s : State) : State :=
  if frameOk f then g (noteSender s f) else s

/-- Put a message out of a Selvedge port whose link is up. -/
def sendSelv (s : State) (m : Nat) (x : SelvMsg) : State :=
  if selvUp s m then
    let p := getSelv s m
    setSelv s m { p with out := p.out ++ [x] }
  else s

/-- The ports a page's messages go to (R486). -/
def routePorts (s : State) (page : Nat) : List Nat :=
  let ups := [0, 1].filter (selvUp s)
  match getF s (HDR.ROUTE page) with
  | 0 => match holder s with
    | some m => [m].filter (selvUp s)
    | none => ups
  | 1 => if selvUp s 0 then [0] else ups
  | 2 => if selvUp s 1 then [1] else ups
  | _ => ups

/-- Queue an event message to a port: a waiting message of the page takes the new contents; a full queue loses the
message but not its number (R487, R488). -/
def queueEvt (x : EvtMsg) (s : State) (m : Nat) : State :=
  let p := getSelv s m
  if p.queue.any (fun y => y.page == x.page) then
    setSelv s m { p with queue := p.queue.map fun y =>
      if y.page = x.page then { x with resync := x.resync || y.resync } else y }
  else if p.queue.length < 64 then setSelv s m { p with queue := p.queue ++ [x] }
  else setSelv s m { p with seq := (p.seq + 1) % 65536 }

/-- The message of a page as it stands now (R485). -/
def evtMsg (s : State) (page : Nat) (resync : Bool) : EvtMsg :=
  ⟨page, resync, getF s (HDR.EVT page), getF s (HDR.EVT_EN page), s.time.ft⟩

/-- Form the event message of a page (R484): none while MSG_HOLD is 1. -/
def formEvt (s : State) (page : Nat) : State :=
  if flag s (HDR.MSG_HOLD page) then s
  else forAll (routePorts s page) (queueEvt (evtMsg s page false)) s

/-- An event on bit `i` of a page: the bit is set, and an enabled bit that was 0 forms a message.
(DEDUCED, log 121) -/
def raise (s : State) (page i : Nat) : State :=
  if pagePresent s page then
    if bitF s (HDR.EVT page) i then s
    else
      let s1 := setBitF s (HDR.EVT page) i true
      if bitF s (HDR.EVT_EN page) i then formEvt s1 page else s1
  else s

/-- Every page that can raise an event, in ascending order. -/
def eventPages : List Nat :=
  [0x0000, 0x0008, 0x0010, 0x0011, 0x0020, 0x0021, 0x0022, 0x0030, 0x0040, 0x0048, 0x0049]
  ++ (upTo 16).map (0x0100 + ·)
  ++ (upTo 16).flatMap (fun c => (upTo 9).map (fun e => 0x0200 + c * 16 + e))
  ++ (upTo 16).map (0x0310 + ·) ++ (upTo 16).map (0x0320 + ·) ++ (upTo 16).map (0x0330 + ·)
  ++ [0x0400, 0x0500] ++ (upTo 16).map (0x0510 + ·) ++ (upTo 48).map (0x0600 + ·) ++ [0x0700, 0x0800]

/-- Resynchronise port `m` (R488). -/
def resync (s : State) (m : Nat) : State :=
  forAll eventPages (fun s p =>
    if pagePresent s p && (routePorts s p).contains m && !flag s (HDR.MSG_HOLD p)
        && (getF s (HDR.EVT p) &&& getF s (HDR.EVT_EN p)) != 0
    then queueEvt (evtMsg s p true) s m else s) s

/-- EVT_PENDING of a page (R487). -/
def evtPending (s : State) (page : Nat) : Bool :=
  [0, 1].any fun m => (getSelv s m).queue.any (fun y => y.page == page)

/-- Send the head of a port's event queue: it takes the port's next sequence number (R487). (DESIGN CHOICE, log 9) -/
def sendEvt (s : State) (m : Nat) : State :=
  let p := getSelv s m
  match p.queue with
  | [] => s
  | x :: q => if selvUp s m then
      setSelv s m { p with queue := q, seq := (p.seq + 1) % 65536,
                           out := p.out ++ [.event p.seq x.page x.resync x.evt x.en x.time] }
    else s

/-- Set IGNORED of a page (R483). -/
def ignored (s : State) (page : Nat) : State := setB s (HDR.IGNORED page) true

/-! The fault log and the latch (R466 to R469). -/

/-- Classes 1 to 15 are critical (R465). -/
def critical (cls : Nat) : Bool := decide (cls < 16)

/-- General entries in use. -/
def generalUsed (s : State) : Nat := (s.log.filter (fun e => !e.rsv)).length

/-- Reserved entries in use. -/
def reservedUsed (s : State) : Nat := (s.log.filter (fun e => e.rsv)).length

/-- Latch the module (R469): FATAL_N, the cause and the class; the DRAM stacks enter self refresh. -/
def latch (s : State) (cause cls : Nat) : State :=
  if latched s then s
  else
    let s1 := setB s FAULT.LOG_STS_LATCHED true
    let s2 := setF (setF s1 FAULT.FATAL_CAUSE_CAUSE cause) FAULT.FATAL_CAUSE_CLASS cls
    raise { s2 with pwr := { s2.pwr with selfRef := true } } 0x0040 3

/-- Put an entry into the log, in the area given. -/
def logEntry (s : State) (rsv : Bool) (cls code : Nat) (pt : Option Nat) (page unit info : Nat) : State :=
  let e : FaultEntry := ⟨getF s FAULT.SEQ_NEXT_SEQ, cls, rsv, s.boot.faultsLost, code, pt, page, unit, s.time.ft, info⟩
  let s1 := { s with log := s.log ++ [e], boot := { s.boot with faultsLost := false } }
  let s2 := wrapF s1 FAULT.SEQ_NEXT_SEQ 1
  let s3 := if s.log.isEmpty then raise s2 0x0040 0 else s2
  if critical cls then raise s3 0x0040 1 else s3

/-- A fault (R467): a free general entry, for a critical class else a free reserved entry, else the class's overflow
counter; a critical overflow latches the module. -/
def faultEntry (s : State) (cls code : Nat) (pt : Option Nat) (page unit info : Nat) : State :=
  if generalUsed s < 496 then logEntry s false cls code pt page unit info
  else if critical cls then
    if reservedUsed s < 16 then logEntry s true cls code pt page unit info
    else latch (bumpF s (FAULT.OVF_COUNT_COUNT cls)) 3 cls
  else
    let s1 := setB (bumpF s (FAULT.OVF_COUNT_COUNT cls)) FAULT.LOG_STS_LOST true
    raise { s1 with boot := { s1.boot with faultsLost := true } } 0x0040 2

end Sys2Proof.Machine
end

