-- ==== Sys2Proof/Machine/Patterns.lean ====
section
/-!
DEFINITION. Descriptors and patterns (chapters 6 and 8): the descriptor's fields, the streams of each opcode, the static
check of a pattern block, and the run of a supplied or built-in pattern from one tile to the next, over a core's share.
-/

namespace Sys2Proof.Machine

/-! Descriptor fields (Table 06-4). -/

def dOp (d : Nat) : Nat := d % 256
def dFlags (d : Nat) : Nat := bitsOf d 8 8
def dOrder (d : Nat) : Bool := d.testBit 16
def dHint (d : Nat) : Bool := d.testBit 17
def dNocmpl (d : Nat) : Bool := d.testBit 18
def dFelt (d : Nat) : Bool := d.testBit 19
def dRmode (d : Nat) : Nat := bitsOf d 20 2
def dTrng (d : Nat) : Bool := d.testBit 22
def dRot (d : Nat) : Nat := bitsOf d 24 4
def dGrp (d : Nat) : Nat := bitsOf d 28 4
def dMask (d : Nat) : Nat := bitsOf d 32 16
def dHintPid (d : Nat) : Nat := bitsOf d 48 12
def dTag (d : Nat) : Nat := bitsOf d 64 32
def dSeed (d : Nat) : Nat := bitsOf d 128 64
def dPat (d : Nat) : Nat := bitsOf d 192 57
def dCmpl (d : Nat) : Nat := bitsOf d 256 57
/-- OPSPEC word `i`. -/
def dW (d i : Nat) : Nat := bitsOf d (320 + 64 * i) 64

/-- The cores of a mask, in ascending order. -/
def maskCores (m : Nat) : List Nat := (upTo 16).filter m.testBit

/-- The cores that share a descriptor received by `lead` (R152). -/
def dCores (d lead : Nat) : List Nat := if dMask d = 0 then [lead] else maskCores (dMask d)

/-- The descriptor's record is long: CORE_MASK names more than one core (R167). -/
def dLong (d : Nat) : Bool := decide (1 < (maskCores (dMask d)).length)

/-- The core that tile `t` falls to (R152). -/
def tileCore (d lead t : Nat) : Nat :=
  let cs := dCores d lead
  if dMask d = 0 then lead else cs.getD ((t / 2 ^ dGrp d + dRot d) % cs.length) lead

/-! Opcode fields (chapter 8). -/

/-- REDUCE or REDUCE_SCATTER. -/
def isReduce (d : Nat) : Bool := dOp d == 5 || dOp d == 6
/-- NIN. -/
def nin (d : Nat) : Nat := bitsOf (dW d 0) 0 4

/-- The input format of an opcode that names one. -/
def inFmt (d : Nat) : Nat :=
  match dOp d with
  | 7 => bitsOf (dW d 0) 16 5
  | 11 => bitsOf (dW d 0) 0 5
  | 12 => match bitsOf (dFlags d) 2 2 with | 1 => 1 | 2 => 2 | _ => 0
  | _ => bitsOf (dW d 0) 8 5

/-- The output format. -/
def outFmt (d : Nat) : Nat :=
  match dOp d with
  | 7 => bitsOf (dW d 0) 24 5
  | 11 => bitsOf (dW d 0) 8 5
  | _ => bitsOf (dW d 0) 16 5

/-- The scale rule of an MX output. -/
def scaleRule (d : Nat) : Nat := if dOp d = 11 then bitsOf (dW d 0) 16 1 else bitsOf (dW d 0) 24 1
/-- FILL with SEQ, COPY with MCAST, HASH with ROOT, REDUCE with ACCUM; SGD. -/
def opBit0 (d : Nat) : Bool := (dFlags d).testBit 0
/-- COPY with MCAST. -/
def isMcast (d : Nat) : Bool := dOp d == 2 && opBit0 d
/-- OPT_UPDATE with LOWP. -/
def lowp (d : Nat) : Bool := (dFlags d).testBit 1
/-- The format of OPT_UPDATE's state (MVF) and of its low-precision copy (LPF). -/
def mvFmt (d : Nat) : Nat := if (dFlags d).testBit 4 then 1 else 0
def lpFmt (d : Nat) : Nat := if (dFlags d).testBit 5 then 2 else 1
/-- NCONTRIB of a COLLECTIVE. -/
def ncontrib (d : Nat) : Nat := bitsOf (dW d 0) 0 13
/-- The multicast group that a COPY or a COLLECTIVE names. -/
def dGroup (d : Nat) : Nat := if dOp d = 7 then bitsOf (dW d 0) 32 12 else bitsOf (dW d 1) 0 12
/-- The row of a GATHER or SCATTER, and the index width. -/
def rowLen (d : Nat) : Nat := 2 ^ bitsOf (dFlags d) 0 5
def idxLen (d : Nat) : Nat := if (dFlags d).testBit 5 then 8 else 4
/-- TB, T0 and NTOK of a KV_GATHER. -/
def tokBytes (d : Nat) : Nat := (dFlags d + 1) * 128
def tok0 (d : Nat) : Nat := bitsOf (dW d 1) 0 24
def ntok (d : Nat) : Nat := bitsOf (dW d 1) 24 25

/-- The element streams 1 to NIN. -/
def inStreams (d : Nat) : List Nat := (upTo (nin d)).map (· + 1)

/-- The streams an opcode reads (Table 08-1), ascending. -/
def readStreams (d : Nat) : List Nat :=
  match dOp d with
  | 2 => [1]
  | 3 => [1, 2]
  | 4 => [1]
  | 8 => [1]
  | 9 => [1]
  | 10 => [1, 2]
  | 11 => if isMX (inFmt d) then [1, 9] else [1]
  | 12 => if opBit0 d then [0, 1, 2] else [0, 1, 2, 3]
  | 13 => [1]
  | _ =>
    if isReduce d then
      (upTo 16).filter fun x =>
        (decide (1 ≤ x ∧ x ≤ nin d)) || (opBit0 d && x == 0) || (dOp d == 6 && x == 15)
          || (isMX (inFmt d) && decide (9 ≤ x ∧ x ≤ nin d + 8)) || (isMX (outFmt d) && opBit0 d && x == 8)
    else []

/-- The streams an opcode writes, ascending. -/
def writeStreams (d : Nat) : List Nat :=
  match dOp d with
  | 1 => [0]
  | 2 => if isMcast d then [] else [0]
  | 4 => [0]
  | 7 => [0]
  | 8 => [0]
  | 9 => [0]
  | 10 => [0, 3]
  | 11 => if isMX (outFmt d) then [0, 8] else [0]
  | 12 => [0, 2] ++ (if opBit0 d then [] else [3]) ++ (if lowp d then [4] else [])
  | _ => if isReduce d then (if isMX (outFmt d) then [0, 8] else [0]) else []

/-- The element format of a stream where it has one; none for bytes. -/
def streamFmt (d x : Nat) : Option Nat :=
  match dOp d with
  | 7 => some (outFmt d)
  | 11 => if x = 1 then some (inFmt d) else if x = 0 then some (outFmt d) else none
  | 12 => if x = 0 then some 0 else if x = 1 then some (inFmt d) else if x = 4 then some (lpFmt d) else some (mvFmt d)
  | _ =>
    if isReduce d then
      (if x = 0 then some (outFmt d) else if 1 ≤ x ∧ x ≤ nin d then some (inFmt d) else none)
    else none

/-- The element size that the alignment limit takes for a stream (R158, R181, R219, R220, R242). -/
def elemSize (d x : Nat) : Nat :=
  match streamFmt d x with
  | some c => fmtUnit c
  | none =>
    match dOp d with
    | 1 => if opBit0 d then 8 else 1
    | 2 => if isMcast d then 128 else 1
    | 13 => 4096
    | _ => 1

/-- Bytes of a stream of a tile. -/
def rowsLen (r : Rows) : Nat := r.bytes * r.rows
/-- The rows of one stream. -/
def streamRows (rs : List Rows) (x : Nat) : Option Rows := rs.find? fun r => r.stream == x
/-- Bytes of one stream. -/
def streamLen (rs : List Rows) (x : Nat) : Nat := match streamRows rs x with | some r => rowsLen r | none => 0
/-- Elements of one stream (R187, R216). -/
def streamElems (d : Nat) (rs : List Rows) (x : Nat) : Nat :=
  match streamFmt d x with
  | some c => streamLen rs x / fmtUnit c * unitElems c
  | none => streamLen rs x

/-! The checks of R151, R213 to R242. -/

/-- The byte offset of the lowest bit of a 64-bit word at byte offset `o` that is 1 where `mask` is 1. -/
def reservedAt (o v mask : Nat) : List Nat :=
  ((upTo 64).filter fun i => mask.testBit i && v.testBit i).take 1 |>.map fun i => o + i / 8

/-- All bits of a word but those of a mask. -/
def allBut (m : Nat) : Nat := 2 ^ 64 - 1 - m

/-- An offence at an offset where a condition holds. -/
def offAt (c : Bool) (o : Nat) : List Nat := if c then [o] else []

/-- The offences of OPFLAGS and OPSPEC, by byte offset (R214, R215 and the opcode's own rules). -/
def opOffences (d : Nat) : List Nat :=
  let f := dFlags d
  let w0 := dW d 0
  let w1 := dW d 1
  let w2 := dW d 2
  let bi := dPat d == 0
  let all0 := reservedAt 0x28 w0 (allBut 0) ++ reservedAt 0x30 w1 (allBut 0) ++ reservedAt 0x38 w2 (allBut 0)
  let supplied := offAt bi 0x18
  let builtin := offAt (!bi) 0x18
  let ok := fun (c : Nat) => fmtDefined c
  match dOp d with
  | 1 => offAt (1 < f) 1 ++ (if bi then offAt (f == 1 && w2 % 8 != 0) 0x38
      else reservedAt 0x30 w1 (allBut 0) ++ reservedAt 0x38 w2 (allBut 0))
  | 2 => offAt (1 < f) 1 ++ (if f % 2 = 1 then reservedAt 0x30 w1 (allBut 0xFFF) else [])
      ++ (if bi then [] else reservedAt 0x28 w0 (allBut 0) ++ reservedAt 0x38 w2 (allBut 0)
            ++ (if f % 2 = 1 then [] else reservedAt 0x30 w1 (allBut 0)))
  | 3 => offAt (f != 0) 1 ++ (if bi then [] else all0)
  | 4 => offAt (1 < f) 1 ++ (if bi then [] else all0)
  | 7 =>
    let i := inFmt d
    let o := outFmt d
    supplied ++ offAt (f != 0) 1 ++ reservedAt 0x28 w0 (allBut 0x00000FFF1F1F1FFF)
      ++ offAt (decide (ncontrib d < 2 ∨ 4096 < ncontrib d)) 0x28
      ++ offAt (!(decide (i ≤ 4) || isInt i)) 0x2A
      ++ offAt (!(if isInt i then isInt o else decide (o ≤ 4 ∨ o = 24))) 0x2B
      ++ reservedAt 0x30 w1 (allBut (2 ^ 57 - 1)) ++ offAt (w1 % 2 != 0) 0x30 ++ reservedAt 0x38 w2 (allBut 0)
  | 10 => builtin ++ offAt (w0 % 512 != 0) 0x28 ++ reservedAt 0x30 w1 (allBut (2 ^ 49 - 1))
      ++ offAt (decide (ntok d = 0 ∨ 2 ^ 24 < tok0 d + ntok d)) 0x33 ++ offAt (w2 % 128 != 0) 0x38
  | 11 => supplied ++ offAt (f != 0) 1 ++ reservedAt 0x28 w0 (allBut 0x11F1F) ++ offAt (!isFP (inFmt d)) 0x28
      ++ offAt (!isFP (outFmt d)) 0x29 ++ reservedAt 0x30 w1 (allBut 0) ++ reservedAt 0x38 w2 (allBut 0)
  | 12 => supplied ++ offAt (bitsOf f 2 2 == 3 || decide (64 ≤ f)) 1
      ++ (if f % 2 = 1 then offAt (w2 % 2 ^ 32 != 0) 0x38 ++ offAt (decide (2 ^ 32 ≤ w2)) 0x3C else [])
  | 13 => offAt (decide (2 < f)) 1 ++ (if bi then offAt (w0 % 4096 != 0) 0x28 ++ reservedAt 0x30 w1 (allBut 0)
        ++ offAt (w2 % 4096 != 0) 0x38 else all0)
  | _ =>
    if isReduce d then
      let i := inFmt d
      let o := outFmt d
      let mx := isMX i || isMX o
      supplied ++ offAt (1 < f) 1 ++ reservedAt 0x28 w0 (allBut 0x011F1F0F)
        ++ offAt (nin d == 0 || (mx && decide (7 < nin d)) || (dOp d == 6 && nin d == 15)) 0x28
        ++ offAt (!ok i || isInt i != isInt o || (i == 10 && o == 24) || (i == 24 && o == 10)
            || (dOp d == 6 && isMX i)) 0x29
        ++ offAt (!ok o || (dOp d == 6 && isMX o)) 0x2A
        ++ reservedAt 0x30 w1 (allBut 0) ++ reservedAt 0x38 w2 (allBut 0)
    else if dOp d = 8 ∨ dOp d = 9 then
      builtin ++ offAt (decide (bitsOf f 0 5 < 2 ∨ 16 < bitsOf f 0 5 ∨ 64 ≤ f)) 1
        ++ reservedAt 0x28 w0 (allBut (2 ^ 57 - 1)) ++ reservedAt 0x30 w1 (allBut (2 ^ 57 - 1))
        ++ reservedAt 0x38 w2 (allBut (2 ^ 57 - 1)) ++ offAt (w0 % 8 != 0) 0x28
        ++ offAt (w1 % rowLen d != 0) 0x30 ++ offAt (w2 % rowLen d != 0) 0x38
    else [0]

/-- The offences of the common fields (R151): `allowed` says which cores the partition may name. -/
def commonOffences (d lead : Nat) (allowed : Nat → Bool) : List Nat :=
  let m := dMask d
  let k := (dCores d lead).length
  offAt (dRmode d == 3 || d.testBit 23) 2 ++ offAt (decide (k ≤ dRot d)) 3
    ++ offAt (m != 0 && (!m.testBit lead || (maskCores m).any (fun c => !allowed c))) 4
    ++ offAt (bitsOf d 60 4 != 0) 7 ++ reservedAt 8 (bitsOf d 64 64) (allBut (2 ^ 32 - 1))
    ++ reservedAt 0x18 (bitsOf d 192 64) (allBut (2 ^ 57 - 1)) ++ offAt (dPat d % 64 != 0) 0x18
    ++ reservedAt 0x20 (bitsOf d 256 64) (allBut (2 ^ 57 - 1))
    ++ offAt (dCmpl d % (if dLong d then 256 else 128) != 0 || (dCmpl d == 0 && !dNocmpl d)) 0x20

/-- The least of a list of numbers. (DEDUCED, log 68) -/
def least (l : List Nat) : Option Nat := l.foldl (fun a x => match a with | none => some x | some y => some (min x y)) none

/-- The offending field of a descriptor with the lowest byte offset (R151). (DEDUCED, log 68) (DEDUCED, log 72) -/
def badField (d lead : Nat) (allowed : Nat → Bool) : Option Nat :=
  least (opOffences d ++ commonOffences d lead allowed)

/-! The static check (R155, R156, R158). -/

/-- Instruction fields (R156). -/
def wOp (w : Nat) : Nat := bitsOf w 58 6
def wRd (w : Nat) : Nat := bitsOf w 54 4
def wRs (w : Nat) : Nat := bitsOf w 50 4
def wImm (w : Nat) : Nat := bitsOf w 0 50

/-- The words of an instruction. -/
def wLen (w : Nat) : Nat := if wOp w = 2 ∨ wOp w = 6 then 2 else 1

/-- A field that the instruction does not use is not 0, or its OP is reserved (Table 06-5). -/
def unusedSet (w : Nat) : Bool :=
  let rd := wRd w != 0
  let rs := wRs w != 0
  let imm := wImm w
  match wOp w with
  | 0 => rd || rs || imm != 0
  | 1 => rd || rs || imm != 0
  | 2 => rs || imm != 0
  | 3 => imm != 0
  | 4 => rs
  | 5 => rd || rs
  | 6 => rd || rs || imm % 4 != 0
  | 7 => rd || rs || bitsOf imm 32 12 != 0
  | 8 => rd || rs || imm != 0
  | 9 => imm % 2 ^ 38 != 0
  | _ => true

/-- BODY of a LOOP. -/
def wBody (w : Nat) : Nat := bitsOf w 44 6

/-- Scan a block from word `i`; `ends` are the last words of the bodies open there, innermost first. The answer is the
index of the first offending word. -/
def staticScan (ws : List Nat) (nw : Nat) : Nat → Nat → List Nat → Option Nat
  | 0, _, _ => none
  | n + 1, i, ends0 =>
    if nw < i then none
    else
      let ends := ends0.dropWhile (· < i)
      let w := ws.getD i 0
      let last := i + wLen w - 1
      let past := fun (x : Nat) => decide (nw < x) || (match ends with | e :: _ => decide (e < x) | [] => false)
      if unusedSet w || past last then some i
      else if wOp w = 2 ∧ 2 ^ 57 ≤ ws.getD (i + 1) 0 then some (i + 1)
      else if wOp w = 9 ∧ 40 < bitsOf w 40 6 then some i
      else if wOp w = 7 then
        if wBody w = 0 ∨ 62 < wBody w ∨ past (i + wBody w) ∨ 8 ≤ ends.length then some i
        else staticScan ws nw n (i + 1) ((i + wBody w) :: ends)
      else staticScan ws nw n (last + 1) ends

/-- NWORDS of a header. -/
def nWords (ws : List Nat) : Nat := ws.getD 0 0 % 64

/-- The first offending word of a pattern block: 0 for the header (Table 06-8). (DEDUCED, log 68)
(DESIGN CHOICE, log 156) -/
def staticBreach (ws : List Nat) : Option Nat :=
  let h := ws.getD 0 0
  if nWords ws = 0 ∨ bitsOf h 8 8 ≠ 1 ∨ bitsOf h 6 2 ≠ 0 ∨ 2 ^ 16 ≤ h then some 0
  else staticScan ws (nWords ws) 64 1 []

/-! The limits at an EMIT (R158, R216, R224, R229, R230). -/

/-- A tile's rows lie on element boundaries. -/
def rowsAligned (d : Nat) (r : Rows) : Bool :=
  let e := elemSize d r.stream
  decide (r.base % e = 0) && (decide (r.rows = 1) || decide (r.stride % e = 0)) && r.bytes % e == 0

/-- Every byte of the rows lies in [0, 2^57), from the exact register values. -/
def rowsInRange (r : Rows) : Bool :=
  let last := r.base + (r.rows - 1 : Nat) * r.stride
  decide (0 ≤ min r.base last) && decide (max r.base last + r.bytes ≤ 2 ^ 57)

/-- One scale byte for each block of an MX stream. -/
def scalesMatch (d : Nat) (rs : List Rows) (x : Nat) : Bool :=
  match streamFmt d x with
  | some c => !isMX c || streamLen rs (x + 8) == streamLen rs x / fmtUnit c
  | none => true

/-- The opcode's own conditions on a tile's shape: every one is a class 3 breach. -/
def shapeOk (d : Nat) (rs : List Rows) : Bool :=
  let n := streamElems d rs 0
  match dOp d with
  | 2 => isMcast d || n == streamElems d rs 1
  | 3 => streamElems d rs 1 == streamElems d rs 2
  | 4 => (match streamRows rs 0 with | some r => r.rows == 1 && r.bytes == 64 | none => false)
  | 7 => decide (n ≤ 512) && n * fmtUnit (inFmt d) % 128 == 0
  | 11 => n == streamElems d rs 1 && scalesMatch d rs 0 && scalesMatch d rs 1
  | 12 => (readStreams d ++ writeStreams d).all fun x => streamElems d rs x == n
  | _ =>
    if isReduce d then
      ((inStreams d).all fun x => streamElems d rs x == n && scalesMatch d rs x) && scalesMatch d rs 0
        && (dOp d != 6 || streamLen rs 15 == 2)
    else true

/-- The class of the first limit a tile breaks, 0 for none (Tables 06-6, 06-8). (DESIGN CHOICE, log 157) -/
def tileBreach (d : Nat) (t : Nat) (rs : List Rows) : Nat :=
  let used := readStreams d ++ writeStreams d
  if used.any (fun x => (streamRows rs x).isNone) then 3
  else if 65536 < ((readStreams d).map (streamLen rs)).sum ∨ 65536 < ((writeStreams d).map (streamLen rs)).sum then 1
  else if rs.any (fun r => !rowsAligned d r || !rowsInRange r) then 2
  else if 4294967295 ≤ t ∨ !shapeOk d rs then 3
  else 0

/-! Running a pattern. -/

/-- What a pattern does next: form a tile, wait for an index, end, end the descriptor, or go on. -/
inductive PatOut where
  | tile (rows : List Rows) (word : Nat) (aux : List Nat)
  | want
  | fin
  | stop (status detail result : Nat)
  | more
  deriving DecidableEq, Repr

/-- A `w`-bit field as two's complement. -/
def sext (w v : Nat) : Int := if v < 2 ^ (w - 1) then v else (v : Int) - 2 ^ w

/-- After the word before `pc`: close the loop bodies that end there. -/
def closeLoops (pc : Nat) : List (Nat × Nat × Nat) → Nat × List (Nat × Nat × Nat)
  | [] => (pc, [])
  | (f, l, n) :: r =>
    if pc ≤ l then (pc, (f, l, n) :: r)
    else if 1 < n then (f, (f, l, n - 1) :: r)
    else closeLoops pc r

/-- The lines of a byte range, by PVA. -/
def rangeLines (va n : Nat) : List Nat :=
  (upTo ((va + n - 1) / 128 - va / 128 + 1)).map fun i => (va / 128 + i) * 128

/-- Bytes of a range, from buffered lines by PVA. -/
def bufBytes (m : Store Nat) (va n : Nat) : Nat :=
  ((rangeLines va n).foldl (fun (a : Nat × Nat) l =>
    let lo := max va l
    let k := min (va + n) (l + 128) - lo
    (a.1 + Store.get 0 m l / 256 ^ (lo - l) % 256 ^ k * 256 ^ a.2, a.2 + k)) (0, 0)).1

/-- A line is in a buffer. -/
def buffered (m : Store Nat) (va : Nat) : Bool := m.any fun e => e.1 == va

/-- An index in the index buffer (R159). -/
def Share.index (h : Share) (a : Int) (n : Nat) : Option Nat :=
  if a < 0 ∨ 2 ^ 57 < a + n then none
  else if (rangeLines a.toNat n).all (buffered h.ibuf) then some (bufBytes h.ibuf a.toNat n) else none

/-- Go to a word. -/
def Share.goto (h : Share) (pc : Nat) : Share :=
  let (p, l) := closeLoops pc h.loops
  { h with pc := p, loops := l }

/-- A register of the pattern. -/
def Share.reg (h : Share) (n : Nat) : Int := h.regs.getD n 0

/-- The rows of the streams the opcode uses that have a shape, as the registers stand. -/
def Share.rowsNow (h : Share) : List Rows :=
  let used := (upTo 16).filter fun x => (readStreams h.desc).contains x || (writeStreams h.desc).contains x
  used.filterMap fun x =>
    let (b, n, st) := h.shapes.getD x (0, 0, 0)
    if n = 0 then none else some ⟨x, h.reg x, b, n, st⟩

/-- Run one instruction word (Table 06-5). -/
def Share.word (h : Share) : Share × PatOut :=
  let w := h.words.getD h.pc 0
  let w2 := h.words.getD (h.pc + 1) 0
  let imm := wImm w
  if nWords h.words < h.pc then (h, .fin)
  else match wOp w with
    | 1 => (h, .fin)
    | 2 => ({ h.goto (h.pc + 2) with regs := h.regs.set (wRd w) (w2 : Int) }, .more)
    | 3 => ({ h.goto (h.pc + 1) with regs := h.regs.set (wRd w) (h.reg (wRs w)) }, .more)
    | 4 => ({ h.goto (h.pc + 1) with regs := h.regs.set (wRd w) (h.reg (wRd w) + sext 50 imm) }, .more)
    | 5 =>
      let v := sext 34 (imm % 2 ^ 34)
      ({ h.goto (h.pc + 1) with
          regs := (upTo 16).map fun i => if imm.testBit (34 + i) then h.reg i + v else h.reg i }, .more)
    | 6 =>
      let sh := (bitsOf imm 18 16 + 1, bitsOf imm 2 16 + 1, sext 64 w2)
      ({ h.goto (h.pc + 2) with
          shapes := (upTo 16).map fun i => if imm.testBit (34 + i) then sh else h.shapes.getD i (0, 0, 0) }, .more)
    | 7 =>
      let n := imm % 2 ^ 32
      if n = 0 then (h.goto (h.pc + 1 + wBody w), .more)
      else ({ h with pc := h.pc + 1, loops := (h.pc + 1, h.pc + wBody w, n) :: h.loops }, .more)
    | 8 => (h.goto (h.pc + 1), .tile h.rowsNow h.pc [])
    | 9 =>
      let wd := if imm.testBit 39 then 8 else 4
      match h.index (h.reg (wRs w)) wd with
      | none => ({ h with want := some (h.reg (wRs w), wd) }, .want)
      | some v =>
        let x : Int := h.reg (bitsOf imm 46 4) + (v * 2 ^ bitsOf imm 40 6 : Nat)
        let adv := if imm.testBit 38 then h.regs.set (wRs w) (h.reg (wRs w) + wd) else h.regs
        ({ h.goto (h.pc + 1) with regs := adv.set (wRd w) x, want := none }, .more)
    | _ => (h.goto (h.pc + 1), .more)

/-- Ask for an index, or take it from the index buffer. -/
def Share.ask (h : Share) (a : Int) (n : Nat) (k : Share → Nat → Share × PatOut) : Share × PatOut :=
  match h.index a n with
  | none => ({ h with want := some (a, n) }, .want)
  | some v => k { h with want := none } v

/-- One row of a stream. -/
def row1 (x : Nat) (a : Int) (n : Nat) : Rows := ⟨x, a, n, 1, 0⟩

/-- The linear built-in pattern (R214, R219 to R224, R242). -/
def Share.linear (h : Share) : Share × PatOut :=
  let d := h.desc
  let t := h.emitted
  let s := if dOp d = 3 then 32768 else 65536
  let len := dW d 2
  if len ≤ s * t then (h, .fin)
  else
    let n := min s (len - s * t)
    let a : Nat → Int := fun i => (dW d i + s * t : Nat)
    let rows := match dOp d with
      | 1 => [row1 0 (a 1) n]
      | 2 => if isMcast d then [row1 1 (a 0) n] else [row1 0 (a 1) n, row1 1 (a 0) n]
      | 3 => [row1 1 (a 0) n, row1 2 (a 1) n]
      | 4 => [row1 0 (dW d 1 + 64 * t : Nat) 64, row1 1 (a 0) n]
      | _ => [row1 1 (a 0) n]
    (h, .tile rows 0 [])

/-- GATHER and SCATTER (R235). -/
def Share.indexed (h : Share) : Share × PatOut :=
  let d := h.desc
  let i := h.emitted
  let r := rowLen d
  match h.aux with
  | [] => h.ask (dW d 0 : Nat) 8 fun h v => ({ h with aux := [v] }, .more)
  | n :: _ =>
    if n ≤ i then (h, .fin)
    else h.ask (dW d 0 + 8 + i * idxLen d : Nat) (idxLen d) fun h v =>
      let far : Int := (dW d 1 + v * r : Nat)
      let near : Int := (dW d 2 + i * r : Nat)
      let (src, dst) := if dOp d = 8 then (far, near) else (near, far)
      (h, .tile [row1 0 dst r, row1 1 src r] 0 [])

/-- An entry of a KV page table that is a hole (R236): 0, a reserved bit, or misaligned. (DEDUCED, log 75) -/
def kvHole (e align : Nat) : Bool := e == 0 || decide (2 ^ 57 ≤ e) || e % align != 0

/-- The walk meets a hole (R238): RESULT names the first token and the level. -/
def kvStop (tok level : Nat) : PatOut := .stop 42 0 (tok * 2 ^ 64 + level * 2 ^ 128)

/-- KV_GATHER (R236, R237). `aux` holds the next token, the mid table, leaf table and page in force plus 1 (0 for none),
and whether the page is new. (DEDUCED, log 75) -/
def Share.kvWalk (h : Share) : Share × PatOut :=
  let d := h.desc
  let tb := tokBytes d
  let tok := h.aux.getD 0 (tok0 d)
  let mid := h.aux.getD 1 0
  let leaf := h.aux.getD 2 0
  let page := h.aux.getD 3 0
  let stop := tok0 d + ntok d
  if stop ≤ tok then (h, .fin)
  else if mid = 0 then
    h.ask (dW d 0 + tok / 2 ^ 18 * 8 : Nat) 8 fun h v =>
      if kvHole v 256 then (h, kvStop tok 2) else ({ h with aux := [tok, v + 1, 0, 0, 0] }, .more)
  else if leaf = 0 then
    h.ask (mid - 1 + bitsOf tok 13 5 * 8 : Nat) 8 fun h v =>
      if kvHole v 256 then (h, kvStop tok 1) else ({ h with aux := [tok, mid, v + 1, 0, 0] }, .more)
  else if page = 0 then
    h.ask (leaf - 1 + bitsOf tok 8 5 * 8 : Nat) 8 fun h v =>
      if kvHole v 65536 then (h, kvStop tok 0) else ({ h with aux := [tok, mid, leaf, v + 1, 1] }, .more)
  else
    let j := tok % 256
    let n := min (min (256 - j) (32768 / tb)) (stop - tok)
    let t' := tok + n
    let p := page - 1
    let rows := [row1 0 (dW d 2 + (tok - tok0 d) * tb : Nat) (n * tb), row1 1 (p + j * tb : Nat) (n * tb),
      row1 2 (p + (256 + j) * tb : Nat) (n * tb), row1 3 (dW d 2 + (ntok d + tok - tok0 d) * tb : Nat) (n * tb)]
    let keep := fun (w v : Nat) => if t' % 2 ^ w = 0 then 0 else v
    ({ h with aux := [t', keep 18 mid, keep 13 leaf, keep 8 page, 0] }, .tile rows 0 [h.aux.getD 4 0, tok])

/-- One action of the pattern, supplied or built-in. -/
def Share.patStep (h : Share) : Share × PatOut :=
  if dPat h.desc ≠ 0 then h.word
  else match dOp h.desc with
    | 8 => h.indexed
    | 9 => h.indexed
    | 10 => h.kvWalk
    | _ => h.linear

/-- Run up to `n` words, to the next tile, index, or end. (DESIGN CHOICE, log 31) -/
def Share.patRun : Nat → Share → Share × PatOut
  | 0, h => (h, .more)
  | n + 1, h =>
    match h.patStep with
    | (h1, .more) => Share.patRun n h1
    | r => r

/-- Words run for one TILE_EMIT: a pattern that emits nothing in so many goes on at the next (DESIGN CHOICE, log 31). -/
def patBudget : Nat := 256

/-- The counts of the share after a tile of rows `rs` (R167, R187). An MX scale stream counts no elements. -/
def Share.counted (h : Share) (rs : List Rows) : Share :=
  let d := h.desc
  let ws := writeStreams d
  let bs := if ws.isEmpty then readStreams d else ws
  let es := ws.filter fun x => (streamFmt d x).isSome
  { h with
      emitted := h.emitted + 1
      bytes := h.bytes + (bs.map (streamLen rs)).sum
      elems := h.elems + (es.map (streamElems d rs)).sum
      in1 := h.in1 + streamLen rs 1
      starts := if dLong d && h.core == h.lead then h.bytes :: h.starts else h.starts }

end Sys2Proof.Machine
end

