-- ==== Sys2Proof/Machine/Sha3.lean ====
section
/-!
DEFINITION. SHA3-512 (FIPS 202), which the spec names for every digest, and the HMAC and key derivation over it
(R382; PRESUMED, log 5). Byte strings are lists of numbers below 256; a digest is a number whose byte 0 is the first output byte.
-/

namespace Sys2Proof.Machine

namespace Keccak

/-- A lane of 64 bits turned by `n` places toward its high end. -/
def turn (n v : Nat) : Nat := v * 2 ^ n % 2 ^ 64 ||| v / 2 ^ (64 - n)

/-- The walk of the rho step over the 24 lanes other than the first: the places (x, y) in the order visited, each with
its step number. -/
def rhoWalk : Nat → Nat → Nat → Nat → List (Nat × Nat × Nat)
  | 0, _, _, _ => []
  | k + 1, t, x, y => (x, y, t) :: rhoWalk k (t + 1) y ((2 * x + 3 * y) % 5)

/-- How far the lane at (x, y) is turned: the triangular number of its step on the walk; the first lane is not. -/
def rhoTurn (x y : Nat) : Nat :=
  match (rhoWalk 24 1 1 0).find? (fun w => w.1 == x && w.2.1 == y) with
  | some w => w.2.2 * (w.2.2 + 1) / 2 % 64
  | none => 0

/-- The bits that the eight-bit shift register of the iota step puts out, from its content `r`. -/
def rcStream : Nat → Nat → List Bool
  | 0, _ => []
  | k + 1, r => r.testBit 0 :: rcStream k (if 128 ≤ r then (2 * r) ^^^ 0x171 else 2 * r)

/-- The constant of one round: seven bits of the stream, bit j of them at place 2^j - 1. -/
def roundWord (bits : List Bool) : Nat :=
  (List.range 7).foldr (fun j v => if bits.getD j false then v + 2 ^ (2 ^ j - 1) else v) 0

/-- The constants of the next `n` rounds, from their bits. -/
def roundWords : Nat → List Bool → List Nat
  | 0, _ => []
  | n + 1, bits => roundWord (bits.take 7) :: roundWords n (bits.drop 7)

/-- Lane `i` of a state of 25 lanes. -/
def lane (a : List Nat) (i : Nat) : Nat := a.getD i 0

/-- A state from its lanes by place: lane (x, y) is number 5y + x. -/
def planes (f : Nat → Nat → Nat) : List Nat := (List.range 5).flatMap fun y => (List.range 5).map fun x => f x y

/-- The sum of column `x`, modulo 2. -/
def column (a : List Nat) (x : Nat) : Nat := (List.range 5).foldl (fun v y => v ^^^ lane a (5 * y + x % 5)) 0

/-- The linear part of a round, theta: each lane takes up the column before it and the turned column after it. -/
def mixed (a : List Nat) : List Nat :=
  let sums := (List.range 5).map (column a)
  let add := (List.range 5).map fun x => lane sums ((x + 4) % 5) ^^^ turn 1 (lane sums ((x + 1) % 5))
  planes fun x y => lane a (5 * y + x) ^^^ lane add x

/-- The turns and the places of the rho and pi steps, by the lane that each place of the result takes: its number and
its turn. -/
def moves : List (Nat × Nat) :=
  (List.range 5).flatMap fun y => (List.range 5).map fun x => (5 * x + (x + 3 * y) % 5, rhoTurn ((x + 3 * y) % 5) x)

/-- The nonlinear part of a round, chi: a bit flips where the next bit of its row is 0 and the one after it 1. -/
def flipped (a : List Nat) : List Nat :=
  planes fun x y =>
    let next := lane a (5 * y + (x + 1) % 5)
    let after := lane a (5 * y + (x + 2) % 5)
    lane a (5 * y + x) ^^^ after ^^^ (next &&& after)

/-- One round with its constant. -/
def round (mv : List (Nat × Nat)) (a : List Nat) (w : Nat) : List Nat :=
  let m := mixed a
  let b := flipped (mv.map fun q => turn q.2 (lane m q.1))
  (lane b 0 ^^^ w) :: b.drop 1

/-- The permutation of 1,600 bits: 24 rounds. (PRESUMED, log 5) -/
def permute (a : List Nat) : List Nat := (roundWords 24 (rcStream 168 1)).foldl (round moves) a

/-- A little-endian number of a byte string. -/
def ofBytes : List Nat → Nat
  | [] => 0
  | b :: bs => b % 256 + 256 * ofBytes bs

/-- The first `n` bytes of a number, lowest first. -/
def toBytes (n v : Nat) : List Nat := (List.range n).map fun i => v / 256 ^ i % 256

/-- Absorb a block of 72 bytes. (PRESUMED, log 5) -/
def absorb (a : List Nat) (block : List Nat) : List Nat :=
  let v := ofBytes block
  permute ((List.range 25).map fun i => lane a i ^^^ (if i < 9 then v / 2 ^ (64 * i) % 2 ^ 64 else 0))

/-- Absorb `n` whole blocks of a padded message. -/
def absorbAll : Nat → List Nat → List Nat → List Nat
  | 0, a, _ => a
  | n + 1, a, m => absorbAll n (absorb a (m.take 72)) (m.drop 72)

/-- The padded message of SHA3-512: 0x06, zeros, and 0x80 at the end of the last block of 72 bytes. -/
def pad (m : List Nat) : List Nat :=
  let k := 72 - m.length % 72
  if k = 1 then m ++ [0x86] else m ++ [0x06] ++ List.replicate (k - 2) 0 ++ [0x80]

end Keccak

/-- SHA3-512 of a byte string. (PRESUMED, log 5) -/
def sha3 (m : List Nat) : Nat :=
  let p := Keccak.pad m
  let a := Keccak.absorbAll (p.length / 72) (List.replicate 25 0) p
  (List.range 8).foldl (fun v i => v + Keccak.lane a i * 2 ^ (64 * i)) 0

/-- HMAC over SHA3-512 with its block of 72 bytes (FIPS 198-1). (PRESUMED, log 5) -/
def hmacSha3 (key msg : List Nat) : Nat :=
  let k0 := if key.length ≤ 72 then key ++ List.replicate (72 - key.length) 0
            else Keccak.toBytes 64 (sha3 key) ++ List.replicate 8 0
  sha3 (k0.map (· ^^^ 0x5C) ++ Keccak.toBytes 64 (sha3 (k0.map (· ^^^ 0x36) ++ msg)))

end Sys2Proof.Machine
end

