-- ==== Sys2Proof/Machine/Gingham.lean ====
section
/-!
DEFINITION. The gingham table: its two banks, the validity check of a flip and the flip itself (R56 to R62).
-/

namespace Sys2Proof.Machine

/-- The active bank: 0 = A, 1 = B. -/
def gingActive (s : State) : Nat := getF s GING.GING_STS_ACTIVE

/-- Entry `i` (slot * 64 + column) of a bank. -/
def gingEntry (s : State) (bank i : Nat) : Nat := Store.get 0 s.ging.bank (bank * 4096 + i)

/-- Write one entry of a bank. -/
def setGing (bank : Nat) (s : State) (e : Nat × Nat) : State :=
  { s with ging := { s.ging with bank := Store.set 0 s.ging.bank (bank * 4096 + e.1) (e.2 % 256) } }

/-- The entry of slot `sl` and column `col` in the active bank. -/
def slotEntry (s : State) (sl col : Nat) : Nat := gingEntry s (gingActive s) (sl * 64 + col)

/-- V of an entry (Table 03-2). -/
def entV (e : Nat) : Bool := e.testBit 7
/-- KIND of an entry. -/
def entKind (e : Nat) : Nat := e / 16 % 8
/-- PT of an entry. -/
def entPt (e : Nat) : Nat := e % 16
/-- A valid entry of a kind. -/
def isKind (e k : Nat) : Bool := entV e && entKind e == k

/-- The first time from `t` on that lies in the launch window of a PART slot of a core for a partition (R54, R57): ticks 3
to 14 of the slot. (DEDUCED, log 159) -/
def partWindow (s : State) (c pt t : Nat) : Option Nat :=
  let n := t / 64
  ((upTo 65).find? fun i =>
    let e := slotEntry s ((n + i) % 64) (48 + c)
    isKind e 0 && entPt e == pt && decide (max t ((n + i) * 64 + 12) < (n + i) * 64 + 60)).map fun i =>
      max t ((n + i) * 64 + 12)

/-- In deterministic mode the time from `t` on at which partition `pt` may use its core links and its walker on core `c`
(R57); with the mode off, any time. (DEDUCED, log 159) -/
def linkTime (s : State) (c pt t : Nat) : Option Nat := if detOn s then partWindow s c pt t else some t

/-- The partition that owns a core. -/
def ownerOf (s : State) (c : Nat) : Option Nat :=
  match Store.get 0 s.parts.owner c with
  | 0 => none
  | p + 1 => some p

/-- The cores a partition owns, in ascending order. -/
def coresOf (s : State) (pt : Nat) : List Nat := (upTo 16).filter (fun c => ownerOf s c == some pt)

/-- A core that the check treats as present: fitted, and not absent by the unit map (R463; DEDUCED, log 10). -/
def coreFitted (s : State) (c : Nat) : Bool := decide (c < fittedCores s) && !s.boot.absent.getLsbD c

/-- The slots of a core column that hold REFRESH, ascending. -/
def refreshSlots (s : State) (bank col : Nat) : List Nat :=
  (upTo 64).filter (fun sl => isKind (gingEntry s bank (sl * 64 + col)) 4)

/-- Rule 2 placed at slot `sl` of a column: the REFRESH entry there closes a gap longer than 20 slots (R58). -/
def closesGap (slots : List Nat) (sl : Nat) : Bool :=
  slots.contains sl &&
    (match (slots.filter (· < sl)).getLast?, slots.getLast? with
     | some p, _ => decide (20 < sl - p)
     | none, some p => decide (20 < sl + 64 - p)
     | none, none => false)

/-- REFRESH or MAINT entries of a slot in core columns below column `col`. -/
def quietBelow (s : State) (bank sl col : Nat) : Nat :=
  ((upTo 64).filter (fun c => decide (48 ≤ c) && decide (c < col) &&
    (isKind (gingEntry s bank (sl * 64 + c)) 4 || isKind (gingEntry s bank (sl * 64 + c)) 5))).length

/-- The rules that fail at one entry, placed as R58 says. (DEDUCED, log 10) -/
def rulesAt (s : State) (bank sl col : Nat) : List Nat :=
  let e := gingEntry s bank (sl * 64 + col)
  let core := col - 48
  let isCore := decide (48 ≤ col)
  let present := isCore && coreFitted s core
  let last := sl == 63
  let refs := if present then refreshSlots s bank col else []
  (if last && present && decide (refs.length < 4) then [1] else [])
  ++ (if present && closesGap refs sl then [2] else [])
  ++ (if last && present && (upTo 64).all (fun x => !isKind (gingEntry s bank (x * 64 + col)) 5) then [3] else [])
  ++ (if isCore && isKind e 0 && ownerOf s core != some (entPt e) then [4] else [])
  ++ (if last && !isCore && (upTo 64).all (fun x => !isKind (gingEntry s bank (x * 64 + col)) 2) then [5] else [])
  ++ (if !isCore && isKind e 0 && (coresOf s (entPt e)).isEmpty then [6] else [])
  ++ (if isCore && (isKind e 4 || isKind e 5) && quietBelow s bank sl col == 8 then [7] else [])
  ++ (if isCore && !present && entV e then [8] else [])
  ++ (if entV e && (entKind e == 3 || entKind e == 6 || entKind e == 7
        || (isCore && (entKind e == 1 || entKind e == 2))
        || (!isCore && (entKind e == 4 || entKind e == 5))
        || (entKind e != 0 && entPt e != 0)) then [10] else [])

/-- The first failure of a bank in slot-major order, as (rule, slot, column); (0, 0, 0) when every rule is met. -/
def checkBank (s : State) (bank : Nat) : Nat × Nat × Nat :=
  if getF s GING.FLIP_FRAME < frameOf s + 2 then (9, 0, 0)
  else
    match (upTo 4096).findSome? (fun i =>
        (rulesAt s bank (i / 64) (i % 64)).head?.map (fun r => (r, i / 64, i % 64))) with
    | some r => r
    | none => (0, 0, 0)

/-- A flip waits for its frame. -/
def flipPending (s : State) : Bool := flag s GING.GING_STS_FLIP_PENDING

/-- GING_CMD.FLIP (R58, R59): the check's result is reported; an accepted flip replaces a pending one. -/
def doGingFlip (s : State) : State :=
  let (r, sl, col) := checkBank s (1 - gingActive s)
  let s1 := setF (setF (setF s GING.GING_STS_RESULT r) GING.GING_STS_FAIL_SLOT sl) GING.GING_STS_FAIL_COL col
  if r = 0 then
    let s2 := setB s1 GING.GING_STS_FLIP_PENDING true
    { s2 with ging := { s2.ging with flipAt := getF s GING.FLIP_FRAME } }
  else raise s1 0x0011 0

/-- GING_FLIP (R58). -/
def execGingFlip (s : State) : Host.Outcome State Fault Refusal := .next (whenAlive s doGingFlip)

/-- Every key of one bank moved to the other. -/
def copyBank (b : Store Nat) (src : Nat) : Store Nat :=
  if src = 0 then (b.filter (·.1 < 4096)) ++ (b.filter (·.1 < 4096)).map (fun e => (e.1 + 4096, e.2))
  else (b.filter (4096 ≤ ·.1)).map (fun e => (e.1 - 4096, e.2)) ++ (b.filter (4096 ≤ ·.1))

/-- GING_CMD.COPY (R59): ignored and flagged while a flip is pending. -/
def doGingCopy (s : State) : State :=
  if flipPending s then ignored s 0x0011
  else { s with ging := { s.ging with bank := copyBank s.ging.bank (gingActive s) } }

/-- GING_COPY (R59). -/
def execGingCopy (s : State) : Host.Outcome State Fault Refusal := .next (whenAlive s doGingCopy)

/-- The 4,096 bytes of a bank in index order. -/
def bankBytes (s : State) (bank : Nat) : List Nat := (upTo 4096).map (gingEntry s bank)

/-- Put the digest of a bank into GING.DIGEST (R60). -/
def gingDigest (s : State) (bank : Nat) : State := setF s GING.DIGEST (sha3 (bankBytes s bank))

/-- The end of M5 (R60): from the first one after a cold reset on, DIGEST holds the digest of the active bank.
(DESIGN CHOICE, log 152) -/
def digestStart (s : State) : State :=
  if s.ging.digestOn then s
  else gingDigest { s with ging := { s.ging with digestOn := true } } (gingActive s)

/-- The digest of the bank that a flip makes active, in its place by the last tick before the flip frame (R60).
(DESIGN CHOICE, log 152) -/
def flipDigest (s : State) : State :=
  let s1 := advanceFt s (s.ging.flipAt * 4096 - 4)
  if s1.ging.digestOn then gingDigest s1 (1 - gingActive s1) else s1

/-- Record a time exception of Table 03-9 for a partition whose run is open (R73). -/
def recordDx (bit : Nat) (s : State) (pt : Nat) : State :=
  if bitF s PART.DRUN_OPEN_OPEN pt then
    bumpF (setBitF s (PART.DX_CAUSE_CAUSE pt) bit true) (PART.DX_COUNT_COUNT pt)
  else s

/-- GING_FLIP_FRAME (R59, R60): the armed bank's digest is in GING.DIGEST before the flip frame begins; at offset 0 of
that frame the bank becomes active, and open runs record TABLE (Table 03-9). (DESIGN CHOICE, log 152) -/
def execGingFlipFrame (s : State) : Host.Outcome State Fault Refusal :=
  .next (whenManaged s fun s =>
    if flipPending s then
      let s1 := advanceFt (flipDigest s) (s.ging.flipAt * 4096)
      let s2 := setF (setB s1 GING.GING_STS_FLIP_PENDING false) GING.GING_STS_ACTIVE (1 - gingActive s)
      let s3 := raise s2 0x0011 1
      forAll (upTo 16) (fun s pt => bumpConfigGen (recordDx 7 s pt) pt) s3
    else s)

/-- A write of ENT_DATA (R56, R59): four entries of the shadow bank from INDEX, lowest in [7:0]; INDEX advances by 4
where AUTOINC is 1; ignored and flagged while a flip is pending. -/
def doEntData (s : State) (v : Nat) : State :=
  if flipPending s then ignored s 0x0011
  else
    let i := getF s GING.ENT_ADDR_INDEX / 4 * 4
    let s1 := forAll ((upTo 4).map fun k => (i + k, v / 256 ^ k % 256)) (setGing (1 - gingActive s)) s
    if flag s GING.ENT_ADDR_AUTOINC then setF s1 GING.ENT_ADDR_INDEX (getF s GING.ENT_ADDR_INDEX + 4) else s1

/-- GING_ENT_DATA (R59). -/
def execGingEntData (v : Nat) (s : State) : Host.Outcome State Fault Refusal := .next (whenAlive s (doEntData · v))

/-- What ENT_DATA reads: four entries of the bank that READ_ACTIVE selects. -/
def readEntData (s : State) : Nat :=
  let i := getF s GING.ENT_ADDR_INDEX / 4 * 4
  let bank := if flag s GING.ENT_ADDR_READ_ACTIVE then gingActive s else 1 - gingActive s
  (upTo 4).foldl (fun v k => v + gingEntry s bank (i + k) * 256 ^ k) 0

/-- Clear the column of a core in bank A (R62). -/
def clearColumn (s : State) (c : Nat) : State :=
  forAll ((upTo 64).map fun sl => (sl * 64 + 48 + c, 0)) (setGing 0) s

end Sys2Proof.Machine
end

