-- ==== Sys2Proof/Machine/Memory.lean ====
section
/-!
DEFINITION. The stacks' memory, and where an address lies: regions and mirrored pairs, the direct, interleaved and tier
spaces (R79 to R82, R23, R24).
-/

namespace Sys2Proof.Machine

/-- Mappable bytes of one stack: 60 GiB (R80). -/
def mappable : Nat := 0xF00000000

/-- The key of a byte of a stack. -/
def memKey (core off : Nat) : Nat := core * 2 ^ 36 + off

/-- One byte of a stack. A byte nothing has written reads 0 (DESIGN CHOICE, log 14; M7 writes every line as zero). -/
def memByte (s : State) (a : Nat) : Byte := Store.get 0 s.mem a

/-- The canonical form of the stacks' memory: keys strictly rising, and no entry that reads as an unlisted byte does. -/
def Memory.wf (m : Store Byte) : Bool := Store.wf 0 m

/-- Write one byte of a stack. -/
def setByte (m : Store Byte) (a : Nat) (b : Byte) : Store Byte := Store.set 0 m a b

/-- `n` bytes from an address as a little-endian number (R9). -/
def memRead (s : State) (a n : Nat) : Nat :=
  (upTo n).foldl (fun v i => v + (memByte s (a + i)).toNat * 256 ^ i) 0

/-- Write `n` bytes of a little-endian number. -/
def memPut (m : Store Byte) (a n v : Nat) : Store Byte :=
  (upTo n).foldl (fun m i => setByte m (a + i) (BitVec.ofNat 8 (v / 256 ^ i))) m

/-- The pair of a primary is whole (R23): it has a secondary, no copy runs and neither core is lost. -/
def pairWhole (s : State) (p : Nat) : Bool :=
  Store.get 0 s.parts.sec p != 0 && !s.parts.copying.getLsbD p && !s.parts.broken.getLsbD p

/-- The writes of a primary's region go to both cores of its pair (R23): the pair is whole, or the region's fail-over runs,
in which the answers that partners owe still bring data that the survivor must hold (R24, R32). (DEDUCED, log 158) -/
def mirrored (s : State) (p : Nat) : Bool := pairWhole s p || s.parts.failing.getLsbD p

/-- The secondary of a primary. -/
def secondaryOf (s : State) (p : Nat) : Option Nat :=
  match Store.get 0 s.parts.sec p with
  | 0 => none
  | q + 1 => some q

/-- A core that is the secondary of some primary. -/
def isSecondary (s : State) (c : Nat) : Bool := (upTo 16).any fun p => secondaryOf s p == some c

/-- The primaries of a partition's mirrored pairs. -/
def primariesOf (s : State) (pt : Nat) : List Nat := (coresOf s pt).filter fun c => (secondaryOf s c).isSome

/-- The core that serves the region named by a core: itself, or after a fail-over the survivor (R24). -/
def serving (s : State) (c : Nat) : Nat :=
  match Store.get 0 s.parts.home c with
  | 0 => c
  | h + 1 => h

/-- The cores of a partition's interleaved view, in position order: its unmirrored cores and the primaries of its pairs,
ascending; a survivor keeps its primary's position (R81). -/
def viewCores (s : State) (pt : Nat) : List Nat := (coresOf s pt).filter fun c => !isSecondary s c

/-- Write bytes of a stack, and of the secondary of a mirrored pair (R23). (DEDUCED, log 158) -/
def memWrite (s : State) (core off n v : Nat) : State :=
  let m1 := memPut s.mem (memKey core off) n v
  match secondaryOf s core with
  | some q => if mirrored s core then { s with mem := memPut m1 (memKey q off) n v } else { s with mem := m1 }
  | none => { s with mem := m1 }

/-- The key of the line that holds a byte: bits [6:0] cleared. -/
def lineOf (a : Nat) : Nat := a / 128 * 128

/-- The core of a line's key. -/
def lineCore (l : Nat) : Nat := l / 2 ^ 36

/-- The stack offset of a line's key. -/
def lineOff (l : Nat) : Nat := l % 2 ^ 36

/-- A line of the stacks as a number of 1,024 bits. (DEDUCED, log 29) -/
def readLine (s : State) (l : Nat) : Nat := memRead s l 128

/-- Write the bytes of a line that `mask` selects, and those of its mirror. (DESIGN CHOICE, log 49) -/
def writeLine (s : State) (l v mask : Nat) : State :=
  (upTo 128).foldl (fun s i =>
    if mask.testBit i then memWrite s (lineCore l) (lineOff l + i) 1 (v / 256 ^ i % 256) else s) s

/-- Every byte of a line. -/
def fullMask : Nat := 2 ^ 128 - 1

/-- Copy a stack's range onto another stack. -/
def copyRange (s : State) (src dst n : Nat) : State :=
  let keep := s.mem.filter (fun e => !(decide (dst ≤ e.1 ∧ e.1 < dst + n)))
  let moved := s.mem.filterMap (fun e => if src ≤ e.1 ∧ e.1 < src + n then some (e.1 - src + dst, e.2) else none)
  { s with mem := moved.foldl (fun m e => setByte m e.1 e.2) keep }

/-- Zero a range of the stacks. -/
def zeroRange (s : State) (a n : Nat) : State :=
  { s with mem := Store.drop (fun k => decide (a ≤ k ∧ k < a + n)) s.mem }

/-- A place in the pool: a byte of a stack, named by its serving core, or of tier space. -/
inductive Place where
  | dram (core off : Nat)
  | tier (addr : Nat)
  deriving DecidableEq, Repr

/-- The drive that serves window `w`, where the window is valid for partition `pt`, and its size in GiB (R284). -/
def windowGiB (s : State) (pt w : Nat) : Nat :=
  let mine := fun i => flag s (TIER.DRIVE_EN i) && getF s (TIER.DRIVE_PT i) == pt
  let pairBase := w / 2 * 2
  if !mine w then 0
  else if flag s (TIER.DRIVE_PAIR pairBase) then
    (if w = pairBase then min (Store.get 0 s.tier.size w) (Store.get 0 s.tier.size (w + 1)) else 0)
  else Store.get 0 s.tier.size w

/-- One GiB of tier space lies in a partition's tier range (R284). -/
def tierGiBOk (s : State) (pt g : Nat) : Bool := decide (g < 2 ^ 17) && decide (g % 8192 < windowGiB s pt (g / 8192))

/-- A range of tier space, given by base and end, lies in a partition's tier range. -/
def tierRangeOk (s : State) (pt lo hi : Nat) : Bool :=
  (upTo ((hi + 2 ^ 30 - 1) / 2 ^ 30 - lo / 2 ^ 30)).all fun i => tierGiBOk s pt (lo / 2 ^ 30 + i)

/-- The drives assigned to a partition. -/
def drivesOf (s : State) (pt : Nat) : List Nat :=
  (upTo 16).filter fun i => flag s (TIER.DRIVE_EN i) && getF s (TIER.DRIVE_PT i) == pt

/-- A core a partition may name in the direct view: one of its own that is not the secondary of a whole pair (R85).
(DESIGN CHOICE, log 153) -/
def nameable (s : State) (pt c : Nat) : Bool :=
  ownerOf s c == some pt && !((upTo 16).any fun p => secondaryOf s p == some c && (pairWhole s p ||
    s.parts.copying.getLsbD p))

/-- Where a PPA lies for a partition (R79 to R82), if it lies in memory of its own. -/
def placeOf (s : State) (pt ppa : Nat) : Option Place :=
  if ppa.testBit 47 then
    let a := ppa % 2 ^ 47
    if tierGiBOk s pt (a / 2 ^ 30) then some (.tier a) else none
  else if bitsOf ppa 40 6 ≠ 0 then none
  else if ppa.testBit 46 then
    let a := ppa % 2 ^ 40
    let cs := viewCores s pt
    let g := a / 65536
    if g < cs.length * 983040 then
      some (.dram (serving s (cs.getD (g % cs.length) 0)) (g / cs.length * 65536 + a % 65536))
    else none
  else
    let c := bitsOf ppa 36 4
    let o := ppa % 2 ^ 36
    if nameable s pt c && decide (o < mappable) then some (.dram (serving s c) o) else none

/-- The key of the frame record of a place (R88). -/
def frameKey (core off : Nat) : Nat := core * 2 ^ 20 + off / 65536

end Sys2Proof.Machine
end

