-- ==== Sys2Proof/Machine/Xlt.lean ====
section
/-!
DEFINITION. Translation: the table entry rules, the walk, the translation caches, the frame map, faults and access
counters (chapter 4).
-/

namespace Sys2Proof.Machine

/-! Partner virtual addresses and table entries (R77, R78, R84). -/

/-- Log2 of the span of an entry at a level (Table 04-1). -/
def levelShift (l : Nat) : Nat := match l with | 0 => 16 | 1 => 21 | 2 => 30 | 3 => 39 | _ => 48

/-- Entries of a table at a level. -/
def levelEntries (l : Nat) : Nat := if l = 0 then 32 else 512

/-- The index of a PVA in a table of a level. -/
def levelIndex (va l : Nat) : Nat := va / 2 ^ levelShift l % levelEntries l

/-- Fields of a table entry (Table 04-4). -/
def eV (e : Nat) : Bool := e.testBit 0
def eLeaf (e : Nat) : Bool := e.testBit 1
def eR (e : Nat) : Bool := e.testBit 2
def eW (e : Nat) : Bool := e.testBit 3
def eAtm (e : Nat) : Bool := e.testBit 4
def ePpa (e : Nat) : Nat := bitsOf e 16 32 * 65536
def eNext (e : Nat) : Nat := bitsOf e 8 20 * 256

/-- The table area of a stack begins at this stack offset (Table 04-3). -/
def tableArea : Nat := 0xF00000000

/-- A core belongs to a mirrored pair. -/
def inPair (s : State) (c : Nat) : Bool := (secondaryOf s c).isSome || isSecondary s c

/-- The cores that hold a partition's tables: the two lowest-numbered it owns, or the cores of the first pair where every
core is in one (R83). (DESIGN CHOICE, log 153) -/
def tableCores (s : State) (pt : Nat) : List Nat :=
  let cs := coresOf s pt
  match (viewCores s pt).head? with
  | some p => match secondaryOf s p with
    | some q => if cs.all (inPair s) then [p, q] else cs.take 2
    | none => cs.take 2
  | none => cs.take 2

/-- A table entry: from the first copy, or from the replica once the first copy's core is lost (R83). -/
def tableEntry (s : State) (pt off : Nat) : Nat :=
  match (tableCores s pt).find? (fun c => !lostCore s c) with
  | some c => memRead s (memKey c (tableArea + off)) 8
  | none => 0

/-- Write a table entry to both copies (R83, R86). -/
def writeEntry (s : State) (pt off e : Nat) : State :=
  { s with mem := (tableCores s pt).foldl (fun m c => memPut m (memKey c (tableArea + off)) 8 e) s.mem }

/-- The 64 KiB pieces a leaf at a level maps. -/
def pieces (l : Nat) : Nat := 2 ^ (levelShift l - 16)

/-- A frame of a stack that holds part of its partition's tier cache: a TIER frame (R82, R287). -/
def tierFrame (s : State) (c o : Nat) : Bool :=
  match ownerOf s c with
  | none => false
  | some pt => decide (mappable - getF s (TIER.PT_CACHE_GIB pt) * 2 ^ 30 ≤ o ∧ o < mappable)

/-- The frame record of a place: a frame of a stack, or a GiB of tier space (R88). -/
def frameRec (s : State) (p : Place) : FrameRec :=
  match p with
  | .dram c o => if tierFrame s c o then .tier else Store.get .none s.xlt.frames (frameKey c o)
  | .tier a => Store.get .none s.xlt.tframes (a / 2 ^ 30)

/-- Write a frame record. -/
def setFrame (s : State) (p : Place) (r : FrameRec) : State :=
  match p with
  | .dram c o => { s with xlt := { s.xlt with frames := Store.set .none s.xlt.frames (frameKey c o) r } }
  | .tier a => { s with xlt := { s.xlt with tframes := Store.set .none s.xlt.tframes (a / 2 ^ 30) r } }

/-- Whether a leaf's whole span lies in places the partition may map: its own mappable DRAM that holds no TIER frame,
within one core in the direct view, or its tier range (R85). -/
def leafOwned (s : State) (pt ppa l : Nat) : Bool :=
  if ppa.testBit 47 then l == 2 && tierGiBOk s pt (ppa % 2 ^ 47 / 2 ^ 30)
  else
    (ppa.testBit 46 || decide (ppa % 2 ^ 36 + 2 ^ levelShift l ≤ mappable)) &&
      (upTo (pieces l)).all fun k =>
        match placeOf s pt (ppa + k * 65536) with
        | some (.dram c o) => frameRec s (.dram c o) != .tier
        | _ => false

/-- Reserved bits of a valid entry, R and ATM (R84). -/
def reservedBad (e : Nat) : Bool :=
  bitsOf e 48 8 != 0 ||
    (if eLeaf e then bitsOf e 5 11 != 0 || !eR e || (eAtm e && !eW e)
     else bitsOf e 2 6 != 0 || bitsOf e 28 20 != 0)

/-- The result code of Table 04-9 for an entry at a level, the lowest that applies (R84, R85; DEDUCED, log 15). The 28-bit table
offsets cannot leave the 256 MiB area, so OUT_OF_AREA does not arise. -/
def entryResult (s : State) (pt l e : Nat) : Nat :=
  if 4 < l then 4
  else if !eV e then 0
  else if eLeaf e then
    if 2 < l ∨ (e.testBit 47 && l != 2) then 4
    else if ePpa e % 2 ^ levelShift l ≠ 0 then 5
    else if !leafOwned s pt (ePpa e) l then 6
    else if reservedBad e then 9
    else 0
  else if l = 0 then 4
  else if eNext e % (if l = 1 then 256 else 4096) ≠ 0 then 5
  else if reservedBad e then 9
  else 0

/-! The walk (R83, R85, R87). -/

/-- The outcome of a translation: the leaf entry in force for the PVA (a fragment's PPA put in), or a cause of
Table 04-7 (1 NOMAP, 2 PERM, 3 RSVD, 4 AREA). -/
inductive Walk where
  | leaf (ent span : Nat)
  | fault (cause : Nat)
  deriving DecidableEq, Repr

/-- A leaf entry with another PPA. -/
def withPpa (e ppa : Nat) : Nat := insertBits e 16 32 (ppa / 65536)

/-- Cut a leaf at a level to the span a cache holds: a 1 GiB leaf to the 2 MiB fragment that holds the PVA (R90). -/
def fragment (e l va : Nat) : Walk :=
  if l = 2 then .leaf (withPpa e (ePpa e + va % 2 ^ 30 / 2 ^ 21 * 2 ^ 21)) 21
  else .leaf e (levelShift l)

/-- The entry a table at `base` holds for a PVA at a level, through the walker cache (R90, R92). -/
def walkEntry (s : State) (pt base va l : Nat) : Nat :=
  match s.xlt.walker.find? (fun c => c.pt == pt && c.span == levelShift l && c.base == va / 2 ^ levelShift l * 2 ^ levelShift l
      && (getF s (PXC.WAYS_MASK pt)).testBit c.way) with
  | some c => c.ent
  | none => tableEntry s pt (base + levelIndex va l * 8)

/-- Walk from the table at `base`, level `l`; the level falls at each step. (DEDUCED, log 55) -/
def walkFrom (s : State) (pt va : Nat) : Nat → Nat → Walk
  | l, base =>
    let e := walkEntry s pt base va l
    if !eV e then .fault 1
    else if entryResult s pt l e ≠ 0 then .fault 3
    else if eLeaf e then fragment e l va
    else match l with
      | 0 => .fault 3
      | l' + 1 => walkFrom s pt va l' (eNext e)

/-- A whole walk (R78, R86): NOMAP where the partition has no root. -/
def walk (s : State) (pt va : Nat) : Walk :=
  if flag s (XLT.ROOT_V pt) then walkFrom s pt va 4 (getF s (XLT.ROOT_OFFSET pt) * 4096) else .fault 1

/-- The non-leaf entries a walk reads, as (level, base PVA, entry), from the root down. -/
def walkPath (s : State) (pt va : Nat) : Nat → Nat → List (Nat × Nat × Nat)
  | 0, _ => []
  | l + 1, base =>
    let e := walkEntry s pt base va (l + 1)
    if eV e && !eLeaf e && entryResult s pt (l + 1) e == 0 then
      (l + 1, va / 2 ^ levelShift (l + 1) * 2 ^ levelShift (l + 1), e) :: walkPath s pt va l (eNext e)
    else []

/-! The translation caches (R90, R91). -/

/-- Put an entry into a cache: the lowest unused way of `ways` in its set, else the least recently used of them. -/
def cacheFill (ways : List Nat) (c : List CacheEnt) (e : CacheEnt) : List CacheEnt :=
  let same := c.filter (fun x => x.set == e.set)
  match ways.find? (fun w => same.all (fun x => x.way != w)) with
  | some w => { e with way := w } :: c
  | none =>
    match (same.filter (fun x => ways.contains x.way)).getLast? with
    | some v => { e with way := v.way } :: c.filter (fun x => !(x.set == v.set && x.way == v.way))
    | none => c

/-- Look an entry up: the hit moves to the front. -/
def cacheFind (c : List CacheEnt) (p : CacheEnt → Bool) : Option (CacheEnt × List CacheEnt) :=
  match c.find? p with
  | some e => some (e, e :: c.filter (fun x => !(x.set == e.set && x.way == e.way)))
  | none => none

/-- An entry that covers a PVA for a partition. -/
def covers (pt va : Nat) (e : CacheEnt) : Bool := e.pt == pt && e.base == va / 2 ^ e.span * 2 ^ e.span

/-- The ways a partition's mask gives it (R91). -/
def waysOf (s : State) (pt : Nat) : List Nat := (upTo 16).filter (getF s (PXC.WAYS_MASK pt)).testBit

/-- `PXC.WAYS` of a partition. -/
def pxcWays (s : State) (pt : Nat) : Nat := getF s (PXC.WAYS_MASK pt)

/-- The walker cache takes the non-leaf entries of a walk; its set comes from the span's number (DESIGN CHOICE, log 16). -/
def fillWalker (s : State) (pt va : Nat) : State :=
  if flag s (XLT.ROOT_V pt) then
    let path := walkPath s pt va 4 (getF s (XLT.ROOT_OFFSET pt) * 4096)
    let w := path.foldl (fun c x =>
      let sp := levelShift x.1
      match cacheFind c (fun e => covers pt va e && e.span == sp && (waysOf s pt).contains e.way) with
      | some (_, c') => c'
      | none => cacheFill (waysOf s pt) c ⟨x.2.1 / 2 ^ sp % 256, 0, pt, x.2.1, sp, x.2.2⟩) s.xlt.walker
    { s with xlt := { s.xlt with walker := w } }
  else s

/-- A walk takes its turn (R42, R54, R57): in deterministic mode a partition has one walk in a slot, in the PART slots of
the core whose table area the walker reads. With the mode off a walk is one with the access that needs it.
(DEDUCED, log 159) -/
def takeWalk (s : State) (pt : Nat) : State :=
  match detOn s, (tableCores s pt).find? (fun c => !lostCore s c) with
  | true, some c =>
    match partWindow s c pt (max s.time.ft (Store.get 0 s.xlt.walkSlot pt * 64)) with
    | some t => { s with xlt := { s.xlt with walkSlot := Store.set 0 s.xlt.walkSlot pt (t / 64 + 1) } }
    | none => s
  | _, _ => s

/-- The Fabric Time at which a partition's last walk is over: the close of its launch window (R54).
(DEDUCED, log 159) -/
def walkOver (s : State) (pt : Nat) : Nat :=
  match Store.get 0 s.xlt.walkSlot pt with
  | 0 => 0
  | n + 1 => n * 64 + 60

/-- Translate at a port through the PXC (R90 to R93): a hit or a miss is counted; a miss walks and fills. -/
def portWalk (s : State) (pt va : Nat) : Walk × State :=
  match cacheFind s.xlt.pxc (fun e => covers pt va e && (waysOf s pt).contains e.way) with
  | some (e, c) => (.leaf e.ent e.span, wrapF { s with xlt := { s.xlt with pxc := c } } (PXC.HITS pt) 1)
  | none =>
    let s1 := takeWalk (wrapF s (PXC.MISSES pt) 1) pt
    match walk s pt va with
    | .fault c => (.fault c, fillWalker s1 pt va)
    | .leaf e sp =>
      let s2 := fillWalker s1 pt va
      let ent : CacheEnt := ⟨va / 2 ^ 21 % 1024, 0, pt, va / 2 ^ sp * 2 ^ sp, sp, e⟩
      (.leaf e sp, { s2 with xlt := { s2.xlt with pxc := cacheFill (waysOf s pt) s2.xlt.pxc ent } })

/-- The second-level TLB of a core. -/
def l2tlb (s : State) (c : Nat) : List CacheEnt := Store.get [] s.xlt.l2 c
/-- The TLB of an engine. -/
def engTlb (s : State) (ce : Nat) : List CacheEnt := Store.get [] s.xlt.etlb ce

/-- Translate for an engine: its TLB, then the core's second-level TLB, then a walk (R90). -/
def engineWalk (s : State) (core eng pt va : Nat) : Walk × State :=
  let ce := core * 16 + eng
  let setE := fun (s : State) c => { s with xlt := { s.xlt with etlb := Store.set [] s.xlt.etlb ce c } }
  let setL := fun (s : State) c => { s with xlt := { s.xlt with l2 := Store.set [] s.xlt.l2 core c } }
  match cacheFind (engTlb s ce) (covers pt va) with
  | some (e, c) => (.leaf e.ent e.span, setE s c)
  | none =>
    let fillE := fun (s : State) (e : CacheEnt) => setE s (cacheFill (upTo 64) (engTlb s ce) { e with set := 0 })
    match cacheFind (l2tlb s core) (covers pt va) with
    | some (e, c) => (.leaf e.ent e.span, fillE (setL s c) e)
    | none =>
      let s0 := takeWalk s pt
      match walk s pt va with
      | .fault c => (.fault c, fillWalker s0 pt va)
      | .leaf e sp =>
        let ent : CacheEnt := ⟨va / 2 ^ 21 % 512, 0, pt, va / 2 ^ sp * 2 ^ sp, sp, e⟩
        let s1 := fillWalker s0 pt va
        (.leaf e sp, fillE (setL s1 (cacheFill (upTo 8) (l2tlb s1 core) ent)) ent)

/-- The rights an access needs (R98): 0 read, 1 write, 2 far atomic. (DEDUCED, log 53) -/
def rightOk (e need : Nat) : Bool :=
  match need with
  | 0 => eR e
  | 1 => eW e
  | _ => eAtm e

/-- A line of a locked image region: MEASURING or BOUND (R403). -/
def imageLocked (s : State) (pt va : Nat) : Bool :=
  (upTo 16).any fun k =>
    let st := getF s (ATT.IMG_CTL_STATE k)
    (st == 1 || st == 2) && getF s (ATT.IMG_CTL_PT k) == pt
      && decide (getF s (ATT.IMG_PVA k) * 65536 ≤ va
          ∧ va < (getF s (ATT.IMG_PVA k) + getF s (ATT.IMG_LEN_UNITS k)) * 65536)

/-- A key slot's range that holds a tier address: its state (Table 13-6); 0 outside every slot. -/
def sealedState (s : State) (a : Nat) : Nat :=
  match (upTo 16).find? (fun k => getF s (KEY.KSLOT_CTL_STATE k) != 0
      && decide (getF s (KEY.KSLOT_BASE_GIB k) * 2 ^ 30 ≤ a
          ∧ a < (getF s (KEY.KSLOT_BASE_GIB k) + getF s (KEY.KSLOT_LEN_GIB k)) * 2 ^ 30)) with
  | some k => getF s (KEY.KSLOT_CTL_STATE k)
  | none => 0

/-- Finish a translation: rights, image locks, sealed ranges and where the PPA lies now (R85, R98, R399, R403). -/
def finish (s : State) (pt va need : Nat) (w : Walk) : Except Nat Place :=
  match w with
  | .fault c => .error c
  | .leaf e sp =>
    if !rightOk e need || (need != 0 && imageLocked s pt va) then .error 2
    else match placeOf s pt (ePpa e / 2 ^ sp * 2 ^ sp + va % 2 ^ sp) with
      | none => .error 3
      | some (.tier a) =>
        let st := sealedState s a
        if st = 2 ∨ (st = 3 ∧ need ≠ 0) then .error 2 else .ok (.tier a)
      | some p => .ok p

/-- Translate a partner's access (R77, R98, R99). -/
def portTranslate (s : State) (pt va need : Nat) : Except Nat Place × State :=
  if 2 ^ 57 ≤ va then (.error 3, s)
  else
    let (w, s1) := portWalk s pt va
    (finish s pt va need w, s1)

/-- Translate an engine's access (R77, R98, R102). -/
def engineTranslate (s : State) (core eng pt va need : Nat) : Except Nat Place × State :=
  if 2 ^ 57 ≤ va then (.error 3, s)
  else
    let (w, s1) := engineWalk s core eng pt va
    (finish s pt va need w, s1)

/-- A PVA lies in a page that is being moved: accesses to it are held (R105). -/
def moving (s : State) (pt va : Nat) : Bool :=
  match Store.get none s.xlt.moves pt with
  | some m => decide (m.pva ≤ va ∧ va < m.pva + m.size)
  | none => false

/-- Count and capture a translation fault (R100): source is a PID, or core * 16 + engine with `eng`. -/
def xltFault (s : State) (pt va cause : Nat) (eng : Bool) (src : Nat) : State :=
  let s1 := bumpF s (XLT.FAULT_COUNT_COUNT pt)
  if flag s (XLT.FAULT_INFO_VALID pt) then s1
  else
    let s2 := setF (setF s1 (XLT.FAULT_PVA pt) va) (XLT.FAULT_INFO_CAUSE pt) cause
    setB (setF (setB s2 (XLT.FAULT_INFO_ENGINE pt) eng) (XLT.FAULT_INFO_SRC pt) src) (XLT.FAULT_INFO_VALID pt) true

/-! Access counters (R103, R104). -/

/-- The bank of a counter: what CNT_ADDR names. -/
def cntBank (core idx : Nat) : Nat := core + 16 * idx

/-- Push a hot page (R104). -/
def pushHot (s : State) (core idx : Nat) : State :=
  if s.xlt.hot.length < 256 then
    let s1 := { s with xlt := { s.xlt with hot := s.xlt.hot ++ [(core, idx)] } }
    if s.xlt.hot.isEmpty then raise s1 0x0400 2 else s1
  else { s with xlt := { s.xlt with hotLost := true } }

/-- Count an access to a DRAM line by a partner or by another core's engine (R103). (DESIGN CHOICE, log 154) -/
def countAccess (s : State) (core off : Nat) (eng : Bool) : State :=
  if off < mappable then
    let i := off / 2 ^ 21
    let b := cntBank core i
    let s1 := bumpF s (if eng then XLT.CNT_DATA_ENGINE b else XLT.CNT_DATA_PARTNER b)
    if !flag s1 (XLT.CNT_DATA_HOT b)
        && decide (getF s XLT.HOT_THRESH_LINES ≤ getF s1 (XLT.CNT_DATA_PARTNER b) + getF s1 (XLT.CNT_DATA_ENGINE b))
    then pushHot (setB s1 (XLT.CNT_DATA_HOT b) true) core i else s1
  else s

/-- The registers of the counters: every field at CNT_DATA whose bank satisfies `p`. -/
def clearCounters (s : State) (p : Nat → Bool) : State :=
  { s with regs := Store.drop (fun k => k / 32 % 0x10000000 == 0x400164 && p (k / 32 / 0x10000000)) s.regs }

/-- CNT_CMD.CLEAR of one core (R103). -/
def doCntClear (s : State) (core : Nat) : State := clearCounters s (fun b => b % 16 == core)

/-- CNT_CLEAR (R103). -/
def execCntClear (core : Core) (s : State) : Host.Outcome State Fault Refusal := .next (whenAlive s (doCntClear · core))

/-- CNT_CMD.CLEAR_ALL (R103): the hot list too. -/
def doCntClearAll (s : State) : State :=
  let s1 := clearCounters s (fun _ => true)
  { s1 with xlt := { s1.xlt with hot := [], hotLost := false } }

/-- CNT_CLEAR_ALL (R103). -/
def execCntClearAll (s : State) : Host.Outcome State Fault Refusal := .next (whenAlive s doCntClearAll)

/-- The holder's read of CNT_DATA advances INDEX where AUTOINC is 1 (R103, R481). (DESIGN CHOICE, log 154) -/
def readCntData (s : State) : State :=
  if flag s XLT.CNT_ADDR_AUTOINC then wrapF s XLT.CNT_ADDR_INDEX 1 else s

/-- CNT_DATA (R103). -/
def execCntData (s : State) : Host.Outcome State Fault Refusal := .next (whenManaged s readCntData)

/-- HOT_POP as it reads now (Table 04-8). LOST shows in the next entry popped. -/
def hotEntry (s : State) : Nat :=
  match s.xlt.hot with
  | [] => 0
  | (c, i) :: _ => 1 + c * 2 + i * 32 + s.xlt.hotLost.toNat * 2 ^ 30

/-- The holder's read of HOT_POP removes one entry (R104, R481). -/
def readHotPop (s : State) : State :=
  if s.xlt.hot.isEmpty then s
  else { s with xlt := { s.xlt with hot := s.xlt.hot.drop 1, hotLost := false } }

/-- HOT_POP (R104). -/
def execHotPop (s : State) : Host.Outcome State Fault Refusal := .next (whenManaged s readHotPop)

/-! PXC ways (R91). -/

/-- A write of PXC.WAYS of a partition (R91): refused where two partitions would share a way or a run is open. -/
def doWaysWrite (s : State) (pt mask : Nat) : State :=
  let m := mask % 65536
  let clash := (upTo 16).any fun q => q != pt && (m &&& pxcWays s q) != 0
  if clash || (bitF s PART.DRUN_OPEN_OPEN pt && m != pxcWays s pt) then setB s PXC.PXC_STS_REFUSED true
  else
    let gone := fun (e : CacheEnt) => e.pt == pt && !m.testBit e.way
    let s1 := setF (setB s PXC.PXC_STS_REFUSED false) (PXC.WAYS_MASK pt) m
    let s2 := { s1 with xlt := { s1.xlt with pxc := s1.xlt.pxc.filter (fun e => !gone e),
                                             walker := s1.xlt.walker.filter (fun e => !gone e) } }
    if m = pxcWays s pt then s2 else bumpConfigGen s2 pt

/-- PXC_WAYS_WRITE (R91). -/
def execPxcWaysWrite (pt : Ptn) (mask : Nat) (s : State) : Host.Outcome State Fault Refusal :=
  .next (whenAlive s (doWaysWrite · pt mask))

/-! The tables' reverse index, and the PVA of an entry (R88; DEDUCED, log 17). -/

/-- The key of a table in the reverse index. -/
def tableKey (pt l base : Nat) : Nat := (pt * 8 + l) * 2 ^ 28 + base

/-- The PVA at which the span of the entry at `off`, level `l`, begins, found up through its parents; `n` levels left.
(DEDUCED, log 17) -/
def entryPva (s : State) (pt : Nat) : Nat → Nat → Nat → Option Nat
  | 0, _, _ => none
  | n + 1, l, off =>
    let size := if l = 0 then 256 else 4096
    let base := off / size * size
    let here := (off - base) / 8 * 2 ^ levelShift l
    if l = 4 then
      if flag s (XLT.ROOT_V pt) && getF s (XLT.ROOT_OFFSET pt) * 4096 == base then some here else none
    else match Store.get 0 s.xlt.parent (tableKey pt l base) with
      | 0 => none
      | up + 1 => (entryPva s pt n (l + 1) up).map (· + here)

/-- Give every current record the PVA that the tables give its leaf now. -/
def refreshFrames (s : State) : State :=
  let f := fun (r : FrameRec) => match r with
    | .cur pt off l k v => FrameRec.cur pt off l k
        (match entryPva s pt 5 l off with | some p => some (p + k * 65536) | none => v)
    | r => r
  { s with xlt := { s.xlt with frames := s.xlt.frames.map (fun e => (e.1, f e.2)),
                               tframes := s.xlt.tframes.map (fun e => (e.1, f e.2)) } }

/-- The PVA a frame record names. -/
def recPva (r : FrameRec) : Option Nat :=
  match r with
  | .cur _ _ _ _ v => v
  | .ret _ _ _ v => v
  | _ => none

/-- The partition a frame record names. -/
def recPt (r : FrameRec) : Option Nat :=
  match r with
  | .cur p _ _ _ _ => some p
  | .ret p _ _ _ => some p
  | _ => none

/-- The page a record's piece belongs to, as base and size. -/
def recPage (r : FrameRec) : Option (Nat × Nat) :=
  match r with
  | .cur _ _ l k (some v) => some (v - k * 65536, 2 ^ levelShift l)
  | .ret _ l k (some v) => some (v - k * 65536, 2 ^ levelShift l)
  | _ => none

/-- The PVA of a line of a stack, for the snoops of its directory entry (R88). -/
def pvaOfLine (s : State) (l : Nat) : Nat :=
  match recPva (frameRec s (.dram (lineCore l) (lineOff l))) with
  | some v => v + lineOff l % 65536
  | none => 0

/-! The table window (R86, R88, R89). -/

/-- The places a leaf covers, piece by piece; a tier leaf is one GiB record. -/
def leafPlaces (s : State) (pt ppa l : Nat) : List (Nat × Place) :=
  if ppa.testBit 47 then [(0, .tier (ppa % 2 ^ 47))]
  else (upTo (pieces l)).filterMap fun k => (placeOf s pt (ppa + k * 65536)).map fun p => (k, p)

/-- A frame that an entry may not map as piece `k` of a leaf (R88): it records another PVA, a retired one, or TIER. -/
def aliased (s : State) (pt off l k : Nat) (p : Place) : Bool :=
  match frameRec s p with
  | .none => false
  | .cur q o l' k' _ => !(q == pt && o == off && l' == l && k' == k)
  | _ => true

/-- A leaf that covers part of a locked image region (R403). -/
def coversImage (s : State) (pt lo size : Nat) : Bool :=
  (upTo 16).any fun k =>
    let st := getF s (ATT.IMG_CTL_STATE k)
    (st == 1 || st == 2) && getF s (ATT.IMG_CTL_PT k) == pt
      && decide (lo < (getF s (ATT.IMG_PVA k) + getF s (ATT.IMG_LEN_UNITS k)) * 65536
          ∧ getF s (ATT.IMG_PVA k) * 65536 < lo + size)

/-- The result of a commit (Table 04-9, R403), the lowest that applies. (DEDUCED, log 15) -/
def commitResult (s : State) (pt off l e : Nat) : Nat :=
  if (coresOf s pt).isEmpty then 1
  else if bitF s PART.DRUN_OPEN_OPEN pt then 2
  else
    let r := entryResult s pt l e
    if r ≠ 0 ∧ r < 7 then r
    else if eV e && eLeaf e && (leafPlaces s pt (ePpa e) l).any (fun x => aliased s pt off l x.1 x.2) then 7
    else if r ≠ 0 then r
    else
      let old := tableEntry s pt off
      match entryPva s pt 5 l off with
      | some v => if old ≠ e && eV old && coversImage s pt v (2 ^ levelShift l) then 11 else 0
      | none => 0

/-- The records of the frames that the leaf at `off` covers become retired, but for the frames it goes on mapping. -/
def retire (s : State) (pt off : Nat) (keep : List Place) : State :=
  let f := fun (r : FrameRec) => match r with
    | .cur q o l k v => if q = pt ∧ o = off then FrameRec.ret q l k v else r
    | r => r
  let keepF := keep.filterMap fun p => match p with | .dram c o => some (frameKey c o) | .tier _ => none
  let keepT := keep.filterMap fun p => match p with | .tier a => some (a / 2 ^ 30) | .dram _ _ => none
  { s with xlt := { s.xlt with
      frames := s.xlt.frames.map (fun x => if keepF.contains x.1 then x else (x.1, f x.2))
      tframes := s.xlt.tframes.map (fun x => if keepT.contains x.1 then x else (x.1, f x.2)) } }

/-- Write an accepted entry: both copies, the reverse index and the frame map (R83, R86, R88). (DEDUCED, log 17) -/
def applyCommit (s : State) (pt off l e : Nat) : State :=
  let s0 := refreshFrames s
  let leaf := eV e && eLeaf e
  let places := if leaf then leafPlaces s pt (ePpa e) l else []
  let s1 := retire s0 pt off (places.map (·.2))
  let old := tableEntry s pt off
  let par1 := if eV old && !eLeaf old && decide (0 < l)
      && Store.get 0 s.xlt.parent (tableKey pt (l - 1) (eNext old)) == off + 1
    then Store.del s.xlt.parent (tableKey pt (l - 1) (eNext old)) else s.xlt.parent
  let par2 := if eV e && !eLeaf e && decide (0 < l)
    then Store.set 0 par1 (tableKey pt (l - 1) (eNext e)) (off + 1) else par1
  let s2 := writeEntry { s1 with xlt := { s1.xlt with parent := par2 } } pt off e
  let s3 := forAll places (fun s x => setFrame s x.2 (.cur pt off l x.1 none)) s2
  refreshFrames s3

/-- The frames of the stacks whose records a commit touches: those of the old leaf and those of the new. -/
def commitFrames (s : State) (pt off l e : Nat) : List Nat :=
  (s.xlt.frames.filterMap fun x => match x.2 with
    | .cur q o _ _ _ => if q = pt ∧ o = off then some x.1 else none
    | _ => none)
  ++ (if eV e && eLeaf e then leafPlaces s pt (ePpa e) l else []).filterMap fun x => match x.2 with
    | .dram c o => some (frameKey c o)
    | .tier _ => none

/-- The line of a stack that holds a frame's record, the records lying 8 bytes apart in the frame map (Table 04-3).
(DEDUCED, log 127) -/
def recordLine (k : Nat) : Nat := memKey (k / 2 ^ 20) (0xF10000000 + k % 2 ^ 20 * 8 / 128 * 128)

/-- The commit that runs waits for the rebuilding of a frame-map line (R271). (DEDUCED, log 127) -/
def commitWaits (s : State) : Bool :=
  s.xlt.tblFrames.any fun k => (Store.get [] s.dram.repairs (k / 2 ^ 20)).contains (recordLine k)

/-- TBL_CMD.COMMIT (R86): checked and written; TBL_COMMIT_DONE reports. Ignored and flagged while one runs.
(DEDUCED, log 90) -/
def doTblCommit (s : State) (l : Nat) : State :=
  if flag s XLT.TBL_STS_BUSY then ignored s 0x0400
  else
    let pt := getF s XLT.TBL_ADDR_PT
    let off := getF s XLT.TBL_ADDR_OFFSET * 8
    let e := getF s XLT.TBL_DATA
    let r := commitResult s pt off l e
    let s1 := if r = 0 then bumpConfigGen (applyCommit s pt off l e) pt else s
    let fs := if r = 0 then commitFrames s pt off l e else []
    { setB s1 XLT.TBL_STS_BUSY true with xlt := { s1.xlt with tblNext := r + 1, tblFrames := fs } }

/-- TBL_COMMIT (R86). -/
def execTblCommit (level : Nat) (s : State) : Host.Outcome State Fault Refusal := .next (whenAlive s (doTblCommit · level))

/-- TBL_COMMIT_DONE (R86). A commit that touches a frame-map line under repair waits (R271). -/
def execTblCommitDone (s : State) : Host.Outcome State Fault Refusal :=
  .next (whenManaged s fun s =>
    match s.xlt.tblNext with
    | 0 => s
    | r + 1 =>
      if commitWaits s then s
      else
        let x := { s.xlt with tblNext := 0, tblFrames := [] }
        setF (setB { s with xlt := x } XLT.TBL_STS_BUSY false) XLT.TBL_STS_RESULT r)

/-- TBL_CMD.READ (R86): the stored entry into TBL_DATA. -/
def doTblRead (s : State) (l : Nat) : State :=
  if flag s XLT.TBL_STS_BUSY then ignored s 0x0400
  else
    let pt := getF s XLT.TBL_ADDR_PT
    if (coresOf s pt).isEmpty then setF s XLT.TBL_STS_RESULT 1
    else if 4 < l then setF s XLT.TBL_STS_RESULT 4
    else setF (setF s XLT.TBL_STS_RESULT 0) XLT.TBL_DATA (tableEntry s pt (getF s XLT.TBL_ADDR_OFFSET * 8))

/-- TBL_READ (R86). -/
def execTblRead (level : Nat) (s : State) : Host.Outcome State Fault Refusal := .next (whenAlive s (doTblRead · level))

/-- The records of a partition's table tree below the table at `base` of a level, depth first (R89). -/
def treeRecords (s : State) (pt : Nat) : Nat → Nat → Nat → List (Nat × Nat × Nat)
  | l, base, va =>
    (upTo (levelEntries l)).flatMap fun i =>
      let e := tableEntry s pt (base + i * 8)
      let v := va + i * 2 ^ levelShift l
      if !eV e then []
      else if eLeaf e then [(l, v, e)]
      else match l with
        | 0 => [(0, v, e)]
        | l' + 1 => (l' + 1, v, e) :: treeRecords s pt l' (eNext e) v

/-- The records of a partition's whole table tree. -/
def tableTree (s : State) (pt : Nat) : List (Nat × Nat × Nat) :=
  if flag s (XLT.ROOT_V pt) then treeRecords s pt 4 (getF s (XLT.ROOT_OFFSET pt) * 4096) 0 else []

/-- The digest of a partition's table tree (R89). -/
def tableDigest (s : State) (pt : Nat) : Nat :=
  sha3 ((tableTree s pt).flatMap fun r => Keccak.toBytes 1 r.1 ++ Keccak.toBytes 8 r.2.1 ++ Keccak.toBytes 8 r.2.2)

/-- DIGEST_CMD.GO (R89). One digest runs at a time. -/
def doXltDigest (s : State) (pt : Nat) : State :=
  if flag s XLT.DIGEST_STS_BUSY then s
  else { setB s XLT.DIGEST_STS_BUSY true with
    xlt := { s.xlt with digest := some (tableDigest s pt, (tableTree s pt).length) } }

/-- XLT_DIGEST (R89). -/
def execXltDigest (pt : Ptn) (s : State) : Host.Outcome State Fault Refusal := .next (whenAlive s (doXltDigest · pt))

/-- XLT_DIGEST_DONE (R89). -/
def execXltDigestDone (s : State) : Host.Outcome State Fault Refusal :=
  .next (whenManaged s fun s =>
    match s.xlt.digest with
    | none => s
    | some (d, n) =>
      let s1 := setB { s with xlt := { s.xlt with digest := none } } XLT.DIGEST_STS_BUSY false
      setF (setF s1 XLT.DIGEST d) XLT.DIGEST_STS_RECORDS (min n (2 ^ 24 - 1)))

/-! Invalidation of the caches (R94, R97). -/

/-- Remove every cached translation of a partition that `p` selects; walker-cache entries too. -/
def dropCached (s : State) (pt : Nat) (p : CacheEnt → Bool) : State :=
  let f := fun (c : List CacheEnt) => c.filter (fun e => !(e.pt == pt && p e))
  { s with xlt := { s.xlt with pxc := f s.xlt.pxc, walker := f s.xlt.walker,
                               l2 := (s.xlt.l2.map fun e => (e.1, f e.2)).filter (fun e => !e.2.isEmpty),
                               etlb := (s.xlt.etlb.map fun e => (e.1, f e.2)).filter (fun e => !e.2.isEmpty) } }

/-- A cached span overlaps the PVA range from `lo` to `hi`. -/
def spanOverlaps (lo hi : Nat) (e : CacheEnt) : Bool := decide (e.base < hi ∧ lo < e.base + 2 ^ e.span)

/-- The partition manager's own invalidation of a whole partition (R97). -/
def invalidatePt (s : State) (pt : Nat) : State := bumpConfigGen (dropCached s pt fun _ => true) pt

end Sys2Proof.Machine
end

