-- ==== Sys2Proof/Machine/Net.lean ====
section
/-!
DEFINITION. The transport base: partner identifiers, egress queues, routing of the module's own packets, responses and
the ingress store (chapter 12: R347, R353 to R357, R360, R363).
-/

namespace Sys2Proof.Machine

/-! Partner identifiers (R43, R133, R347). -/

/-- The state of a PID: 0 UNBOUND, 1 LIVE, 2 FENCED, 3 SWEEPING, 4 RELEASED. -/
def pidState (s : State) (pid : Nat) : Nat := getF s (PART.FENCE_STS_STATE pid)
/-- A LIVE PID. -/
def pidLive (s : State) (pid : Nat) : Bool := pidState s pid == 1
/-- The partition of a bound PID. -/
def pidPt (s : State) (pid : Nat) : Nat := getF s (PART.BIND_STS_PT pid)
/-- A PID bound to a partition: every state but UNBOUND. -/
def pidBound (s : State) (pid pt : Nat) : Bool := pidState s pid != 0 && pidPt s pid == pt
/-- A PID that is LIVE in a partition. -/
def liveIn (s : State) (pid pt : Nat) : Bool := pidLive s pid && pidPt s pid == pt
/-- The NODE_ID of a PID (R347). -/
def nodeOf (s : State) (pid : Nat) : Nat := getF s (ROUTE.PTAB_DATA_NODE_ID pid)
/-- An open run of a partition. -/
def runOpen (s : State) (pt : Nat) : Bool := bitF s PART.DRUN_OPEN_OPEN pt
/-- Some partition has an open run. -/
def anyRun (s : State) : Bool := getF s PART.DRUN_OPEN_OPEN != 0

/-! Ports and charges. -/

/-- A port that is in service: ACTIVE, or in a retrain, in which packets wait (R319, R356; DEDUCED, log 18). -/
def portUp (s : State) (p : Nat) : Bool :=
  getF s (PORT.LINK_STS_STATE p) == 7 || flag s (PORT.LINK_STS_RETRAINING p)

/-- The bytes of a packet (R348). -/
def pktBytes (p : Packet) : Nat := 32 + p.len

/-- Units of 32 bytes of a packet (R333). -/
def pktUnits (p : Packet) : Nat := (pktBytes p + 31) / 32

/-- The charge of a packet in the egress schedulers (R371, R373). -/
def charge (s : State) (p : Packet) : Nat :=
  32 * pktUnits p + (if flag s SHAPE.SHAPE_CTL_MODE then 0 else getF s SHAPE.SHAPE_CTL_OVH)

/-- An egress queue of a port. -/
def queueOf (s : State) (p k : Nat) : List Sending := Store.get [] s.net.egress (p * 64 + k)

/-- Replace an egress queue. -/
def setQueue (s : State) (p k : Nat) (q : List Sending) : State :=
  { s with net := { s.net with egress := Store.set [] s.net.egress (p * 64 + k) q } }

/-- The queues of a port: MGMT, FWD, FSNP, and three for each partition. -/
def queueKinds : List Nat := upTo 51

/-- Charged bytes queued on a port: QDEPTH. -/
def portDepth (s : State) (p : Nat) : Nat :=
  (queueKinds.map fun k => ((queueOf s p k).map fun x => charge s x.pkt).sum).sum

/-- The virtual channel of a queue's packets (R353): the class, or FWD. (DEDUCED, log 129) -/
def chanClass (x : Sending) : Nat := if x.kind = 1 then 5 else x.pkt.cls

/-- Charged bytes queued on a port on one channel's class. (DEDUCED, log 129) -/
def chanDepth (s : State) (p c : Nat) : Nat :=
  (queueKinds.map fun k => (((queueOf s p k).filter fun x => chanClass x == c).map fun x => charge s x.pkt).sum).sum

/-! Routing (R355, R356, R360). -/

/-- A routing entry (Table 12-6) of a bank and a table, 0 row and 1 column. -/
def routeEntry (s : State) (bank dim idx : Nat) : Nat := Store.get 0 s.net.route (bank * 512 + dim * 256 + idx)

/-- The active bank, or the other one. -/
def routeBank (s : State) (old : Bool) : Nat :=
  let a := getF s ROUTE.ROUTE_STS_ACTIVE
  if old then 1 - a else a

/-- The ports a routing entry lists, in order. -/
def entryPorts (e : Nat) : List Nat := (upTo (bitsOf e 2 2 + 1)).map fun i => bitsOf e (4 + 6 * i) 6

/-- The first of the least elements by a measure. -/
def leastBy (f : Nat → Nat) : List Nat → Option Nat
  | [] => none
  | x :: xs => match leastBy f xs with
    | none => some x
    | some y => if f y < f x then some y else some x

/-- The egress port that a routing entry gives a packet (R356); none where it gives none in service. -/
def choosePort (s : State) (e dst cls : Nat) : Option Nat :=
  let ps := entryPorts e
  if !e.testBit 0 then none
  else if e.testBit 1 && !detOn s then leastBy (chanDepth s · cls) (ps.filter (portUp s))
  else
    let k := dst % ps.length
    (ps.drop k ++ ps.take k).find? (portUp s)

/-- The egress queue of a class for a partition (R354). -/
def classQueue (cls pt : Nat) : Nat :=
  match cls with
  | 2 => 3 + pt
  | 1 => 19 + pt
  | 3 => 35 + pt
  | _ => 0

/-! The ingress store (R363, R364). -/

/-- A WB or an EVICT. -/
def isWb (op : Nat) : Bool := op == 0x07 || op == 0x08

/-- Two entries of the store are the same request. -/
def sameReq (a b : Req) : Bool := a.pid == b.pid && a.tag == b.tag && isWb a.op == isWb b.op

/-- Take a request out of the store. -/
def dropReq (s : State) (r : Req) : State := { s with net := { s.net with store := s.net.store.filter fun x => !sameReq x r } }

/-- A request's entry frees (R363): its credit waits for release. The room of a WB or EVICT frees (R364). -/
def freeReq (s : State) (r : Req) : State :=
  if s.net.store.any (sameReq r) then
    let s1 := dropReq s r
    if isWb r.op then s1
    else
      let op : Nat := ((s.net.store.find? (sameReq r)).map (·.op)).getD 0
      let cost := if op = 0x0C ∨ op = 0x0D then 64 else 128
      { s1 with net := { s1.net with owed := Store.set [] s1.net.owed r.pid (Store.get [] s1.net.owed r.pid ++ [cost]) } }
  else s

/-- The store entry of a REQ other than WB and EVICT frees, if it is there. -/
def freeEntry (s : State) (pid tag : Nat) : State := freeReq s { pid := pid, tag := tag }

/-- A packet of the module's own has left, or is given up: the entry it answers frees (R363). -/
def sendingGone (s : State) (x : Sending) : State :=
  match x.frees with
  | some (pid, tag) => freeEntry s pid tag
  | none => s

/-- Put a packet into the queue of a port. (DESIGN CHOICE, log 163) -/
def enqueue (s : State) (p : Nat) (x : Sending) : State :=
  setQueue s p x.kind (queueOf s p x.kind ++ [{ x with queued := s.time.elapsed, stalled := false }])

/-- Count a return in ROUTE.RETURNED (R357). -/
def countReturn (s : State) (status : Nat) : State :=
  if status = 16 then bumpF s ROUTE.RETURNED_STALE else bumpF s ROUTE.RETURNED_OTHER

/-- Route a packet of the module's own by the active bank (R355). One that cannot be routed comes back to the module
itself, which discards it (R357). While a flip drains it waits (R359). (DEDUCED, log 56) -/
def sendOwn (s : State) (x : Sending) : State :=
  if flag s ROUTE.ROUTE_STS_DRAINING then { s with net := { s.net with waiting := s.net.waiting ++ [(0, x)] } }
  else
    let self := getF s ROUTE.SELF_NODE_ID
    let d := x.pkt.dst
    let pkt := { x.pkt with src := self, srcPid := 0, epoch := getF s ROUTE.ROUTE_STS_EPOCH }
    if d = self then sendingGone s x
    else
      let dim := if d % 256 ≠ self % 256 then 0 else 1
      match choosePort s (routeEntry s (routeBank s false) dim (if dim = 0 then d % 256 else d / 256)) d (chanClass x) with
      | some p => enqueue s p { x with pkt := pkt, dim := dim, old := false }
      | none =>
        if x.pkt.opcode = 0x73 then bumpF s ROUTE.UNDELIVERED_COUNT else sendingGone (countReturn s 17) x

/-- Send a packet to a partner (R347): its NODE_ID comes from the partner table. (DEDUCED, log 20) -/
def sendPid (s : State) (pid core ready : Nat) (kind : Nat) (pkt : Packet) : State :=
  sendOwn s { pkt := { pkt with dst := nodeOf s pid }, kind := kind, pid := some pid, core := core, ready := ready }

/-! Responses and the ingress store (R363). -/

/-- The Fabric Time from which the answer to a line read may launch (R70): slot s + 10 in deterministic mode. -/
def padded (s : State) (r : Req) : Nat :=
  if detOn s && r.quick then (r.since / 64 + 10) * 64 else s.time.ft

/-- An answer to a request (Table 12-1): the request's TAG, and ECE where it arrived with CE on a port of CC_MODE 1
(R367). It goes by the response queue of the PID's partition, or MGMT where the PID is unbound (DEDUCED, log 20).
(DEDUCED, log 41) -/
def respond (s : State) (r : Req) (core opcode status len payload ready : Nat) (frees : Option (Nat × Nat)) : State :=
  sendOwn s
    { kind := if pidState s r.pid = 0 then 0 else classQueue 2 (pidPt s r.pid), pid := some r.pid, core := core,
      ready := ready, frees := frees,
      pkt := { opcode := opcode, cls := 2, tag := r.tag, status := status, len := len, payload := payload,
               dst := nodeOf s r.pid,
               ece := r.ce && getF s (PORT.XPORT_CTL_CC_MODE r.port) == 1 && !detOn s } }

/-- Replace a stored request. -/
def setReq (s : State) (r : Req) : State :=
  { s with net := { s.net with store := s.net.store.map fun x => if sameReq x r then r else x } }

/-- Answer a partner's request: its entry frees when the answer leaves, the room of a WB or EVICT at once (R363, R364).
Nothing is sent to an agent of the module. -/
def answer (s : State) (r : Req) (core opcode status len payload ready : Nat) : State :=
  match r.agent with
  | .partner =>
    if isWb r.op then respond (freeReq s r) r core opcode status len payload ready none
    else respond (setReq s { r with taken := true }) r core opcode status len payload ready (some (r.pid, r.tag))
  | _ => s

/-- The refusal of a request (R116, R365): CMD_RSP, WB_ACK or ERR with the status; `detail` is ERR's payload. -/
def refuse (s : State) (r : Req) (core status detail : Nat) : State :=
  if r.op = 0x0C ∨ r.op = 0x0D then answer s r core 0x49 status 8 0 s.time.ft
  else if isWb r.op then answer s r core 0x45 status 0 0 s.time.ft
  else answer s r core 0x48 status 8 detail s.time.ft

/-- The stored request of a PID and tag that no slice or core has taken. -/
def findReq (s : State) (pid tag : Nat) (ops : List Nat) : Option Req :=
  s.net.store.find? fun r => r.pid == pid && r.tag == tag && ops.contains r.op && !r.taken

/-- Requests of a PID in the store that count against its LIMIT: OUT of E2E_DATA. -/
def outOf (s : State) (pid : Nat) : Nat := (s.net.store.filter fun r => r.pid == pid && !isWb r.op).length

/-- WB and EVICT messages of a PID that hold their room (R364). -/
def wbOf (s : State) (pid : Nat) : Nat := (s.net.store.filter fun r => r.pid == pid && isWb r.op).length

/-- Send a MGMT message to a partner (Tables 05-2, 12-3). -/
def sendMgmt (s : State) (pid opcode len payload : Nat) : State :=
  sendPid s pid 16 s.time.ft 0 { opcode := opcode, cls := 4, len := len, payload := payload }

end Sys2Proof.Machine
end

