-- ==== Sys2Proof/Machine/ReedSolomon.lean ====
section
/-!
DEFINITION. The line code of R265 to R267: Reed-Solomon (144, 128) over GF(2^8), generator roots 1 to a^15, correcting 4
symbols, or the 4 symbols of an erased pin and 2 more. Symbol n (0-143) is stored byte n, or check symbol n - 128.
-/

namespace Sys2Proof.Machine.RS

/-- Multiply by x modulo x^8 + x^4 + x^3 + x^2 + 1. -/
def xtime (a : Nat) : Nat := if a < 128 then 2 * a else (2 * a) ^^^ 0x11D

/-- Multiply in GF(2^8), by the low `n` bits of `b`. -/
def mulBits : Nat → Nat → Nat → Nat
  | 0, _, _ => 0
  | n + 1, a, b => (if b % 2 = 1 then a else 0) ^^^ mulBits n (xtime a) (b / 2)

/-- Multiply in GF(2^8). -/
def mul (a b : Nat) : Nat := mulBits 8 a b

/-- a ^ n by squaring, `k` bits of n. -/
def powBits : Nat → Nat → Nat → Nat
  | 0, _, _ => 1
  | k + 1, a, n => mul (if n % 2 = 1 then a else 1) (powBits k (mul a a) (n / 2))

/-- A power of alpha = 2. -/
def alpha (n : Nat) : Nat := powBits 8 2 (n % 255)

/-- The inverse; 0 of 0. -/
def inv (a : Nat) : Nat := powBits 8 a 254

/-- The locator of symbol `n`: alpha to the power of its coefficient's exponent. -/
def locator (n : Nat) : Nat := alpha (143 - n)

/-- A polynomial (lowest coefficient first) at a point. -/
def evalPoly (p : List Nat) (x : Nat) : Nat := p.foldr (fun c acc => c ^^^ mul x acc) 0

/-- Sum of two polynomials. -/
def addPoly : List Nat → List Nat → List Nat
  | [], q => q
  | p, [] => p
  | a :: p, b :: q => (a ^^^ b) :: addPoly p q

/-- A polynomial times a constant. -/
def scale (c : Nat) (p : List Nat) : List Nat := p.map (mul c)

/-- Product of two polynomials. -/
def mulPoly : List Nat → List Nat → List Nat
  | [], _ => []
  | a :: p, q => addPoly (scale a q) (0 :: mulPoly p q)

/-- Syndrome i of an error pattern given as (symbol, value). -/
def syndrome (es : List (Nat × Nat)) (i : Nat) : Nat :=
  es.foldl (fun v e => v ^^^ mul e.2 (powBits 4 (locator e.1) i)) 0

/-- The sixteen syndromes of an error pattern. -/
def syndromes (es : List (Nat × Nat)) : List Nat := (List.range 16).map (syndrome es)

/-- The degree of a polynomial. -/
def degree (p : List Nat) : Nat := (List.range p.length).foldl (fun d i => if p.getD i 0 = 0 then d else i) 0

/-- One step of Berlekamp and Massey: locator, previous locator, length, gap, previous discrepancy. -/
def bmStep (syn : List Nat) (st : List Nat × List Nat × Nat × Nat × Nat) (k : Nat) :
    List Nat × List Nat × Nat × Nat × Nat :=
  let (c, b, l, m, bd) := st
  let d := (List.range (l + 1)).foldl (fun v i => v ^^^ mul (c.getD i 0) (syn.getD (k - i) 0)) 0
  if d = 0 then (c, b, l, m + 1, bd)
  else
    let c' := addPoly c (List.replicate m 0 ++ scale (mul d (inv bd)) b)
    if 2 * l ≤ k then (c', c, k + 1 - l, 1, d) else (c', b, l, m + 1, bd)

/-- The shortest recurrence of a syndrome sequence. -/
def recurrence (syn : List Nat) : List Nat :=
  ((List.range syn.length).foldl (bmStep syn) ([1], [1], 0, 1, 1)).1

/-- The formal derivative. -/
def derivative (p : List Nat) : List Nat :=
  (List.range (p.length - 1)).map fun i => if i % 2 = 0 then p.getD (i + 1) 0 else 0

/-- Decode: the corrections (symbol, value) for a word with these syndromes and these erased symbols, or none where the
word is uncorrectable: more than 4 symbols, or more than 2 beside the erased ones. -/
def decode (syn : List Nat) (erased : List Nat) : Option (List (Nat × Nat)) :=
  if syn.all (· == 0) then some []
  else
    let gamma := erased.foldl (fun p n => mulPoly p [1, locator n]) [1]
    let modified := (mulPoly syn gamma).take 16
    let sigma := recurrence (modified.drop erased.length)
    let most := if erased.isEmpty then 4 else 2
    if most < degree sigma then none
    else
      let lam := mulPoly sigma gamma
      let omega := (mulPoly syn lam).take 16
      let der := derivative lam
      let hits := (List.range 144).filter fun n => evalPoly lam (inv (locator n)) == 0
      let es := hits.map fun n =>
        let x := inv (locator n)
        (n, mul (mul (locator n) (evalPoly omega x)) (inv (evalPoly der x)))
      if syndromes es == syn then some (es.filter (·.2 != 0)) else none

/-- The generator polynomial, highest coefficient first. -/
def generator : List Nat :=
  ((List.range 16).foldl (fun p i => mulPoly p [alpha i, 1]) [1]).reverse

/-- The sixteen check symbols of 128 data bytes: the remainder of d(x) x^16. -/
def encode (data : List Nat) : List Nat :=
  data.foldl (fun r d =>
    let f := d ^^^ r.headD 0
    addPoly (r.drop 1 ++ [0]) (scale f (generator.drop 1))) (List.replicate 16 0)

/-- A word (1,152 bits: bytes 0-127, then check symbols 0-15) as symbols. -/
def symbols (data chk : Nat) : List Nat :=
  (List.range 128).map (fun k => data / 256 ^ k % 256) ++ (List.range 16).map (fun k => chk / 256 ^ k % 256)

/-- The check symbols of a line as a number, symbol 0 lowest. -/
def checks (data : Nat) : Nat :=
  (encode ((List.range 128).map fun k => data / 256 ^ k % 256)).foldr (fun c v => c + 256 * v) 0

/-- A line with corrections applied to its data bytes. -/
def applyData (data : Nat) (es : List (Nat × Nat)) : Nat :=
  es.foldl (fun d e => if e.1 < 128 then d ^^^ (e.2 * 256 ^ e.1) else d) data

/-- Check symbols with corrections applied. -/
def applyChk (chk : Nat) (es : List (Nat × Nat)) : Nat :=
  es.foldl (fun d e => if 128 ≤ e.1 then d ^^^ (e.2 * 256 ^ (e.1 - 128)) else d) chk

/-- The symbols that a DQ or ECC pin carries (R266). -/
def pinSymbols (pin : Nat) : List Nat :=
  if pin < 32 then [pin, 32 + pin, 64 + pin, 96 + pin]
  else [128 + (pin - 32), 132 + (pin - 32), 136 + (pin - 32), 140 + (pin - 32)]

end Sys2Proof.Machine.RS
end

