-- ==== Sys2Proof/Machine/DramBase.lean ====
section
/-!
DEFINITION. Lines as the slices read and write them: the stored codeword and its errors, uncorrectable reads, and writes
(R265 to R271), below the controller's scheduling.
-/

namespace Sys2Proof.Machine

/-- The stack address map (Table 09-2). -/
def pcOf (off : Nat) : Nat := off / 128 % 64
/-- Column position of a line. -/
def colOf (off : Nat) : Nat := off / 8192 % 8
/-- Bank of a line. -/
def bankOf (off : Nat) : Nat := off / 65536 % 64
/-- Row of a line. -/
def rowOf (off : Nat) : Nat := off / 2 ^ 22 % 16384
/-- The stack offset of a location. -/
def offOf (row bank col pc : Nat) : Nat := row * 2 ^ 22 + bank * 65536 + col * 8192 + pc * 128

/-- The owner of a core has an open run: the deferrals of R272 hold. -/
def runOnStack (s : State) (c : Nat) : Bool := match ownerOf s c with | some pt => runOpen s pt | none => false

/-! Where a line lies: the remap table (R275, R276). Contents and errors are kept under the line's own offset; what
depends on the place in the stack (channel, pin, bank, row) is taken at `physOff`. -/

/-- A remap region: kind, pseudo-channel, bank, position. -/
def inRegion (r : RemapReq) (off : Nat) : Bool :=
  pcOf off == r.pc && bankOf off == r.bank &&
    (match r.kind with | 1 => rowOf off == r.pos | 2 => colOf off == r.pos % 8 | _ => true)

/-- The region of a remap entry. -/
def entryRegion (s : State) (c e : Nat) : RemapReq :=
  ⟨getF s (EDAC.REMAP_ENT_KIND c e), getF s (EDAC.REMAP_ENT_PC c e), getF s (EDAC.REMAP_ENT_BANK c e),
   getF s (EDAC.REMAP_ENT_POS c e)⟩

/-- The entries of a core in the order made. -/
def entries (s : State) (c : Nat) : List Nat := Store.get [] s.dram.remaps c

/-- First entries (a BANK's second entry is not one), in the order made. -/
def firsts (s : State) (c : Nat) : List Nat := (entries s c).filter fun e => getF s (EDAC.REMAP_ENT_STATE c e) != 3

/-- Lines of a region. -/
def regionLines (k : Nat) : Nat := match k with | 1 => 8 | 2 => 16384 | _ => 131072

/-- The number of a line in its region: ascending row, then ascending column position. -/
def regionIndex (r : RemapReq) (off : Nat) : Nat :=
  match r.kind with
  | 1 => colOf off
  | 2 => rowOf off
  | _ => rowOf off * 8 + colOf off

/-- The line of a region with a number. -/
def regionLine (r : RemapReq) (k : Nat) : Nat :=
  match r.kind with
  | 1 => offOf r.pos r.bank k r.pc
  | 2 => offOf k r.bank (r.pos % 8) r.pc
  | _ => offOf (k / 8) r.bank (k % 8) r.pc

/-- The stack offset of spare slice `j`. -/
def sliceOff (j : Nat) : Nat := 0xFF0000000 + j * 0x1000000

/-- The spare lines that a region takes in slices `js`, given the regions of earlier active entries (R275). -/
def spareLines (r : RemapReq) (js : List Nat) (earlier : List RemapReq) : List Nat :=
  ((js.flatMap fun j => (upTo 131072).map fun i => sliceOff j + i * 128).filter fun o =>
    !inRegion r o && earlier.all (!inRegion · o)).take (regionLines r.kind)

/-- The slices of an entry: its own, and for a BANK the one of its second entry. -/
def slicesOf (s : State) (c e : Nat) : List Nat :=
  if getF s (EDAC.REMAP_ENT_KIND c e) = 3 then
    e :: ((upTo 16).filter fun x => decide (e < x) && getF s (EDAC.REMAP_ENT_STATE c x) == 3
      && entryRegion s c x == entryRegion s c e).take 1
  else [e]

/-- The spare lines of an entry. -/
def imageOf (s : State) (c e : Nat) : List Nat :=
  spareLines (entryRegion s c e) (slicesOf s c e)
    (((firsts s c).takeWhile (· != e)).map (entryRegion s c))

/-- Accesses to a location of an entry's region go to its spare line: the entry is active, or its copy has passed the
location's row (R276). -/
def redirects (s : State) (c e off : Nat) : Bool :=
  inRegion (entryRegion s c e) off && (getF s (EDAC.REMAP_ENT_STATE c e) == 2
    || (getF s (EDAC.REMAP_ENT_KIND c e) != 1 && decide (rowOf off < getF s (EDAC.REMAP_RES_PROGRESS c))))

/-- One look-up among the entries `es`, in the order made: the latest that redirects a location, and the spare line. -/
def lookupRemap (s : State) (c : Nat) (es : List Nat) (off : Nat) : Option (Nat × Nat) :=
  ((es.filter (redirects s c · off)).getLast?).map fun e =>
    (e, (imageOf s c e).getD (regionIndex (entryRegion s c e) off) off)

/-- Where a line lies in its stack (R275): one look-up, and one more among the later entries.
(DESIGN CHOICE, log 130) -/
def physOff (s : State) (c off : Nat) : Nat :=
  let es := firsts s c
  if es.isEmpty then off
  else match lookupRemap s c es off with
    | none => off
    | some (e, p) =>
      match lookupRemap s c ((es.dropWhile (· != e)).drop 1) p with
      | none => p
      | some (_, q) => q

/-- Where a line lies, by the line's key. -/
def physLine (s : State) (line : Nat) : Nat := physOff s (lineCore line) (lineOff line)

/-- The offset under which the line that an access to `off` reaches is kept: a spare line in use is the line that lies
there. (DEDUCED, log 130) -/
def keptOff (s : State) (c off : Nat) : Nat :=
  (upTo 3).foldl (fun o _ =>
    match ((firsts s c).reverse).findSome? (fun e =>
        match (imageOf s c e).findIdx? (· == o) with
        | some k =>
          let l := regionLine (entryRegion s c e) k
          if redirects s c e l && physOff s c l == physOff s c o then some l else none
        | none => none) with
    | some l => l
    | none => o) off

/-! The decoder (R265 to R267). -/

/-- Bank index of the ERASE register of a pseudo-channel. -/
def erasedPin (s : State) (core pc : Nat) : Option Nat :=
  if flag s (EDAC.ERASE_EN core pc) then some (getF s (EDAC.ERASE_PIN core pc)) else none

/-- The symbols that the decoder takes as erasures for a line (R267). -/
def erasures (s : State) (line : Nat) : List Nat :=
  match erasedPin s (lineCore line) (pcOf (physLine s line)) with
  | some p => if p < 36 then RS.pinSymbols p else []
  | none => []

/-- The channel of a line is down (R263). -/
def chanDown (s : State) (line : Nat) : Bool :=
  (Store.get 0 s.dram.down (lineCore line)).testBit (pcOf (physLine s line) / 2)

/-- What the decoder makes of a line as it is stored: the corrections, or none. (DESIGN CHOICE, log 67) -/
def decodeLine (s : State) (line : Nat) : Option (List (Nat × Nat)) :=
  match Store.get [] s.dram.faults line with
  | [] => some []
  | es => RS.decode (RS.syndromes es) (erasures s line)

/-- What a read of a line comes to: on a down channel always uncorrectable (R263). -/
def readOutcome (s : State) (line : Nat) : Option (List (Nat × Nat)) :=
  if chanDown s line then none else decodeLine s line

/-- A read of the line is uncorrectable, or its channel is down. -/
def lineFails (s : State) (line : Nat) : Bool := (readOutcome s line).isNone

/-- A line's XTS tweak (R385): its direct-view PPA. -/
def lineTweak (line : Nat) : Nat := line

/-- The ciphertext of a number of 1,024 bits under a core's key; as it is where the core holds no key. -/
def lineCipher (s : State) (c tweak v : Nat) : Nat :=
  match Store.get 0 s.sec.ck c with
  | 0 => v
  | k + 1 => (Config.xtsEncrypt k tweak (BitVec.ofNat 1024 v)).toNat

/-- The plaintext of a line's ciphertext. -/
def linePlain (s : State) (c tweak v : Nat) : Nat :=
  match Store.get 0 s.sec.ck c with
  | 0 => v
  | k + 1 => (Config.xtsDecrypt k tweak (BitVec.ofNat 1024 v)).toNat

/-- Corrections undo an error pattern's data part; where they do not, the decoder has miscorrected (R265). -/
def undoes (corr es : List (Nat × Nat)) : Bool := RS.applyData (RS.applyData 0 es) corr == 0

/-- The value that a read of a line delivers (R265): a miscorrected line's differs from what was written. -/
def lineValue (s : State) (line : Nat) : Nat :=
  match Store.get [] s.dram.faults line with
  | [] => readLine s line
  | es =>
    match decodeLine s line with
    | none => readLine s line
    | some l =>
      if undoes l es then readLine s line
      else
        let c := lineCore line
        let v := RS.applyData (lineCipher s c (lineTweak line) (readLine s line)) es
        linePlain s c (lineTweak line) (RS.applyData v l)

/-- Three channels of a core reported within one frame (R19). -/
def threeChannels (m : Nat) : Bool := decide (3 ≤ ((upTo 32).filter m.testBit).length)

/-- Record that a channel reported an uncorrectable error or a training failure in this frame (R19). A frame with three
stands until the core is declared lost. (DEDUCED, log 126) -/
def chanError (s : State) (core ch : Nat) : State :=
  let (fr, m) := Store.get (0, 0) s.dram.chErr core
  let m' := if fr = frameOf s + 1 ∨ threeChannels m then withBit m ch true else 2 ^ ch
  { s with dram := { s.dram with chErr := Store.set (0, 0) s.dram.chErr core (frameOf s + 1, m') } }

/-- Enter a line among the lines to be rewritten from the other copy (R271). -/
def addRepair (s : State) (line : Nat) : State :=
  let c := lineCore line
  let l := Store.get [] s.dram.repairs c
  if l.contains line then s else { s with dram := { s.dram with repairs := Store.set [] s.dram.repairs c (l ++ [line]) } }

/-- The core that mirrors another: its secondary, or the primary it is the secondary of, while the pair is whole. -/
def mirrorOf (s : State) (c : Nat) : Option Nat :=
  match secondaryOf s c with
  | some q => if pairWhole s c then some q else none
  | none => (upTo 16).find? fun p => secondaryOf s p == some c && pairWhole s p

/-- An uncorrectable read (R270, R263): counted, captured and raised; logged unless the channel is down. -/
def ueRead (s : State) (line : Nat) (scrub : Bool) : State :=
  let c := lineCore line
  let s1 := raise (bumpF s (EDAC.UE_COUNT_COUNT c)) (0x0320 + c) 0
  let s2 := if flag s1 (EDAC.UE_CAP_INFO_VALID c) then s1
    else setB (setB (setF s1 (EDAC.UE_CAP_ADDR_LINE c) (lineOff line / 128)) (EDAC.UE_CAP_INFO_SCRUB c) scrub)
      (EDAC.UE_CAP_INFO_VALID c) true
  let s3 := if chanDown s line then s2 else faultEntry s2 18 1 (ownerOf s c) (0x0320 + c) c (lineOff line)
  let s4 := chanError s3 c (pcOf (physLine s line) / 2)
  if (mirrorOf s c).isSome && !chanDown s line then addRepair s4 line else s4

/-- The line is stored afresh: its errors and any test word are gone. -/
def freshLine (s : State) (line : Nat) : State :=
  { s with dram := { s.dram with faults := Store.del s.dram.faults line, raw := Store.del s.dram.raw line } }

/-- Copy the lines of a range onto another one: corrected, or where one is uncorrectable so that the copy is uncorrectable
too. (DESIGN CHOICE, log 161) -/
def copyLines (s : State) (src dst n : Nat) : State :=
  let bad := s.dram.faults.filter fun e => decide (src ≤ e.1 ∧ e.1 < src + n)
  let inDst := fun k => decide (dst ≤ k ∧ k < dst + n)
  let s1 := copyRange s src dst n
  let s2 := { s1 with dram := { s1.dram with faults := Store.drop inDst s1.dram.faults, raw := Store.drop inDst s1.dram.raw } }
  forAll bad (fun s e =>
    let d := e.1 - src + dst
    if lineFails s e.1 then { s with dram := { s.dram with faults := Store.set [] s.dram.faults d e.2 } }
    else { s with mem := memPut s.mem d 128 (lineValue s e.1) }) s2

/-- A line is written back as the decoder delivers it, with new check symbols; one that is uncorrectable or on a down
channel stays as it is stored. -/
def rewriteLine (s : State) (line : Nat) : State :=
  match readOutcome s line with
  | some [] => s
  | some _ => freshLine { s with mem := memPut s.mem line 128 (lineValue s line) } line
  | none => s

/-- Write the bytes of a line that the mask selects, on both cores of a mirrored pair (R23); each is stored with new check
symbols, a partial write merged into the line as it is read (R257). A write to a down channel changes nothing (R263). -/
def storeLine (s : State) (line v mask : Nat) : State :=
  if chanDown s line then s
  else
    let s0 := if mask = fullMask then s else rewriteLine s line
    let s1 := freshLine (writeLine s0 line v mask) line
    match secondaryOf s (lineCore line) with
    | some q => if mirrored s (lineCore line) then freshLine s1 (memKey q (lineOff line)) else s1
    | none => s1

/-- Whether a write must be refused as UNCORRECTABLE (R263, R270): any write to a down channel, a WR_PART or another partial
write to an uncorrectable line. -/
def writeFails (s : State) (line op mask : Nat) : Bool :=
  chanDown s line || ((op == 0x06 || mask != fullMask) && (decodeLine s line).isNone)

/-! REMAP_STS. -/

/-- Free entries of a core, lowest first. -/
def freeEntries (s : State) (c : Nat) : List Nat := (upTo 16).filter fun e => getF s (EDAC.REMAP_ENT_STATE c e) == 0

/-- The entry that is first: copying or deferred. -/
def copyingEntry (s : State) (c : Nat) : Option Nat := (entries s c).find? fun e => getF s (EDAC.REMAP_ENT_STATE c e) == 1

/-- REMAP_STS follows the table and the runs (R272, R277, R29). -/
def remapSts (s : State) (c : Nat) : State :=
  let used := 16 - (freeEntries s c).length
  let was := getF s (EDAC.REMAP_STS_USED c)
  let first := (copyingEntry s c).isSome
  let s1 := setF (setB (setB s (EDAC.REMAP_STS_LOW c) (decide (12 ≤ used))) (EDAC.REMAP_STS_FULL c) (used == 16)) (EDAC.REMAP_STS_USED c) used
  let s2 := setB (setB s1 (EDAC.REMAP_STS_COPYING c) (first && !runOnStack s c)) (EDAC.REMAP_STS_DEFERRED c) (first && runOnStack s c)
  let s3 := setF s2 (EDAC.REMAP_STS_WAITING c) (Store.get [] s.dram.waitq c).length
  if was < 12 ∧ 12 ≤ used then raise s3 (0x0320 + c) 2 else s3

end Sys2Proof.Machine
end

