-- ==== Sys2Proof/Machine/TierBase.lean ====
section
/-!
DEFINITION. The flash tier's cache as data: where a block is cached, its tags, the line addresses of cached blocks, and
what an access does to a block's state (R283 to R291, R300).
-/

namespace Sys2Proof.Machine

/-- The key of a way: (core * 2^20 + set) * 8 + way. -/
def wayKey (core set way : Nat) : Nat := (core * 2 ^ 20 + set) * 8 + way

/-- A way of a tag set. -/
def getWay (s : State) (k : Nat) : Way := Store.get {} s.tier.ways k

/-- The 64 bytes of a tag set (Table 10-2), by core * 2^20 + set. -/
def tagSet (s : State) (sk : Nat) : Nat :=
  (upTo 8).foldl (fun v i =>
    let w := getWay s (sk * 8 + i)
    v + (w.block + w.state * 2 ^ 35 + w.redirty.toNat * 2 ^ 38 + w.stranded.toNat * 2 ^ 39 + w.access * 2 ^ 40)
      * 2 ^ (56 * i)) (Store.get 0 s.tier.plru sk * 2 ^ 448)

/-- Where a tag set and its replica lie (R288). -/
def tagOff (st : Nat) : Nat := 0xF88800000 + st * 64
/-- The replica of a tag set. -/
def tagReplica (st : Nat) : Nat := 0xF8C800000 + st * 64

/-- Write a tag set to both copies (R288). -/
def putTags (s : State) (sk : Nat) : State :=
  let v := tagSet s sk
  let m := memPut s.mem (memKey (sk / 2 ^ 20) (tagOff (sk % 2 ^ 20))) 64 v
  { s with mem := memPut m (memKey (sk / 2 ^ 20) (tagReplica (sk % 2 ^ 20))) 64 v }

/-- Write a way of a tag set. -/
def setWay (s : State) (k : Nat) (w : Way) : State :=
  putTags { s with tier := { s.tier with ways := Store.set {} s.tier.ways k w } } (k / 8)

/-- The cache size C of a partition, in GiB. -/
def cacheGiB (s : State) (pt : Nat) : Nat := getF s (TIER.PT_CACHE_GIB pt)

/-- The stack offset at which a partition's cache begins. -/
def cacheBase (s : State) (pt : Nat) : Nat := mappable - cacheGiB s pt * 2 ^ 30

/-- Sets of each core of a partition's cache: C / 32 KiB. -/
def cacheSets (s : State) (pt : Nat) : Nat := cacheGiB s pt * 32768

/-- The home core and the set of a block (R287); none without a cache. -/
def blockHome (s : State) (pt block : Nat) : Option (Nat × Nat) :=
  let cs := viewCores s pt
  if cs.isEmpty || cacheGiB s pt == 0 then none
  else some (serving s (cs.getD (block % cs.length) 0), block / cs.length % cacheSets s pt)

/-- The way that holds a block, by its key. -/
def findWay (s : State) (pt block : Nat) : Option Nat :=
  match blockHome s pt block with
  | none => none
  | some (c, st) => ((upTo 8).map (wayKey c st)).find? fun k => (getWay s k).state != 0 && (getWay s k).block == block

/-- Core, set and way of a way's key. -/
def wayCore (k : Nat) : Nat := k / 2 ^ 23
def waySet (k : Nat) : Nat := k / 8 % 2 ^ 20

/-- The line key at which a way's block begins, for the partition that owns its core. -/
def wayLine (s : State) (pt k : Nat) : Nat := memKey (wayCore k) (cacheBase s pt + k % 2 ^ 23 * 4096)

/-- The 32 lines of a way. -/
def wayLines (s : State) (pt k : Nat) : List Nat := (upTo 32).map fun i => wayLine s pt k + i * 128

/-- The ways in use of a partition. -/
def waysInUse (s : State) (pt : Nat) : List Nat :=
  (s.tier.ways.filter fun e => e.2.state != 0 && ((viewCores s pt).map (serving s)).contains (wayCore e.1)).map (·.1)

/-- No block of the partition is resident: PT_STS.EMPTY. -/
def tierEmpty (s : State) (pt : Nat) : Bool := (waysInUse s pt).isEmpty

/-- The way whose frame holds a line, if the line is of a TIER frame. -/
def lineWay (s : State) (line : Nat) : Option Nat :=
  let c := lineCore line
  match frameRec s (.dram c (lineOff line)), ownerOf s c with
  | .tier, some pt =>
    let b := cacheBase s pt
    if lineOff line < b then none else some (c * 2 ^ 23 + (lineOff line - b) / 4096)
  | _, _ => none

/-- The tier byte address that a line of a TIER frame holds (R291). -/
def lineTier (s : State) (line : Nat) : Option Nat :=
  match lineWay s line with
  | some k => if (getWay s k).state = 0 then none else some ((getWay s k).block * 4096 + lineOff line % 4096)
  | none => none

/-- The PVA of a line (R108, R291): from the frame map, or the tier frame map through the way's tag. -/
def linePva (s : State) (line : Nat) : Nat :=
  match lineTier s line with
  | some a => match recPva (frameRec s (.tier a)) with
    | some v => v + a % 2 ^ 30
    | none => 0
  | none => pvaOfLine s line

/-- The drive window of a block. -/
def blockWindow (block : Nat) : Nat := block / 2 ^ 31

/-- A drive is lost: until a drive is brought up again on its port (R299). -/
def driveGone (s : State) (d : Nat) : Bool := getF s (PCIE.DRV_STS_STATE d) == 4 || s.tier.gone.contains d

/-- No drive holds a window any more: each that did is lost, or has taken the place of a lost one and is not rebuilt
(R300, R301). -/
def windowLost (s : State) (w : Nat) : Bool :=
  (if flag s (TIER.DRIVE_PAIR (w / 2 * 2)) then [w / 2 * 2, w / 2 * 2 + 1] else [w]).all fun d =>
    driveGone s d || Store.get 0 s.tier.lostOf (d / 2 * 2) == d + 1

/-- Blocks of a partition that are stranded now: TIER.STRANDED (R300). -/
def strandedNow (s : State) (pt : Nat) : Nat :=
  (s.tier.ways.filter fun e => e.2.stranded && ownerOf s (wayCore e.1) == some pt).length

/-- Strand a block; the first raises STRANDED (R300). -/
def strand (s : State) (pt k : Nat) : State :=
  let w := getWay s k
  if w.stranded then s
  else
    let s1 := setWay s k { w with stranded := true }
    if strandedNow s pt = 0 then raise s1 0x0500 5 else s1

/-- A block is about to be written, or a line of it granted exclusive (R291): CLEAN becomes DIRTY, CLEANING is marked
REDIRTY, a CLEAN block under eviction is written back after all, and a block of a lost drive is stranded (R300). -/
def dirtyWay (s : State) (pt k : Nat) : State :=
  let w := getWay s k
  let s1 := match w.state with
    | 2 => setWay s k { w with state := 3 }
    | 4 => setWay s k { w with redirty := true }
    | 5 => setWay s k { w with prior := 3 }
    | _ => s
  if windowLost s (blockWindow w.block) then strand s1 pt k else s1

/-- The bits of a way's path in the pseudo-LRU tree: node numbers 0 to 6 and the side taken. -/
def plruPath (way : Nat) : List (Nat × Bool) :=
  [(0, way.testBit 2), (1 + way / 4, way.testBit 1), (3 + way / 2, way.testBit 0)]

/-- An access makes a way the most recent of its set: every node on its path points away from it. -/
def plruTouch (s : State) (k : Nat) : State :=
  let sk := k / 8
  let t := (plruPath (k % 8)).foldl (fun t n => withBit t n.1 (!n.2)) (Store.get 0 s.tier.plru sk)
  putTags { s with tier := { s.tier with plru := Store.set 0 s.tier.plru sk t } } sk

/-- How soon the tree would name a way: fewer nodes of its path that point away come first, the root weighing most. -/
def plruRank (t way : Nat) : Nat :=
  (plruPath way).foldl (fun v n => v * 2 + (if t.testBit n.1 == n.2 then 0 else 1)) 0

/-- The pseudo-LRU way among those that qualify (DESIGN CHOICE, log 19). -/
def plruVictim (s : State) (sk : Nat) (ok : Nat → Bool) : Option Nat :=
  leastBy (plruRank (Store.get 0 s.tier.plru sk)) ((upTo 8).filter ok)

/-- Count an access to a block (ACCESS of Table 10-2) and touch its way. -/
def accessWay (s : State) (k : Nat) : State :=
  let w := getWay s k
  plruTouch (setWay s k { w with access := min (w.access + 1) 65535 }) k

end Sys2Proof.Machine
end

