-- ==== Sys2Proof/Machine/Coherence.lean ====
section
/-!
DEFINITION. The directory slices (chapter 5): the directory cache, the transitions of Tables 05-6 and 05-7, ties, the
write-back race, write hints, far atomics (R223), version words, and the leases and fencing of partners.
-/

namespace Sys2Proof.Machine

/-! The directory and its cache (R110 to R113). -/

/-- The directory entry of a line. -/
def dirOf (s : State) (line : Nat) : DirState := Store.get .unc s.coh.dir line

/-- The transaction that keeps a line BUSY. -/
def txnOf (s : State) (line : Nat) : Option Txn := Store.get none s.coh.txns line

/-- BUSY.MAX follows the lines of a core that are BUSY (Table 05-13). -/
def noteBusy (s : State) (c : Nat) : State :=
  let n := (s.coh.txns.filter fun e => lineCore e.1 == c).length
  if getF s (DIR.BUSY_MAX c) < n then setF s (DIR.BUSY_MAX c) (min n 8191) else s

/-- Set or clear a line's transaction. -/
def setTxn (s : State) (line : Nat) (t : Option Txn) : State :=
  noteBusy { s with coh := { s.coh with txns := Store.set none s.coh.txns line t } } (lineCore line)

/-- The stored form of an entry (Table 05-1). -/
def DirState.encode : DirState → Nat
  | .unc => 0
  | .sh ps => 1 + ps.getD 0 0 * 16 + ps.getD 1 0 * 2 ^ 16 + min ps.length 2 * 2 ^ 28
  | .grp g => 1 + 8 + g * 16
  | .exc o => 2 + o * 16 + 2 ^ 28
  | .fenced o => 3 + o * 16 + 2 ^ 28

/-- The STATE field of an entry. -/
def DirState.code : DirState → Nat
  | .unc => 0
  | .sh _ => 1
  | .grp _ => 1
  | .exc _ => 2
  | .fenced _ => 3

/-- The STATE that a line shows: 4 while it is BUSY. -/
def lineState (s : State) (line : Nat) : Nat := if (txnOf s line).isSome then 4 else (dirOf s line).code

/-- The stack offset of a line's entry in the backing store (R111). -/
def entryOff (off : Nat) : Nat := 0xF10800000 + off / 128 * 4

/-- The 4 KiB block of a line, as line key / 4096. -/
def dirBlock (line : Nat) : Nat := line / 4096

/-- The directory-cache set of a line, with its core. -/
def dirSet (line : Nat) : Nat := lineCore line * 2048 + lineOff line / 4096 % 2048

/-- Write a line's entry to the backing store, and to the mirror's (R23, R111). -/
def spillEntry (s : State) (l : Nat) : State := memWrite s (lineCore l) (entryOff (lineOff l)) 4 (dirOf s l).encode

/-- Write the entries of a block to the backing store (R112). -/
def spillBlock (s : State) (b : Nat) : State := forAll ((upTo 32).map fun i => b * 4096 + i * 128) spillEntry s

/-- Write back and invalidate the directory-cache blocks of the cores given (R71, R112). -/
def flushDc (s : State) (cs : List Nat) : State :=
  let mine := s.coh.dcache.filter fun e => cs.contains (e.1 / 2 ^ 11)
  let s1 := forAll ((mine.flatMap (·.2)).filter (·.2)) (fun s b => spillBlock s b.1) s
  { s1 with coh := { s1.coh with dcache := s1.coh.dcache.filter fun e => !cs.contains (e.1 / 2 ^ 11) } }

/-- A block holds a BUSY entry. -/
def blockBusy (s : State) (b : Nat) : Bool := s.coh.txns.any fun e => dirBlock e.1 == b

/-- A set of the directory cache. -/
def dcSet (s : State) (k : Nat) : List (Nat × Bool) := Store.get [] s.coh.dcache k
/-- Replace a set of the directory cache. -/
def setDc (s : State) (k : Nat) (l : List (Nat × Bool)) : State :=
  { s with coh := { s.coh with dcache := Store.set [] s.coh.dcache k l } }

/-- Look a line's block up in the directory cache and make it the most recent; none where every way of its set holds a
BUSY entry (R112). -/
def lookupDc (s : State) (line : Nat) : Option State :=
  let k := dirSet line
  let b := dirBlock line
  let c := lineCore line
  let l := dcSet s k
  match l.find? (fun e => e.1 == b) with
  | some e => some (wrapF (setDc s k (e :: l.filter fun x => x.1 != b)) (DIR.DC_HITS c) 1)
  | none =>
    let s1 := wrapF s (DIR.DC_MISSES c) 1
    if l.length < 12 then some (setDc s1 k ((b, false) :: l))
    else match (l.filter fun e => !blockBusy s e.1).getLast? with
      | none => none
      | some v =>
        let s2 := if v.2 then spillBlock s1 v.1 else s1
        some (setDc s2 k ((b, false) :: l.filter fun x => x.1 != v.1))

/-- Set a line's entry: its block in the cache becomes dirty; one that the cache does not hold is changed in the backing
store. -/
def setDir (s : State) (line : Nat) (d : DirState) : State :=
  if dirOf s line = d then s
  else
    let k := dirSet line
    let s1 := { s with coh := { s.coh with dir := Store.set .unc s.coh.dir line d } }
    if (dcSet s1 k).any fun e => e.1 == dirBlock line then
      setDc s1 k ((dcSet s1 k).map fun e => if e.1 = dirBlock line then (e.1, true) else e)
    else spillEntry s1 line

/-- Touch an entry (R131): sharers that are fenced are ignored; an owner that is fenced leaves FENCED, or UNC under
REVERT. -/
def touched (s : State) (d : DirState) : DirState :=
  match d with
  | .sh ps => .sh (ps.filter (pidLive s))
  | .exc o => if pidLive s o then d else if flag s (PART.FENCE_STS_REVERTED o) then .unc else .fenced o
  | d => d

/-- Add a sharer (R113): a third sharer changes the entry to group format. -/
def addSharer (s : State) (line : Nat) (d : DirState) (x : Nat) : DirState × State :=
  match d with
  | .sh ps =>
    if ps.contains x then (d, s)
    else if ps.length < 2 then (.sh (ps ++ [x]), s)
    else (.grp ((x :: ps).foldl (fun g p => withBit g (p / 256) true) 0), bumpF s (DIR.GROUPED_COUNT (lineCore line)))
  | .grp g => (.grp (withBit g (x / 256) true), s)
  | _ => (.sh [x], s)

/-- The invalidation set of a line for a requester (R113, Table 05-6); `keep` leaves the requester's pointer out.
(DEDUCED, log 45) -/
def invSet (s : State) (line : Nat) (d : DirState) (x : Option Nat) (own : Bool) : List Nat :=
  match d with
  | .sh ps => ps.filter fun p => pidLive s p && !(own && x == some p)
  | .grp g =>
    match ownerOf s (lineCore line) with
    | none => []
    | some pt => (upTo 4096).filter fun p => g.testBit (p / 256) && x != some p && liveIn s p pt
  | _ => []

/-! Breaches (R124). -/

/-- Count a breach and capture the first; the page of a core out of service holds nothing (R474). (DEDUCED, log 44) -/
def breach (s : State) (line pid opcode : Nat) : State :=
  let c := lineCore line
  let s1 := bumpF s (DIR.PROTO_COUNT_COUNT c)
  if !coreUp s c then s
  else if flag s1 (DIR.PROTO_INFO_VALID c) then s1
  else
    let s2 := setF (setF s1 (DIR.PROTO_INFO_PID c) pid) (DIR.PROTO_INFO_OPCODE c) opcode
    raise (setB (setF s2 (DIR.PROTO_INFO_STATE c) (lineState s line)) (DIR.PROTO_INFO_VALID c) true) (0x0330 + c) 0

/-! Messages of a slice. -/

/-- Send a snoop or a push for a line (R108, R349): its PVA, and for a forward the requester. -/
def sendSnoop (s : State) (line pid opcode : Nat) (req : Option Req) (data : Nat) : State :=
  let c := lineCore line
  let s1 := wrapF s (DIR.SNOOPS c) 1
  let base : Packet := { opcode := opcode, cls := 1, addr := linePva s line }
  let pkt := match req with
    | some r => { base with auxPid := r.pid, auxNode := nodeOf s r.pid, auxTag := r.tag }
    | none => if opcode = 0x28 then { base with len := 128, payload := data } else base
  sendPid s1 pid c s.time.ft (classQueue 1 (pidPt s pid)) pkt

/-- Refuse a request that a slice serves: a partner's with ERR, an engine's by a note to its tile, a recall's not at
all. -/
def failReq (s : State) (line : Nat) (r : Req) (status : Nat) : State :=
  match r.agent with
  | .partner => refuse s r (lineCore line) status 0
  | .engine ce => { s with coh := { s.coh with engFail := s.coh.engFail ++ [(ce, status, r.pva)] } }
  | .recall _ => s

/-- What kind of request Table 05-6 takes an opcode for: 0 Read, 1 Own, 2 Snapshot, 3 Write, 4 a recall. -/
def reqKind (r : Req) : Nat :=
  match r.op with
  | 0x01 => 0
  | 0x02 => 1
  | 0x03 => 1
  | 0x04 => 2
  | 0x24 => 4
  | _ => 3

/-- A line of a TIER frame is about to be written or granted exclusive (R291). -/
def dirtyTier (s : State) (line : Nat) : State :=
  match lineWay s line, ownerOf s (lineCore line) with
  | some k, some pt => dirtyWay s pt k
  | _, _ => s

/-- Dirty data that a partner returns is written to DRAM; on a down channel they change nothing and count (R263). -/
def takeData (s : State) (line data : Nat) : State :=
  if chanDown s line then ueRead s line false else storeLine (dirtyTier s line) line data fullMask

/-! Far atomics (R223, Table 08-3). -/

/-- A `w`-bit number as two's complement. -/
def signed (w v : Nat) : Int := if v < 2 ^ (w - 1) then v else (v : Int) - 2 ^ w

/-- The new value of an atomic. -/
def atomicNew (aop w old v cmp : Nat) : Nat :=
  match aop with
  | 0 => (old + v) % 2 ^ w
  | 1 => old &&& v
  | 2 => old ||| v
  | 3 => old ^^^ v
  | 4 => if signed w v < signed w old then v else old
  | 5 => if signed w old < signed w v then v else old
  | 6 => min old v
  | 7 => max old v
  | 8 => v
  | 9 => if old = cmp then v else old
  | _ =>
    let f := if w = 32 then f32 else f64
    (f.encode 0 0 (addR f (f.decode old) (f.decode v)).1).1

/-- An operand block that is not in Table 08-3, or a misaligned address. -/
def atomicBad (r : Req) : Bool :=
  decide (10 < bitsOf r.data 128 4) || bitsOf r.data 133 59 != 0 || r.pva % (if r.data.testBit 132 then 8 else 4) != 0

/-- The bytes an atomic writes: (bytes, first byte in the line, old value, new value). -/
def atomicParts (s : State) (line : Nat) (r : Req) : Nat × Nat × Nat × Nat :=
  let n := if r.data.testBit 132 then 8 else 4
  let at0 := r.pva % 128
  let old := lineValue s line / 256 ^ at0 % 256 ^ n
  (n, at0, old, atomicNew (bitsOf r.data 128 4) (8 * n) old (r.data % 2 ^ (8 * n)) (bitsOf r.data 64 64 % 2 ^ (8 * n)))

/-! Serving a request once no copy stands in its way (Table 05-6). -/

/-- What a line does after its request is served. -/
inductive After where
  | done (d : DirState)
  /-- BUSY until the requester's COMP_ACK (R120). -/
  | comp
  /-- BUSY until the hint target answers the push (R126). -/
  | push (t : Nat)
  deriving DecidableEq, Repr

/-- The hint target that a PUSH goes to after a write (R126). -/
def pushTarget (s : State) (r : Req) : Option Nat :=
  match r.hint with
  | some t => if liveIn s t r.pt then some t else none
  | none => none

/-- The write itself: the line's new data, the mask and the old value of an atomic. -/
def writeParts (s : State) (line : Nat) (r : Req) : Nat × Nat × Nat :=
  if r.op = 0x09 then
    let (n, at0, old, new) := atomicParts s line r
    (new * 256 ^ at0, (2 ^ n - 1) * 2 ^ at0, old)
  else if r.op = 0x05 then (r.data, fullMask, 0)
  else (r.data, r.mask, 0)

/-- Serve a Write (R121, R125, R126, R270). (DEDUCED, log 43) -/
def serveWrite (s : State) (line : Nat) (r : Req) : State × After :=
  let c := lineCore line
  let (v, m, old) := writeParts s line r
  if writeFails s line r.op m then
    (failReq (ueRead s line false) line r 6, .done .unc)
  else
    let s1 := storeLine (dirtyTier s line) line v m
    let s2 := if r.op = 0x09 then answer s1 r c 0x46 0 8 old s.time.ft else answer s1 r c 0x44 0 0 0 s.time.ft
    match pushTarget s2 r with
    | some t => (sendSnoop s2 line t 0x28 none (readLine s2 line), .push t)
    | none => (s2, .done .unc)

/-- Serve a request from DRAM with the entry at `base`; `upg` answers an UPGRADE with GRANT_E. -/
def complete (s : State) (line : Nat) (r : Req) (base : DirState) (upg : Bool) : State × After :=
  let c := lineCore line
  match reqKind r with
  | 4 => (s, .done .unc)
  | 3 => serveWrite s line r
  | k =>
    if k = 1 ∧ upg then (answer (dirtyTier s line) r c 0x42 0 0 0 s.time.ft, .comp)
    else if lineFails s line then (failReq (ueRead s line false) line r 6, .done base)
    else
      let v := lineValue s line
      match k with
      | 0 =>
        let (d, s1) := addSharer s line base r.pid
        (answer s1 r c 0x40 0 128 v (padded s r), .done d)
      | 1 => (answer (dirtyTier s line) r c 0x41 0 128 v (padded s r), .comp)
      | _ => (answer s r c 0x43 0 128 v (padded s r), .done base)

/-- The transaction a served request leaves, or the line's stable entry. -/
def afterTxn (r : Req) (a : After) : Option Txn × DirState :=
  match a with
  | .done d => (none, d)
  | .comp => (some { req := r, comp := true }, .unc)
  | .push t => (some { req := r, push := some t }, .unc)

/-- Serve at once. (DESIGN CHOICE, log 49) -/
def serveNow (s : State) (line : Nat) (r : Req) (base : DirState) (upg : Bool) : State × Option Txn × DirState :=
  let (s1, a) := complete s line r base upg
  (s1, afterTxn r a)

/-- The snoop that an exclusive line's owner gets for a request (Table 05-6). -/
def ownerSnoop (r : Req) (o : Nat) : Nat :=
  match reqKind r with
  | 2 => 0x23
  | 3 => 0x24
  | 4 => 0x24
  | 0 => if r.agent = .partner ∧ r.pid = o then 0x24 else 0x21
  | _ => if r.agent = .partner ∧ r.pid = o then 0x24 else 0x22

/-- Handle a request on a line in a stable state (Table 05-6): the state after, the transaction it opens, the entry.
(DEDUCED, log 23) -/
def beginReq (s : State) (line : Nat) (r : Req) (d : DirState) : State × Option Txn × DirState :=
  let c := lineCore line
  let x := if r.agent = .partner then some r.pid else none
  if isWb r.op then
    if d = .exc r.pid then
      let s1 := if r.op = 0x07 then takeData s line r.data else s
      (answer s1 r c 0x45 (if r.op = 0x07 ∧ chanDown s line then 6 else 0) 0 0 s.time.ft, none, .unc)
    else (answer s r c 0x45 8 0 0 s.time.ft, none, d)
  else match d with
  | .fenced _ => (if reqKind r = 4 then s else failReq s line r 5, none, d)
  | .unc => serveNow s line r .unc false
  | .exc o =>
    let op := ownerSnoop r o
    let s1 := sendSnoop s line o op (if op = 0x21 ∨ op = 0x22 then some r else none) 0
    (s1, some { req := r, snoop := op, owner := o, comp := op == 0x22 }, d)
  | _ =>
    if reqKind r = 0 ∨ reqKind r = 2 then serveNow s line r d false
    else
      let own := reqKind r == 1
      let upg := r.op == 0x03 && (match d with | .sh ps => ps.contains r.pid | _ => false)
      match invSet s line d x own with
      | [] => serveNow s line r .unc upg
      | l => (forAll l (fun s p => sendSnoop s line p 0x20 none 0) s, some { req := r, invs := l, upg := upg }, d)

/-- What R132 makes of a line whose new owner is fenced before its COMP_ACK. -/
def lostOwner (s : State) (o : Nat) : DirState := if flag s (PART.FENCE_STS_REVERTED o) then .unc else .fenced o

/-- A request of a partner that is fenced (R132). -/
def graceless (s : State) (r : Req) : Bool := r.agent == .partner && !pidLive s r.pid

/-- Handle a request on a stable line and put its outcome in place. -/
def handleStable (s : State) (line : Nat) (r : Req) : State :=
  let (s1, t, d) := beginReq s line r (touched s (dirOf s line))
  match t with
  | none => setDir s1 line d
  | some t => setTxn (setDir s1 line (touched s (dirOf s line))) line (some t)

/-- Take the waiting requests of a line in order until one makes it BUSY again (R114). -/
def runQueue (line : Nat) : List Req → State → State
  | [], s => s
  | r :: q, s =>
    let s0 := match lookupDc s line with | some s0 => s0 | none => s
    let s1 := handleStable s0 line r
    match txnOf s1 line with
    | some t => setTxn s1 line (some { t with queue := t.queue ++ q })
    | none => runQueue line q s1

/-- The line's transaction ends with entry `d`. -/
def settle (s : State) (line : Nat) (q : List Req) (d : DirState) : State :=
  runQueue line q (setTxn (setDir s line d) line none)

/-- The copies that stood in the way are gone: serve the transaction's request from DRAM. It has needed a snoop, so its
answer is not padded (R70). One whose partner has been fenced meanwhile is discarded (R132). -/
def resume (s : State) (line : Nat) (t : Txn) (base : DirState) : State :=
  if graceless s t.req then settle s line t.queue base
  else
    let r := { t.req with quick := false }
    let (s1, a) := complete s line r base t.upg
    match a with
    | .done d => settle s1 line t.queue d
    | .push p => setTxn s1 line (some { req := r, push := some p, queue := t.queue })
    | .comp => setTxn s1 line (some { req := r, comp := true, queue := t.queue })

/-- The owner's write-back crossed the snoop (R127): its data serves the transaction, and it is answered CONSUMED. -/
def crossWb (s : State) (line : Nat) (t : Txn) (w : Req) : State :=
  let s1 := if w.op = 0x07 then takeData s line w.data else s
  let s2 := answer s1 w (lineCore line) 0x45 9 0 0 s.time.ft
  resume s2 line { t with held := none } .unc

/-! Serializing a request (R114, R123). -/

/-- A stored request is for the same line, or the same region, as another. -/
def sameHome (a b : Req) : Bool :=
  if a.op == 0x0A || a.op == 0x0B then (b.op == 0x0A || b.op == 0x0B) && a.pva == b.pva
  else a.line.isSome && a.line == b.line

/-- The PIDs among `ties` that have an untaken request for the same line; `wbs` selects write-backs or the rest. -/
def tied (s : State) (r : Req) (ties : List Nat) (wbs : Bool) : List Nat :=
  ties.filter fun p => s.net.store.any fun x => x.pid == p && !x.taken && sameHome r x && isWb x.op == wbs && !sameReq x r

/-- Whether a request is the next to be serialized among those tied with it, and the slice's pointer after (R123). -/
def wins (s : State) (core : Nat) (r : Req) (ties : List Nat) : Bool × State :=
  let others := (tied s r ties false).filter (· != r.pid)
  if isWb r.op then (true, s)
  else if !(tied s r ties true).isEmpty then (false, s)
  else if others.isEmpty then (true, s)
  else if detOn s then (others.all (r.pid < ·), s)
  else
    let ptr := Store.get 0 s.coh.rotate core
    let rank := fun p => (p + 4096 - ptr) % 4096
    if others.all (fun p => rank r.pid < rank p) then
      (true, { s with coh := { s.coh with rotate := Store.set 0 s.coh.rotate core ((r.pid + 1) % 4096) } })
    else (false, s)

/-- The transaction's request may have its answer already: a grant was made, the write was acknowledged, or a forward is
under way, whose owner answers the requester itself (R121). (DEDUCED, log 44) -/
def mayHaveAnswer (t : Txn) : Bool := t.comp || t.push.isSome || t.snoop == 0x21 || t.snoop == 0x22

/-- The same partner has an earlier request for the line outstanding, so far as the slice can tell (R124).
(DEDUCED, log 44) -/
def outstanding (t : Txn) (r : Req) : Bool :=
  r.agent == .partner &&
    ((t.req.agent == .partner && t.req.pid == r.pid && !mayHaveAnswer t)
      || t.queue.any (fun x => x.agent == .partner && x.pid == r.pid)
      || (match t.held with | some h => h.pid == r.pid | none => false))

/-- The entry of a line lies in a line of the directory's backing store whose recovery an open run defers (R111, R272).
(DEDUCED, log 125) -/
def entryAwaits (s : State) (line : Nat) : Bool :=
  (Store.get [] s.dram.repairs (lineCore line)).contains (memKey (lineCore line) (0xF10800000 + lineOff line / 4096 * 128))

/-- A slice takes a request for a line (R114, R121, R122). A request that finds no room in the directory cache waits
(R112); a recall does not (DEDUCED, log 23). (DEDUCED, log 44) (DEDUCED, log 125) -/
def takeReq (s : State) (line : Nat) (r : Req) : State :=
  match txnOf s line with
  | some t =>
    if isWb r.op && t.snoop != 0 && t.owner == r.pid && t.held.isNone then
      if t.wbp then crossWb s line t r else setTxn s line (some { t with held := some r })
    else if outstanding t r then freeReq (breach s line r.pid r.op) r
    else setTxn s line (some { t with queue := t.queue ++ [r] })
  | none =>
    match lookupDc s line with
    | none => match r.agent with
      | .recall _ => handleStable s line r
      | _ => s
    | some s1 => if entryAwaits s line && reqKind r != 4 then failReq s line r 6 else handleStable s1 line r

/-- The write-back or eviction of an owner under snoop: it is what the snoop waits for (R127). -/
def crossing (s : State) (line : Nat) (r : Req) : Bool :=
  isWb r.op && (match txnOf s line with | some t => t.snoop != 0 && t.owner == r.pid | none => false)

/-- Serialize the stored request of a PID and TAG (R20, R21, R24, R105, R123, R223). In deterministic mode it crosses to
its core in a PART slot (R54, R57). (DEDUCED, log 125) (DESIGN CHOICE, log 154) (DEDUCED, log 159) -/
def serialize (ops : List Nat) (pid tag : Nat) (ties : List Nat) (s : State) : State :=
  match findReq s pid tag ops with
  | none => s
  | some r =>
    match r.line with
    | none => s
    | some line =>
      let c := lineCore line
      if s.parts.failing.getLsbD c || (moving s r.pt r.pva && !crossing s line r) || ((txnOf s line).isNone && (lookupDc s line).isNone)
        || (isWb r.op && (txnOf s line).isNone && entryAwaits s line) then s
      else if !coreUp s c then refuse s r 16 4 0
      else match linkTime s c r.pt (max s.time.ft r.walked) with
        | none => s
        | some t =>
          let (ok, s1) := wins (advanceFt s t) c r ties
          if !ok then s
          else if r.op = 0x09 ∧ atomicBad r then freeReq (breach s1 line r.pid r.op) r
          else
            let r1 := { r with taken := true }
            takeReq (countAccess (setReq s1 r1) c (lineOff line) false) line r1

/-- RD_SHARED (R121). -/
def execRdShared (pid : Pid) (tag : Nat) (ties : List Pid) (s : State) : Host.Outcome State Fault Refusal :=
  .next (whenAlive s (serialize [0x01] pid tag (ties.map (·.val))))
/-- RD_OWN (R121). -/
def execRdOwn (pid : Pid) (tag : Nat) (ties : List Pid) (s : State) : Host.Outcome State Fault Refusal :=
  .next (whenAlive s (serialize [0x02] pid tag (ties.map (·.val))))
/-- UPGRADE (R121). -/
def execUpgrade (pid : Pid) (tag : Nat) (ties : List Pid) (s : State) : Host.Outcome State Fault Refusal :=
  .next (whenAlive s (serialize [0x03] pid tag (ties.map (·.val))))
/-- RD_ONCE (R125). -/
def execRdOnce (pid : Pid) (tag : Nat) (ties : List Pid) (s : State) : Host.Outcome State Fault Refusal :=
  .next (whenAlive s (serialize [0x04] pid tag (ties.map (·.val))))
/-- WR_FULL (R125, R126). -/
def execWrFull (pid : Pid) (tag : Nat) (ties : List Pid) (s : State) : Host.Outcome State Fault Refusal :=
  .next (whenAlive s (serialize [0x05] pid tag (ties.map (·.val))))
/-- WR_PART (R125). -/
def execWrPart (pid : Pid) (tag : Nat) (ties : List Pid) (s : State) : Host.Outcome State Fault Refusal :=
  .next (whenAlive s (serialize [0x06] pid tag (ties.map (·.val))))
/-- WB (R121, R122, R127). -/
def execWb (pid : Pid) (tag : Nat) (s : State) : Host.Outcome State Fault Refusal :=
  .next (whenAlive s (serialize [0x07] pid tag []))
/-- EVICT (R121, R122). -/
def execEvict (pid : Pid) (tag : Nat) (s : State) : Host.Outcome State Fault Refusal :=
  .next (whenAlive s (serialize [0x08] pid tag []))
/-- ATOMIC (R223). -/
def execAtomic (pid : Pid) (tag : Nat) (ties : List Pid) (s : State) : Host.Outcome State Fault Refusal :=
  .next (whenAlive s (serialize [0x09] pid tag (ties.map (·.val))))

/-! Requests of the module's own agents. -/

/-- An engine or a recall asks a slice for a line. -/
def agentReq (s : State) (line : Nat) (r : Req) : State := takeReq s line { r with taken := true }

/-- A line needs a recall or a snoop before it can be read from DRAM or moved. -/
def lineHeld (s : State) (line : Nat) : Bool :=
  (txnOf s line).isSome || (match touched s (dirOf s line) with
    | .unc => false
    | .fenced _ => false
    | .sh ps => !ps.isEmpty
    | _ => true)

/-- Recall every copy of the lines on behalf of a job (R96, R109). (DEDUCED, log 160) -/
def recallLines (s : State) (job : Nat) (lines : List Nat) : State :=
  forAll (lines.filter (lineHeld s)) (fun s l => agentReq s l { agent := .recall job, op := 0x24, pva := linePva s l }) s

/-- A transaction serves or queues a request that `p` selects. -/
def txnHas (p : Req → Bool) (t : Option Txn) : Bool :=
  match t with
  | none => false
  | some t => p t.req || t.queue.any p

/-- A recall of the job is not finished. -/
def recalling (s : State) (job : Nat) : Bool :=
  s.coh.txns.any fun e => txnHas (fun r => r.agent == .recall job) e.2

/-- The lines of a range of stack bytes that the directory or a transaction names. -/
def namedLines (s : State) (core lo hi : Nat) : List Nat :=
  let inR := fun l => lineCore l == core && decide (lo ≤ lineOff l ∧ lineOff l < hi)
  ((s.coh.dir.map (·.1)).filter inR) ++ ((s.coh.txns.map (·.1)).filter fun l => inR l && dirOf s l == .unc)

/-! Answers (R122, R126, R127). -/

/-- The line at a stack offset of a core. -/
def lineAt (core off : Nat) : Nat := lineOf (memKey core (off % 2 ^ 36))

/-- An acknowledgement of an invalidation is counted. -/
def countInv (s : State) (line : Nat) (t : Txn) (pid : Nat) : State :=
  let l := t.invs.filter (· != pid)
  if l.isEmpty then resume s line { t with invs := [] } .unc else setTxn s line (some { t with invs := l })

/-- The owner answered its snoop: `isNew` is its state after, `fwd` says that it forwarded the line. -/
def ownerAnswered (s : State) (line : Nat) (t : Txn) (isNew fwd : Bool) (data : Option Nat) : State :=
  let s1 := match data with | some d => takeData s line d | none => s
  match t.snoop with
  | 0x21 =>
    if fwd then
      let s2 := freeReq s1 t.req
      let (d, s3) := addSharer s2 line (.sh [t.owner]) t.req.pid
      settle s3 line t.queue d
    else resume s1 line t .unc
  | 0x22 =>
    if fwd then
      let s2 := dirtyTier s1 line
      if t.comp then setTxn s2 line (some { t with snoop := 0, held := none, wbp := false })
      else settle s2 line t.queue (touched s2 (.exc t.req.pid))
    else resume s1 line t .unc
  | 0x23 => resume s1 line t (if isNew then .sh [t.owner] else .unc)
  | _ => resume s1 line t .unc

/-- The transaction of the line awaits an owner snoop's answer from `pid`. -/
def awaitsOwner (t : Txn) (pid : Nat) : Bool := t.snoop != 0 && t.owner == pid

/-- INV_ACK (R122): counted; one that is not awaited is discarded. (DESIGN CHOICE, log 40) -/
def doInvAck (s : State) (line pid : Nat) : State :=
  match txnOf s line with
  | some t => if t.invs.contains pid then countInv s line t pid else s
  | none => s
/-- INV_ACK (R122). -/
def execInvAck (core : Core) (pid : Pid) (off : Nat) (s : State) : Host.Outcome State Fault Refusal :=
  .next (whenAlive s (doInvAck · (lineAt core off) pid))

/-- SNP_ACK (R122, R124): a breach where it answers a forward. It also answers the recalls of R271.
(DESIGN CHOICE, log 40) -/
def doSnpAck (s : State) (line pid : Nat) (isNew : Bool) : State :=
  match txnOf s line with
  | some t =>
    if awaitsOwner t pid then
      let s1 := if t.snoop = 0x21 ∨ t.snoop = 0x22 then breach s line pid 0x59 else s
      ownerAnswered s1 line t isNew false none
    else if t.invs.contains pid then countInv s line t pid
    else s
  | none => s
/-- SNP_ACK (R122). -/
def execSnpAck (core : Core) (pid : Pid) (off : Nat) (isNew : Bool) (s : State) : Host.Outcome State Fault Refusal :=
  .next (whenAlive s (doSnpAck · (lineAt core off) pid isNew))

/-- SNP_DATA (R122). From a partner that owes an INV_ACK it is the M row of Table 05-5, SNP_INV.
(DESIGN CHOICE, log 40) -/
def doSnpData (s : State) (line pid : Nat) (isNew : Bool) (data : Nat) : State :=
  match txnOf s line with
  | some t =>
    if awaitsOwner t pid then ownerAnswered s line t isNew false (some data)
    else if t.invs.contains pid then countInv (takeData s line data) line t pid
    else s
  | none => s
/-- SNP_DATA (R122). -/
def execSnpData (core : Core) (pid : Pid) (off : Nat) (isNew : Bool) (data : Nat) (s : State) :
    Host.Outcome State Fault Refusal :=
  .next (whenAlive s (doSnpData · (lineAt core off) pid isNew (data % 2 ^ 1024)))

/-- SNP_FWDED (R122). (DESIGN CHOICE, log 40) -/
def doSnpFwded (s : State) (line pid : Nat) (data : Option Nat) : State :=
  match txnOf s line with
  | some t => if awaitsOwner t pid then ownerAnswered s line t false true data else s
  | none => s
/-- SNP_FWDED (R122). -/
def execSnpFwded (core : Core) (pid : Pid) (off : Nat) (data : Option Nat) (s : State) : Host.Outcome State Fault Refusal :=
  .next (whenAlive s (doSnpFwded · (lineAt core off) pid (data.map (· % 2 ^ 1024))))

/-- WB_PENDING (R122, R127). From a partner that owes an INV_ACK it acknowledges: its copy ends with its WB (DEDUCED, log 21).
(DESIGN CHOICE, log 40) -/
def doWbPending (s : State) (line pid : Nat) : State :=
  match txnOf s line with
  | some t =>
    if awaitsOwner t pid then
      match t.held with
      | some w => crossWb s line t w
      | none => setTxn s line (some { t with wbp := true })
    else if t.invs.contains pid then countInv s line t pid
    else s
  | none => s
/-- WB_PENDING (R127). -/
def execWbPending (core : Core) (pid : Pid) (off : Nat) (s : State) : Host.Outcome State Fault Refusal :=
  .next (whenAlive s (doWbPending · (lineAt core off) pid))

/-- COMP_ACK (R120, R363): the line becomes EXC once no forward is awaited. One that nothing awaits is a breach.
(DESIGN CHOICE, log 40) -/
def doCompAck (s : State) (line pid : Nat) : State :=
  match txnOf s line with
  | some t =>
    if t.comp && t.req.pid == pid then
      let s1 := freeReq s t.req
      if t.snoop = 0 then settle s1 line t.queue (.exc pid) else setTxn s1 line (some { t with comp := false })
    else breach s line pid 0x5D
  | none => breach s line pid 0x5D
/-- COMP_ACK (R120). -/
def execCompAck (core : Core) (pid : Pid) (off : Nat) (s : State) : Host.Outcome State Fault Refusal :=
  .next (whenAlive s (doCompAck · (lineAt core off) pid))

/-- The answer to a push (R126). (DESIGN CHOICE, log 40) -/
def doPushAnswer (s : State) (line pid : Nat) (placed : Bool) : State :=
  match txnOf s line with
  | some t =>
    if t.push = some pid then
      let c := lineCore line
      if placed then settle (bumpF s (DIR.PUSH_PLACED_COUNT c)) line t.queue (.sh [pid])
      else settle (bumpF s (DIR.PUSH_DECLINED_COUNT c)) line t.queue .unc
    else breach s line pid (if placed then 0x5E else 0x5F)
  | none => breach s line pid (if placed then 0x5E else 0x5F)
/-- PUSH_ACK (R126). -/
def execPushAck (core : Core) (pid : Pid) (off : Nat) (s : State) : Host.Outcome State Fault Refusal :=
  .next (whenAlive s (doPushAnswer · (lineAt core off) pid true))
/-- PUSH_DECLINE (R126). -/
def execPushDecline (core : Core) (pid : Pid) (off : Nat) (s : State) : Host.Outcome State Fault Refusal :=
  .next (whenAlive s (doPushAnswer · (lineAt core off) pid false))

/-- Opcodes that a table of the spec gives. -/
def opcodeKnown (o : Nat) : Bool :=
  decide (1 ≤ o ∧ o ≤ 0x0D ∨ 0x20 ≤ o ∧ o ≤ 0x24 ∨ o = 0x28 ∨ 0x40 ≤ o ∧ o ≤ 0x49 ∨ 0x50 ≤ o ∧ o ≤ 0x52
    ∨ 0x58 ≤ o ∧ o ≤ 0x5F ∨ 0x60 ≤ o ∧ o ≤ 0x62 ∨ 0x70 ≤ o ∧ o ≤ 0x74)

/-- UNKNOWN_OPCODE (R116, R124). -/
def execUnknownOpcode (core : Core) (pid : Pid) (opcode off : Nat) (s : State) : Host.Outcome State Fault Refusal :=
  .next (whenAlive s fun s =>
    if opcodeKnown (opcode % 256) then s else breach s (lineAt core off) pid (opcode % 256))

/-! Version words (R135 to R137). -/

/-- The core and entry of a region. (DEDUCED, log 78) -/
def regionCore (r : Nat) : Nat := r % 4096 / 256

/-- Perform a PUBLISH or RD_VERSION at the home slice (R136). (DEDUCED, log 78) -/
def serveVersion (s : State) (r : Req) : State :=
  let c := regionCore r.pva
  let b := r.pva % 256
  let ver := getF s (DIR.RGN_VER c b)
  if !flag s (DIR.RGN_CTL_V c b) || getF s (DIR.RGN_CTL_PT c b) != r.pt then answer s r c 0x47 12 8 0 s.time.ft
  else if r.op = 0x0B then answer s r c 0x47 0 8 ver s.time.ft
  else if flag s (DIR.RGN_CTL_LOCK c b) then answer s r c 0x47 11 8 ver s.time.ft
  else if ver ≠ r.data % 2 ^ 64 then answer s r c 0x47 10 8 ver s.time.ft
  else
    let v := r.data / 2 ^ 64 % 2 ^ 64
    answer (setF s (DIR.RGN_VER c b) v) r c 0x47 0 8 v s.time.ft

/-- Serialize a stored PUBLISH or RD_VERSION (R137). (DEDUCED, log 78) (DESIGN CHOICE, log 155) -/
def serializeVersion (op pid tag : Nat) (ties : List Nat) (s : State) : State :=
  match findReq s pid tag [op] with
  | none => s
  | some r =>
    let c := regionCore r.pva
    if !coreUp s c then refuse s r 16 4 0
    else match linkTime s c r.pt s.time.ft with
      | none => s
      | some t =>
        let (ok, s1) := wins (advanceFt s t) c r ties
        if ok then serveVersion s1 r else s

/-- PUBLISH (R136). -/
def execPublish (pid : Pid) (tag : Nat) (ties : List Pid) (s : State) : Host.Outcome State Fault Refusal :=
  .next (whenAlive s (serializeVersion 0x0A pid tag (ties.map (·.val))))
/-- RD_VERSION (R136). -/
def execRdVersion (pid : Pid) (tag : Nat) (ties : List Pid) (s : State) : Host.Outcome State Fault Refusal :=
  .next (whenAlive s (serializeVersion 0x0B pid tag (ties.map (·.val))))

/-- A write of RGN_CTL (R135). -/
def doRgnCtl (s : State) (c v : Nat) : State :=
  let b := getF s (DIR.RGN_SEL_INDEX c)
  let old := flag s (DIR.RGN_CTL_V c b)
  let pt := bitsOf v 2 4
  if (old && pt != getF s (DIR.RGN_CTL_PT c b)) || (v.testBit 0 && ownerOf s c != some pt) then
    setB s (DIR.RGN_STS_REFUSED c) true
  else
    let s1 := setB (setB (setB s (DIR.RGN_STS_REFUSED c) false) (DIR.RGN_CTL_V c b) (v.testBit 0)) (DIR.RGN_CTL_LOCK c b)
      (v.testBit 1)
    setF s1 (DIR.RGN_CTL_PT c b) pt
/-- RGN_CTL_WRITE (R135). A write to the page of a core that is not in service is ignored (R2, R474). -/
def execRgnCtlWrite (core : Core) (value : Nat) (s : State) : Host.Outcome State Fault Refusal :=
  .next (whenAlive s fun s => if coreUp s core then doRgnCtl s core value else s)

/-- A write of a half of RGN_VER (R135). -/
def doRgnVer (s : State) (c : Nat) (hi : Bool) (v : Nat) : State :=
  let b := getF s (DIR.RGN_SEL_INDEX c)
  if flag s (DIR.RGN_CTL_V c b) then setB s (DIR.RGN_STS_REFUSED c) true
  else setF (setB s (DIR.RGN_STS_REFUSED c) false) (DIR.RGN_VER c b)
    (insertBits (getF s (DIR.RGN_VER c b)) (if hi then 32 else 0) 32 v)
/-- RGN_VER_WRITE (R135). A write to the page of a core that is not in service is ignored (R2, R474). -/
def execRgnVerWrite (core : Core) (hi : Bool) (value : Nat) (s : State) : Host.Outcome State Fault Refusal :=
  .next (whenAlive s fun s => if coreUp s core then doRgnVer s core hi value else s)

/-- The version words of a core are cleared (R135). -/
def clearRegions (s : State) (c : Nat) : State :=
  forAll (upTo 256) (fun s b => setF (setF (setF (setF s (DIR.RGN_CTL_V c b) 0) (DIR.RGN_CTL_LOCK c b) 0)
    (DIR.RGN_CTL_PT c b) 0) (DIR.RGN_VER c b) 0) s

/-! Leases and fencing (R129 to R133, R141). -/

/-- The lease length of a partition in ns: that of the configuration in force, at least 500 us. (DEDUCED, log 42) -/
def leaseNs (s : State) (pt : Nat) : Nat := max 500 (Store.get 2000 s.coh.cfg pt % 65536) * 1000

/-- REVERT of the lease configuration in force. (DEDUCED, log 42) -/
def revertOf (s : State) (pt : Nat) : Bool := (Store.get 2000 s.coh.cfg pt).testBit 16

/-- Start a PID's lease. -/
def startLease (s : State) (pid : Nat) : State :=
  { s with coh := { s.coh with lease := Store.set 0 s.coh.lease pid s.time.elapsed } }

/-- The lease of a LIVE PID has expired: L in elapsed ticks after its last start. -/
def leaseOver (s : State) (pid : Nat) : Bool :=
  decide (Store.get 0 s.coh.lease pid + leaseNs s (pidPt s pid) ≤ s.time.elapsed)

/-- LEASE_LEFT of a PID, in us. -/
def leaseLeft (s : State) (pid : Nat) : Nat :=
  if pidLive s pid then (Store.get 0 s.coh.lease pid + leaseNs s (pidPt s pid) - s.time.elapsed) / 1000 else 0

/-- The payload of LEASE_ACK (R351). -/
def leaseAck (s : State) (pid seq : Nat) : Nat :=
  seq % 2 ^ 32 + leaseNs s (pidPt s pid) / 1000 % 65536 * 2 ^ 32 + getF s ROUTE.ROUTE_STS_EPOCH * 2 ^ 48
    + getF s (SHAPE.E2E_DATA_LIMIT pid) * 2 ^ 56 + getF s (SHAPE.E2E_DATA_ECRED pid) * 2 ^ 64

/-- LEASE_RENEW (R129): a LIVE partner's lease restarts and is acknowledged, from M10 on (Table 15-5); a fenced or
released one is answered ERR FENCED, an unbound one ERR PID_UNBOUND with a fault-log entry (R43; DEDUCED, log 22). (DEDUCED, log 128)
(DESIGN CHOICE, log 163) -/
def doLeaseRenew (s : State) (pid seq port : Nat) : State :=
  match pidState s pid with
  | 0 => respond (faultEntry s 23 1 none (0x0600 + port) port pid) { pid := pid } 16 0x48 2 8 0 s.time.ft none
  | 1 =>
    if s.boot.admitted then sendMgmt (startLease s pid) pid 0x71 16 (leaseAck s pid seq)
    else respond s { pid := pid } 16 0x48 3 8 0 s.time.ft none
  | _ => respond s { pid := pid } 16 0x48 7 8 0 s.time.ft none
/-- LEASE_RENEW (R129). -/
def execLeaseRenew (sender : Sender) (seq : Nat) (s : State) : Host.Outcome State Fault Refusal :=
  .next (whenAlive s (doLeaseRenew · sender.pid seq sender.port))

/-- Start the sweep of a partition's SWEEPING PIDs unless one runs (R133). -/
def startSweep (s : State) (pt : Nat) : State :=
  if Store.get [] s.coh.sweeps pt ≠ [] then s
  else
    let l := (upTo 4096).filter fun p => pidState s p == 3 && pidPt s p == pt
    { s with coh := { s.coh with sweeps := Store.set [] s.coh.sweeps pt l } }

/-- What a fence does to the transaction of one line (R132). (DEDUCED, log 46) -/
def fenceTxn (pid : Nat) (s : State) (line : Nat) : State :=
  match txnOf s line with
  | none => s
  | some t0 =>
    let mine := fun (r : Req) => r.agent == .partner && r.pid == pid
    let t := { t0 with queue := t0.queue.filter (!mine ·), held := t0.held.filter (!mine ·) }
    let s0 := setTxn s line (some t)
    if t.invs.contains pid then countInv s0 line t pid
    else if awaitsOwner t pid then
      if flag s0 (PART.FENCE_STS_REVERTED pid) then resume s0 line t .unc
      else settle (if reqKind t.req = 4 then s0 else failReq s0 line t.req 5) line t.queue (.fenced pid)
    else if t.comp && mine t.req then
      if t.snoop = 0 then settle s0 line t.queue (lostOwner s0 pid) else setTxn s0 line (some { t with comp := false })
    else if t.push = some pid then doPushAnswer s0 line pid false
    else s0

/-- Enter a PID into the fence list (R141). -/
def pushFence (s : State) (pid : Nat) : State :=
  if s.coh.fences.length < 64 then
    let s1 := { s with coh := { s.coh with fences := s.coh.fences ++ [pid] } }
    if s.coh.fences.isEmpty then raise s1 0x0030 1 else s1
  else { s with coh := { s.coh with fenceLost := true } }

/-- A COLLECTIVE that lists a partner which is fenced or loses its binding stops (R233). -/
def stopColls (s : State) (pid : Nat) : State :=
  let f := fun (c : Option Coll) => c.map fun c =>
    if c.pids.contains pid && c.stop.isNone then { c with stop := some pid } else c
  { s with eng := { s.eng with colls := s.eng.colls.map fun e => (e.1, f e.2) } }

/-- Fence a LIVE partner (R130 to R133). -/
def fencePid (s0 : State) (pid : Nat) : State :=
  if pidLive s0 pid then
    let s := stopColls s0 pid
    let pt := pidPt s pid
    let rv := revertOf s pt
    let s1 := setB (setF s (PART.FENCE_STS_STATE pid) (if rv then 3 else 2)) (PART.FENCE_STS_REVERTED pid) rv
    let s2 := faultEntry (pushFence s1 pid) 22 1 (some pt) 0x0030 pid pt
    let s3 := { s2 with net := { s2.net with store := s2.net.store.filter fun r => r.pid != pid } }
    let s4 := forAll (s3.coh.txns.map (·.1)) (fenceTxn pid) s3
    if rv then startSweep s4 pt else s4
  else s0

/-- PARTNER_LEASE_CHECK (R130, R141, Table 03-6): leases run from M10 on. (DEDUCED, log 42) -/
def doPartnerLeaseCheck (s : State) : State :=
  let s1 := atPeriodic s 2 65536 2048
  let cfg := (upTo 16).foldl (fun c pt =>
    Store.set 2000 c pt (getF s1 (PART.LEASE_CFG_LEN_US pt) + getF s1 (PART.LEASE_CFG_REVERT pt) * 65536)) s1.coh.cfg
  let s2 := { s1 with coh := { s1.coh with cfg := cfg } }
  if s2.boot.admitted then
    forAll ((upTo 4096).filter fun p => pidLive s2 p && leaseOver s2 p) fencePid s2
  else s2
/-- PARTNER_LEASE_CHECK (R130). -/
def execPartnerLeaseCheck (s : State) : Host.Outcome State Fault Refusal := .next (whenAlive s doPartnerLeaseCheck)

/-- FENCE_CMD.FENCE (R130). (DEDUCED, log 124) -/
def doFence (s : State) : State :=
  let pid := getF s PART.FENCE_PID_PID
  if pidLive s pid then setF (fencePid s pid) (PART.FENCE_STS_RESULT 0) 0 else setF s (PART.FENCE_STS_RESULT 0) 1
/-- FENCE (R130). -/
def execFence (s : State) : Host.Outcome State Fault Refusal := .next (whenAlive s doFence)

/-- FENCE_CMD.RELEASE (R133). (DEDUCED, log 124) -/
def doRelease (s : State) : State :=
  let pid := getF s PART.FENCE_PID_PID
  if pidState s pid ≠ 2 then setF s (PART.FENCE_STS_RESULT 0) 1
  else if runOpen s (pidPt s pid) then setF s (PART.FENCE_STS_RESULT 0) 2
  else startSweep (setF (setF s (PART.FENCE_STS_RESULT 0) 0) (PART.FENCE_STS_STATE pid) 3) (pidPt s pid)
/-- RELEASE (R133). -/
def execRelease (s : State) : Host.Outcome State Fault Refusal := .next (whenAlive s doRelease)

/-- Start a PID's counts anew at its binding (R363). -/
def freshBinding (s : State) (pid : Nat) : State :=
  let s1 := setF s (SHAPE.E2E_DATA_ECRED pid) 0
  let n := { s1.net with owed := Store.del s1.net.owed pid, sent := Store.del s1.net.sent pid }
  let n := { n with changed := Store.del n.changed pid, lastRel := Store.del n.lastRel pid }
  startLease { s1 with net := { n with heldBack := n.heldBack.filter (· != pid) } } pid

/-- FENCE_CMD.UNFENCE (R133). (DEDUCED, log 124) -/
def doUnfence (s : State) : State :=
  let pid := getF s PART.FENCE_PID_PID
  if pidState s pid ≠ 4 then setF s (PART.FENCE_STS_RESULT 0) 1
  else freshBinding (setF (setF s (PART.FENCE_STS_RESULT 0) 0) (PART.FENCE_STS_STATE pid) 1) pid
/-- UNFENCE (R133). -/
def execUnfence (s : State) : Host.Outcome State Fault Refusal := .next (whenAlive s doUnfence)

/-- The sweep of one entry (R133): its new value, and the swept PIDs it named if it turns to UNC. -/
def sweepEntry (ps : List Nat) (d : DirState) : DirState × List Nat :=
  match d with
  | .sh l =>
    let r := l.filter (!ps.contains ·)
    if r.isEmpty && !l.isEmpty then (.unc, l) else (.sh r, [])
  | .exc o => if ps.contains o then (.unc, [o]) else (d, [])
  | .fenced o => if ps.contains o then (.unc, [o]) else (d, [])
  | d => (d, [])

/-- The end of a partition's sweep (R133). (DEDUCED, log 47) -/
def doSweepDone (s : State) (pt : Nat) : State :=
  match Store.get [] s.coh.sweeps pt with
  | [] => s
  | ps =>
    let cs := coresOf s pt
    let s0 := forAll ps (fun s p => setF s (PART.FENCE_LINES_LINES p) 0) s
    let s1 := forAll (s0.coh.dir.filter fun e => cs.contains (lineCore e.1) && (txnOf s e.1).isNone) (fun s e =>
      let (d, l) := sweepEntry ps e.2
      forAll l (fun s p => bumpF s (PART.FENCE_LINES_LINES p)) (setDir s e.1 d)) s0
    let s2 := forAll ps (fun s p => if pidState s p = 3 then setF s (PART.FENCE_STS_STATE p) 4 else s) s1
    let s3 := { s2 with coh := { s2.coh with sweeps := Store.del s2.coh.sweeps pt } }
    startSweep (raise s3 0x0030 2) pt
/-- SWEEP_DONE (R133). -/
def execSweepDone (pt : Ptn) (s : State) : Host.Outcome State Fault Refusal := .next (whenAlive s (doSweepDone · pt))

/-- FENCE_POP as it reads now (Table 05-14). -/
def fenceEntry (s : State) : Nat :=
  match s.coh.fences with
  | [] => 0
  | p :: _ => p + s.coh.fenceLost.toNat * 2 ^ 30 + 2 ^ 31

/-- The holder's read of FENCE_POP removes one entry (R141). -/
def readFencePop (s : State) : State :=
  if s.coh.fences.isEmpty then s
  else { s with coh := { s.coh with fences := s.coh.fences.drop 1, fenceLost := false } }
/-- FENCE_POP (R141). -/
def execFencePop (s : State) : Host.Outcome State Fault Refusal := .next (whenManaged s readFencePop)

end Sys2Proof.Machine
end

