-- ==== Sys2Proof/Machine/Security.lean ====
section
/-!
DEFINITION. The security root: fuses, key derivation and the key store, the TRNG, firmware staging, the lifecycle and
the debug level (chapter 13, R380 to R385, R392, R393, R409, R410; R418, R464).
-/

namespace Sys2Proof.Machine

/-! Fuses (R380, R418). -/

/-- A fuse word. -/
def fuse (s : State) (w : Nat) : Nat := Store.get 0 s.sec.fuses w

/-- `n` fuse words from `w` as one little-endian number. -/
def fuseWords (s : State) (w n : Nat) : Nat := (upTo n).foldl (fun v i => v + fuse s (w + i) * 2 ^ (32 * i)) 0

/-- Unit entry `i`: 0 to 63 BAD entries, 64 to 127 FIELD entries, two to a word. -/
def fuseEntry (s : State) (i : Nat) : Nat :=
  bitsOf (fuse s ((if i < 64 then 0x2E else 0x4E) + i % 64 / 2)) (16 * (i % 2)) 16

/-- V of a unit entry. -/
def entryValid (e : Nat) : Bool := e.testBit 15
/-- CLASS of a unit entry. -/
def entryClass (e : Nat) : Nat := e % 16
/-- INDEX of a unit entry. -/
def entryIndex (e : Nat) : Nat := e / 16 % 512

/-- Blow fuse bits: a blown fuse is never cleared (R381). -/
def blow (s : State) (w bits : Nat) : State :=
  { s with sec := { s.sec with fuses := Store.set 0 s.sec.fuses w (fuse s w ||| bits % 2 ^ 32) } }

/-- The lifecycle of the LIFECYCLE fuse word: 0 BLANK, 1 SEALED, 2 RMA, 3 VOID. -/
def lifecycleOf (w : Nat) : Nat :=
  if w.testBit 2 then 3 else if w.testBit 1 then 2 else if w.testBit 0 then 1 else 0

/-- The length of a thermometer code. -/
def ones (v n : Nat) : Nat := ((upTo n).filter v.testBit).length

/-- Show the LIFECYCLE fuses. -/
def showLifecycle (s : State) : State :=
  setB (setF s FUSE.LIFECYCLE_STATE (lifecycleOf (fuse s 3))) FUSE.LIFECYCLE_KEYS_KILLED ((fuse s 3).testBit 8)

/-- Read the fuses into the FUSE page and the clock bins (R380, R418, R457). -/
def loadFuses (s : State) : State :=
  let w := fuse s 0
  let s1 := setF (setF s FUSE.PART_INFO_PART (bitsOf w 0 4)) FUSE.PART_INFO_PROFILE (bitsOf w 4 1)
  let s2 := setF (setF s1 FUSE.PART_INFO_STACKS (bitsOf w 5 5)) FUSE.PART_INFO_STEPPING (bitsOf w 16 8)
  let s3 := showLifecycle (setF s2 FUSE.SERIAL (fuseWords s 1 2))
  let s4 := setF (setF s3 FUSE.SVN_SVN (ones (fuseWords s 4 2) 64)) FUSE.AVK (fuseWords s 6 16)
  let s5 := forAll (upTo 128) (fun s i => setF s (FUSE.BAD_DATA_ENTRY i) (fuseEntry s i)) s4
  let s6 := setF s5 FUSE.FIELD_STS_USED (((upTo 64).filter (fun i => entryValid (fuseEntry s (64 + i)))).length)
  forAll (upTo 16) (fun s c =>
    let bin := bitsOf (fuse s (0x6E + c / 2)) (16 * (c % 2)) 16
    setF (setF s (CLK.CORE_CLK_FMAX_STEP c) (bitsOf bin 0 4)) (CLK.CORE_CLK_VPIN c) (bitsOf bin 4 6)) s6

/-- The security profile is S (R3). -/
def profileS (s : State) : Bool := getF s FUSE.PART_INFO_PROFILE = 1

/-- The lifecycle (R410): 0 BLANK, 1 SEALED, 2 RMA, 3 VOID. -/
def lifecycle (s : State) : Nat := getF s FUSE.LIFECYCLE_STATE

/-- FIELD_PROGRAM (R381, R464): the next free FIELD entry, in SEALED only. (DESIGN CHOICE, log 120) -/
def doFieldProgram (s : State) (entry : Nat) : State :=
  let used := getF s FUSE.FIELD_STS_USED
  if lifecycle s = 1 ∧ used < 64 then
    let s1 := blow s (0x4E + used / 2) ((entry % 65536) * 2 ^ (16 * (used % 2)))
    let s2 := setF s1 (FUSE.BAD_DATA_ENTRY (64 + used)) entry
    setB (setF s2 FUSE.FIELD_STS_USED (used + 1)) FUSE.FIELD_STS_REFUSED false
  else setB s FUSE.FIELD_STS_REFUSED true

/-- FIELD_PROGRAM. -/
def execFieldProgram (entry : Nat) (s : State) : Host.Outcome State Fault Refusal :=
  .next (whenAlive s (doFieldProgram · entry))

/-! Key derivation (R382, R383). -/

/-- The ASCII bytes of a label. -/
def ascii (l : String) : List Nat := l.toList.map Char.toNat

/-- The first `n` bytes of a number, lowest first. -/
def le (n v : Nat) : List Nat := Keccak.toBytes n v

/-- KDF(K, label, context, L) of R382; K and the context are byte strings, the result a number of L bytes.
(PRESUMED, log 5) -/
def kdf (key : List Nat) (label : String) (context : List Nat) (len : Nat) : Nat :=
  hmacSha3 key ([0, 0, 0, 1] ++ ascii label ++ [0] ++ context ++ (le 4 (8 * len)).reverse) % 256 ^ len

/-- Draw fresh random bits (R384). (DESIGN CHOICE, log 2) -/
def draw (s : State) (w : Nat) : Nat × State :=
  ((Config.trng w s.sec.draws).toNat, { s with sec := { s.sec with draws := s.sec.draws + 1 } })

/-- The key store has been zeroised for good (R409). -/
def keysKilled (s : State) : Bool := flag s FUSE.LIFECYCLE_KEYS_KILLED

/-- Link keys are agreed as in profile S: in a SEALED module of that profile (Table 13-10). -/
def linkS (s : State) : Bool := profileS s && lifecycle s == 1

/-- UDS as a byte string. -/
def udsBytes (s : State) : List Nat := le 32 (fuseWords s 0x16 8)
/-- DRK.U as a byte string: zero once the key store is zeroised (R409). -/
def drkU (s : State) : List Nat := le 32 (if keysKilled s then 0 else fuseWords s 0x1E 8)
/-- DRK.E as a byte string: link keys come from all-zero roots unless the module is SEALED (Table 13-10). -/
def drkE (s : State) : List Nat := le 32 (if keysKilled s || lifecycle s != 1 then 0 else fuseWords s 0x26 8)

/-- Derive CK_n (Table 13-2): by KDF in profile F, from the TRNG in profile S. -/
def newCoreKey (s : State) (n : Nat) : State :=
  let (k, s1) := if profileS s then draw s 512
    else (kdf (drkU s) "CORE" (le 1 n ++ le 32 s.sec.bootNonce ++ le 4 (Store.get 0 s.sec.scrubs n)) 64, s)
  { s1 with sec := { s1.sec with ck := Store.set 0 s1.sec.ck n (k + 1) } }

/-- Derive TK_p (Table 13-2): by KDF from TGEN in profile F, from the TRNG in profile S. -/
def tierKey (s : State) (p : Nat) : State :=
  let (k, s1) := if profileS s then draw s 512
    else (kdf (drkU s) "TIER" (le 1 p ++ le 4 (getF s (KEY.TGEN_GEN p))) 64, s)
  { s1 with sec := { s1.sec with tk := Store.set 0 s1.sec.tk p (k + 1) } }

/-- The tier key of a partition comes to be when it first holds a drive (Table 13-2). -/
def newTierKey (s : State) (p : Nat) : State := if Store.get 0 s.sec.tk p ≠ 0 then s else tierKey s p

/-- The tier key that TGEN names follows a write of TGEN in profile F (R383). -/
def followTgen (s : State) (p : Nat) : State := if Store.get 0 s.sec.tk p = 0 then s else tierKey s p

/-- The device has an identity: SEALED and its keys not killed (Table 13-10, R398). -/
def hasIdentity (s : State) : Bool := lifecycle s == 1 && !keysKilled s

/-- Derive DIK and AK (R383, R393). -/
def deriveIdentity (s : State) : State :=
  if hasIdentity s then
    { s with sec := { s.sec with
        dik := kdf (udsBytes s) "DIK" [] 32 + 1
        ak := kdf (udsBytes s) "AK" (le 64 (getF s SEC.FW_RUN) ++ le 4 (getF s SEC.FW_STS_RUN_SVN)) 32 + 1 } }
  else { s with sec := { s.sec with dik := 0, ak := 0 } }

/-- The TRNG has failed (R384). -/
def trngFailed (s : State) : Bool := flag s SEC.SEC_STS_TRNG_FAIL

/-- A TRNG health test fails (R384). -/
def doTrngFail (s : State) (test : Nat) : State :=
  faultEntry (raise (setB s SEC.SEC_STS_TRNG_FAIL true) 0x0020 2) 3 1 none 0x0020 0 test

/-- TRNG_FAIL (R384). -/
def execTrngFail (test : Nat) (s : State) : Host.Outcome State Fault Refusal :=
  .next (whenManaged s (doTrngFail · test))

/-- Every partition's CONFIG_GEN advances (R396). (DEDUCED, log 90) -/
def bumpAll (s : State) : State := forAll (upTo 16) bumpConfigGen s

/-- The DET_MODE register. -/
def detModeReg (s : State) : Nat :=
  getF s TOP.DET_MODE_EN + 2 * getF s TOP.DET_MODE_LOCK + 4 * getF s TOP.DET_MODE_ACTIVE
    + 8 * getF s TOP.DET_MODE_REFUSED

/-- The chip-wide fields of every quote (Table 13-5). -/
def chipQuoted (s : State) : List Nat :=
  [detModeReg s, getF s SEC.FW_STS_STAGED, getF s SEC.DEBUG_EVER, getF s SEC.DEBUG_LEVEL, lifecycle s,
   getF s SEC.FW_STS_RUN_SVN, getF s SEC.FW_RUN, getF s SEC.FW_STG, getF s GING.DIGEST]

/-- A change of a chip-wide quote field advances every CONFIG_GEN (R396). (DEDUCED, log 90) -/
def noteChip (f : State → State) (s : State) : State :=
  let s1 := f s
  if chipQuoted s1 = chipQuoted s then s1 else bumpAll s1

/-! Firmware (R392). -/

/-- A write of FW_DATA: four bytes at OFFSET. -/
def doFwData (s : State) (v : Nat) : State :=
  let o := getF s SEC.FW_ADDR_OFFSET / 4 * 4
  let w := (upTo 4).foldl (fun m k => Store.set 0 m (o + k) (v / 256 ^ k % 256)) s.sec.window
  let s1 := { s with sec := { s.sec with window := w } }
  if flag s SEC.FW_ADDR_AUTOINC then wrapF s1 SEC.FW_ADDR_OFFSET 4 else s1

/-- FW_DATA (R392). -/
def execFwData (v : Nat) (s : State) : Host.Outcome State Fault Refusal := .next (whenAlive s (doFwData · v))

/-- The result of verifying the window: 4 SIZE, 3 ROLLBACK, 2 BAD_KEY, 1 BAD_SIG, 0 OK (DESIGN CHOICE, log 12). -/
def fwCheck (s : State) : Nat :=
  let w := s.sec.window
  if 2 ^ 22 < Config.fwSize w then 4
  else if Config.fwSvn w < getF s FUSE.SVN_SVN then 3
  else if Config.fwKeyDigest w ≠ getF s FUSE.AVK then 2
  else if Config.fwSignatureOk w then 0 else 1

/-- FW_CMD.VERIFY: the verification starts (R392). -/
def doFwVerify (s : State) : State := if flag s SEC.FW_STS_BUSY then s else setB s SEC.FW_STS_BUSY true

/-- FW_VERIFY (R392). -/
def execFwVerify (s : State) : Host.Outcome State Fault Refusal := .next (whenAlive s doFwVerify)

/-- FW_STAGED (R392, R396): the verification ends; the image in the window is staged or refused with its result. -/
def execFwStaged (s : State) : Host.Outcome State Fault Refusal :=
  .next (whenManaged s fun s =>
    if flag s SEC.FW_STS_BUSY then
      let r := fwCheck s
      let s1 := setF (setB s SEC.FW_STS_BUSY false) SEC.FW_STS_RESULT r
      let s2 := if r = 0 then
          let s3 := setF (setB s1 SEC.FW_STS_STAGED true) SEC.FW_STG (Config.fwDigest s.sec.window)
          bumpAll { s3 with sec := { s3.sec with stagedSvn := Config.fwSvn s.sec.window } }
        else s1
      raise s2 0x0020 0
    else s)

/-- FW_CMD.DISCARD (R392). -/
def doFwDiscard (s : State) : State :=
  if flag s SEC.FW_STS_STAGED then bumpAll (setF (setB s SEC.FW_STS_STAGED false) SEC.FW_STG 0) else s

/-- FW_DISCARD (R392). -/
def execFwDiscard (s : State) : Host.Outcome State Fault Refusal := .next (whenAlive s doFwDiscard)

/-- FW_CMD.SVN_COMMIT (R392, R381): the fused SVN rises to the running image's. -/
def doSvnCommit (s : State) : State :=
  let n := min 64 (getF s SEC.FW_STS_RUN_SVN)
  if lifecycle s = 1 ∧ getF s FUSE.SVN_SVN < n then
    let v := 2 ^ n - 1
    setF (blow (blow s 4 (v % 2 ^ 32)) 5 (v / 2 ^ 32)) FUSE.SVN_SVN n
  else s

/-- SVN_COMMIT (R392). -/
def execSvnCommit (s : State) : Host.Outcome State Fault Refusal := .next (whenAlive s doSvnCommit)

/-- The staged image becomes the running image at a whole-chip reset (R392). (DEDUCED, log 101) -/
def adoptFirmware (s : State) : State :=
  let s1 := if flag s SEC.FW_STS_STAGED then
      { s with sec := { s.sec with flashSvn := s.sec.stagedSvn, flashHash := getF s SEC.FW_STG } }
    else s
  let s2 := setF (setB s1 SEC.FW_STS_STAGED false) SEC.FW_STG 0
  setF (setF s2 SEC.FW_RUN s1.sec.flashHash) SEC.FW_STS_RUN_SVN s1.sec.flashSvn

/-! Lifecycle and debug (R409, R410). -/

/-- Zeroise the key store. -/
def zeroise (s : State) : State :=
  { s with sec := { s.sec with ck := [], tk := [], imageKey := [], kt := 0, dik := 0, ak := 0, linkKey := [],
                               linkNext := [], releases := [], bootNonce := 0 } }

/-- The transition that runs will report `r`. -/
def lcStart (s : State) (r : Nat) : State :=
  { setB s SEC.SEC_STS_LC_BUSY true with sec := { s.sec with lcNext := r + 1 } }

/-- LC_CMD with TARGET RMA (R409): the token is verified, the key store zeroised, KEYS_KILLED and then RMA blown. -/
def doLcRma (s : State) : State :=
  if flag s SEC.SEC_STS_LC_BUSY then s
  else if lifecycle s ≠ 1 then lcStart s 1
  else if Config.rmaTokenOk s.sec.window (getF s FUSE.SERIAL) (getF s FUSE.AVK) then
    lcStart (noteChip (fun s => showLifecycle (blow (blow (zeroise s) 3 0x100) 3 2)) s) 0
  else lcStart s 2

/-- LC_RMA (R409). -/
def execLcRma (s : State) : Host.Outcome State Fault Refusal := .next (whenAlive s doLcRma)

/-- LC_CMD with TARGET VOID (R409, Table 13-10): from any state, with no token; identity and link keys end. -/
def doLcVoid (s : State) : State :=
  if flag s SEC.SEC_STS_LC_BUSY then s
  else if lifecycle s = 3 then lcStart s 1
  else
    let s1 := noteChip (fun s => showLifecycle (blow s 3 4)) s
    lcStart { s1 with sec := { s1.sec with dik := 0, ak := 0, linkKey := [], linkNext := [] } } 0

/-- LC_DONE (R409). -/
def execLcDone (s : State) : Host.Outcome State Fault Refusal :=
  .next (whenManaged s fun s =>
    match s.sec.lcNext with
    | 0 => s
    | r + 1 =>
      let s1 := setB { s with sec := { s.sec with lcNext := 0 } } SEC.SEC_STS_LC_BUSY false
      raise (setF s1 SEC.SEC_STS_LC_RESULT r) 0x0020 1)

/-- The debug levels Table 13-10 permits. -/
def debugPermitted (s : State) (l : Nat) : Bool :=
  match l with
  | 0 => true
  | 1 => decide (lifecycle s ≠ 3)
  | 2 => decide (lifecycle s = 0 ∨ lifecycle s = 2)
  | _ => false

/-- A write of SEC.DEBUG.LEVEL (R410). -/
def doDebugWrite (s : State) (l : Nat) : State :=
  if debugPermitted s l then
    { setB s SEC.DEBUG_REFUSED false with sec := { s.sec with debugNext := l + 1 } }
  else setB s SEC.DEBUG_REFUSED true

/-- DEBUG_LEVEL_WRITE (R410). -/
def execDebugLevelWrite (l : Nat) (s : State) : Host.Outcome State Fault Refusal := .next (whenAlive s (doDebugWrite · l))

/-- DEBUG_LEVEL_TAKES_EFFECT (R410, R396), at the next frame boundary. -/
def execDebugLevelTakesEffect (s : State) : Host.Outcome State Fault Refusal :=
  .next (whenManaged s fun s =>
    match s.sec.debugNext with
    | 0 => s
    | l + 1 =>
      let s1 := toFrameStart { s with sec := { s.sec with debugNext := 0 } }
      let s2 := setF (if l < 2 then setB s1 DBG.DBG_STS_SCAN false else s1) DBG.DBG_STS_LEVEL l
      noteChip (fun s => setF (if 0 < l then setB s SEC.DEBUG_EVER true else s) SEC.DEBUG_LEVEL l) s2)

end Sys2Proof.Machine
end

