-- ==== Sys2Proof/Machine/Tier.lean ====
section
/-!
DEFINITION. The flash tier at work: look-ups, misses, eviction, write-back, hints, errors, drive loss and rebuild, and
the drives' assignment (chapter 10).
-/

namespace Sys2Proof.Machine

/-! Drives (R284, R295, R300, R301). -/

/-- A drive is READY. -/
def driveReady (s : State) (d : Nat) : Bool := getF s (PCIE.DRV_STS_STATE d) == 2

/-- A window is held by a drive pair. -/
def windowPaired (s : State) (w : Nat) : Bool := flag s (TIER.DRIVE_PAIR (w / 2 * 2)) && flag s (TIER.DRIVE_EN (w / 2 * 2))

/-- The drive of a pair that has been lost and not rebuilt. -/
def degradedBy (s : State) (w : Nat) : Option Nat :=
  match Store.get 0 s.tier.lostOf (w / 2 * 2) with
  | 0 => none
  | d + 1 => some d

/-- The drives that reads of a window may go to. -/
def readDrives (s : State) (w : Nat) : List Nat :=
  if windowPaired s w then [w, w + 1].filter fun d => driveReady s d && degradedBy s w != some d
  else [w].filter (driveReady s)

/-- The drives that a write-back of a window goes to; during a rebuild the new drive too. -/
def writeDrives (s : State) (w : Nat) : List Nat :=
  if windowPaired s w then [w, w + 1].filter fun d => driveReady s d && (degradedBy s w != some d || s.tier.rebuild == some d)
  else [w].filter (driveReady s)

/-- Outstanding commands that satisfy a test. -/
def cmdCount (s : State) (p : TierOp → Bool) : Nat := ((s.tier.ops.filter p).map (·.cmd)).eraseDups.length

/-- Tier operations outstanding. -/
def opsNow (s : State) : Nat := cmdCount s fun _ => true

/-- The drive of a block's read (R295). -/
def pickDrive (s : State) (block : Nat) : Option Nat :=
  let w := blockWindow block
  let ds := readDrives s w
  if detOn s then
    let d := if windowPaired s w then w + block % 2 ^ 31 % 2 else w
    if ds.contains d then some d else ds.head?
  else leastBy (fun d => cmdCount s fun o => o.drive == d) ds

/-- The commands that a block's operation can join (R294): of its drive, direction and slot, that hold the block before it
or the block after it, with room for it among 32 blocks. (DEDUCED, log 64) -/
def joins (s : State) (o : TierOp) : List Nat :=
  if o.again then ((s.tier.ops.filter fun p => p.again && p.cmd == o.cmd).map (·.cmd)).take 1
  else
    let near := s.tier.ops.filter fun p => p.drive == o.drive && p.write == o.write && p.slot == o.slot && !p.again
    let size := fun c => (near.filter (·.cmd == c)).length
    let cs := ((near.filter fun p => p.lba + 1 == o.lba || o.lba + 1 == p.lba).map (·.cmd)).eraseDups
    if (cs.map size).sum < 32 then cs else (cs.filter fun c => decide (size c < 32)).take 1

/-- A drive and the chip can take a block's operation (R294). -/
def roomFor (s : State) (o : TierOp) : Bool :=
  !(joins s o).isEmpty ||
    (decide (opsNow s < 16384) && decide (cmdCount s (fun p => p.drive == o.drive) < 1024))

/-- The partition whose cache holds a way. -/
def wayPt (s : State) (k : Nat) : Nat := (ownerOf s (wayCore k)).getD 0

/-- The host engine takes a block's operation: it joins a command, two commands that it connects become one, or it is a
new one. OPS.MAX follows, and a new command records TIER (R73, R294, R295). -/
def takeOp (s : State) (o : TierOp) : State :=
  match joins s o with
  | c :: cs =>
    let old := s.tier.ops.map fun p => if cs.contains p.cmd then { p with cmd := c } else p
    { s with tier := { s.tier with ops := old ++ [{ o with cmd := c, place := (old.filter (·.cmd == c)).length }] } }
  | [] =>
    let n := s.tier.cmds
    let s1 := { s with tier := { s.tier with ops := s.tier.ops ++ [{ o with cmd := if o.again then o.cmd else n, place := 0 }],
                                             cmds := n + 1 } }
    let s2 := if getF s1 TIER.OPS_MAX < opsNow s1 then setF s1 TIER.OPS_MAX (opsNow s1) else s1
    recordDx 6 s2 (wayPt s o.way)

/-- The next operation of a port that has room: an access's before a hint's (R296). (DEDUCED, log 133) -/
def portOp (s : State) (d : Nat) : Option TierOp :=
  let l := s.tier.waiting.filter fun o => o.drive == d
  match (match l.find? (!·.hint) with | some o => some o | none => l.head?) with
  | some o => if roomFor s o then some o else none
  | none => none

/-- Up to `n` turns of the host engine, from the port `p` on, ascending (R295). (DEDUCED, log 133) -/
def takeTurns : Nat → Nat → State → State
  | 0, p, s => { s with tier := { s.tier with turn := p } }
  | n + 1, p, s =>
    match ((upTo 16).map fun i => (p + i) % 16).findSome? (portOp s) with
    | none => { s with tier := { s.tier with turn := p } }
    | some o => takeTurns n ((o.drive + 1) % 16) (takeOp { s with tier := { s.tier with waiting := s.tier.waiting.erase o } } o)

/-- The host engine takes what waits and has room: round-robin between root ports, in deterministic mode from port 0 on
(R295). (DEDUCED, log 133) -/
def pumpOps (s : State) : State := takeTurns s.tier.waiting.length (if detOn s then 0 else s.tier.turn) s

/-- Submit an operation for a block; beyond the limits of R294 it waits. -/
def submit (s : State) (k drive : Nat) (write : Bool) (data : Nat) (again : Bool) : State :=
  let b := (getWay s k).block
  let op : TierOp := { way := k, lba := b % 2 ^ 31, drive := drive, write := write, data := data, slot := s.time.ft / 64,
                       cmd := s.tier.cmds, again := again,
                       hint := !write && !(s.tier.waiters.any (·.1 == b)) }
  pumpOps { s with tier := { s.tier with waiting := s.tier.waiting ++ [op],
                                         cmds := s.tier.cmds + (if again then 1 else 0) } }

/-- An access joins a fill: its operation is no hint's any more. -/
def promote (s : State) (k : Nat) : State :=
  { s with tier := { s.tier with waiting := s.tier.waiting.map fun o => if o.way = k then { o with hint := false } else o } }

/-! What the drives hold (R303). -/

/-- The key (plus 1; 0 for none) and tweak of a tier block of a partition (Table 13-2, R399). -/
def blockKey (s : State) (pt block : Nat) : Nat × Nat :=
  let a := block * 4096
  match (upTo 16).find? (fun k => getF s (KEY.KSLOT_CTL_STATE k) != 0
      && decide (getF s (KEY.KSLOT_BASE_GIB k) * 2 ^ 30 ≤ a
          ∧ a < (getF s (KEY.KSLOT_BASE_GIB k) + getF s (KEY.KSLOT_LEN_GIB k)) * 2 ^ 30)) with
  | some k =>
    if getF s (KEY.KSLOT_CTL_STATE k) = 3 then
      (Store.get 0 s.sec.imageKey k, 2 ^ 127 + (a - getF s (KEY.KSLOT_BASE_GIB k) * 2 ^ 30))
    else (0, 0)
  | none => (Store.get 0 s.sec.tk pt, 2 ^ 47 + a)

/-- A line function applied to each of a block's 32 lines, each its own data unit with its own tweak (R385). -/
def byLine (f : Nat → Line → Line) (tweak v : Nat) : Nat :=
  (upTo 32).foldl (fun a i => a + (f (tweak + 128 * i) (BitVec.ofNat 1024 (v / 2 ^ (1024 * i)))).toNat * 2 ^ (1024 * i)) 0

/-- A stored block as the drive itself shows it. -/
def FlashBlk.cipher (b : FlashBlk) : Nat :=
  match b.key with
  | 0 => b.data
  | k + 1 => byLine (Config.xtsEncrypt k) b.tweak b.data

/-- What a read of a block gives under a key and tweak. -/
def FlashBlk.read (b : FlashBlk) (key tweak : Nat) : Nat :=
  if b.key = key ∧ (key = 0 ∨ b.tweak = tweak) then b.data
  else match key with
    | 0 => b.cipher
    | k + 1 => byLine (Config.xtsDecrypt k) tweak b.cipher

/-- Read the block of a way from a drive. (DESIGN CHOICE, log 48) -/
def flashRead (s : State) (k drive : Nat) : Nat :=
  let w := getWay s k
  let (key, tweak) := blockKey s (wayPt s k) w.block
  (Store.get {} s.tier.flash (drive * 2 ^ 31 + w.block % 2 ^ 31)).read key tweak

/-- Write a block to a drive. -/
def flashWrite (s : State) (pt block drive data : Nat) : State :=
  let (key, tweak) := blockKey s pt block
  let b : FlashBlk := ⟨key, if key = 0 then 0 else tweak, data⟩
  { s with tier := { s.tier with flash := Store.set {} s.tier.flash (drive * 2 ^ 31 + block % 2 ^ 31) b } }

/-! Ways. -/

/-- What a way is being emptied for. -/
def goalOf (s : State) (k : Nat) : Option WayGoal := Store.get none s.tier.goals k
/-- Set what a way is emptied for. -/
def setGoal (s : State) (k : Nat) (g : Option WayGoal) : State :=
  { s with tier := { s.tier with goals := Store.set none s.tier.goals k g } }

/-- The recall job of a way. -/
def wayJob (k : Nat) : Nat := 2 ^ 24 + k

/-- The operations of a way that are outstanding or wait for room. -/
def wayOps (s : State) (k : Nat) : List TierOp := (s.tier.ops ++ s.tier.waiting).filter (·.way == k)

/-- Whether a way's last write-back failed (R298). -/
def markFailed (s : State) (k : Nat) (b : Bool) : State :=
  let l := s.tier.failed.filter (· != k)
  { s with tier := { s.tier with failed := if b then k :: l else l } }

/-- The keys of a set's ways. -/
def setKeys (sk : Nat) : List Nat := (upTo 8).map (sk * 8 + ·)

/-- The stored requests of a block that no slice has taken go back to the tier controller (R290). -/
def unplace (s : State) (k : Nat) : State :=
  let ls := wayLines s (wayPt s k) k
  { s with net := { s.net with store := s.net.store.map fun r =>
      if !r.taken && r.tier.isSome && (match r.line with | some l => ls.contains l | none => false)
      then { r with line := none } else r } }

/-- An access waits for a block's fill. (DEDUCED, log 64) -/
def addWaiter (s : State) (block : Nat) (who : TierWaiter) : State :=
  if s.tier.waiters.contains (block, who) then s
  else { s with tier := { s.tier with waiters := s.tier.waiters ++ [(block, who)] } }

/-- Nothing waits for a block any more. -/
def dropWaiters (s : State) (block : Nat) : State :=
  { s with tier := { s.tier with waiters := s.tier.waiters.filter fun w => w.1 != block } }

/-- An access of a waiter fails (R292, R298): `pst` answers a partner, `est` an engine's tile. -/
def failWaiter (pst est : Nat) (s : State) (w : Nat × TierWaiter) : State :=
  match w.2 with
  | .req pid tag =>
    match s.net.store.find? fun r => r.pid == pid && r.tag == tag && !r.taken && r.tier.isSome with
    | some r => refuse s r 16 pst 0
    | none => s
  | .engine ce => { s with coh := { s.coh with engFail := s.coh.engFail ++ [(ce, est, 0)] } }

/-- A fill fails: everything that waits for it fails (R298). -/
def fillFails (s : State) (block : Nat) : State :=
  forAll (s.tier.waiters.filter (·.1 == block)) (failWaiter 6 38) (dropWaiters s block)

/-- The goal of a way is given up: what waited for its fill looks again. -/
def dropGoal (s : State) (k : Nat) : State :=
  match goalOf s k with
  | some (.fill b) => dropWaiters (setGoal s k none) b
  | _ => setGoal s k none

/-- A block is resident: a stored request for it goes on to the home slice. -/
def placeReq (s : State) (k : Nat) (r : Req) : State :=
  let a := r.tier.getD 0
  setReq (accessWay s k) { r with line := some (wayLine s (wayPt s k) k + lineOf (a % 4096)) }

/-- The merged accesses of a block that has become resident are served (R45, R293), their answers not padded (R70); an
engine's goes on with its tile. -/
def serveWaiters (s : State) (k block : Nat) : State :=
  let ws := s.tier.waiters.filter fun w => w.1 == block && (match w.2 with | .req _ _ => true | .engine _ => false)
  forAll ws (fun s w => match w.2 with
    | .req pid tag =>
      match s.net.store.find? fun r => r.pid == pid && r.tag == tag && !r.taken && r.tier.isSome && r.line.isNone with
      | some r => placeReq s k { r with quick := false }
      | none => s
    | .engine _ => s) { s with tier := { s.tier with waiters := s.tier.waiters.filter fun w => !ws.contains w } }

/-- A stored request on its way to the slice is for a line of the way, or an engine's tile that joined the block's fill
has not run since: the fill answers it before the block leaves (R45). (DEDUCED, log 134) -/
def fillOwes (s : State) (k : Nat) : Bool :=
  let ls := wayLines s (wayPt s k) k
  s.net.store.any (fun r => !r.taken && r.tier.isSome && (match r.line with | some l => ls.contains l | none => false))
    || s.tier.waiters.any fun w => w.1 == (getWay s k).block && (match w.2 with
      | .engine ce => !(Store.get [] s.eng.queues ce).isEmpty
      | .req _ _ => false)

/-- Begin an eviction (R293): the way's lines are recalled. (DEDUCED, log 134) -/
def startEvict (s : State) (k : Nat) (g : WayGoal) : State :=
  let w := getWay s k
  let s1 := setGoal (setWay (unplace s k) k { w with state := 5, prior := w.state }) k (some g)
  recallLines s1 (wayJob k) (wayLines s1 (wayPt s k) k)

/-- Begin a block's fill into an INVALID way (R293). -/
def startFill (s : State) (k block : Nat) (again : Bool) : State :=
  match pickDrive s block with
  | none => fillFails s block
  | some d => submit (setWay s k { block := block, state := 1 }) k d false 0 again

/-- The block leaves its way: what the way was emptied for follows. -/
def finishEvict (s : State) (k : Nat) : State :=
  let g := goalOf s k
  let s1 := markFailed (setGoal (setWay s k {}) k none) k false
  match g with
  | some (.fill b) => startFill s1 k b false
  | _ => s1

/-- A block returns to DIRTY: it could not be written back (R298). -/
def backToDirty (s : State) (k : Nat) : State :=
  let w := getWay s k
  let s1 := markFailed (setWay (dropGoal s k) k { w with state := 3, redirty := false, prior := 0 }) k true
  if windowLost s (blockWindow w.block) then strand s1 (wayPt s k) k else s1

/-- The window of a way's block is no partition's any more: nothing is left to write it to. A block under eviction leaves,
another counts as written. (DESIGN CHOICE, log 135) -/
def homeless (s : State) (k : Nat) : State :=
  if (getWay s k).state = 5 then finishEvict s k else setWay s k { getWay s k with state := 2, redirty := false }

/-- The drive of a way's window is assigned to the partition that owns its core. (DESIGN CHOICE, log 135) -/
def windowAssigned (s : State) (k : Nat) : Bool :=
  let w := blockWindow (getWay s k).block
  flag s (TIER.DRIVE_EN w) && getF s (TIER.DRIVE_PT w) == wayPt s k

/-- The lines of a way of which the write-back read is uncorrectable. (DEDUCED, log 27) -/
def badLines (s : State) (k : Nat) : List Nat := (wayLines s (wayPt s k) k).filter (lineFails s)

/-- Submit a block's write-back, given its lines that cannot be read. -/
def writebackWith (s : State) (k : Nat) (bad : List Nat) : State :=
  let w := getWay s k
  let ds := writeDrives s (blockWindow w.block)
  match bad with
  | l :: _ => backToDirty (ueRead s l false) k
  | [] =>
    if !windowAssigned s k then homeless s k
    else if ds.isEmpty then backToDirty s k
    else
      let v := (wayLines s (wayPt s k) k).foldr (fun l v => lineValue s l + 2 ^ 1024 * v) 0
      forAll ds (fun s d => submit s k d true v false) (markFailed s k false)

/-- Submit a block's write-back to every drive that holds its window (R294). A block that cannot be read stays as it was
(DEDUCED, log 27). -/
def submitWriteback (s : State) (k : Nat) : State := writebackWith s k (badLines s k)

/-- Begin a write-back that keeps the block (Table 10-3, CLEANING). -/
def startClean (s : State) (k : Nat) : State :=
  let w := getWay s k
  if w.state = 3 then
    let s1 := submitWriteback s k
    if (wayOps s1 k).isEmpty then s1 else setWay s1 k { getWay s1 k with state := 4, redirty := false }
  else s

/-- A block that is wanted out of its way leaves as soon as its fill or write-back is done and what the fill owed is
answered. -/
def pumpEmpty (s : State) (k : Nat) : State :=
  let w := getWay s k
  if goalOf s k ≠ some .empty ∨ (w.state ≠ 2 ∧ w.state ≠ 3) ∨ fillOwes s k then s
  else if w.stranded then setGoal s k none else startEvict s k .empty

/-- A block is wanted out of its way (a flush, a DROP, a key slot): evicted now, or when its fill or write-back ends. -/
def wantEmpty (s : State) (k : Nat) : State :=
  match (getWay s k).state with
  | 1 => setGoal s k (some .empty)
  | 4 => setGoal s k (some .empty)
  | 2 => if goalOf s k = some .empty then pumpEmpty s k else startEvict s k .empty
  | 3 => if goalOf s k = some .empty then pumpEmpty s k else if (getWay s k).stranded then s else startEvict s k .empty
  | _ => s

/-! Looking a block up (R289 to R292, R302). -/

/-- The PIDs that a directory entry names in a partition. -/
def namedPids (s : State) (pt : Nat) (d : DirState) : List Nat :=
  match d with
  | .unc => []
  | .sh ps => ps
  | .grp g => (upTo 4096).filter fun p => g.testBit (p / 256) && liveIn s p pt
  | .exc o => [o]
  | .fenced o => [o]

/-- One way of a lost tag line: the partners of its lines are fenced, and the way becomes INVALID (R302). -/
def loseWay (s : State) (k : Nat) : State :=
  let pt := wayPt s k
  let ls := wayLines s pt k
  let pids := (ls.flatMap fun l => namedPids s pt (dirOf s l)).eraseDups
  let b := (getWay s k).block
  let s1 := unplace (forAll pids fencePid s) k
  let s2 := forAll ls (fun s l => setDir s l .unc) s1
  let s3 := markFailed (setWay (setGoal s2 k none) k {}) k false
  fillFails { s3 with tier := { s3.tier with ops := s3.tier.ops.filter (·.way != k),
                                             waiting := s3.tier.waiting.filter (·.way != k) } } b

/-- Both copies of a tag line are uncorrectable (R302). -/
def tagsLost (s : State) (c st : Nat) : State :=
  let pt := (ownerOf s c).getD 0
  let keys := (setKeys (c * 2 ^ 20 + st / 2 * 2) ++ setKeys (c * 2 ^ 20 + st / 2 * 2 + 1)).filter
    fun k => (getWay s k).state != 0
  let s1 := forAll keys loseWay s
  let s2 := freshLine (freshLine s1 (memKey c (lineOf (tagOff st)))) (memKey c (lineOf (tagReplica st)))
  let s3 := raise (bumpF s2 (TIER.TAG_REPAIR_TAG_LOST pt)) 0x0500 4
  faultEntry s3 4 1 (some pt) 0x0500 c st

/-- The tag line of a set is read: one bad copy is rewritten from the other in the next MAINT slot (R302). -/
def checkTags (s : State) (c st : Nat) : State :=
  let l1 := memKey c (lineOf (tagOff st))
  let l2 := memKey c (lineOf (tagReplica st))
  if lineFails s l1 then
    if lineFails s l2 then tagsLost s c st
    else if (Store.get [] s.dram.repairs c).contains l1 then s
    else addRepair (ueRead s l1 false) l1
  else s

/-- A look-up's tag set: from the tag cache, where each partition has 4,096 sets for each core it owns (R42, R289), the least
recent going first; else it is read. (DESIGN CHOICE, log 136) -/
def readTags (s : State) (pt c st : Nat) : State :=
  let sk := c * 2 ^ 20 + st
  let l := Store.get [] s.tier.tagc pt
  let keep := (sk :: l.filter (· != sk)).take (4096 * (coresOf s pt).length)
  let s1 := if l.contains sk then s else checkTags s c st
  { s1 with tier := { s1.tier with tagc := Store.set [] s1.tier.tagc pt keep } }

/-- The outcome of a look-up: the key of the way that serves the access, a wait, or a failure (status for a partner,
status for an engine). -/
inductive TierAnswer where
  | way (k : Nat)
  | wait
  | fail (pst est : Nat)
  deriving DecidableEq, Repr

/-- A block's way in a set is being emptied for it already. -/
def comingWay (s : State) (sk block : Nat) : Bool := (setKeys sk).any fun k => goalOf s k == some (.fill block)

/-- Choose a victim (R292), where `dirtyOk` admits DIRTY blocks. (DESIGN CHOICE, log 19) -/
def victim (s : State) (sk : Nat) (dirtyOk : Bool) : Option Nat :=
  let ok := fun st w => (getWay s (sk * 8 + w)).state == st && !(getWay s (sk * 8 + w)).stranded
    && (goalOf s (sk * 8 + w)).isNone
  match (upTo 8).find? (fun w => (getWay s (sk * 8 + w)).state == 0) with
  | some w => some w
  | none => match plruVictim s sk (ok 2) with
    | some w => some w
    | none => if dirtyOk then plruVictim s sk (ok 3) else none

/-- Start to bring a block in (R292, R293). -/
def startMiss (s : State) (sk block : Nat) (who : Option TierWaiter) : TierAnswer × State :=
  if (setKeys sk).all fun k => (getWay s k).stranded then (.fail 13 38, s)
  else if (pickDrive s block).isNone then (.fail 6 38, s)
  else match victim s sk who.isSome with
    | none => (.wait, s)
    | some w =>
      let k := sk * 8 + w
      let s1 := match who with | some x => addWaiter s block x | none => s
      (.wait, if (getWay s k).state ≠ 0 then startEvict s1 k (.fill block) else startFill s1 k block false)

/-- An access joins the fill that is under way for its block, counted once (R45). -/
def mergeFill (s : State) (pt block : Nat) (who : TierWaiter) : State :=
  if s.tier.waiters.contains (block, who) then s else addWaiter (bumpF s (TIER.MERGED_COUNT pt)) block who

/-- Where an access finds its block (R287 to R293, R45). What it had waited for, it has. (DEDUCED, log 65) -/
def tierFind (s0 : State) (pt block : Nat) (who : TierWaiter) : TierAnswer × State :=
  match blockHome s0 pt block with
  | none => (.wait, s0)
  | some (c, st) =>
    if !flag s0 TIER.TIER_CTL_EN || s0.parts.failing.getLsbD c then (.wait, s0)
    else if !coreUp s0 c then (.fail 4 4, s0)
    else
      let s := readTags s0 pt c st
      match findWay s pt block with
      | some k =>
        match (getWay s k).state with
        | 1 => (.wait, promote (mergeFill s pt block who) k)
        | 5 => (.wait, s)
        | _ => (.way k, { s with tier := { s.tier with waiters := s.tier.waiters.filter (· != (block, who)) } })
      | none =>
        if comingWay s (c * 2 ^ 20 + st) block then (.wait, mergeFill s pt block who)
        else startMiss s (c * 2 ^ 20 + st) block (some who)

/-- Look a block up for one 128-byte access: a resident block's is counted (R288, R307). (DEDUCED, log 65) -/
def tierLook (s : State) (pt block : Nat) (who : TierWaiter) : TierAnswer × State :=
  match tierFind s pt block who with
  | (.way k, s1) => (.way k, accessWay (wrapF s1 (TIER.HITS pt) 1) k)
  | r => r

/-- A stored tier-space request reaches the tier controller (R291). -/
def doTierAccess (s : State) (pid tag : Nat) : State :=
  match s.net.store.find? fun r => r.pid == pid && r.tag == tag && !r.taken && r.tier.isSome && r.line.isNone with
  | none => s
  | some r =>
    let a := r.tier.getD 0
    match tierLook s r.pt (a / 4096) (.req pid tag) with
    | (.way k, s1) => setReq s1 { r with line := some (wayLine s1 r.pt k + lineOf (a % 4096)) }
    | (.wait, s1) => s1
    | (.fail p _, s1) => refuse s1 r 16 p 0

/-- TIER_ACCESS (R291). -/
def execTierAccess (pid : Pid) (tag : Nat) (s : State) : Host.Outcome State Fault Refusal :=
  .next (whenAlive s (doTierAccess · pid tag))

/-- TIER_WAY_WAIT (R292): a waiting access looks again. (DEDUCED, log 65) -/
def execTierWayWait (pid : Pid) (tag : Nat) (s : State) : Host.Outcome State Fault Refusal :=
  .next (whenAlive s (doTierAccess · pid tag))

/-- A prefetch hint for a block (R296). -/
def tierHint (s : State) (pt block : Nat) : State :=
  match blockHome s pt block with
  | none => s
  | some (c, st) =>
    let sk := c * 2 ^ 20 + st
    if !flag s TIER.TIER_CTL_EN || !flag s TIER.TIER_CTL_HINT_EN then s
    else if (findWay s pt block).isSome || comingWay s sk block then s
    else if decide (getF s TIER.HINT_LIMIT_OPS ≤ opsNow s) || (victim s sk false).isNone then
      bumpF s (TIER.HINTS_DROPPED_COUNT pt)
    else match startMiss s sk block none with
      | (.fail _ _, s1) => bumpF s1 (TIER.HINTS_DROPPED_COUNT pt)
      | (_, s1) => s1

/-! The ends of recalls, fills and write-backs (R293, R294). -/

/-- The way of a command's operands. -/
def wayArg (core set way : Nat) : Nat := wayKey core (set % 2 ^ 20) (way % 8)

/-- A victim's lines are recalled: a dirty block is written back, a clean one leaves. For a way that still waits to be
emptied, its recalls begin once nothing is owed. -/
def doEvictRecallDone (s : State) (k : Nat) : State :=
  if (getWay s k).state ≠ 5 then pumpEmpty s k
  else if recalling s (wayJob k) || !(wayOps s k).isEmpty then s
  else if (getWay s k).prior = 3 then submitWriteback s k
  else finishEvict s k

/-- EVICT_RECALL_DONE (R293). -/
def execEvictRecallDone (core : Core) (set way : Nat) (s : State) : Host.Outcome State Fault Refusal :=
  .next (whenAlive s (doEvictRecallDone · (wayArg core set way)))

/-- Take the operations of a command away. -/
def dropCmd (s : State) (cmd : Nat) : State := { s with tier := { s.tier with ops := s.tier.ops.filter (·.cmd != cmd) } }

/-- A drive has answered in time. -/
def answered (s : State) (d : Nat) : State := { s with tier := { s.tier with slow := Store.del s.tier.slow d } }

/-- A fill's data have come (R293): 32 lines, directory entries UNC, the way CLEAN; the merged accesses are served before
the block may leave (R45). -/
def fillDone (s : State) (o : TierOp) : State :=
  let k := o.way
  let pt := wayPt s k
  let b := (getWay s k).block
  let v := flashRead s k o.drive
  let s1 := forAll (upTo 32) (fun s i =>
    let l := wayLine s pt k + i * 128
    setDir (storeLine s l (v / 2 ^ (1024 * i) % 2 ^ 1024) fullMask) l .unc) s
  let s2 := wrapF (wrapF s1 (TIER.FILLS pt) 1) (PCIE.RD o.drive) 1
  pumpEmpty (serveWaiters (setWay s2 k { getWay s2 k with state := 2 }) k b) k

/-- The operation of a way on a drive. -/
def opOf (s : State) (k drive : Nat) (write : Bool) : Option TierOp :=
  s.tier.ops.find? fun o => o.way == k && o.drive == drive && o.write == write

/-- An NVMe read completes. -/
def doFillComplete (s : State) (k : Nat) : State :=
  match s.tier.ops.find? fun o => o.way == k && !o.write with
  | none => s
  | some o =>
    let all := s.tier.ops.filter (·.cmd == o.cmd)
    pumpOps (forAll all fillDone (answered (dropCmd s o.cmd) o.drive))

/-- FILL_COMPLETE (R293). -/
def execFillComplete (core : Core) (set way : Nat) (s : State) : Host.Outcome State Fault Refusal :=
  .next (whenAlive s (doFillComplete · (wayArg core set way)))

/-- Every drive has reported a block's write-back (R294). -/
def writebackDone (s : State) (k : Nat) : State :=
  let w := getWay s k
  let s1 := wrapF s (TIER.WB (wayPt s k)) 1
  if w.state = 5 then finishEvict s1 k
  else
    pumpEmpty (setWay s1 k { w with state := if w.redirty then 3 else 2, redirty := false }) k

/-- A drive reports a write. -/
def writeReported (s : State) (o : TierOp) : State :=
  let s1 := wrapF (flashWrite s (wayPt s o.way) (getWay s o.way).block o.drive o.data) (PCIE.WR o.drive) 1
  if (wayOps s1 o.way).isEmpty then writebackDone s1 o.way else s1

/-- An NVMe write completes on a drive. -/
def doWritebackComplete (s : State) (k drive : Nat) : State :=
  match opOf s k drive true with
  | none => s
  | some o =>
    let all := s.tier.ops.filter (·.cmd == o.cmd)
    pumpOps (forAll all writeReported (answered (dropCmd s o.cmd) o.drive))

/-- WRITEBACK_COMPLETE (R294). -/
def execWritebackComplete (core : Core) (set way : Nat) (drive : Root) (s : State) : Host.Outcome State Fault Refusal :=
  .next (whenAlive s (doWritebackComplete · (wayArg core set way) drive))

/-! Failures and loss (R298 to R301). -/

/-- A block's operation is lost with its drive: a read goes to the pair's other drive or fails; a write-back completes on
the other drive, or leaves the block DIRTY. -/
def opLost (s : State) (o : TierOp) : State :=
  let b := (getWay s o.way).block
  if o.write then
    if !(wayOps s o.way).isEmpty then s
    else if windowPaired s (blockWindow b) && !(writeDrives s (blockWindow b)).isEmpty then writebackDone s o.way
    else backToDirty s o.way
  else match pickDrive s b with
    | some d => submit s o.way d false 0 true
    | none => fillFails (setGoal (setWay s o.way {}) o.way none) b

/-- A drive leaves its partition: no way is stranded on its window any more (R292, R300). -/
def releaseWindow (s : State) (d : Nat) : State :=
  let w := if flag s (TIER.DRIVE_PAIR (d / 2 * 2)) then d / 2 * 2 else d
  forAll (s.tier.ways.filter fun e => e.2.stranded && blockWindow e.2.block == w)
    (fun s e => setWay s e.1 { getWay s e.1 with stranded := false })
    { s with tier := { s.tier with lostOf := Store.del s.tier.lostOf (d / 2 * 2) } }

/-- The DIRTY blocks of a window that no drive holds become STRANDED (R300). -/
def strandWindow (s : State) (w : Nat) : State :=
  forAll (s.tier.ways.filter fun e => e.2.state == 3 && blockWindow e.2.block == w)
    (fun s e => strand s (wayPt s e.1) e.1) s

/-- A drive is declared lost (R299 to R301). -/
def driveLost (s : State) (d reason : Nat) : State :=
  if getF s (PCIE.DRV_STS_STATE d) = 4 then s
  else
    let base := d / 2 * 2
    let paired := windowPaired s base
    let other := base + 1 - d % 2
    let s0 := { s with tier := { s.tier with gone := d :: s.tier.gone.filter (· != d) } }
    let s1 := setF (setF s0 (PCIE.DRV_STS_STATE d) 4) (PCIE.DRV_STS_REASON d) reason
    let s2 := raise (raise s1 (0x0510 + d) 2) 0x0500 0
    let pt := if flag s (TIER.DRIVE_EN d) then some (getF s (TIER.DRIVE_PT d)) else none
    let s3 := faultEntry s2 25 2 pt (0x0510 + d) d reason
    let s4 := if paired && driveReady s3 other && (degradedBy s3 base).isNone then
        raise { s3 with tier := { s3.tier with lostOf := Store.set 0 s3.tier.lostOf base (d + 1) } } 0x0500 1
      else s3
    let s5 := if s4.tier.rebuild = some d ∨ s4.tier.rebuild = some other ∧ paired then
        setB { s4 with tier := { s4.tier with rebuild := none } } TIER.REBUILD_STS_BUSY false
      else s4
    let gone := (s5.tier.ops ++ s5.tier.waiting).filter (·.drive == d)
    let s6 := { s5 with tier := { s5.tier with ops := s5.tier.ops.filter (·.drive != d),
                                               waiting := s5.tier.waiting.filter (·.drive != d),
                                               slow := Store.del s5.tier.slow d } }
    let s7 := pumpOps (forAll gone opLost s6)
    let w := if paired then base else d
    if windowLost s7 w then strandWindow s7 w else s7

/-- The blocks of one command are tried again: a read of a pair on the other drive (R298). Each goes by the host engine, as
any other does (R294). -/
def retryOps (s : State) (d : Nat) (os : List TierOp) : State :=
  let again := os.map fun o =>
    let w := blockWindow (getWay s o.way).block
    let other := w + (1 - d % 2)
    let d' := if !o.write && windowPaired s w && (readDrives s w).contains other then other else d
    { o with again := true, hint := false, drive := d', slot := 2 ^ 64 }
  pumpOps { s with tier := { s.tier with waiting := s.tier.waiting ++ again } }

/-- A command that has been retried fails again (R298). -/
def secondFailure (s : State) (d : Nat) (os : List TierOp) : State :=
  match os with
  | [] => s
  | o :: _ =>
    if o.write then
      if windowPaired s (blockWindow (getWay s o.way).block) then
        driveLost { s with tier := { s.tier with ops := s.tier.ops ++ os } } d 8
      else forAll os (fun s o => backToDirty s o.way) s
    else forAll os (fun s o => fillFails (setGoal (setWay s o.way {}) o.way none) (getWay s o.way).block) s

/-- An NVMe command fails, or times out and is aborted (R298, R299). -/
def doCommandFail (s : State) (k drive : Nat) (timeout : Bool) : State :=
  match s.tier.ops.find? fun o => o.way == k && o.drive == drive with
  | none => s
  | some o =>
    let os := s.tier.ops.filter (·.cmd == o.cmd)
    let s1 := bumpF s (if timeout then PCIE.ERRORS_TIMEOUT drive else PCIE.ERRORS_CMD drive)
    let s2 := faultEntry s1 25 1 (some (wayPt s k)) (0x0510 + drive) drive o.lba
    let n := if timeout then Store.get 0 s2.tier.slow drive + 1 else 0
    let s3 := { s2 with tier := { s2.tier with slow := Store.set 0 s2.tier.slow drive n } }
    if 3 ≤ n then driveLost s3 drive 7
    else
      let s4 := dropCmd s3 o.cmd
      if o.again then pumpOps (secondFailure s4 drive os) else retryOps s4 drive os

/-- NVME_TIMEOUT (R298). -/
def execNvmeTimeout (core : Core) (set way : Nat) (drive : Root) (s : State) : Host.Outcome State Fault Refusal :=
  .next (whenAlive s (doCommandFail · (wayArg core set way) drive true))

/-- NVME_COMMAND_FAIL (R298). -/
def execNvmeCommandFail (core : Core) (set way : Nat) (drive : Root) (s : State) : Host.Outcome State Fault Refusal :=
  .next (whenAlive s (doCommandFail · (wayArg core set way) drive false))

/-- A drive that is up is declared lost (R299); one whose sanitize this cuts short needs another (R408). -/
def driveFails (s : State) (d reason : Nat) : State :=
  match getF s (PCIE.DRV_STS_STATE d) with
  | 2 => driveLost s d reason
  | 3 => driveLost s d reason
  | 5 => driveLost { s with tier := { s.tier with unclean := d :: s.tier.unclean } } d reason
  | _ => s

/-- A root port's link goes down (R299, R308). -/
def doRootDown (s : State) (d : Nat) : State :=
  if flag s (PCIE.LINK_STS_UP d) then driveFails (raise (setB s (PCIE.LINK_STS_UP d) false) (0x0510 + d) 0) d 5 else s

/-- ROOT_LINK_DOWN (R299). -/
def execRootLinkDown (root : Root) (s : State) : Host.Outcome State Fault Refusal := .next (whenAlive s (doRootDown · root))

/-- REBUILD_CMD.GO (R301). -/
def doRebuild (s : State) (d : Nat) : State :=
  if s.tier.rebuild.isNone && windowPaired s d && degradedBy s d == some d && driveReady s d
      && !(readDrives s (d / 2 * 2)).isEmpty then
    let s1 := setB (setB s TIER.REBUILD_STS_REFUSED false) TIER.REBUILD_STS_BUSY true
    { setF s1 TIER.REBUILD 0 with tier := { s1.tier with rebuild := some d } }
  else setB s TIER.REBUILD_STS_REFUSED true

/-- REBUILD_GO (R301). -/
def execRebuildGo (port : Root) (s : State) : Host.Outcome State Fault Refusal := .next (whenAlive s (doRebuild · port))

/-- LBAs of a pair's window. -/
def pairLbas (s : State) (base : Nat) : Nat := min (Store.get 0 s.tier.size base) (Store.get 0 s.tier.size (base + 1)) * 262144

/-- A rebuild has copied the LBAs below `p` (R301): the new drive holds them as the survivor does, and both drives count
their blocks (R308). (DESIGN CHOICE, log 137) -/
def copyTo (s : State) (d p : Nat) : State :=
  let other := d / 2 * 2 + 1 - d % 2
  let from0 := getF s TIER.REBUILD
  let in0 := fun (x a : Nat) => a / 2 ^ 31 == x && decide (from0 ≤ a % 2 ^ 31 ∧ a % 2 ^ 31 < p)
  let kept := s.tier.flash.filter fun e => !in0 d e.1
  let copy := (s.tier.flash.filter fun e => in0 other e.1).map fun e => (d * 2 ^ 31 + e.1 % 2 ^ 31, e.2)
  let fl := copy.foldl (fun m e => Store.set {} m e.1 e.2) kept
  let s1 := wrapF (wrapF { s with tier := { s.tier with flash := fl } } (PCIE.RD other) (p - from0)) (PCIE.WR d) (p - from0)
  setF s1 TIER.REBUILD (max p from0)

/-- How far a running rebuild has come shows when REBUILD_LO is read: no rule gives its pace, so that it is a free value
between what was shown before and the whole window. (DESIGN CHOICE, log 137) -/
def rebuildSeen (s : State) : State :=
  match s.tier.rebuild with
  | none => s
  | some d =>
    let n := pairLbas s (d / 2 * 2)
    let done := getF s TIER.REBUILD
    let (v, s1) := freeNat s 64
    copyTo s1 d (done + v % (n - done + 1))

/-- The end of a rebuild (R301): the new drive holds every LBA of the window as the survivor does. -/
def doRebuildDone (s : State) : State :=
  match s.tier.rebuild with
  | none => s
  | some d =>
    let base := d / 2 * 2
    let s1 := copyTo s d (pairLbas s base)
    let t := { s1.tier with rebuild := none, lostOf := Store.del s1.tier.lostOf base }
    raise (setB { s1 with tier := t } TIER.REBUILD_STS_BUSY false) 0x0500 2

/-- REBUILD_DONE (R301). -/
def execRebuildDone (s : State) : Host.Outcome State Fault Refusal := .next (whenAlive s doRebuildDone)

/-! Flushes, sealed ranges and resets (R304, R399). -/

/-- PT_CMD.FLUSH (R304): every block of the partition is written back and evicted. -/
def doTierFlush (s : State) (pt : Nat) : State :=
  forAll (waysInUse s pt) wantEmpty (setB s (TIER.PT_STS_FLUSHING pt) true)

/-- TIER_FLUSH (R304). -/
def execTierFlush (pt : Ptn) (s : State) : Host.Outcome State Fault Refusal := .next (whenAlive s (doTierFlush · pt))

/-- A block of the partition is still being emptied. -/
def emptying (s : State) (pt : Nat) : Bool := (waysInUse s pt).any fun k => goalOf s k == some .empty

/-- The end of a flush (R304). -/
def doTierFlushDone (s : State) (pt : Nat) : State :=
  let s1 := forAll (waysInUse s pt) pumpEmpty s
  if flag s1 (TIER.PT_STS_FLUSHING pt) && !emptying s1 pt then raise (setB s1 (TIER.PT_STS_FLUSHING pt) false) 0x0500 3 else s1

/-- TIER_FLUSH_DONE (R304). -/
def execTierFlushDone (pt : Ptn) (s : State) : Host.Outcome State Fault Refusal :=
  .next (whenAlive s (doTierFlushDone · pt))

/-- The ways of a partition that hold blocks of a tier address range. -/
def rangeWays (s : State) (pt lo hi : Nat) : List Nat :=
  (waysInUse s pt).filter fun k => decide (lo ≤ (getWay s k).block * 4096 ∧ (getWay s k).block * 4096 < hi)

/-- Evict every block of a tier address range (R399). -/
def evictRange (s : State) (pt lo hi : Nat) : State := forAll (rangeWays s pt lo hi) wantEmpty s

/-- No block of a tier address range is cached. -/
def rangeEvicted (s : State) (pt lo hi : Nat) : Bool := (rangeWays s pt lo hi).isEmpty

/-- What a warm reset leaves of a way (R304). -/
def warmWay (w : Way) : Way :=
  match w.state with
  | 1 => {}
  | 4 => { w with state := 3, redirty := false }
  | 5 => { w with state := w.prior, prior := 0 }
  | _ => w

/-- A warm reset keeps tags and blocks (R304). (DESIGN CHOICE, log 136) -/
def tierWarm (s : State) : State :=
  forAll (s.tier.ways.map (·.1)) (fun s k => setWay s k (warmWay (getWay s k)))
    { s with tier := { s.tier with goals := [], ops := [], waiting := [], waiters := [], slow := [], tagc := [] } }

/-! Cache size and drives (R284 to R287, R305, R308). -/

/-- Every frame that a cache of `g` GiB would take is free (R287). -/
def cacheFits (s : State) (pt g : Nat) : Bool :=
  let cs := coresOf s pt
  s.xlt.frames.all fun e => !(cs.contains (e.1 / 2 ^ 20) && decide (mappable - g * 2 ^ 30 ≤ e.1 % 2 ^ 20 * 65536)
    && e.2 != .none)

/-- A write of PT_CACHE (R287, R305). -/
def doCacheWrite (s : State) (pt g : Nat) : State :=
  if 32 < g % 64 || !tierEmpty s pt || !cacheFits s pt (g % 64) then setB s (TIER.PT_STS_REFUSED pt) true
  else setF (setB s (TIER.PT_STS_REFUSED pt) false) (TIER.PT_CACHE_GIB pt) (g % 64)

/-- PT_CACHE_WRITE (R287). -/
def execPtCacheWrite (pt : Ptn) (gib : Nat) (s : State) : Host.Outcome State Fault Refusal :=
  .next (whenAlive s (doCacheWrite · pt gib))

/-- A scrub holds the drive. -/
def driveScrubbed (s : State) (d : Nat) : Bool :=
  s.parts.scrubs.any fun e => match e.2 with | some x => x.drives.contains d | none => false

/-- A write of TIER.DRIVEn may take effect (R284, R405, R408; DEDUCED, log 28). A first drive in profile S needs a fresh key
(R384). -/
def driveOk (s : State) (d v : Nat) : Bool :=
  let pt := v % 16
  let en := v.testBit 4
  let pair := v.testBit 5 && d % 2 == 0
  let was := flag s (TIER.DRIVE_EN d)
  let same := was == en && (!en || getF s (TIER.DRIVE_PT d) == pt)
  let fresh := !was && en && driveReady s d && !s.tier.unclean.contains d && !driveScrubbed s d
  let pairOk := !pair || (en && flag s (TIER.DRIVE_EN (d + 1)) && getF s (TIER.DRIVE_PT (d + 1)) == pt)
  let pairKept := d % 2 == 1 || pair == flag s (TIER.DRIVE_PAIR d) || tierEmpty s pt
  let keyOk := was || !en || !profileS s || !trngFailed s || Store.get 0 s.sec.tk pt != 0
  (same || fresh) && pairOk && pairKept && keyOk

/-- A write of TIER.DRIVEn (R284). PT_STS.REFUSED of the partition that it names reports. (DEDUCED, log 28) -/
def doDriveAssign (s : State) (d v : Nat) : State :=
  let pt := v % 16
  if driveOk s d v then
    let s1 := setB (setF (setB s (TIER.PT_STS_REFUSED pt) false) (TIER.DRIVE_PT d) pt) (TIER.DRIVE_EN d) (v.testBit 4)
    let s2 := setB s1 (TIER.DRIVE_PAIR d) (v.testBit 5 && d % 2 == 0)
    if v.testBit 4 && !flag s (TIER.DRIVE_EN d) then bumpConfigGen (newTierKey s2 pt) pt else s2
  else setB s (TIER.PT_STS_REFUSED pt) true

/-- DRIVE_ASSIGN (R284). -/
def execDriveAssign (root : Root) (value : Nat) (s : State) : Host.Outcome State Fault Refusal :=
  .next (whenAlive s (doDriveAssign · root value))

/-- PERST_N of root port `d` goes high or low (R510). (DESIGN CHOICE, log 149) -/
def setPerst (s : State) (d : Nat) (up : Bool) : State :=
  let p := s.input.perst &&& ~~~(BitVec.twoPow 16 d)
  { s with input := { s.input with perst := if up then p ||| BitVec.twoPow 16 d else p } }

/-- PORT_CMD.RESET (R308, R510): accepted only when the drive is unassigned, REJECTED or LOST. PERST_N goes low for 1 ms,
and the port then retrains. (DESIGN CHOICE, log 149) -/
def doPortReset (s : State) (d : Nat) : State :=
  let st := getF s (PCIE.DRV_STS_STATE d)
  if !s.boot.badRoots.getLsbD d && (!flag s (TIER.DRIVE_EN d) || st == 3 || st == 4) then
    setPerst (setF (setF (setB s (PCIE.LINK_STS_UP d) false) (PCIE.DRV_STS_STATE d) 1) (PCIE.DRV_STS_REASON d) 0) d false
  else s

/-- PORT_RESET (R308). -/
def execPortReset (root : Root) (s : State) : Host.Outcome State Fault Refusal := .next (whenAlive s (doPortReset · root))

/-- The requirement of Table 10-1 that a drive fails, as the code of PCIE.DRV_STS.REASON; one without a code shows as 0.
(DESIGN CHOICE, log 138) -/
def driveRefusal (i : DriveId) : Option Nat :=
  if !i.active || i.lbaBytes != 4096 || i.metadata != 0 then some 1
  else if decide (i.adminPairs < 1 ∨ i.ioPairs < 4 ∨ i.entries < 256) then some 2
  else if !i.cryptoErase then some 3
  else if i.mdtsKiB < 128 then some 4
  else if !i.nvme2 then some 0
  else none

/-- A root port has trained to the highest rate and the widest width that the drive supports too, in FLIT mode where it
can, and has enumerated the drive (R285): READY, or REJECTED with the reason. A drive that supports no rate or width
does not link up. (DESIGN CHOICE, log 149) -/
def doDriveReady (s : State) (d rate lanes : Nat) (flit : Bool) (id : DriveId) (lbas : Nat) : State :=
  let speed := min rate 6
  let width := if 4 ≤ lanes then 4 else if 2 ≤ lanes then 2 else lanes
  if getF s (PCIE.DRV_STS_STATE d) ≠ 1 ∨ speed = 0 ∨ width = 0 then s
  else
    let s1 := setB (setF (setF (setB (setPerst s d true) (PCIE.LINK_STS_UP d) true) (PCIE.LINK_STS_SPEED d) speed) (PCIE.LINK_STS_WIDTH d) width)
      (PCIE.LINK_STS_FLIT d) flit
    match driveRefusal id with
    | some r => raise (setF (setF s1 (PCIE.DRV_STS_STATE d) 3) (PCIE.DRV_STS_REASON d) r) (0x0510 + d) 1
    | none =>
      let s2 := setF (setF s1 (PCIE.DRV_STS_STATE d) 2) (PCIE.NS d) lbas
      { s2 with tier := { s2.tier with size := Store.set 0 s2.tier.size d (min (lbas / 262144) 8192),
                                       gone := s2.tier.gone.filter (· != d) } }

/-- DRIVE_READY (R285). -/
def execDriveReady (root : Root) (rate lanes : Nat) (flit : Bool) (id : DriveId) (lbas : Nat) (s : State) :
    Host.Outcome State Fault Refusal :=
  .next (whenAlive s (doDriveReady · root rate lanes flit id lbas))

/-- A drive's request: one outside its private space is counted, and so are the correctable errors that came with it (R286,
R308). (DESIGN CHOICE, log 120) -/
def execDriveRequest (root : Root) (req : DriveReq) (s : State) : Host.Outcome State Fault Refusal :=
  .next (whenAlive s fun s0 =>
    let s := addF s0 (PCIE.AER_CORRECTABLE root) req.errors
    if req.outside then bumpF s (PCIE.AER_UNCORRECTABLE root) else s)

end Sys2Proof.Machine
end

