-- ==== Sys2Proof/Machine/CoreLost.lean ====
section
/-!
DEFINITION. The loss of a stack core (R19 to R26): the declaration, what is discarded and what is answered, and the
fail-over of a mirrored pair.
-/

namespace Sys2Proof.Machine

/-- Entries of a store whose key lies in block `p` of 2^w keys are moved to block `q`. -/
def rekey {α : Type} (w p q : Nat) (m : Store α) : Store α :=
  let keep := m.filter fun e => e.1 / 2 ^ w != p
  (m.filter fun e => e.1 / 2 ^ w == p).foldl (fun a e => Store.ins a (q * 2 ^ w + e.1 % 2 ^ w) e.2) keep

/-- Entries of a store whose key lies in block `p` are dropped. -/
def unkey {α : Type} (w p : Nat) (m : Store α) : Store α := m.filter fun e => e.1 / 2 ^ w != p

/-- A key of block `p` in block `q`. -/
def moveKey (w p q k : Nat) : Nat := if k / 2 ^ w = p then q * 2 ^ w + k % 2 ^ w else k

/-- The region a core serves is kept by the other core of its pair: the primary of that pair (R23, R24). -/
def wholePairOf (s : State) (c : Nat) : Option Nat :=
  if (secondaryOf s c).isSome && pairWhole s c then some c
  else (upTo 16).find? fun p => secondaryOf s p == some c && pairWhole s p

/-- The answer to a stored request waits to leave. -/
def answerWaits (s : State) (r : Req) : Bool :=
  let mine := fun (x : Sending) => x.frees == some (r.pid, r.tag)
  !isWb r.op && ((s.net.egress.any fun e => e.2.any mine) || s.net.waiting.any fun w => mine w.2)

/-- The requests for lines of a lost core that have no answer yet are answered HOME_LOST (R21). -/
def refuseLost (s : State) (c : Nat) : State :=
  let gone := s.net.store.filter fun r => (match r.line with | some l => lineCore l == c | none => false) && !answerWaits s r
  forAll gone (fun s r => refuse s r 16 4 0) s

/-- The engines, other than its own, whose requests a lost core's slice held: their tiles fail with HOME_LOST. -/
def failEngines (s : State) (c : Nat) : State :=
  let rs := (s.coh.txns.filter fun e => lineCore e.1 == c).flatMap fun e => match e.2 with
    | some t => t.req :: t.queue
    | none => []
  let fs := rs.filterMap fun r => match r.agent with
    | .engine ce => some (ce, 4, r.pva)
    | _ => none
  { s with coh := { s.coh with engFail := s.coh.engFail ++ fs } }

/-- The lines homed on a lost core have no home: their directory state, cached tier blocks and requests go. -/
def loseRegion (s : State) (c : Nat) : State :=
  let s1 := failEngines (refuseLost s c) c
  let s2 := { s1 with coh := { s1.coh with dir := unkey 36 c s1.coh.dir, txns := unkey 36 c s1.coh.txns,
                                           dcache := unkey 11 c s1.coh.dcache } }
  { s2 with tier := { s2.tier with ways := unkey 23 c s2.tier.ways, plru := unkey 20 c s2.tier.plru,
                                   goals := unkey 23 c s2.tier.goals,
                                   ops := s2.tier.ops.filter (fun o => wayCore o.way != c),
                                   waiting := s2.tier.waiting.filter fun o => wayCore o.way != c } }

/-- The measurements that run on a lost core end with CORE_LOST (R402). (DEDUCED, log 97) -/
def loseImages (s : State) (c : Nat) : State :=
  let imgs := ((s.eng.shares.filter fun h => h.core == c).filterMap (·.img))
    ++ ((s.eng.fifos.filter fun f => f.1 / 16 == c).flatMap fun f => f.2.filterMap (·.img))
  { s with sec := { s.sec with imgStatus := imgs.foldl (fun m k => Store.set 0 m k 40) s.sec.imgStatus } }

/-- What a lost core's sequencers, engines and DRAM queues held is discarded (R20, R22). -/
def discardWork (s : State) (c : Nat) : State :=
  let e := s.eng
  let led := (e.shares.filter fun h => h.lead == c).map (·.job)
  let e1 := { e with fifos := unkey 4 c e.fifos, mark := Store.del e.mark c, markCmd := Store.del e.markCmd c,
                     ready := unkey 1 c e.ready, queues := unkey 4 c e.queues, colls := Store.del e.colls c }
  let e2 := { e1 with inject := unkey 4 c e1.inject, resident := unkey 4 c e1.resident, testing := Store.del e1.testing c,
                      recs := e1.recs.filter (·.core != c), reports := e1.reports.filter fun r => !led.contains r.job }
  let d := { s.dram with queues := unkey 6 c s.dram.queues, tags := unkey 6 c s.dram.tags,
                         repairs := Store.del s.dram.repairs c, wbq := Store.del s.dram.wbq c }
  let coh := { s.coh with engFail := s.coh.engFail.filter fun f => f.1 / 16 != c }
  let x := { s.xlt with l2 := Store.del s.xlt.l2 c, etlb := unkey 4 c s.xlt.etlb }
  let t := { s.tier with waiters := s.tier.waiters.filter fun w => match w.2 with | .engine ce => ce / 16 != c | _ => true }
  { s with eng := e2, dram := d, coh := coh, xlt := x, tier := t }

/-- The lead's report for a lost core of its mask (R154): the core's lowest tile not done is one of `outs`, or the next
to fall to it from index `emitted` on; the lead finds it when it has expanded so far. (DEDUCED, log 79) -/
def lostReport (h : Share) (outs : List Nat) : Report :=
  let t := (least outs).getD h.emitted
  let fail := match h.fail with
    | some f => if f.tile < t then { f with status := 39 } else { tile := t, below := 0, status := 39, open_ := true }
    | none => { tile := t, below := 0, status := 39, open_ := true }
  { job := h.job, core := h.core, fail := some fail, mine := h.mine, flags := h.flags, tally := h.tally,
    start := h.start, fin := h.fin }

/-- Indices of the tiles of a job that a core holds and has not done. -/
def tilesHeld (s : State) (core job : Nat) : List Nat :=
  ((upTo 2).flatMap fun x => ((Store.get [] s.eng.ready (core * 2 + x)).filter (·.job == job)).map (·.t))
    ++ ((upTo 16).flatMap fun e => ((Store.get [] s.eng.queues (core * 16 + e)).filter (·.job == job)).map (·.t))

/-- The leads that still run learn that a core of their masks is lost (R22, R154). A share that has reported keeps its
report. -/
def reportLost (s : State) (c : Nat) : State :=
  let mineHere := s.eng.shares.filter fun h => h.core == c && h.lead != c && h.phase != 4
  let unsent := s.eng.shares.filter fun h => h.core == h.lead && h.core != c && h.toSend.contains c
  let rs := mineHere.map (fun h => lostReport h (tilesHeld s c h.job))
    ++ unsent.map (fun h => lostReport { job := h.job, core := c, lead := h.lead, pt := h.pt, desc := h.desc } [])
  let shares := (s.eng.shares.filter fun h => h.core != c).map fun h => { h with toSend := h.toSend.filter (· != c) }
  { s with eng := { s.eng with reports := s.eng.reports ++ rs, shares := shares } }

/-- Declare a stack core lost (R19, R20): `code` is that of Table 15-8. (DEDUCED, log 79) -/
def declareLost (s : State) (c code : Nat) : State :=
  if !coreUp s c then s
  else
    let pt := ownerOf s c
    let pair := wholePairOf s c
    let s1 := raise (setBitF s TOP.CORE_MAP_LOST c true) 0x0000 5
    let s2 := faultEntry s1 1 code pt 0x0030 c (pt.getD 0)
    let s3 := match pt with
      | none => s2
      | some p =>
        let s3 := forAll ((upTo 4096).filter fun x => liveIn s2 x p) (fun s x => sendMgmt s x 0x72 8 c) s2
        bumpConfigGen (recordDx 8 { s3 with parts := { s3.parts with lostOne := s3.parts.lostOne ||| BitVec.ofNat 16 (2 ^ p) } } p) p
    let s4 := discardWork (reportLost (loseImages s3 c) c) c
    match pair with
    | some p =>
      { s4 with parts := { s4.parts with broken := s4.parts.broken ||| BitVec.ofNat 16 (2 ^ p),
                                         failing := s4.parts.failing ||| BitVec.ofNat 16 (2 ^ p) } }
    | none => loseRegion s4 c

/-- The line of a request on a lost primary, and the way of an eviction's recall, become the survivor's.
(DEDUCED, log 77) -/
def moveReq (p q : Nat) (r : Req) : Req :=
  { r with line := r.line.map (moveKey 36 p q)
           agent := match r.agent with
             | .recall j => if 2 ^ 24 ≤ j then .recall (2 ^ 24 + moveKey 23 p q (j - 2 ^ 24)) else r.agent
             | a => a }

/-- Everything that names the lines of a lost primary names the survivor's (R24, R115). (DEDUCED, log 158) -/
def moveRegion (s : State) (p q : Nat) : State :=
  let mk := moveKey 36 p q
  let tx := fun (t : Option Txn) => t.map fun t =>
    { t with req := moveReq p q t.req, held := t.held.map (moveReq p q), queue := t.queue.map (moveReq p q) }
  let dc := (s.coh.dcache.map fun e => (e.1, e.2.map fun b => (moveKey 24 p q b.1, b.2)))
  let coh := { s.coh with dir := rekey 36 p q s.coh.dir, txns := rekey 36 p q (s.coh.txns.map fun e => (e.1, tx e.2)),
                          dcache := rekey 11 p q dc }
  let t := { s.tier with ways := rekey 23 p q s.tier.ways, plru := rekey 20 p q s.tier.plru,
                         goals := rekey 23 p q s.tier.goals,
                         ops := s.tier.ops.map (fun o => { o with way := moveKey 23 p q o.way }),
                         waiting := s.tier.waiting.map (fun o => { o with way := moveKey 23 p q o.way }),
                         failed := s.tier.failed.map (moveKey 23 p q) }
  let til := fun (x : Tile) => { x with out := x.out.map (fun o => (mk o.1, o.2)), lines := x.lines.map mk }
  let e := { s.eng with queues := s.eng.queues.map (fun k => (k.1, k.2.map til)),
                        recs := s.eng.recs.map fun r => { r with issued := r.issued.map mk } }
  { s with coh := coh, tier := t, eng := e
           xlt := { s.xlt with frames := rekey 20 p q s.xlt.frames }
           net := { s.net with store := s.net.store.map (moveReq p q) } }

/-- The fail-over of one region ends: the survivor is its home (R24). (DEDUCED, log 77) (DEDUCED, log 158) -/
def failover (s : State) (p : Nat) : State :=
  let s1 := { s with parts := { s.parts with failing := s.parts.failing &&& ~~~ BitVec.ofNat 16 (2 ^ p) } }
  match secondaryOf s p with
  | none => s1
  | some q =>
    if !lostCore s p then s1
    else if coreUp s q then
      let s2 := noteBusy (moveRegion s1 p q) q
      { s2 with parts := { s2.parts with home := Store.set 0 s2.parts.home p (q + 1) } }
    else loseRegion s1 p

/-- MIRROR_FAILOVER_DONE (R24): the regions of the partition whose fail-over runs. -/
def doMirrorFailoverDone (s : State) (pt : Nat) : State :=
  forAll ((upTo 16).filter fun p => s.parts.failing.getLsbD p && ownerOf s p == some pt) failover s

/-- MIRROR_FAILOVER_DONE. -/
def execMirrorFailoverDone (pt : Ptn) (s : State) : Host.Outcome State Fault Refusal :=
  .next (whenAlive s (doMirrorFailoverDone · pt))

/-- Three channels of a core that reported within one frame make it lost (R19). (DEDUCED, log 126) -/
def checkChannels (s : State) (c : Nat) : State :=
  if threeChannels (Store.get (0, 0) s.dram.chErr c).2 then declareLost s c 2 else s

end Sys2Proof.Machine
end

