-- ==== Sys2Proof/Machine/Kernels.lean ====
section
/-!
DEFINITION. What a tile computes (chapter 8): from the bytes of the streams it reads, the bytes of the streams it writes,
the arithmetic flags and its part of RESULT.
-/

namespace Sys2Proof.Machine

/-- What a tile computes: its write streams, flags, part of RESULT and hint target; `bad` where its data breach the
pattern (R229). -/
structure TileOut where
  outs  : List (Nat × Nat) := []
  flags : Nat := 0
  tally : Tally := {}
  hint  : Option Nat := none
  bad   : Bool := false
  deriving DecidableEq, Repr

/-- OR of a list of flags. -/
def orAll (l : List Nat) : Nat := l.foldl (· ||| ·) 0

/-- The bytes of FILL from write-stream offset `at0` (R219). -/
def fillBytes (d at0 n : Nat) : Nat :=
  let v := dW d 0
  if opBit0 d then packElems 64 ((upTo (n / 8)).map fun k => (v + at0 / 8 + k) % 2 ^ 64)
  else
    let m := n / 8 + 2
    (v * ((2 ^ (64 * m) - 1) / (2 ^ 64 - 1)) / 2 ^ (8 * (at0 % 8))) % 256 ^ n

/-- COMPARE over `n` bytes from stream-1 offset `at0` (R222). -/
def compareBytes (a b at0 n : Nat) : Tally :=
  let xs := ((elems 8 n a).zip (elems 8 n b)).zip (List.range n)
  let ds := xs.filter fun p => p.1.1 != p.1.2
  { first := (match ds with | p :: _ => at0 + p.2 | [] => 2 ^ 64 - 1), a := ds.length }

/-- The elements of a floating-point stream, with NAN_IN. -/
def streamNums (d : Nat) (rs : List Rows) (inp : Nat → Nat) (x : Nat) : List Num × Nat :=
  let c := (streamFmt d x).getD 0
  let n := streamElems d rs x
  let vs := readNums c n (inp x) (if isMX c then elems 8 (n / 32) (inp (x + 8)) else [])
  (vs, orAll (vs.map nanIn))

/-- Values written into the format of stream `x`, scales to stream `x + 8`; `e0` is the index of the first element. -/
def writeNums (d seed e0 x : Nat) (vs : List Num) : List (Nat × Nat) × Nat :=
  let c := (streamFmt d x).getD 0
  let (data, scales, fl) := encodeNums c (scaleRule d) (dRmode d) seed e0 vs
  (if isMX c then [(x, data), (x + 8, packElems 8 scales)] else [(x, data)], fl)

/-- QUANTIZE (R239). -/
def quantize (d seed e0 : Nat) (rs : List Rows) (inp : Nat → Nat) : TileOut :=
  let (vs, f1) := streamNums d rs inp 1
  let (o, f2) := writeNums d seed e0 0 vs
  { outs := o, flags := f1 ||| f2 }

/-- The addend streams of a reduction, ascending. -/
def addends (d : Nat) : List Nat := (if opBit0 d then [0] else []) ++ inStreams d

/-- Element `k` of each of some lists. -/
def column {α : Type} (dflt : α) (ls : List (List α)) (k : Nat) : List α := ls.map fun l => l.getD k dflt

/-- The felt partial of stream elements: FELT64 partials joined, other values added (R197, R200). -/
def feltOf (d : Nat) (rs : List Rows) (inp : Nat → Nat) (x : Nat) : List Felt × Nat :=
  let n := streamElems d rs x
  if streamFmt d x = some 24 then ((elems 512 n (inp x)).map Felt.ofBits, 0)
  else
    let (vs, fl) := streamNums d rs inp x
    (vs.map fun v => ({} : Felt).add v, fl)

/-- The accumulation of a reduction (R227): 0 FP64, 1 integer, 2 felt, 3 ordinary. -/
def reduceMode (d : Nat) (det : Bool) : Nat :=
  if inFmt d = 10 ∨ outFmt d = 10 then 0
  else if isInt (inFmt d) then 1
  else if inFmt d = 24 ∨ outFmt d = 24 ∨ dFelt d ∨ det then 2
  else 3

/-- REDUCE and REDUCE_SCATTER (R226 to R229). -/
def reduceTile (d seed e0 : Nat) (det : Bool) (rs : List Rows) (inp : Nat → Nat) : TileOut :=
  let ss := addends d
  let n := streamElems d rs 0
  let out := match reduceMode d det with
    | 1 =>
      let cols := ss.map fun x => (elems (fmtBits ((streamFmt d x).getD 16)) n (inp x)).map
        (decodeInt ((streamFmt d x).getD 16))
      let r := (upTo n).map fun k => storeInt (outFmt d) ((column 0 cols k).foldl (· + ·) 0)
      ({ outs := [(0, packElems (fmtBits (outFmt d)) (r.map (·.1)))], flags := orAll (r.map (·.2)) } : TileOut)
    | 2 =>
      let cols := ss.map (feltOf d rs inp)
      let sums := (upTo n).map fun k => (column {} (cols.map (·.1)) k).foldl Felt.join {}
      let f0 := fFelt ||| orAll (cols.map (·.2))
      if outFmt d = 24 then { outs := [(0, packElems 512 (sums.map Felt.bits))], flags := f0 }
      else
        let vs := sums.map Felt.value
        let (o, f1) := writeNums d seed e0 0 (vs.map (·.1))
        { outs := o, flags := f0 ||| f1 ||| orAll (vs.map (·.2)) }
    | m =>
      let cols := ss.map (streamNums d rs inp)
      let vs := (upTo n).map fun k =>
        let ts := column .nan (cols.map (·.1)) k
        if m = 0 then sumOrdered f64 ts else sum32 ts
      let (o, f1) := writeNums d seed e0 0 (vs.map (·.1))
      { outs := o, flags := orAll (cols.map (·.2)) ||| f1 ||| orAll (vs.map (·.2)) }
  if dOp d = 6 then { out with hint := some (inp 15 % 4096), bad := decide (4096 ≤ inp 15 % 65536) } else out

/-- The hyperparameter words of OPT_UPDATE: half `j` of W`i` as an FP32 value. -/
def hyper (d i j : Nat) : Num := f32.decode (bitsOf (dW d i) (32 * j) 32)

/-- One element of OPT_UPDATE (Table 08-8): p', m', v', whether g is NaN or infinite, and flags. -/
def optStep (d : Nat) (p g0 m v : Num) : Num × Num × Num × Bool × Nat :=
  let f := f32
  let (g, f1) := mulR f g0 (hyper d 0 0)
  let nonfin := match g with | .fin _ _ _ => false | _ => true
  let (p1, f2) := fmaR f (negNum (hyper d 0 1)) p p
  if opBit0 d then
    let (m', f3) := fmaR f (hyper d 1 1) m g
    let (p', f4) := fmaR f (negNum (hyper d 1 0)) m' p1
    (p', m', v, nonfin, orAll [f1, f2, f3, f4])
  else
    let (a, f3) := addR f m (negNum g)
    let (m', f4) := fmaR f (hyper d 1 1) a g
    let (b, f5) := mulR f g g
    let (c, f6) := addR f v (negNum b)
    let (v', f7) := fmaR f (hyper d 2 0) c b
    let (r, f8) := sqrtR f v'
    let (e, f9) := addR f r (hyper d 2 1)
    let (q, f10) := divR f m' e
    let (p', f11) := fmaR f (negNum (hyper d 1 0)) q p1
    (p', m', v', nonfin, orAll [f1, f2, f3, f4, f5, f6, f7, f8, f9, f10, f11])

/-- OPT_UPDATE (R240, R241). -/
def optTile (d seed e0 : Nat) (rs : List Rows) (inp : Nat → Nat) : TileOut :=
  let n := streamElems d rs 0
  let cols := (readStreams d).map (streamNums d rs inp)
  let r := (upTo n).map fun k =>
    let ts := column .nan (cols.map (·.1)) k
    optStep d (ts.getD 0 .nan) (ts.getD 1 .nan) (ts.getD 2 .nan) (ts.getD 3 .nan)
  let hy := (if opBit0 d then [hyper d 0 0, hyper d 0 1, hyper d 1 0, hyper d 1 1]
    else [hyper d 0 0, hyper d 0 1, hyper d 1 0, hyper d 1 1, hyper d 2 0, hyper d 2 1]).map nanIn
  let ws := (writeStreams d).zip (List.range 8)
  let os := ws.map fun x =>
    let vs := match x.1 with
      | 2 => r.map (·.2.1)
      | 3 => r.map (·.2.2.1)
      | _ => r.map (·.1)
    writeNums d seed (e0 + x.2 * n) x.1 vs
  { outs := os.flatMap (·.1)
    flags := orAll (cols.map (·.2)) ||| orAll hy ||| orAll (r.map (·.2.2.2.2)) ||| orAll (os.map (·.2))
    tally := { a := (r.filter (·.2.2.2.1)).length } }

/-- What a tile of any opcode but COLLECTIVE and TIER_MOVE computes; `inp` gives the bytes of a read stream. -/
def tileCompute (d seed : Nat) (det : Bool) (x : Tile) (inp : Nat → Nat) : TileOut :=
  let rs := x.rows
  match dOp d with
  | 1 => { outs := [(0, fillBytes d x.bytes (streamLen rs 0))] }
  | 2 => if isMcast d then {} else { outs := [(0, inp 1)] }
  | 3 => { tally := compareBytes (inp 1) (inp 2) x.in1 (streamLen rs 1) }
  | 4 => { outs := [(0, sha3 (Keccak.toBytes (streamLen rs 1) (inp 1)))], tally := { a := streamLen rs 1 } }
  | 8 => { outs := [(0, inp 1)] }
  | 9 => { outs := [(0, inp 1)] }
  | 10 => { outs := [(0, inp 1), (3, inp 2)], tally := { a := x.aux.getD 0 0 } }
  | 11 => quantize d seed x.elems rs inp
  | 12 => optTile d seed x.elems rs inp
  | _ => reduceTile d seed x.elems det rs inp

/-! COLLECTIVE (R230 to R232). -/

/-- A contribution line into the slots of a tile: elements from `j` lines on of the sender's part. -/
def collAdd (d j data : Nat) (c : CollTile) : CollTile :=
  let f := inFmt d
  let per := 128 / fmtUnit f
  (((elems (fmtBits f) per data).zip (List.range per)).foldl (fun (c : CollTile) e =>
    let k := j * per + e.2
    if isInt f then { c with ints := Store.set 0 c.ints k (Store.get 0 c.ints k + decodeInt f e.1) }
    else
      let p := (Felt.ofBits (Store.get 0 c.felts k)).add ((ffmt f).decode e.1)
      { c with felts := Store.set 0 c.felts k p.bits }) c)

/-- The rounding of a collective tile of `n` elements (R232). -/
def collTile (d seed e0 n : Nat) (c : CollTile) : TileOut :=
  if isInt (inFmt d) then
    let r := (upTo n).map fun k => storeInt (outFmt d) (Store.get 0 c.ints k)
    { outs := [(0, packElems (fmtBits (outFmt d)) (r.map (·.1)))], flags := orAll (r.map (·.2)) }
  else
    let ps := (upTo n).map fun k => Felt.ofBits (Store.get 0 c.felts k)
    let nan := if ps.any (·.nan) then fNanIn else 0
    if outFmt d = 24 then { outs := [(0, packElems 512 (ps.map Felt.bits))], flags := fFelt ||| nan }
    else
      let vs := ps.map Felt.value
      let (o, f1) := writeNums d seed e0 0 (vs.map (·.1))
      { outs := o, flags := fFelt ||| nan ||| f1 ||| orAll (vs.map (·.2)) }

end Sys2Proof.Machine
end

