-- ==== Sys2Proof/Machine/LinkBase.lean ====
section
/-!
DEFINITION. The link layer's shared parts: packets as bytes, virtual channels, hop credits, secured frames that leave
(R326, R327, R333 to R336, R340, R348, R353), and the states of partitions that transport checks.
-/

namespace Sys2Proof.Machine

/-! Partition states (R394, R395, R405). -/

/-- A scrub of the partition runs. -/
def scrubbing (s : State) (pt : Nat) : Bool := (Store.get none s.parts.scrubs pt).isSome

/-- Engines that serve no logical engine leave ENGINE_SHORT on a core. -/
def engineShort (s : State) (c : Nat) : Bool := flag s (SCORE.SPARE_STS_ENGINE_SHORT c)

/-- The state of a partition (Table 13-4): the highest-numbered row that applies. -/
def ptState (s : State) (pt : Nat) : Nat :=
  let cs := coresOf s pt
  let paired := fun c => match secondaryOf s c with
    | some _ => pairWhole s c
    | none => (upTo 16).any fun p => secondaryOf s p == some c && pairWhole s p
  if scrubbing s pt then 5
  else if s.parts.quiesced.getLsbD pt then 4
  else if s.parts.lostOne.getLsbD pt || (detOn s && cs.any (engineShort s)) then 3
  else if cs.isEmpty then 0
  else if cs.all paired then 2
  else 1

/-- The partition's partners get NOT_READY from a quiesce or a scrub. -/
def ptShut (s : State) (pt : Nat) : Bool :=
  flag s (PART.PT_STS_QUIESCING pt) || s.parts.quiesced.getLsbD pt || scrubbing s pt

/-- A deterministic run of the partition is in its cold start (R71). -/
def runOpening (s : State) (pt : Nat) : Bool :=
  match Store.get none s.runs pt with
  | some r => r.phase == 1
  | none => false

/-! Packets as bytes (Table 12-1). -/

/-- The 32-byte header as a number. (DEDUCED, log 41) -/
def packHeader (p : Packet) : Nat :=
  p.opcode % 256 + p.cls % 8 * 2 ^ 8 + p.fwded.toNat * 2 ^ 11 + p.mc.toNat * 2 ^ 12 + p.dst % 65536 * 2 ^ 16
    + p.src % 65536 * 2 ^ 32 + p.srcPid % 4096 * 2 ^ 48 + p.tag % 65536 * 2 ^ 64 + p.status % 64 * 2 ^ 80
    + p.epoch % 4 * 2 ^ 86 + p.lslot % 64 * 2 ^ 88 + p.lsv.toNat * 2 ^ 94 + p.ce.toNat * 2 ^ 95 + p.ece.toNat * 2 ^ 96
    + p.isNew.toNat * 2 ^ 97 + p.hv.toNat * 2 ^ 98 + p.len % 256 * 2 ^ 104 + p.auxPid % 4096 * 2 ^ 112
    + p.addr % 2 ^ 64 * 2 ^ 128 + p.auxNode % 65536 * 2 ^ 192 + p.auxTag % 65536 * 2 ^ 208 + p.ecred % 65536 * 2 ^ 224
    + p.ecv.toNat * 2 ^ 240

/-- A packet from its bytes as a number. -/
def unpackPacket (b : Nat) : Packet :=
  { opcode := bitsOf b 0 8, cls := bitsOf b 8 3, fwded := b.testBit 11, mc := b.testBit 12, dst := bitsOf b 16 16,
    src := bitsOf b 32 16, srcPid := bitsOf b 48 12, tag := bitsOf b 64 16, status := bitsOf b 80 6,
    epoch := bitsOf b 86 2, lslot := bitsOf b 88 6, lsv := b.testBit 94, ce := b.testBit 95, ece := b.testBit 96,
    isNew := b.testBit 97, hv := b.testBit 98, len := bitsOf b 104 8, auxPid := bitsOf b 112 12, addr := bitsOf b 128 64,
    auxNode := bitsOf b 192 16, auxTag := bitsOf b 208 16, ecred := bitsOf b 224 16, ecv := b.testBit 240,
    rsvd := bitsOf b 13 3 != 0 || bitsOf b 60 4 != 0 || bitsOf b 99 5 != 0 || bitsOf b 124 4 != 0
      || bitsOf b 241 15 != 0,
    payload := b / 2 ^ 256 % 2 ^ (8 * bitsOf b 104 8) }

/-- A packet as a number of its bytes. -/
def packPacket (p : Packet) : Nat := packHeader p + p.payload * 2 ^ 256

/-! Channels and credits. -/

/-- A port's link layer. -/
def getLink (s : State) (p : Nat) : LinkPort := Store.get {} s.links p
/-- Replace a port's link layer. -/
def setLink (s : State) (p : Nat) (l : LinkPort) : State := { s with links := Store.set {} s.links p l }

/-- The channel of a class at NVC channels (Table 12-5); `fwd` for a packet on the FWD virtual channel. -/
def vcOf (nvc : Nat) (p : Packet) (fwd : Bool) : Nat :=
  if p.cls = 1 then (if nvc ≤ 4 then 1 else 2)
  else if fwd then (match nvc with | 2 => 0 | 3 => 2 | 4 => 3 | 5 => 4 | _ => 5)
  else match p.cls with
    | 0 => (match nvc with | 2 => 0 | 3 => 2 | 4 => 2 | 5 => 3 | 6 => 3 | _ => if p.len = 0 then 3 else 6)
    | 2 => if nvc ≤ 4 then 0 else 1
    | 3 => (match nvc with | 2 => 0 | 3 => 0 | 4 => 3 | 8 => (if p.opcode = 0x62 then 7 else 4) | _ => 4)
    | _ => 0

/-- A packet travels on the FWD channel (R353). -/
def onFwd (p : Packet) : Bool := p.fwded && p.cls != 1

/-- The channel of a packet on a port. -/
def portVc (s : State) (port : Nat) (p : Packet) : Nat := vcOf (getF s (PORT.LINK_STS_NVC port)) p (onFwd p)

/-- o_v: units sent and not known to be freed; below 0 where units held over CONFIG have been reported (R334, R335). -/
def owedUnits (l : LinkPort) (v : Nat) : Int := ((Store.get 0 l.sent v : Nat) : Int) - (Store.get 0 l.known v : Nat)

/-- Units over the reserved ones, for each channel's `o` and `r`, stay within a pool (R335). -/
def withinPool (o : Nat → Int) (r : Nat → Nat) (pool : Nat) : Bool :=
  decide (((upTo 8).map fun w => (o w - r w).toNat).sum ≤ pool)

/-- Whether a sender may start a packet of `u` units on channel `v` (R335). -/
def creditOk (l : LinkPort) (v u : Nat) : Bool :=
  withinPool (fun w => owedUnits l w + (if w = v then u else 0)) (Store.get 0 l.rsv) l.pool

/-- Units freed at a receiver are counted in F_v (R336). -/
def freeUnits (s : State) (port : Nat) (p : Packet) : State :=
  let l := getLink s port
  let v := portVc s port p
  setLink s port { l with freed := Store.set 0 l.freed v (Store.get 0 l.freed v + pktUnits p) }

/-! Secured frames that leave (R326, R327, R340). -/

/-- The port sends and receives flits in ACTIVE, outside a retrain. -/
def linkActive (s : State) (p : Nat) : Bool :=
  getF s (PORT.LINK_STS_STATE p) == 7 && !flag s (PORT.LINK_STS_RETRAINING p)

/-- KEYING or ACTIVE. -/
def linkCarries (s : State) (p : Nat) : Bool := linkActive s p || getF s (PORT.LINK_STS_STATE p) == 6

/-- The replay buffer has room for a whole secured frame. -/
def frameRoom (l : LinkPort) : Bool := decide (l.replay.length + 8 ≤ 512)

/-- The payload bytes of flit `i` of a secured frame: 246, of the last 230 (Table 11-4). -/
def payloadLen (i : Nat) : Nat := if i = 7 then 230 else 246

/-- Start a secured frame: `ctrl` CTRL flits with the bodies given, then null DATA flits. In KEYING frames are not secured
and take no counter (R326, R340). (DEDUCED, log 24) -/
def startFrame (s : State) (p : Nat) (ctrl : List Nat) : State :=
  let l := getLink s p
  let ctr := getF s (PORT.FRAMES_TX p)
  let kph := flag s (PORT.KEY_STS_TX_PH p)
  let key := if linkActive s p then (Store.get (0, 0) s.sec.linkKey p).1 else 0
  let fl := (upTo 8).map fun i =>
    (⟨(l.nextTx + i) % 4096, if i < ctrl.length then 1 else 0, kph, ctr, key, ctrl.getD i 0⟩ : TxFlit)
  let s1 := setLink s p { l with replay := l.replay ++ fl, nextTx := (l.nextTx + 8) % 4096, total := l.total + 8
                                 filling := if ctrl.isEmpty then some (s.time.elapsed, 0) else none
                                 timerAt := if l.replay.isEmpty then s.time.elapsed else l.timerAt }
  if linkActive s p then setF s1 (PORT.FRAMES_TX p) (ctr + 1) else s1

/-- A flit's time in hundredths of a nanosecond at the port's width: 2.55 ns at x4 (R343). -/
def flitTime (s : State) (p : Nat) : Nat :=
  match getF s (PORT.LINK_STS_WIDTH p) with
  | 1 => 1020
  | 2 => 510
  | _ => 255

/-- Where in the frame that is being sent a packet's next byte goes: after what is laid, and not in a flit that has left
(R326). None where the frame is full or over. (DEDUCED, log 24) -/
def fillPos (s : State) (p : Nat) (l : LinkPort) : Option Nat :=
  match l.filling with
  | none => none
  | some (t0, pos) =>
    let i := (s.time.elapsed - t0) * 100 / flitTime s p
    let at_ := max pos (246 * i)
    if 8 ≤ i ∨ 1952 ≤ at_ ∨ l.replay.length < 8 then none else some at_

/-- Lay bytes, given at their place in the payload, into the flits of a frame. -/
def layFrame (fl : List TxFlit) (v : Nat) : List TxFlit :=
  (fl.zip (upTo 8)).map fun x => { x.1 with body := x.1.body + v / 256 ^ (246 * x.2) % 256 ^ payloadLen x.2 }

/-- Send `n` bytes of a packet: into the frame that is being sent, then into new ones. Bytes that wait for room in the
replay buffer are carried (R326, R327, R348). (DEDUCED, log 24) -/
def sendBytes (p : Nat) : Nat → Nat → Nat → State → State
  | 0, n, v, s => setLink s p { getLink s p with carry := (n, v) }
  | k + 1, n, v, s =>
    let l := getLink s p
    if n = 0 then setLink s p { l with carry := (0, 0) }
    else match fillPos s p l with
      | some pos =>
        let m := min n (1952 - pos)
        let old := l.replay.length - 8
        let fl := l.replay.take old ++ layFrame (l.replay.drop old) (v % 256 ^ m * 256 ^ pos)
        sendBytes p k (n - m) (v / 256 ^ m) (setLink s p { l with replay := fl, filling := l.filling.map fun x => (x.1, pos + m) })
      | none =>
        if linkActive s p && frameRoom l then sendBytes p k n v (startFrame s p [])
        else setLink s p { l with carry := (n, v) }

/-- A port may start a packet: the one before it has left the carry, and a flit has room for it. -/
def mayStart (s : State) (p : Nat) : Bool :=
  let l := getLink s p
  linkActive s p && l.carry.1 == 0 && ((fillPos s p l).isSome || frameRoom l)

/-- The CTRL bodies of a link message (Table 11-6, R386). -/
def LinkMsg.bodies : LinkMsg → List Nat
  | .creditCheck n f => [1 + n * 256 + packElems 16 f * 2 ^ 16]
  | .lwcReq w => [2 + w * 256]
  | .lwcGo w n => [3 + w * 256 + n * 2 ^ 16]
  | .keyx t len c =>
    let n := (len + 223) / 224
    (upTo n).map fun i => 4 + t * 2 ^ 8 + i * 2 ^ 16 + n * 2 ^ 32 + (c / 256 ^ (224 * i) % 256 ^ 224) * 2 ^ 48

/-- Frames of up to eight CTRL flits. -/
def ctrlFrames (p : Nat) : Nat → List Nat → State → State
  | 0, _, s => s
  | n + 1, bs, s => if bs.isEmpty then s else ctrlFrames p n (bs.drop 8) (startFrame s p (bs.take 8))

/-- Frames a link message takes. -/
def LinkMsg.frames (m : LinkMsg) : Nat := (m.bodies.length + 7) / 8

/-- A link message may be sent now: in deterministic mode KEYX only in the port's MGMT slots (R390).
(DEDUCED, log 162) -/
def ctrlDue (s : State) (p : Nat) : LinkMsg → Bool
  | .keyx _ _ _ => !detOn s || isKind (slotEntry s (slotOf s) p) 2
  | _ => true

/-- Send the waiting link messages for which the replay buffer has room, in order. (DESIGN CHOICE, log 63)
(DESIGN CHOICE, log 50) -/
def flushCtrl (p : Nat) : Nat → State → State
  | 0, s => s
  | n + 1, s =>
    let l := getLink s p
    match l.ctrlQ with
    | [] => s
    | m :: q =>
      if linkCarries s p && ctrlDue s p m && decide (l.replay.length + 8 * m.frames ≤ 512) then
        let s1 := setLink s p { l with ctrlQ := q, ctrl := l.ctrl ++ [m] }
        flushCtrl p n (ctrlFrames p m.bodies.length m.bodies s1)
      else s

/-- What waits for room in the replay buffer goes on: a packet's bytes, then link messages. -/
def flushLink (s : State) (p : Nat) : State :=
  let l := getLink s p
  flushCtrl p (l.ctrlQ.length + 1) (if l.carry.1 = 0 then s else sendBytes p 4 l.carry.1 l.carry.2 s)

/-- Send a link message. (DESIGN CHOICE, log 50) -/
def sendCtrl (s : State) (p : Nat) (m : LinkMsg) : State :=
  let l := getLink s p
  flushCtrl p (l.ctrlQ.length + 1) (setLink s p { l with ctrlQ := l.ctrlQ ++ [m] })

/-- Launch a packet on a link: it is charged on its channel, and its bytes follow those before it (R335, R348).
(DESIGN CHOICE, log 50) (DESIGN CHOICE, log 63) (DEDUCED, log 24) -/
def linkSend (s : State) (port : Nat) (p : Packet) : State :=
  let l := getLink s port
  let v := portVc s port p
  sendBytes port 4 (pktBytes p) (packPacket p)
    (setLink s port { l with sent := Store.set 0 l.sent v (Store.get 0 l.sent v + pktUnits p) })

end Sys2Proof.Machine
end

