-- ==== Sys2Proof/Machine/EngineBase.lean ====
section
/-!
DEFINITION. How a stack core reaches memory (chapter 6): the pages and lines of a tile, the reads of engines and
sequencers, their writes through the home slices; shares, reports and completion records.
-/

namespace Sys2Proof.Machine

/-- The outcome of an attempt to reach memory: done, wait for another unit, or a status with its DETAIL. -/
inductive Reach (α : Type) where
  | ok (a : α)
  | wait
  | fail (status detail : Nat)
  deriving DecidableEq, Repr

/-- The engine number under which a core's sequencer and its records reach memory (DESIGN CHOICE, log 32). -/
def seqEng : Nat := 15

/-! Rows, pages and lines. -/

/-- The address of each row. -/
def rowVas (r : Rows) : List Nat := (upTo r.rows).map fun i => (r.base + (i : Int) * r.stride).toNat

/-- The 64 KiB pages of a byte range, each by its first byte in the range. -/
def rangePages (va n : Nat) : List Nat :=
  (upTo ((va + n - 1) / 65536 - va / 65536 + 1)).map fun i => max va ((va / 65536 + i) * 65536)

/-- Keep the first of the numbers that agree in `f`, in order. -/
def firstOf (f : Nat → Nat) (l : List Nat) : List Nat :=
  (l.foldl (fun (a : Store Nat × List Nat) x =>
    if Store.get 0 a.1 (f x) = 1 then a else (Store.ins a.1 (f x) 1, x :: a.2)) ([], [])).2.reverse

/-- The pages that rows touch. -/
def pagesOf (rs : List Rows) : List Nat :=
  firstOf (· / 65536) (rs.flatMap fun r => (rowVas r).flatMap fun a => rangePages a r.bytes)

/-- The lines that rows touch. -/
def linesOf (rs : List Rows) : List Nat :=
  firstOf (fun x => x) (rs.flatMap fun r => (rowVas r).flatMap fun a => rangeLines a r.bytes)

/-- Translate one page: the place of its first byte. -/
def pagePlace (s : State) (core eng pt va need : Nat) : Except Nat Place × State :=
  let (r, s1) := engineTranslate s core eng pt va need
  let s2 := if eng = seqEng then { s1 with xlt := { s1.xlt with etlb := Store.del s1.xlt.etlb (core * 16 + eng) } } else s1
  match r with
  | .ok (.dram c o) => (.ok (.dram c (o - va % 65536)), s2)
  | .ok (.tier a) => (.ok (.tier (a - va % 65536)), s2)
  | .error c => (.error c, s2)

/-- Translate pages one by one (R102, R166): the map of places by page, or the faulting PVA and cause. -/
def translateAll (core eng pt need : Nat) : List Nat → Store Place → State → Except (Nat × Nat) (Store Place) × State
  | [], m, s => (.ok m, s)
  | va :: l, m, s =>
    match pagePlace s core eng pt va need with
    | (.ok p, s1) => translateAll core eng pt need l (Store.ins m (va / 65536) p) s1
    | (.error c, s1) => (.error (va, c), s1)

/-- The place of a line by the map of its page. -/
def linePlace (m : Store Place) (va : Nat) : Place :=
  match Store.get (.tier 0) m (va / 65536) with
  | .dram c o => .dram c (o + va % 65536)
  | .tier a => .tier (a + va % 65536)

/-- DETAIL of XLT_FAULT (Table 06-8). -/
def faultDetail (va cause : Nat) (wr : Bool) : Nat := va % 2 ^ 57 + cause * 2 ^ 57 + wr.toNat * 2 ^ 60

/-! Tier blocks and lines. -/

/-- The way that holds a resident block. -/
def residentWay (s : State) (pt block : Nat) : Option Nat :=
  match findWay s pt block with
  | some k => let st := (getWay s k).state; if st = 0 ∨ st = 1 ∨ st = 5 then none else some k
  | none => none

/-- The DRAM line of a place; a tier block's once it is resident. -/
def lineKeyOf (s : State) (pt : Nat) (p : Place) : Option Nat :=
  match p with
  | .dram c o => some (memKey c o)
  | .tier a => (residentWay s pt (a / 4096)).map fun k => wayLine s pt k + a % 4096

/-- The tier blocks among places. -/
def blocksOfPlaces (ps : List Place) : List Nat :=
  firstOf (fun x => x) (ps.filterMap fun p => match p with | .tier a => some (a / 4096) | .dram _ _ => none)

/-- Make the blocks resident through the tier controller (R291): an absent one starts its fill or joins it. -/
def reachBlocks (ce pt : Nat) : List Nat → State → Reach Unit × State
  | [], s => (.ok (), s)
  | b :: l, s =>
    match tierFind s pt b (.engine ce) with
      | (.way _, s1) => reachBlocks ce pt l s1
      | (.wait, s1) => (.wait, s1)
      | (.fail _ st, s1) => (.fail st 0, s1)

/-- A refusal that a slice or the tier controller left for an engine, taken out. -/
def takeFail (s : State) (ce : Nat) : Option (Nat × Nat) × State :=
  match s.coh.engFail.find? fun f => f.1 == ce with
  | some f => (some f.2, { s with coh := { s.coh with engFail := s.coh.engFail.filter fun x => x.1 != ce } })
  | none => (none, s)

/-- The home of a line is lost, or its line is FENCED (Table 06-10). -/
def lineDead (s : State) (l : Nat) : Option Nat :=
  if !coreUp s (lineCore l) && !s.parts.failing.getLsbD (lineCore l) then some 4
  else if (txnOf s l).isSome then none
  else match touched s (dirOf s l) with
    | .fenced _ => some 5
    | _ => none

/-- The first line, as (PVA, key), that is dead. -/
def firstDead (s : State) : List (Nat × Nat) → Option (Nat × Nat)
  | [] => none
  | (va, l) :: r => match lineDead s l with
    | some st => some (st, va)
    | none => firstDead s r

/-- An engine's request for a line. -/
def engReq (ce pt va op data mask : Nat) (hint : Option Nat) : Req :=
  { agent := .engine ce, op := op, pt := pt, pva := va, data := data, mask := mask, hint := hint }

/-- A line cannot be read now: a transaction or a fail-over runs on it. -/
def lineBusy (s : State) (l : Nat) : Bool := (txnOf s l).isSome || s.parts.failing.getLsbD (lineCore l)

/-- Ask the owners of exclusive lines for their data (R125). -/
def askOwners (s : State) (ce pt : Nat) (ls : List (Nat × Nat)) : State :=
  forAll ls (fun s x => if lineBusy s x.2 then s else match touched s (dirOf s x.2) with
    | .exc _ => agentReq s x.2 (engReq ce pt x.1 0x04 0 0 none)
    | _ => s) s

/-- Count an engine's access to a line: of a cached tier block (R288, R307), and of another core (R103).
(DESIGN CHOICE, log 71) -/
def countEngine (s : State) (core l : Nat) : State :=
  let s1 := match lineWay s l, ownerOf s (lineCore l) with
    | some k, some pt => accessWay (wrapF s (TIER.HITS pt) 1) k
    | _, _ => s
  if lineCore l = core then s1 else countAccess s1 (lineCore l) (lineOff l) true

/-- Read lines whose copies do not stand in the way into a buffer, each at its slice; the first refusal fails (R107,
R164). (DEDUCED, log 70) -/
def readLines (core eng pt : Nat) : List (Nat × Nat) → Store Nat → State → Reach (Store Nat) × State
  | [], m, s => (.ok m, s)
  | (va, l) :: r, m, s =>
    if (lookupDc s l).isNone then (.wait, s)
    else
      let ce := core * 16 + eng
      match takeFail (agentReq (countEngine s core l) l (engReq ce pt va 0x04 0 0 none)) ce with
      | (some (st, _), s1) => (.fail st va, s1)
      | (none, s1) => readLines core eng pt r (Store.ins m va (lineValue s1 l)) s1

/-- Lines, given by PVA and place, in a state to be read or written: resident, not moving, of a home in service. -/
def reachLines (s : State) (core eng pt : Nat) (vas : List (Nat × Place)) : Reach (List (Nat × Nat)) × State :=
  let ce := core * 16 + eng
  match takeFail s ce with
  | (some (st, va), s1) => (.fail st va, s1)
  | (none, s1) =>
    if vas.any fun x => moving s1 pt x.1 then (.wait, s1)
    else match reachBlocks ce pt (blocksOfPlaces (vas.map (·.2))) s1 with
      | (.wait, s2) => (.wait, s2)
      | (.fail st d, s2) => (.fail st d, s2)
      | (.ok _, s2) =>
        let ls := vas.filterMap fun x => (lineKeyOf s2 pt x.2).map fun l => (x.1, l)
        if ls.length ≠ vas.length then (.wait, s2)
        else match firstDead s2 ls with
          | some (st, va) => (.fail st va, s2)
          | none => (.ok ls, s2)

/-- Fetch lines (R163, R164): owners answer first, then every line is read. (DEDUCED, log 70) -/
def fetchLines (s : State) (core eng pt : Nat) (ls : List (Nat × Nat)) : Reach (Store Nat) × State :=
  let s1 := askOwners s (core * 16 + eng) pt ls
  if ls.any fun x => lineBusy s1 x.2 then (.wait, s1) else readLines core eng pt ls [] s1

/-- The bytes of a stream: its rows joined in order, from buffered lines. -/
def streamBytes (m : Store Nat) (r : Rows) : Nat :=
  ((rowVas r).foldl (fun (a : Nat × Nat) va => (a.1 + bufBytes m va r.bytes * 256 ^ a.2, a.2 + r.bytes)) (0, 0)).1

/-- A map from PVA of a line to its key. -/
def keyMap (ls : List (Nat × Nat)) : Store Nat := ls.foldl (fun m x => Store.ins m x.1 x.2) []

/-- The lines of `n` bytes at `va`, as an engine read of a core's sequencer or of an engine (R155, R159, R230). A
translation fault is counted (R100). -/
def seqLines (s : State) (core eng pt : Nat) (va : Int) (n : Nat) : Reach (Store Nat) × State :=
  if va < 0 ∨ 2 ^ 57 < va + n then
    let v := (va % 2 ^ 57).toNat
    (.fail 1 (faultDetail v 3 false), xltFault s pt v 3 true (core * 16 + eng))
  else
    let a := va.toNat
    match translateAll core eng pt 0 (rangePages a n) [] s with
    | (.error (v, c), s1) => (.fail 1 (faultDetail v c false), xltFault s1 pt v c true (core * 16 + eng))
    | (.ok m, s1) =>
      match reachLines s1 core eng pt ((rangeLines a n).map fun l => (l, linePlace m l)) with
      | (.wait, s2) => (.wait, s2)
      | (.fail st d, s2) => (.fail st d, s2)
      | (.ok ls, s2) => fetchLines s2 core eng pt ls

/-- The bytes that it reads. -/
def seqRead (s : State) (core eng pt : Nat) (va : Int) (n : Nat) : Reach Nat × State :=
  match seqLines s core eng pt va n with
  | (.wait, s1) => (.wait, s1)
  | (.fail st d, s1) => (.fail st d, s1)
  | (.ok m, s1) => (.ok (bufBytes m va.toNat n), s1)

/-! Writes. -/

/-- A byte mask as a bit mask. -/
def spreadMask (m : Nat) : Nat := (upTo 128).foldl (fun v i => if m.testBit i then v + 255 * 256 ^ i else v) 0

/-- Put bytes into the pending write of a line. Where rows overlap, the bytes are open (R164). -/
def mergeWrite (a : Store (Nat × Nat × Nat) × State) (key va data mask : Nat) : Store (Nat × Nat × Nat) × State :=
  let (d, m, _) := Store.get (0, 0, 0) a.1 key
  let both := m &&& mask
  if both = 0 then (Store.ins a.1 key (d + data, m ||| mask, va), a.2)
  else
    let (f, s1) := freeNat a.2 1024
    let keep := spreadMask (mask ^^^ both)
    let twice := spreadMask both
    let d1 := (d ^^^ (d &&& twice)) ||| (f &&& twice)
    (Store.ins a.1 key (d1 ||| (data &&& keep), m ||| mask, va), s1)

/-- The writes of a stream's data, by line key: data, mask, PVA of the line. (DEDUCED, log 69) -/
def streamWrites (keys : Store Nat) (a : Store (Nat × Nat × Nat) × State) (r : Rows) (data : Nat) :
    Store (Nat × Nat × Nat) × State :=
  ((rowVas r).foldl (fun (x : (Store (Nat × Nat × Nat) × State) × Nat) va =>
    let rest := x.2 % 256 ^ r.bytes
    let w := (rangeLines va r.bytes).foldl (fun (y : (Store (Nat × Nat × Nat) × State) × Nat) l =>
      let lo := max va l
      let k := min (va + r.bytes) (l + 128) - lo
      (mergeWrite y.1 (Store.get 0 keys l) l (y.2 % 256 ^ k * 256 ^ (lo - l)) ((2 ^ k - 1) * 2 ^ (lo - l)), y.2 / 256 ^ k))
      (x.1, rest)
    (w.1, x.2 / 256 ^ r.bytes)) (a, data)).1

/-- Give writes to the slices that have room for them; the rest stay (R112), and so do those to lines that `hold`
selects. -/
def issueWrites (core eng pt : Nat) (hint : Option Nat) (hold : Nat → Nat → Bool) :
    List (Nat × Nat × Nat × Nat) → State → List (Nat × Nat × Nat × Nat) × State
  | [], s => ([], s)
  | (l, d, m, va) :: r, s =>
    if hold l va || (s.parts.failing.getLsbD (lineCore l)) || ((txnOf s l).isNone && (lookupDc s l).isNone) then
      let (rest, s1) := issueWrites core eng pt hint hold r s
      ((l, d, m, va) :: rest, s1)
    else
      issueWrites core eng pt hint hold r
        (agentReq (countEngine s core l) l (engReq (core * 16 + eng) pt va (if m = fullMask then 0x05 else 0x06) d m hint))

/-- A write of the engine is still before or in its slice: it is queued, or copies are withdrawn for it (R166). -/
def writePending (s : State) (ce l : Nat) : Bool :=
  match txnOf s l with
  | none => false
  | some t =>
    let mine := fun (r : Req) => r.agent == .engine ce && (r.op == 0x05 || r.op == 0x06)
    t.queue.any mine || (mine t.req && t.push.isNone)

/-! Shares and their failures. -/

/-- Replace a share. -/
def putShare (s : State) (h : Share) : State :=
  { s with eng := { s.eng with shares := s.eng.shares.map fun x => if x.job = h.job ∧ x.core = h.core then h else x } }

/-- The share of a job on a core. -/
def findShare (s : State) (job core : Nat) : Option Share := s.eng.shares.find? fun h => h.job == job && h.core == core

/-- Change a share. -/
def onShare (s : State) (job core : Nat) (f : Share → Share) : State :=
  match findShare s job core with
  | some h => putShare s (f h)
  | none => s

/-- The tiles of a context's list, and of an engine's queue. -/
def readyOf (s : State) (core x : Nat) : List Tile := Store.get [] s.eng.ready (core * 2 + x)
def setReady (s : State) (core x : Nat) (l : List Tile) : State :=
  { s with eng := { s.eng with ready := Store.set [] s.eng.ready (core * 2 + x) l } }
def queueAt (s : State) (ce : Nat) : List Tile := Store.get [] s.eng.queues ce
def setQueueAt (s : State) (ce : Nat) (l : List Tile) : State :=
  { s with eng := { s.eng with queues := Store.set [] s.eng.queues ce l } }

/-- The COLLECTIVE of a core. -/
def collOf (s : State) (core : Nat) : Option Coll := Store.get none s.eng.colls core
/-- Replace it; COLL_STS shows it (Table 08-11). -/
def setColl (s : State) (core : Nat) (c : Option Coll) : State :=
  let s1 := { s with eng := { s.eng with colls := Store.set none s.eng.colls core c } }
  let s2 := setB s1 (SCORE.COLL_STS_ACTIVE core) c.isSome
  setF (setF s2 (SCORE.COLL_STS_RESERVED core) (match c with | some c => c.tiles.length | none => 0))
    (SCORE.COLL_STS_NCONTRIB core) (match c with | some c => c.pids.length | none => 0)

/-- A job is the COLLECTIVE of a core. -/
def isColl (s : State) (core job : Nat) : Bool := match collOf s core with | some c => c.job == job | none => false

/-- Every line of a reserved collective tile has come (R232); `n` lines from each contributor. -/
def collFull (s : State) (core t n : Nat) : Bool :=
  match collOf s core with
  | some c => (match c.tiles.find? (·.t == t) with
    | some x => decide (n * c.pids.length ≤ x.seen.length)
    | none => false)
  | none => false

/-- Lines of a contributor's part of a tile: E times the input size, over 128 (R230). -/
def collLines (d : Nat) (rs : List Rows) : Nat := streamElems d rs 0 * fmtUnit (inFmt d) / 128

/-- Tiles above a failing one that have not started are not started (R102). Full tiles of a stopped COLLECTIVE finish
(R233). -/
def dropAbove (s : State) (job core t : Nat) : State :=
  let full := fun (x : Tile) => match findShare s job core with
    | some h => dOp h.desc == 7 && collFull s core x.t (collLines h.desc x.rows)
    | none => false
  let keep := fun (x : Tile) => !(x.job == job && decide (t ≤ x.t) && !x.begun) || full x
  let s1 := forAll (upTo 2) (fun s x => setReady s core x ((readyOf s core x).filter keep)) s
  forAll (upTo 16) (fun s e => setQueueAt s (core * 16 + e) ((queueAt s (core * 16 + e)).filter keep)) s1

/-- A share fails at a tile: the lowest index stands (R102); the expansion of an unspread descriptor ends. -/
def failShare (s : State) (job core : Nat) (f : TileFail) : State :=
  match findShare s job core with
  | none => s
  | some h =>
    let lower := match h.fail with | some g => decide (g.tile ≤ f.tile) | none => false
    if lower then s
    else
      let h1 := { h with fail := some f, phase := if h.phase = 2 && !dLong h.desc then 3 else h.phase }
      dropAbove (putShare s h1) job core f.tile

/-- No tile of a share is under way. -/
def shareIdle (s : State) (h : Share) : Bool := (tilesHeld s h.core h.job).isEmpty

/-! Ties at a slice (R123). -/

/-- The engine's head tile still reads or writes a line. -/
def engineWants (s : State) (f pt va : Nat) : Bool :=
  match (queueAt s f).head? with
  | none => false
  | some x => x.pt == pt &&
    (if x.st = 0 ∨ x.st = 3 then !buffered x.input va && (linesOf x.rows).contains va
     else x.out.any fun o => o.2.2.2 == va)

/-- An engine's access to a line yields to the others that become ready with it (R123): a partner's request that its
slice has not taken, or that of an engine of a lower number. -/
def yields (s : State) (ties : Ties) (ce pt l va : Nat) : Bool :=
  (ties.pids.any fun p => s.net.store.any fun r => r.pid == p.val && !r.taken && r.line == some l)
    || ties.engs.any fun f => decide (f.1.val * 16 + f.2.val < ce) && engineWants s (f.1.val * 16 + f.2.val) pt va

/-- What an engine or sequencer does over core links begins, in deterministic mode, in a PART slot of its core for its
partition, and its walks end (R54, R57). (DEDUCED, log 159) (DESIGN CHOICE, log 163) -/
def slotted (s : State) (core pt : Nat) (f : State → State) : State :=
  match linkTime s core pt s.time.ft with
  | none => s
  | some t =>
    let s1 := f (advanceFt s t)
    if detOn s then advanceFt s1 (walkOver s1 pt) else s1

/-! Completion records (R167 to R171). -/

/-- Count a completed descriptor. -/
def countDone (s : State) (core : Nat) : State := wrapF s (SCORE.DESC_DONE core) 1

/-- Line 0 of a record (Table 06-8). -/
def recordLine0 (d status done total detail flags mask start fin seed result : Nat) (long : Bool) : Nat :=
  1 + long.toNat * 2 + dOp d * 2 ^ 8 + status * 2 ^ 16 + dTag d * 2 ^ 32
    + (done % 2 ^ 32) * 2 ^ 64 + (total % 2 ^ 32) * 2 ^ 96 + detail * 2 ^ 128
    + flags * 2 ^ 192 + mask * 2 ^ 208 + (start % 2 ^ 64) * 2 ^ 256 + (fin % 2 ^ 64) * 2 ^ 320 + seed * 2 ^ 384
    + (result % 2 ^ 512) * 2 ^ 512

/-- The mask of the cores that took part. -/
def tookPart (d core : Nat) : Nat := if dMask d = 0 then 2 ^ core else dMask d

/-- Put a record on its way. It is omitted under NOCMPL when the status is OK; one without an address is lost
(R150, R171). `line1` is that of a long record, written first (R169). (DEDUCED, log 72) -/
def sendRecord (s : State) (core pt num d line0 : Nat) (line1 : Option Nat) : State :=
  let status := bitsOf line0 16 8
  if dNocmpl d && status == 0 then countDone s core
  else if dCmpl d = 0 then bumpF (countDone s core) (SCORE.CMPL_LOST_COUNT core)
  else
    let a := dCmpl d / 128 * 128
    let lines := (match line1 with | some v => [(a + 128, v)] | none => []) ++ [(a, line0)]
    let hint := if dHint d then some (dHintPid d) else none
    { s with eng := { s.eng with recs := s.eng.recs ++ [{ core := core, pt := pt, num := num, hint := hint, lines := lines }] } }

/-- A descriptor ends before its lead has sent any segment (R167): a short record with TILES_DONE 0.
(DEDUCED, log 73) -/
def endEarly (s : State) (core pt num d status detail seed : Nat) : State :=
  sendRecord s core pt num d
    (recordLine0 d status 0 0 detail 0 (tookPart d core) 0 0 seed 0 false) none

/-- The first record of a core that is not in memory yet is tried: each line is an engine write of the whole line, and
the next follows once it is in DRAM with every copy invalidated (R169, R171). (DEDUCED, log 82) -/
def stepRec (s : State) (r : Rec) : Option Rec × State :=
  let ce := r.core * 16 + seqEng
  let lost := fun (s : State) => (none, bumpF s (SCORE.CMPL_LOST_COUNT r.core))
  match r.issued, r.lines with
  | _, [] => (none, s)
  | some l, _ :: rest =>
    match takeFail s ce with
    | (some _, s1) => lost s1
    | (none, s1) =>
      if writePending s1 ce l then (some r, s1)
      else if rest.isEmpty then (none, s1) else (some { r with lines := rest, issued := none }, s1)
  | none, (va, v) :: _ =>
    match pagePlace s r.core seqEng r.pt va 1 with
    | (.error c, s1) => lost (xltFault s1 r.pt va c true ce)
    | (.ok p, s1) =>
      let m : Store Place := [(va / 65536, p)]
      match reachLines s1 r.core seqEng r.pt [(va, linePlace m va)] with
      | (.wait, s2) => (some r, s2)
      | (.fail _ _, s2) => lost s2
      | (.ok ls, s2) =>
        match ls with
        | (_, l) :: _ =>
          match issueWrites r.core seqEng r.pt r.hint (fun _ _ => false) [(l, v, fullMask, va)] s2 with
          | ([], s3) => (some { r with issued := some l }, s3)
          | (_, s3) => (some r, s3)
        | [] => (some r, s2)

/-- Try the oldest record of each core up to `n` times. -/
def pumpCore (core : Nat) : Nat → State → State
  | 0, s => s
  | n + 1, s =>
    match s.eng.recs.find? fun r => r.core == core with
    | none => s
    | some r =>
      let others := s.eng.recs.erase r
      match stepRec s r with
      | (some r1, s1) =>
        if r1 = r then s1
        else pumpCore core n { s1 with eng := { s1.eng with recs := r1 :: others } }
      | (none, s1) => pumpCore core n (countDone { s1 with eng := { s1.eng with recs := others } } core)

/-- Records on their way go as far as they can. (DESIGN CHOICE, log 9) -/
def pumpRecs (s : State) : State :=
  forAll ((s.eng.recs.map (·.core)).eraseDups) (fun s c => pumpCore c (4 * s.eng.recs.length + 4) s) s

end Sys2Proof.Machine
end

