-- ==== Sys2Proof/Machine/Transport.lean ====
section
/-!
DEFINITION. Fabric transport (chapter 12): packets that arrive and what becomes of them, the routing tables and their
flips, the credits of partners, multicast groups, and the egress schedulers (R43, R61, R67 to R70, R345 to R374, R520).
-/

namespace Sys2Proof.Machine

/-! What a packet must look like (R349, R350). -/

/-- The class of an opcode (Tables 05-2, 06-1, 08-2, 12-3); none for an opcode that no table gives. -/
def opClass (o : Nat) : Option Nat :=
  if (1 ≤ o ∧ o ≤ 0x0D) then some 0
  else if (0x20 ≤ o ∧ o ≤ 0x24) ∨ o = 0x28 then some 1
  else if (0x40 ≤ o ∧ o ≤ 0x49) ∨ (0x50 ≤ o ∧ o ≤ 0x52) ∨ (0x58 ≤ o ∧ o ≤ 0x5F) ∨ o = 0x61 then some 2
  else if o = 0x60 ∨ o = 0x62 then some 3
  else if 0x70 ≤ o ∧ o ≤ 0x74 then some 4
  else none

/-- Whether LEN is a value that Table 12-2 gives an opcode. -/
def lenOk (o n : Nat) : Bool :=
  if o = 0x5B then n == 0 || n == 128
  else if o = 0x73 then decide (32 ≤ n ∧ n ≤ 208)
  else if [0x48, 0x46, 0x47, 0x49, 0x70, 0x72, 0x74].contains o then n == 8
  else if o = 0x0A ∨ o = 0x71 then n == 16
  else if o = 0x09 then n == 24
  else if o = 0x0C then n == 64
  else if o = 0x06 then n == 144
  else if [0x05, 0x07, 0x28, 0x40, 0x41, 0x43, 0x50, 0x51, 0x52, 0x5A, 0x60, 0x62].contains o then n == 128
  else n == 0

/-- A malformed packet: a class that does not match its opcode, a reserved bit, or a LEN of no table row. No class
matches an opcode that no table gives. (DEDUCED, log 122) -/
def malformed (p : Packet) : Bool :=
  p.rsvd || decide (5 ≤ p.cls) || (match opClass p.opcode with
    | some c => c != p.cls || !lenOk p.opcode p.len
    | none => true)

/-! Requests at the port stage (R43, R347, R363 to R365, R520). -/

/-- The request that a REQ packet carries. -/
def reqOf (s : State) (port : Nat) (p : Packet) : Req :=
  let isPart := p.opcode == 0x06
  { op := p.opcode, pid := p.srcPid, tag := p.tag, port := port, pt := pidPt s p.srcPid, pva := p.addr,
    data := if isPart then p.payload % 2 ^ 1024 else p.payload,
    mask := if isPart then p.payload / 2 ^ 1024 % 2 ^ 128 else fullMask,
    hint := if p.hv then some p.auxPid else none, ce := p.ce, since := s.time.ft }

/-- The port stage answers a request that takes no store entry: of a PID that is not LIVE, or without credit (R365).
(DEDUCED, log 122) -/
def reject (s : State) (r : Req) (status detail : Nat) : State :=
  if r.op = 0x0C ∨ r.op = 0x0D then respond s r 16 0x49 status 8 0 s.time.ft none
  else if isWb r.op then respond s r 16 0x45 status 0 0 s.time.ft none
  else respond s r 16 0x48 status 8 detail s.time.ft none

/-- Put a request into the ingress store. (DESIGN CHOICE, log 163) -/
def storeReq (s : State) (r : Req) : State := { s with net := { s.net with store := s.net.store ++ [r] } }

/-- The port stage refuses a request of a LIVE PID that has credit: its entry frees when the answer leaves (R363).
(DEDUCED, log 122) -/
def turnAway (s : State) (r : Req) (status detail : Nat) : State := refuse (storeReq s r) r 16 status detail

/-- The right a coherence request needs: 0 read, 1 write, 2 atomic, none for EVICT. (DEDUCED, log 53) -/
def needOf (op : Nat) : Nat :=
  match op with
  | 0x01 => 0
  | 0x04 => 0
  | 0x08 => 0
  | 0x09 => 2
  | _ => 1

/-- A translation that needs no walk beyond the caches (R70). (DEDUCED, log 122) -/
def quickWalk (s : State) (pt va : Nat) : Bool :=
  s.xlt.pxc.any (fun e => covers pt va e && (waysOf s pt).contains e.way)
    || (walkPath s pt va 4 (getF s (XLT.ROOT_OFFSET pt) * 4096)).all fun x =>
        s.xlt.walker.any fun e => covers pt va e && e.span == levelShift x.1 && (waysOf s pt).contains e.way

/-- The time at which the walk of a request is over: 0 where the port translation cache holds its translation. -/
def walkedAt (s s1 : State) (r : Req) : Nat :=
  if detOn s && Store.get 0 s1.xlt.walkSlot r.pt != Store.get 0 s.xlt.walkSlot r.pt then walkOver s1 r.pt else 0

/-- A coherence request of a LIVE PID with credit: it is translated and stored (R99, R21, R24). (DEDUCED, log 54)
(DEDUCED, log 122) -/
def admitLine (s : State) (r0 : Req) : State :=
  let res := portTranslate s r0.pt r0.pva (needOf r0.op)
  let r := { r0 with quick := quickWalk s r0.pt r0.pva, walked := walkedAt s res.2 r0 }
  match res with
  | (.error c, s1) => turnAway (xltFault s1 r.pt r.pva c false r.pid) r0 1 c
  | (.ok (.tier a), s1) => storeReq s1 { r with tier := some a }
  | (.ok (.dram c off), s1) =>
    if !coreUp s c && !s.parts.failing.getLsbD c then turnAway s1 r0 4 0
    else storeReq s1 { r with line := some (lineOf (memKey c off)) }

/-- A REQ addressed to the module: the refusals of R520 in their order, then the store. (DESIGN CHOICE, log 40)
(DEDUCED, log 54) (DEDUCED, log 128) -/
def allow (s : State) (port : Nat) (p : Packet) : State :=
  let r := reqOf s port p
  let wb := isWb r.op
  if pidState s r.pid = 0 ∨ p.src ≠ nodeOf s r.pid then
    reject (faultEntry s 23 1 none (0x0600 + port) port r.pid) r 2 0
  else if !pidLive s r.pid then reject s r 7 0
  else if !s.boot.service then turnAway s r 3 0
  else if (wb && decide (8 ≤ wbOf s r.pid)) || (!wb && decide (getF s (SHAPE.E2E_DATA_LIMIT r.pid) ≤ outOf s r.pid)) then
    reject (bumpF s SHAPE.NO_CREDIT_COUNT) r 20 0
  else if !wb && (runOpening s r.pt || ptShut s r.pt) then turnAway s r 3 0
  else if wb && scrubbing s r.pt then turnAway s r 3 0
  else if 0x0A ≤ r.op then storeReq s r
  else admitLine s r

/-! Routing of packets that arrive (R355 to R357, R360). -/

/-- Return a packet to its source (R357). -/
def returnPkt (s : State) (status : Nat) (p : Packet) : State :=
  if p.opcode = 0x73 then bumpF s ROUTE.UNDELIVERED_COUNT
  else sendOwn (countReturn s status)
    { kind := 0, ready := s.time.ft,
      pkt := { opcode := 0x73, cls := 4, dst := p.src, status := status, len := 32 + p.len, payload := packPacket p } }

/-- The old epoch. -/
def oldEpoch (s : State) : Nat := (getF s ROUTE.ROUTE_STS_EPOCH + 3) % 4

/-- Forward a packet down its column (R355, R356, R360). -/
def forward (s : State) (port : Nat) (p : Packet) : State :=
  let self := getF s ROUTE.SELF_NODE_ID
  let old := flag s ROUTE.ROUTE_STS_OLD_VALID && p.epoch == oldEpoch s
  if flag s (PORT.XPORT_CTL_GROUP port) || p.dst % 256 ≠ self % 256 || p.dst / 256 = self / 256 then returnPkt s 18 p
  else if p.epoch ≠ getF s ROUTE.ROUTE_STS_EPOCH ∧ !old then returnPkt s 16 p
  else
    let k := if p.cls = 1 then 2 else 1
    match choosePort s (routeEntry s (routeBank s old) 1 (p.dst / 256)) p.dst (if k = 1 then 5 else 1) with
    | none => returnPkt s 17 p
    | some q =>
      enqueue (wrapF s ROUTE.TURNS 1) q
        { pkt := { p with fwded := true }, kind := k, ready := s.time.ft, dim := 1, old := old }

/-- Process a packet: its room in the hop receive buffer frees when it leaves it (R336, R349, R355, R359, R369). -/
def process (s : State) (port : Nat) (p : Packet) : State :=
  if malformed p then bumpF (freeUnits s port p) ROUTE.MALFORMED_COUNT
  else if p.mc then bumpF (freeUnits s port p) ROUTE.MC_DISCARD_COUNT
  else if p.dst = getF s ROUTE.SELF_NODE_ID then
    let s1 := freeUnits s port p
    if p.cls = 0 ∧ (opClass p.opcode).isSome then allow s1 port p else s1
  else if flag s ROUTE.ROUTE_STS_DRAINING then
    { s with net := { s.net with waiting := s.net.waiting ++ [(port + 1, { pkt := p, kind := 1 })] } }
  else forward (freeUnits s port p) port p

/-! Arrival (R68). -/

/-- D of R68. -/
def ingressDelay (s : State) (port : Nat) : Nat := max 1 (min 32 (getF s (PORT.INGRESS_DELAY_SLOTS port)))

/-- The partition of a packet that is for the module, by its source PID. (DEDUCED, log 25) -/
def pktPt (s : State) (p : Packet) : Option Nat :=
  if p.dst = getF s ROUTE.SELF_NODE_ID ∧ pidState s p.srcPid ≠ 0 then some (pidPt s p.srcPid) else none

/-- A packet takes its place in the wait for its processing slot; 0 marks it late. -/
def holdArrival (s : State) (port : Nat) (p : Packet) (sl : Nat) : State :=
  { s with net := { s.net with arrived := s.net.arrived ++ [(port, p, sl, s.time.ft)] } }

/-- A packet is processed late (R68). -/
def lateCount (s : State) (port : Nat) (p : Packet) : State :=
  let s1 := bumpF s (PORT.LATE_COUNT port)
  match pktPt s p with
  | some pt => recordDx 1 s1 pt
  | none => s1

/-- A packet arrives: with the mode off it is processed at once; with the mode on in slot launch slot + D, or late. A late
packet that belongs to no partition is processed at once (DEDUCED, log 25). -/
def arrive (s : State) (port : Nat) (p : Packet) (replayed : Bool) : State :=
  if !detOn s then process s port p
  else
    let late := (slotOf s + 64 - p.lslot % 64) % 64
    if p.lsv && !replayed && decide (late ≤ ingressDelay s port) then
      holdArrival s port p (s.time.ft / 64 + ingressDelay s port - late)
    else match pktPt s p with
      | some _ => holdArrival s port p 0
      | none => process (lateCount s port p) port p

/-- Charged bytes received count for the energy of the period (R440). -/
def countGot (s : State) (port : Nat) (p : Packet) : State :=
  let k := port * 32 + (pktPt s p).getD 16
  { s with pwr := { s.pwr with gotBytes := Store.set 0 s.pwr.gotBytes k (Store.get 0 s.pwr.gotBytes k + charge s p) } }

/-- PACKET_ARRIVAL (R355, R367, R377). (DESIGN CHOICE, log 40) -/
def doArrival (s : State) (port : Nat) (p : Packet) (replayed : Bool) : State :=
  if portUp s port then
    let l := getLink s port
    let s1 := countGot (wrapF s (PORT.PKT_RX port) 1) port p
    let s2 := if p.ece then bumpF s1 (PORT.ECE_RX_COUNT port) else s1
    let s3 := if l.inbox.head? = some p then setLink s2 port { l with inbox := l.inbox.tail } else s2
    arrive s3 port p replayed
  else s

/-- PACKET_ARRIVAL (R355). -/
def execPacketArrival (port : Port) (p : Packet) (replayed : Bool) (s : State) : Host.Outcome State Fault Refusal :=
  .next (whenAlive s (doArrival · port p replayed))

/-- The absolute slot in which a waiting packet is due: its own, or the first slot after its arrival that the port's
column gives its partition. -/
def dueSlot (s : State) (x : Nat × Packet × Nat × Nat) : Option Nat :=
  if x.2.2.1 ≠ 0 then some x.2.2.1
  else
    let a := x.2.2.2 / 64 + 1
    ((upTo 64).map (a + ·)).find? fun sl =>
      let e := slotEntry s (sl % 64) x.1
      isKind e 0 && pktPt s x.2.1 == some (entPt e)

/-- The packets of a port that are due first are processed, in order of arrival (R68). -/
def doProcessingSlot (s : State) (port : Nat) : State :=
  let mine := s.net.arrived.filter fun x => x.1 == port
  match leastBy id (mine.filterMap (dueSlot s)) with
  | none => s
  | some d =>
    let due := fun x => x.1 == port && dueSlot s x == some d
    let s1 := advanceFt { s with net := { s.net with arrived := s.net.arrived.filter fun x => !due x } } (d * 64)
    forAll (s.net.arrived.filter due) (fun s x =>
      process (if x.2.2.1 = 0 then lateCount s port x.2.1 else s) port x.2.1) s1

/-- PROCESSING_SLOT (R68). -/
def execProcessingSlot (port : Port) (s : State) : Host.Outcome State Fault Refusal :=
  .next (whenAlive s (doProcessingSlot · port))

/-- The partner that a packet of the module's own goes to: the lowest bound PID with its NODE_ID. -/
def partnerAt (s : State) (node : Nat) : Option Nat :=
  (upTo 4096).find? fun p => pidState s p != 0 && nodeOf s p == node

/-- ROUTE_RETURN (R357): a packet returned ROUTE_STALE is sent once more under the active epoch; one that has been sent
once more is discarded. (DEDUCED, log 56) -/
def execRouteReturn (status : Nat) (p : Packet) (s : State) : Host.Outcome State Fault Refusal :=
  .next (whenAlive s fun s =>
    if s.net.resent.contains p then { s with net := { s.net with resent := s.net.resent.filter (· != p) } }
    else if status = 16 ∧ p.src = getF s ROUTE.SELF_NODE_ID then
      let q := partnerAt s p.dst
      let k := match q with
        | some x => if p.cls = 4 then 0 else classQueue p.cls (pidPt s x)
        | none => 0
      sendOwn s { pkt := p, kind := k, pid := q, ready := s.time.ft, again := true }
    else s)

/-! A port leaves service (R358). -/

/-- The routing entry that chose a queued packet's port. -/
def entryOf (s : State) (x : Sending) : Nat :=
  routeEntry s (routeBank s x.old) x.dim (if x.dim = 0 then x.pkt.dst % 256 else x.pkt.dst / 256)

/-- A queued packet of a port out of service moves to another port, or is returned with PORT_DOWN. -/
def movePacket (s : State) (x : Sending) : State :=
  let go := if x.pkt.mc then none else choosePort s (entryOf s x) x.pkt.dst (chanClass x)
  match go with
  | some q => enqueue s q x
  | none =>
    if x.kind = 1 ∨ x.kind = 2 then returnPkt s 19 x.pkt
    else if x.pkt.opcode = 0x73 then bumpF s ROUTE.UNDELIVERED_COUNT
    else sendingGone (countReturn s 19) x

/-- The queues of a port that has left service are emptied (R358). -/
def doPortOut (s : State) (port : Nat) : State :=
  if portUp s port then s
  else
    let xs := queueKinds.flatMap (queueOf s port)
    forAll xs movePacket (forAll queueKinds (fun s k => setQueue s port k []) s)

/-- PORT_OUT_OF_SERVICE (R358). -/
def execPortOutOfService (port : Port) (s : State) : Host.Outcome State Fault Refusal :=
  .next (whenAlive s (doPortOut · port))

/-! The routing tables (R359, R360, R378). -/

/-- A routing entry of a table meets the rules of R359. -/
def routeEntryOk (s : State) (dim e : Nat) : Bool :=
  let ps := entryPorts e
  decide (e < 2 ^ 28) && (!e.testBit 0 ||
    (ps.all fun p => decide (p < 48) && getF s (PORT.XPORT_CTL_GROUP p) == dim) && decide ps.Nodup)

/-- Every entry of the shadow bank meets the rules. -/
def shadowOk (s : State) : Bool :=
  let b := 1 - getF s ROUTE.ROUTE_STS_ACTIVE
  s.net.route.all fun x => x.1 / 512 != b || routeEntryOk s (x.1 / 256 % 2) x.2

/-- A flip waits for its drain. -/
def draining (s : State) : Bool := flag s ROUTE.ROUTE_STS_DRAINING

/-- The shadow bank cannot be written. -/
def shadowShut (s : State) : Bool := draining s || flag s ROUTE.ROUTE_STS_OLD_VALID

/-- ROUTE_CMD.FLIP (R359). -/
def doRouteFlip (s : State) : State :=
  let r := if !shadowOk s then 1 else if anyRun s then 2 else if shadowShut s then 3 else 0
  let s1 := setF s ROUTE.ROUTE_STS_RESULT r
  if r = 0 then
    let s2 := setB s1 ROUTE.ROUTE_STS_DRAINING true
    { s2 with net := { s2.net with drainAt := s2.time.elapsed } }
  else raise s1 0x0700 1

/-- ROUTE_FLIP (R359). -/
def execRouteFlip (s : State) : Host.Outcome State Fault Refusal := .next (whenAlive s doRouteFlip)

/-- ROUTE_CMD.COPY (R378): refused while OLD_VALID; the shadow is not written while a flip is pending (R359). -/
def doRouteCopy (s : State) : State :=
  if shadowShut s then s
  else
    let a := getF s ROUTE.ROUTE_STS_ACTIVE
    let act := s.net.route.filter fun x => x.1 / 512 == a
    let sh := act.map fun x => (x.1 % 512 + (1 - a) * 512, x.2)
    { s with net := { s.net with route := if a = 0 then act ++ sh else sh ++ act } }

/-- ROUTE_COPY (R378). -/
def execRouteCopy (s : State) : Host.Outcome State Fault Refusal := .next (whenAlive s doRouteCopy)

/-- Some egress queue holds a packet that the routing tables placed. -/
def routedQueued (s : State) : Bool := s.net.egress.any fun e => e.2.any fun x => !x.pkt.mc

/-- Routing resumes for a packet that waited for the drain. -/
def resumeRoute (s : State) (w : Nat × Sending) : State :=
  if w.1 = 0 then sendOwn s { w.2 with ready := max w.2.ready s.time.ft }
  else forward (freeUnits s (w.1 - 1) w.2.pkt) (w.1 - 1) w.2.pkt

/-- The flip (R359, R360): the shadow becomes active with the next epoch, and routing resumes. -/
def applyFlip (s : State) : State :=
  let s1 := setF s ROUTE.ROUTE_STS_ACTIVE (1 - getF s ROUTE.ROUTE_STS_ACTIVE)
  let s2 := setF s1 ROUTE.ROUTE_STS_EPOCH (getF s ROUTE.ROUTE_STS_EPOCH + 1)
  let s3 := setB (setB s2 ROUTE.ROUTE_STS_OLD_VALID true) ROUTE.ROUTE_STS_DRAINING false
  let s4 := raise { s3 with net := { s3.net with oldEnd := s3.time.elapsed + 1000000, waiting := [] } } 0x0700 0
  forAll s.net.waiting resumeRoute s4

/-- ROUTE_FLIP_DRAINED (R359). -/
def execRouteFlipDrained (s : State) : Host.Outcome State Fault Refusal :=
  .next (whenAlive s fun s => if draining s && !routedQueued s then applyFlip s else s)

/-- DRAIN_TIMEOUT (R359): the packets still queued launch as queued. -/
def execDrainTimeout (s : State) : Host.Outcome State Fault Refusal :=
  .next (whenAlive s fun s =>
    if draining s then
      let s1 := advanceEl s (s.net.drainAt + 1000 * max 1 (getF s ROUTE.DRAIN_LIMIT_US))
      let s2 := { s1 with net := { s1.net with
        egress := s1.net.egress.map fun e => (e.1, e.2.map fun x => { x with old := true }) } }
      applyFlip (raise s2 0x0700 2)
    else s)

/-- OLD_BANK_END (R360). -/
def execOldBankEnd (s : State) : Host.Outcome State Fault Refusal :=
  .next (whenAlive s fun s =>
    if flag s ROUTE.ROUTE_STS_OLD_VALID then
      raise (setB (advanceEl s s.net.oldEnd) ROUTE.ROUTE_STS_OLD_VALID false) 0x0700 3
    else s)

/-- The key of the entry that TBL_ADDR names in a bank. -/
def tblKey (s : State) (bank : Nat) : Nat :=
  bank * 512 + getF s ROUTE.TBL_ADDR_DIM * 256 + getF s ROUTE.TBL_ADDR_INDEX

/-- INDEX advances after an access of TBL_DATA while AUTOINC is 1 (Table 12-10). -/
def tblStep (s : State) : State :=
  if flag s ROUTE.TBL_ADDR_AUTOINC then wrapF s ROUTE.TBL_ADDR_INDEX 1 else s

/-- A write of TBL_DATA (R359, R378). -/
def doTblData (s : State) (v : Nat) : State :=
  if shadowShut s then tblStep s
  else
    let k := tblKey s (1 - getF s ROUTE.ROUTE_STS_ACTIVE)
    tblStep { s with net := { s.net with route := Store.set 0 s.net.route k (v % 2 ^ 32) } }

/-- ROUTE_TBL_DATA (R378). -/
def execRouteTblData (value : Nat) (s : State) : Host.Outcome State Fault Refusal := .next (whenAlive s (doTblData · value))

/-- What TBL_DATA reads. -/
def readTblData (s : State) : Nat :=
  let a := getF s ROUTE.ROUTE_STS_ACTIVE
  Store.get 0 s.net.route (tblKey s (if flag s ROUTE.TBL_ADDR_READ_ACTIVE then a else 1 - a))

/-! Credits (R363, R366, R368, R425). -/

/-- The ladder's level (R433). -/
def ladder (s : State) : Nat := max (getF s PWR.PWR_STS_LEVEL) (getF s PWR.PWR_STS_THERM_LEVEL)

/-- What is spent from a bucket filled at `rate` a nanosecond. -/
def spentNow (s : State) (b : Nat × Nat) (rate : Nat) : Nat := b.1 - rate * (s.time.elapsed - b.2)

/-- Bucket size in tenths of a byte: units of 256 B, 0 acts as 1. -/
def bucketSize (burst : Nat) : Nat := max 1 burst * 2560

/-- A port is congested (R367). -/
def congested (s : State) (p : Nat) : Bool := decide (getF s (PORT.CC_THRESH_BYTES p) ≤ portDepth s p)

/-- The ports that the routing entry of a node lists. -/
def portsToward (s : State) (node : Nat) : List Nat :=
  let self := getF s ROUTE.SELF_NODE_ID
  let dim := if node % 256 ≠ self % 256 then 0 else 1
  let e := routeEntry s (routeBank s false) dim (if dim = 0 then node % 256 else node / 256)
  if e.testBit 0 then entryPorts e else []

/-- The throttle of R368 holds back a PID's next release. -/
def throttled (s : State) (pid : Nat) : Bool :=
  let n := getF s SHAPE.THR_NS_NS
  !detOn s
    && (portsToward s (nodeOf s pid)).any (fun p => getF s (PORT.XPORT_CTL_CC_MODE p) == 2 && congested s p)
    && (match s.net.lastRel.find? fun e => e.1 == pid with
      | some e => decide (s.time.elapsed < e.2 + (if n = 0 then 64 else n))
      | none => false)

/-- Release a credit of a PID: ECRED advances, the policer's tokens and stage C's allowance are spent. -/
def releaseCredit (s : State) (pid pt cost spent : Nat) (rest : List Nat) : State :=
  let s1 := wrapF s (SHAPE.E2E_DATA_ECRED pid) 1
  let n := s1.net
  { s1 with
    net := { n with
      owed := Store.set [] n.owed pid rest, heldBack := n.heldBack.filter (· != pid),
      lastRel := Store.ins n.lastRel pid s.time.elapsed, changed := Store.set 0 n.changed pid s.time.elapsed,
      policer := Store.set (0, 0) n.policer pt (spent + 10 * cost, s.time.elapsed) }
    pwr := { s1.pwr with
      released := s1.pwr.released + 1, tokens := Store.set 0 s1.pwr.tokens pt (Store.get 0 s1.pwr.tokens pt - 1) } }

/-- CREDIT_RELEASE: the oldest freed credit of a PID is released when the policer, the throttle and stage C permit;
otherwise it waits and is counted once in WITHHELD. -/
def doCreditRelease (s : State) (pid : Nat) : State :=
  match Store.get [] s.net.owed pid with
  | [] => s
  | cost :: rest =>
    let pt := pidPt s pid
    let rate := getF s (SHAPE.POL_CFG_RATE pt)
    let spent := spentNow s (Store.get (0, 0) s.net.policer pt) rate
    let poor := rate != 0 && decide (bucketSize (getF s (SHAPE.POL_CFG_BURST pt)) < spent + 10 * cost)
    let stageC := decide (18 ≤ ladder s) && Store.get 0 s.pwr.tokens pt == 0
    if poor || throttled s pid || stageC then
      if s.net.heldBack.contains pid then s
      else
        let s1 := bumpF s SHAPE.WITHHELD_COUNT
        { s1 with net := { s1.net with heldBack := pid :: s1.net.heldBack } }
    else releaseCredit s pid pt cost (if rate = 0 then 0 else spent) rest

/-- CREDIT_RELEASE (R366). -/
def execCreditRelease (pid : Pid) (s : State) : Host.Outcome State Fault Refusal :=
  .next (whenAlive s (doCreditRelease · pid))

/-- ECRED of a PID. -/
def ecredOf (s : State) (pid : Nat) : Nat := getF s (SHAPE.E2E_DATA_ECRED pid)

/-- ECRED has been sent to a PID. -/
def noteSent (s : State) (pid : Nat) : State :=
  { s with net := { s.net with sent := Store.set 0 s.net.sent pid (ecredOf s pid) } }

/-- E2E_CREDIT (R363): ECRED has gone unsent for 512 ns. -/
def execE2eCredit (pid : Pid) (s : State) : Host.Outcome State Fault Refusal :=
  .next (whenAlive s fun s =>
    if pidState s pid ≠ 0 ∧ ecredOf s pid ≠ Store.get 0 s.net.sent pid then
      let s1 := advanceEl s (Store.get 0 s.net.changed pid + 512)
      sendMgmt (noteSent s1 pid) pid 0x74 8 (ecredOf s pid + getF s (SHAPE.E2E_DATA_LIMIT pid) * 65536)
    else s)

/-- The LIMITs of the PIDs bound to a partition, that of `but` left out. -/
def limitSum (s : State) (pt but : Nat) : Nat :=
  (((upTo 4096).filter fun p => pidBound s p pt && p != but).map fun p => getF s (SHAPE.E2E_DATA_LIMIT p)).sum

/-- A write of a PID's LIMIT (R363). -/
def doLimitWrite (s : State) (v : Nat) : State :=
  let pid := getF s SHAPE.E2E_ADDR_PID
  let pt := pidPt s pid
  if pidState s pid ≠ 0 ∧ 4096 * (viewCores s pt).length < limitSum s pt pid + v % 256 then
    setB s SHAPE.E2E_STS_REFUSED true
  else setB (setF s (SHAPE.E2E_DATA_LIMIT pid) v) SHAPE.E2E_STS_REFUSED false

/-- E2E_LIMIT_WRITE (R363). -/
def execE2eLimitWrite (value : Nat) (s : State) : Host.Outcome State Fault Refusal :=
  .next (whenAlive s (doLimitWrite · value))

/-! Multicast groups (R369). -/

/-- Write a register of a group: MC_CTL, MC_ID, MC_PORTS_LO, MC_PORTS_HI. -/
def putGroup (s : State) (g reg v : Nat) : State :=
  match reg with
  | 0 => setF (setF (setF s (ROUTE.MC_CTL_V g) v) (ROUTE.MC_CTL_PT g) (v / 2)) (ROUTE.MC_CTL_DIM g) (v / 32)
  | 1 => setF s (ROUTE.MC_ID_MCID g) v
  | 2 => setF s (ROUTE.MC_PORTS g) (insertBits (getF s (ROUTE.MC_PORTS g)) 0 32 v)
  | _ => setF s (ROUTE.MC_PORTS g) (insertBits (getF s (ROUTE.MC_PORTS g)) 32 16 v)

/-- A write of a group's entry (R369): refused where PORTS would name a port outside the group that DIM selects. -/
def doGroupWrite (s : State) (reg v : Nat) : State :=
  let g := getF s ROUTE.MC_SEL_GROUP
  if g = 0 then s
  else
    let s1 := putGroup s g reg v
    let ok := (upTo 48).all fun p =>
      !(getF s1 (ROUTE.MC_PORTS g)).testBit p || getF s (PORT.XPORT_CTL_GROUP p) == getF s1 (ROUTE.MC_CTL_DIM g)
    if ok then setB s1 ROUTE.MC_STS_REFUSED false else setB s ROUTE.MC_STS_REFUSED true

/-- MC_GROUP_WRITE (R369). -/
def execMcGroupWrite (reg : Fin 4) (value : Nat) (s : State) : Host.Outcome State Fault Refusal :=
  .next (whenAlive s (doGroupWrite · reg value))

/-- A partition holds a multicast group (R369). -/
def holdsGroup (s : State) (pt g : Nat) : Bool :=
  decide (0 < g ∧ g < 256) && flag s (ROUTE.MC_CTL_V g) && getF s (ROUTE.MC_CTL_PT g) == pt

/-! Egress scheduling (R61, R69, R371 to R374). -/

/-- A packet may start now on a port: it is ready, and the hop credit of its channel is there (R335). -/
def startable (s : State) (port : Nat) (x : Sending) : Bool :=
  decide (x.ready ≤ s.time.ft) && creditOk (getLink s port) (portVc s port x.pkt) (pktUnits x.pkt)

/-- The head of a queue, where it may start. -/
def headOf (s : State) (port k : Nat) : Option (Nat × Nat) :=
  match queueOf s port k with
  | x :: _ => if startable s port x then some (k, charge s x.pkt) else none
  | [] => none

/-- The next packet of a flow: its queue and charge. Flow 16 is FWD, in which FSNP and FWD alternate (R371). -/
def flowHead (s : State) (port f : Nat) : Option (Nat × Nat) :=
  if f = 16 then
    let order := if Store.get 1 s.net.fwdLast port = 1 then [2, 1] else [1, 2]
    order.findSome? (headOf s port)
  else [3 + f, 19 + f, 35 + f].findSome? (headOf s port)

/-- A flow's queues are empty. -/
def flowEmpty (s : State) (port f : Nat) : Bool :=
  (if f = 16 then [1, 2] else [3 + f, 19 + f, 35 + f]).all fun k => (queueOf s port k).isEmpty

/-- The RATE of a flow in force on a port, in fortieths of a byte a nanosecond: scaled by the width (R372). -/
def shapeRate (s : State) (port f : Nat) : Nat :=
  let r := getF s (SHAPE.RATE_DATA_RATE (port + 64 * f))
  match getF s (PORT.LINK_STS_WIDTH port) with
  | 1 => r
  | 2 => 2 * r
  | _ => 4 * r

/-- Fortieths of a byte spent from a flow's bucket. -/
def shapeSpent (s : State) (port f : Nat) : Nat :=
  spentNow s (Store.get (0, 0) s.net.shaper (port * 32 + f)) (shapeRate s port f)

/-- The shaper passes a flow over: its bucket is empty. A RATE of 0 leaves it unshaped. -/
def shaped (s : State) (port f : Nat) : Bool :=
  getF s (SHAPE.RATE_DATA_RATE (port + 64 * f)) != 0
    && decide (4 * bucketSize (getF s (SHAPE.RATE_DATA_BURST (port + 64 * f))) ≤ shapeSpent s port f)

/-- The weight of a scheduler entry: 0 to 15 partitions, 16 FWD, 17 to 20 groups; 0 acts as 1. (DEDUCED, log 61) -/
def weightOf (s : State) (e : Nat) : Nat :=
  max 1 (if e < 16 then bitsOf (getF s (SHAPE.WEIGHT_W (e / 4))) (8 * (e % 4)) 8
    else if e = 16 then getF s SHAPE.WEIGHT_FWD_W
    else bitsOf (getF s SHAPE.GWEIGHT_W) (8 * (e - 17)) 8)

/-- What an entry's deficit gains in a round. -/
def quantumOf (s : State) (e : Nat) : Nat :=
  let q := getF s SHAPE.SHAPE_CTL_QUANTUM
  weightOf s e * (if q = 0 then 32 else q)

/-- The memory of one round robin: deficits by entry, and twice the position served, plus 1 once it has its quantum. -/
abbrev Drr := Store Nat × Nat

/-- One round robin over `es`: the entry that launches next and the memory then. `cost e` is the charge of the entry's
next packet, absent where it has none that may start; `cap e` says that the entry is passed over and keeps at most a
quantum, `empty e` that it has nothing. (DEDUCED, log 61) -/
def drr (s : State) (es : List Nat) (cost : Nat → Option Nat) (cap empty : Nat → Bool) : Nat → Drr → Option (Nat × Drr)
  | 0, _ => none
  | n + 1, (ds, t) =>
    let i := t / 2 % es.length
    let e := es.getD i 0
    let d := Store.get 0 ds e
    let next := 2 * ((i + 1) % es.length)
    match cost e with
    | some c =>
      let d1 := if t % 2 = 1 then d else d + quantumOf s e
      if c ≤ d1 then some (e, Store.set 0 ds e (d1 - c), 2 * i + 1)
      else drr s es cost cap empty n (Store.set 0 ds e d1, next)
    | none =>
      let d1 := if empty e then 0 else if cap e then min d (quantumOf s e) else d
      drr s es cost cap empty n (Store.set 0 ds e d1, next)

/-- The scheduler memory of a port: entries 0 to 20. -/
def drrOf (s : State) (port top : Nat) : Drr :=
  (((upTo 21).map fun e => (e, Store.get 0 s.net.deficit (port * 64 + e))).filter (·.2 != 0),
    Store.get 0 s.net.turn (port * 8 + top))

/-- Write the scheduler memory of a port. -/
def setDrr (s : State) (port top : Nat) (m : Drr) : State :=
  { s with net := { s.net with
    deficit := (upTo 21).foldl (fun d e => Store.set 0 d (port * 64 + e) (Store.get 0 m.1 e)) s.net.deficit,
    turn := Store.set 0 s.net.turn (port * 8 + top) m.2 } }

/-- Rounds enough for the largest charge to meet the smallest quantum. -/
def drrFuel : Nat := 512

/-- The flow that may launch, with its queue: absent where it has nothing to start or the shaper passes it over. -/
def flowCost (s : State) (port f : Nat) : Option Nat :=
  if shaped s port f then none else (flowHead s port f).map (·.2)

/-- The inner choice of a group (R373): its partition, and the memory then. -/
def groupPick (s : State) (port g : Nat) : Option (Nat × Drr) :=
  let es := (upTo 4).map (4 * g + ·)
  if es.any fun f => (flowCost s port f).isSome then
    drr s es (flowCost s port) (shaped s port) (flowEmpty s port) drrFuel (drrOf s port (1 + g))
  else none

/-- The charge of what an outer entry of the hierarchical mode would launch. -/
def outerCost (s : State) (port e : Nat) : Option Nat :=
  if e = 16 then flowCost s port 16
  else match groupPick s port (e - 17) with
    | some (f, _) => flowCost s port f
    | none => none

/-- An outer entry has nothing queued. -/
def outerEmpty (s : State) (port e : Nat) : Bool :=
  if e = 16 then flowEmpty s port 16 else (upTo 4).all fun i => flowEmpty s port (4 * (e - 17) + i)

/-- The flow that launches next with the mode off, and the state with the scheduler's memory moved on (R371, R373). -/
def schedule (s : State) (port : Nat) : Option (Nat × State) :=
  if (upTo 17).all fun f => (flowCost s port f).isNone then none
  else if flag s SHAPE.SHAPE_CTL_MODE then
    match drr s [17, 18, 19, 20, 16] (outerCost s port) (fun e => e == 16 && shaped s port 16) (outerEmpty s port)
        drrFuel (drrOf s port 0) with
    | none => none
    | some (e, m) =>
      let s1 := setDrr s port 0 m
      if e = 16 then some (16, s1)
      else match groupPick s port (e - 17) with
        | none => none
        | some (f, mi) =>
          let keep : Store Nat := ((upTo 21).map fun x =>
            (x, Store.get 0 (if 4 * (e - 17) ≤ x ∧ x < 4 * (e - 17) + 4 then mi.1 else m.1) x)).filter (·.2 != 0)
          some (f, setDrr s1 port (1 + (e - 17)) (keep, mi.2))
  else
    match drr s (upTo 17) (flowCost s port) (shaped s port) (flowEmpty s port) drrFuel (drrOf s port 0) with
    | none => none
    | some (f, m) => some (f, setDrr s port 0 m)

/-- The header fields that a packet leaves with: ECRED to a partner, CE of a congested port, the launch slot
(R363, R367, R68). -/
def stamped (s : State) (port : Nat) (x : Sending) : Packet :=
  let p := x.pkt
  let p1 := match x.pid with
    | some pid => { p with ecred := ecredOf s pid, ecv := true }
    | none => p
  let p2 := { p1 with ce := p.ce || (!detOn s && getF s (PORT.XPORT_CTL_CC_MODE port) == 1 && congested s port) }
  if detOn s then
    let on := (getF s (PORT.LINK_STS_AFEAT port)).testBit 2
    { p2 with lslot := if on then slotOf s else 0, lsv := on }
  else p2

/-- A queued packet is the one given: the first such leaves the queue. -/
def takeFirst (x : Sending) : List Sending → List Sending
  | [] => []
  | y :: ys => if y = x then ys else y :: takeFirst x ys

/-- Charged bytes launched count for the energy of the period (R440). -/
def countSent (s : State) (port : Nat) (x : Sending) : State :=
  let k := port * 64 + x.kind
  { s with pwr := { s.pwr with sentBytes := Store.set 0 s.pwr.sentBytes k (Store.get 0 s.pwr.sentBytes k + charge s x.pkt) } }

/-- Launch a packet of a port's queue. (DEDUCED, log 56) -/
def launch (s : State) (port : Nat) (x : Sending) : State :=
  let p := stamped s port x
  let s1 := setQueue s port x.kind (takeFirst x (queueOf s port x.kind))
  let s2 := wrapF s1 (PORT.PKT_TX port) 1
  let s3 := if p.ce && !x.pkt.ce then bumpF s2 (PORT.CE_MARKED_COUNT port) else s2
  let s4 := match x.pid with
    | some pid => noteSent s3 pid
    | none => s3
  let s5 := { s4 with net := { s4.net with
    wire := s4.net.wire ++ [(port, p)],
    resent := if x.again then s4.net.resent ++ [p] else s4.net.resent,
    fwdLast := if x.kind = 1 ∨ x.kind = 2 then Store.set 1 s4.net.fwdLast port x.kind else s4.net.fwdLast } }
  linkSend (sendingGone (countSent s5 port x) x) port p

/-- Spend a flow's shaper tokens for a launch (R372). -/
def spendShape (s : State) (port f cost : Nat) : State :=
  if getF s (SHAPE.RATE_DATA_RATE (port + 64 * f)) = 0 then s
  else
    let b := (shapeSpent s port f + 40 * cost, s.time.elapsed)
    { s with net := { s.net with shaper := Store.set (0, 0) s.net.shaper (port * 32 + f) b } }

/-- A flow that empties sets its deficit to 0 (R371). -/
def clearEmpty (s : State) (port f : Nat) : State :=
  let z := fun (s : State) e => { s with net := { s.net with deficit := Store.set 0 s.net.deficit (port * 64 + e) 0 } }
  let s1 := if flowEmpty s port f then z s f else s
  if f ≠ 16 ∧ flag s SHAPE.SHAPE_CTL_MODE ∧ outerEmpty s port (17 + f / 4) then z s1 (17 + f / 4) else s1

/-- A launch with the mode off: MGMT first; other queues not in a MGMT slot (R61, R371 to R373). -/
def launchOff (s : State) (port : Nat) : State :=
  match headOf s port 0 with
  | some _ => match queueOf s port 0 with
    | x :: _ => launch s port x
    | [] => s
  | none =>
    if isKind (slotEntry s (slotOf s) port) 2 then s
    else match schedule s port with
      | none => s
      | some (f, s1) =>
        match flowHead s port f with
        | none => s
        | some (k, c) => match queueOf s port k with
          | x :: _ => clearEmpty (launch (spendShape s1 port f c) port x) port f
          | [] => s

/-- The rank of a packet in the launch order of R69: class, slot of readiness, source core, tag. -/
def launchRank (x : Sending) : Nat :=
  let c := if x.kind = 1 ∨ x.kind = 2 then 2
    else match x.pkt.cls with | 4 => 0 | 2 => 1 | 1 => 3 | 3 => 4 | _ => 5
  ((c * 2 ^ 64 + x.ready / 64) * 32 + x.core) * 65536 + x.pkt.tag

/-- The queues that a slot's entry lets launch (R57, R68). (DEDUCED, log 61) -/
def slotQueues (e : Nat) : List Nat :=
  if isKind e 2 then [0] else if isKind e 1 then [1, 2] else if isKind e 0 then [3 + entPt e, 19 + entPt e, 35 + entPt e] else []

/-- The packet of least rank. -/
def firstRanked : List Sending → Option Sending
  | [] => none
  | x :: xs => match firstRanked xs with
    | none => some x
    | some y => if launchRank y < launchRank x then some y else some x

/-- Hold a packet that its slot finds without hop credit, counted once in each slot (R374). -/
def holdPacket (port sl : Nat) (s : State) (x : Sending) : State :=
  if x.held = sl + 1 then s
  else
    let s1 := setQueue s port x.kind ((queueOf s port x.kind).map fun y => if y = x then { x with held := sl + 1 } else y)
    let s2 := bumpF s1 (PORT.CREDIT_HOLD_COUNT port)
    if 3 ≤ x.kind then recordDx 9 s2 ((x.kind - 3) % 16) else s2

/-- The Fabric Time, in 1/96 ns, at which a packet launched now on a port is transferred: 96 bytes take 1 ns at x4
(Table 03-11, R320), after the packet before it. (DEDUCED, log 143) -/
def transferEnd (s : State) (port : Nat) (p : Packet) : Nat :=
  let lanes := match getF s (PORT.LINK_STS_WIDTH port) with | 1 => 4 | 2 => 2 | _ => 1
  max (s.time.ft * 96) (Store.get 0 s.net.lineEnd port) + pktBytes p * lanes

/-- Launch a packet whose transfer ends by the window's close (R54); another waits for a later slot.
(DEDUCED, log 143) -/
def launchBy (s : State) (port close : Nat) (x : Sending) : State :=
  let e := transferEnd s port x.pkt
  if close * 96 < e then s else launch { s with net := { s.net with lineEnd := Store.set 0 s.net.lineEnd port e } } port x

/-- A launch in deterministic mode: of the packets ready in the slot, in the order of R69; the launch window is ticks 3
to 14 of the slot (R54, R374). -/
def launchOn (s : State) (port : Nat) : State :=
  let sl := s.time.ft / 64
  let s0 := advanceFt s (sl * 64 + 12)
  if sl * 64 + 60 ≤ s.time.ft then s
  else
    let ready := ((slotQueues (slotEntry s (slotOf s) port)).flatMap (queueOf s port)).filter fun x =>
      decide (x.ready / 64 ≤ sl) && x.held != sl + 1
    let can := ready.filter fun x => creditOk (getLink s port) (portVc s port x.pkt) (pktUnits x.pkt)
    match firstRanked can with
    | some x =>
      let blocked := ready.filter fun y => !can.contains y && decide (launchRank y < launchRank x)
      launchBy (forAll blocked (holdPacket port sl) s0) port (sl * 64 + 60) x
    | none => forAll ready (holdPacket port sl) s0

/-- EGRESS_LAUNCH (R371, R374): a launch needs an ACTIVE port with room in its replay buffer (R319, R327). What waits
before it goes first. -/
def execEgressLaunch (port : Port) (s : State) : Host.Outcome State Fault Refusal :=
  .next (whenAlive s fun s0 =>
    let s := flushLink s0 port
    if mayStart s port then
      if detOn s then launchOn s port else launchOff s port
    else s)

end Sys2Proof.Machine
end

