-- ==== Sys2Proof/Machine/Sequencer.lean ====
section
/-!
DEFINITION. Command apertures, FIFOs and sequencers (chapter 6): how a descriptor is accepted, flushed, read, checked,
spread over cores and expanded into tiles, and how its shares are reported and its record formed.
-/

namespace Sys2Proof.Machine

/-! Command apertures (R142 to R146, R520). -/

/-- A core that takes no descriptors: the secondary of a pair, until a fail-over makes it the home (R144). -/
def passive (s : State) (c : Nat) : Bool :=
  !lostCore s c && (upTo 16).any fun p => secondaryOf s p == some c && serving s p != c

/-- A core that a partition's descriptors may name (R151). -/
def runsFor (s : State) (pt c : Nat) : Bool := ownerOf s c == some pt && !passive s c

/-- The FIFO of a partition on a core. (DESIGN CHOICE, log 81) -/
def fifoOf (s : State) (c pt : Nat) : List FifoEnt := Store.get [] s.eng.fifos (c * 16 + pt)
/-- Replace it. -/
def setFifo (s : State) (c pt : Nat) (l : List FifoEnt) : State :=
  { s with eng := { s.eng with fifos := Store.set [] s.eng.fifos (c * 16 + pt) l } }
/-- Descriptors accepted by a core. -/
def acceptedOf (s : State) (c : Nat) : Nat := Store.get 0 s.eng.accepted c
/-- A flush waits: the accepted number below which descriptors go. -/
def flushMark (s : State) (c : Nat) : Option Nat := match Store.get 0 s.eng.mark c with | 0 => none | n + 1 => some n

/-- The sequencer expands a local descriptor, or fetches its pattern. -/
def expanding (s : State) (c : Nat) : Bool :=
  s.eng.shares.any fun h => h.core == c && h.lead == c && (h.phase == 1 || h.phase == 2)

/-- The measurement of an image slot ends with a status (R402). -/
def imgEnds (s : State) (slot status : Nat) : State :=
  { s with sec := { s.sec with imgStatus := Store.set 0 s.sec.imgStatus slot (status + 1) } }

/-- The HASH descriptor that measures an image slot (R402): ORDER, NOCMPL, the built-in pattern and ROOT over its region. -/
def imgDesc (s : State) (slot : Nat) : Nat :=
  4 + 2 ^ 8 + 2 ^ 16 + 2 ^ 18 + getF s (ATT.IMG_PVA slot) * 65536 * 2 ^ 320 + getF s (ATT.IMG_LEN_UNITS slot) * 65536 * 2 ^ 448

/-- Image descriptors that wait go into the FIFOs that have room: that of the partition's lowest core in service that is
no secondary (R402). (DEDUCED, log 97) -/
def placeImages (s : State) : State :=
  forAll s.sec.imgWait (fun s k =>
    let pt := getF s (ATT.IMG_CTL_PT k)
    match (coresOf s pt).find? fun c => coreUp s c && !passive s c with
    | none => s
    | some c =>
      let l := fifoOf s c pt
      if 32 ≤ l.length then s
      else
        let n := acceptedOf s c
        let s1 := setFifo s c pt (l ++ [{ desc := imgDesc s k, num := n, img := some k }])
        { s1 with eng := { s1.eng with accepted := Store.set 0 s1.eng.accepted c (n + 1) }
                  sec := { s1.sec with imgWait := s1.sec.imgWait.filter (· != k) } }) s

/-- SEED_USED of a descriptor that ends before a seed is drawn (Table 06-8). (DEDUCED, log 73) -/
def seedGiven (d : Nat) : Nat := if dRmode d = 2 && !dTrng d then dSeed d else 0

/-- A descriptor is discarded by a flush. -/
def flushOne (c pt : Nat) (s : State) (e : FifoEnt) : State :=
  match e.img with
  | some k => imgEnds (countDone s c) k 37
  | none => endEarly s c pt e.num e.desc 37 0 (seedGiven e.desc)

/-- The flush takes effect (R148): the descriptors accepted before the mark are discarded with FLUSHED records.
(DEDUCED, log 97) -/
def flushNow (s : State) (c : Nat) : State :=
  match flushMark s c with
  | none => s
  | some n =>
    let cmd := Store.get false s.eng.markCmd c
    let s1 := { s with eng := { s.eng with mark := Store.del s.eng.mark c, markCmd := Store.del s.eng.markCmd c } }
    let s2 := match ownerOf s1 c with
      | none => s1
      | some pt =>
        let l := fifoOf s1 c pt
        let gone := l.filter (·.num < n)
        addF (forAll gone (flushOne c pt) (setFifo s1 c pt (l.filter fun e => !(e.num < n))))
          (SCORE.FLUSHED_COUNT c) gone.length
    if cmd then raise s2 (0x0100 + c) 4 else s2

/-- Mark a flush (R148); it takes effect at once when no local descriptor is being expanded. -/
def markFlush (s : State) (c : Nat) (cmd : Bool) : State :=
  let both := cmd || Store.get false s.eng.markCmd c
  let s1 := { s with eng := { s.eng with mark := Store.set 0 s.eng.mark c (acceptedOf s c + 1)
                                         markCmd := Store.set false s.eng.markCmd c both } }
  if expanding s1 c then s1 else flushNow s1 c

/-- The core and the offset that an aperture message names (R142). -/
def apCore (r : Req) : Nat := bitsOf r.pva 12 4
def apOff (r : Req) : Nat := bitsOf r.pva 0 12

/-- Answer an aperture message (R144): CMD_RSP with 8 bytes. -/
def apAnswer (s : State) (r : Req) (status value : Nat) : State :=
  answer s r (apCore r) 0x49 status 8 value s.time.ft

/-- The refusals of R520, item 7, before BAD_OFFSET. -/
def apRefusal (s : State) (r : Req) : Option Nat :=
  let c := apCore r
  if ownerOf s c ≠ some r.pt ∨ passive s c then some 33 else if !coreUp s c then some 4 else none

/-- A CMD_WRITE to DESC (R143 to R146). (DESIGN CHOICE, log 81) -/
def takeDesc (s : State) (r : Req) : State :=
  let c := apCore r
  match apRefusal s r with
  | some st => apAnswer s r st 0
  | none =>
    if 2 ^ 16 ≤ r.pva ∨ apOff r ≠ 0 then apAnswer s r 34 0
    else
      let l := fifoOf s c r.pt
      if 32 ≤ l.length then apAnswer s r 32 0
      else
        let n := acceptedOf s c
        let s1 := setFifo s c r.pt (l ++ [{ desc := r.data % 2 ^ 512, num := n }])
        apAnswer { s1 with eng := { s1.eng with accepted := Store.set 0 s1.eng.accepted c (n + 1) } } r 0 0

/-- CMDQ_COUNT (Table 06-2). -/
def cmdqCount (s : State) (c pt : Nat) : Nat :=
  (fifoOf s c pt).length + (if (flushMark s c).isSome then 64 else 0) + (acceptedOf s c % 2 ^ 32) * 2 ^ 32

/-- A CMD_READ (R143). -/
def takeRead (s : State) (r : Req) : State :=
  match apRefusal s r with
  | some st => apAnswer s r st 0
  | none =>
    if 2 ^ 16 ≤ r.pva ∨ apOff r ≠ 0x040 then apAnswer s r 34 0 else apAnswer s r 0 (cmdqCount s (apCore r) r.pt)

/-- A CMD_WRITE to FLUSH (R143, R148). -/
def takeFlush (s : State) (r : Req) : State :=
  match apRefusal s r with
  | some st => apAnswer s r st 0
  | none =>
    if 2 ^ 16 ≤ r.pva ∨ 2 ≤ r.data % 2 ^ 512 then apAnswer s r 34 0
    else if r.data % 2 = 1 then markFlush (apAnswer s r 0 0) (apCore r) false
    else apAnswer s r 0 0

/-- A core processes the stored aperture message of a PID and TAG (R145): with deterministic mode in force only in its
PART slots, which all name its owner (R58), and after those of lower PIDs that became ready in the same slot. A core that
no partition owns has no such slot, and answers at once. (DEDUCED, log 159) -/
def aperture (s : State) (pid tag op : Nat) (sel : Req → Bool) (ties : List Nat) (f : State → Req → State) : State :=
  match findReq s pid tag [op] with
  | none => s
  | some r =>
    if !sel r then s
    else if detOn s then
      let first := ties.any fun p => decide (p < pid) && s.net.store.any fun x =>
        x.pid == p && !x.taken && (x.op == 0x0C || x.op == 0x0D) && apCore x == apCore r
      match ownerOf s (apCore r) with
      | none => if first then s else f s r
      | some p => match partWindow s (apCore r) p s.time.ft with
        | some t => if first then s else f (advanceFt s t) r
        | none => s
    else f s r

/-- CMD_WRITE_DESC (R145). -/
def execCmdWriteDesc (pid : Pid) (tag : Nat) (ties : List Pid) (s : State) : Host.Outcome State Fault Refusal :=
  .next (whenAlive s fun s => aperture s pid tag 0x0C (fun r => apOff r != 0x048) (ties.map (·.val)) takeDesc)
/-- CMD_READ (R143). -/
def execCmdRead (pid : Pid) (tag : Nat) (ties : List Pid) (s : State) : Host.Outcome State Fault Refusal :=
  .next (whenAlive s fun s => aperture s pid tag 0x0D (fun _ => true) (ties.map (·.val)) takeRead)
/-- CMD_WRITE_FLUSH (R148). -/
def execCmdWriteFlush (pid : Pid) (tag : Nat) (ties : List Pid) (s : State) : Host.Outcome State Fault Refusal :=
  .next (whenAlive s fun s => aperture s pid tag 0x0C (fun r => apOff r == 0x048) (ties.map (·.val)) takeFlush)

/-- SEQ_CMD.FLUSH (R148): for the partition that owns the core. -/
def doSeqFlush (s : State) (c : Nat) : State :=
  if coreUp s c && (ownerOf s c).isSome then markFlush s c true else s
/-- SEQ_CMD_FLUSH (R148). -/
def execSeqCmdFlush (core : Core) (s : State) : Host.Outcome State Fault Refusal := .next (whenAlive s (doSeqFlush · core))
/-- FLUSH_TAKES_EFFECT (R148): at the next descriptor boundary. -/
def execFlushTakesEffect (core : Core) (s : State) : Host.Outcome State Fault Refusal :=
  .next (whenAlive s fun s => if expanding s core then s else pumpRecs (flushNow s core))

/-! Completion (R154, R167, R218). -/

/-- Two tallies of an opcode put together. -/
def Tally.join (x y : Tally) : Tally := ⟨min x.first y.first, x.a + y.a, x.b + y.b, x.c + y.c⟩

/-- RESULT of a descriptor whose status is OK. -/
def resultOk (d : Nat) (t : Tally) (root : Option Nat) : Nat :=
  match dOp d with
  | 3 => t.first % 2 ^ 64 + t.a % 2 ^ 64 * 2 ^ 64
  | 4 => root.getD 0
  | 10 => t.a % 2 ^ 64
  | 12 => t.a % 2 ^ 64
  | 13 => t.a % 2 ^ 64 + t.b % 2 ^ 64 * 2 ^ 64 + t.c % 2 ^ 64 * 2 ^ 128
  | _ => 0

/-- SEED_USED. (DEDUCED, log 73) -/
def seedUsed (h : Share) : Nat := if dRmode h.desc = 2 then h.seed else 0

/-- A HASH with ROOT whose ROOT has still to be computed (R225). -/
def rootDue (h : Share) : Bool := dOp h.desc == 4 && opBit0 h.desc && h.root.isNone

/-- The reports of a job. -/
def reportsOf (s : State) (job : Nat) : List Report := s.eng.reports.filter (·.job == job)

/-- The lead's job is done with: its shares and reports leave. -/
def closeJob (s : State) (h : Share) : State :=
  { s with eng := { s.eng with shares := s.eng.shares.filter fun x => !(x.job == h.job && x.core == h.core)
                               reports := s.eng.reports.filter (·.job != h.job) } }

/-- The COLLECTIVE of a share's job on its core ends. (DEDUCED, log 85) -/
def closeColl (s : State) (h : Share) : State := if isColl s h.core h.job then setColl s h.core none else s

/-- Write the short record of an unspread descriptor. -/
def finishShort (s : State) (h : Share) : State :=
  let d := h.desc
  let (st, done, det, res) := match h.fail with
    | some f => (f.status, f.tile, f.detail, f.result)
    | none => (0, h.emitted, 0, resultOk d h.tally h.root)
  let l0 := recordLine0 d st done h.emitted det h.flags (tookPart d h.core) (h.start.getD 0) h.fin (seedUsed h) res false
  let s1 := closeJob (closeColl s h) h
  match h.img with
  | some k => imgEnds (if st = 0 then setF (countDone s1 h.core) (ATT.IMG_MEAS k) (h.root.getD 0) else countDone s1 h.core) k st
  | none => sendRecord s1 h.core h.pt h.num d l0 none

/-- The first tile from `t` on, of those emitted, that falls to a core. -/
def nextTile (h : Share) (core t : Nat) : Option Nat :=
  ((upTo (h.emitted - t)).find? fun i => tileCore h.desc h.lead (t + i) == core).map (t + ·)

/-- The tiles below `t` that fall to a core. -/
def tilesBelow (h : Share) (core t : Nat) : Nat := ((upTo t).filter fun i => tileCore h.desc h.lead i == core).length

/-- The entry of a lost core, once the lead has expanded the pattern: the lowest tile of its share that did not complete
and its write-stream offset. -/
def placeLost (h : Share) (r : Report) : Report :=
  match r.fail with
  | none => r
  | some f =>
    if !f.open_ then r
    else match nextTile h r.core f.tile with
      | some t => { r with fail := some { f with tile := t, below := tilesBelow h r.core t, open_ := false
                                                 offset := h.starts.getD (h.emitted - 1 - t) 0 } }
      | none =>
        let off := match h.fail with | some g => if g.tile = h.emitted then h.bytes else 2 ^ 48 - 1 | none => 2 ^ 48 - 1
        { r with fail := some { f with tile := h.emitted, below := tilesBelow h r.core h.emitted, open_ := false
                                       offset := off } }

/-- The earlier of two start times. -/
def minStart (a b : Option Nat) : Option Nat :=
  match a, b with
  | none, b => b
  | a, none => a
  | some x, some y => some (min x y)

/-- The failure with the lowest tile. -/
def lowestFail (rs : List Report) : Option TileFail :=
  (rs.filterMap (·.fail)).foldl (fun a f => match a with | none => some f | some g => if f.tile < g.tile then some f else some g)
    none

/-- Line 1 of a long record (Table 06-9). -/
def recordLine1 (rs : List Report) : Nat :=
  rs.foldl (fun v r =>
    let e := match r.fail with
      | some f => f.status + (f.offset % 2 ^ 48) * 2 ^ 16
      | none => (2 ^ 48 - 1) * 2 ^ 16
    v + e * 2 ^ (64 * r.core)) 0

/-- Write the long record once every core of the mask has reported (R154). -/
def finishLong (s : State) (h : Share) : State :=
  let d := h.desc
  let rs := (reportsOf s h.job).map (placeLost h)
  let fail := lowestFail rs
  let tally := rs.foldl (fun (t : Tally) (r : Report) => t.join r.tally) ({} : Tally)
  let flags := orAll (rs.map (·.flags))
  let done := (rs.map fun r => match r.fail with | some f => f.below | none => r.mine).sum
  let start := rs.foldl (fun a r => minStart a r.start) none
  let fin := rs.foldl (fun a r => max a r.fin) 0
  let (st, det, res) := match fail with
    | some f => (36, f.detail, f.result)
    | none => (0, 0, resultOk d tally h.root)
  let l0 := recordLine0 d st done h.emitted det flags (dMask d) (start.getD 0) fin (seedUsed h) res true
  sendRecord (closeJob s h) h.core h.pt h.num d l0 (some (recordLine1 rs))

/-- Every core of a spread descriptor has reported. -/
def allReported (s : State) (h : Share) : Bool :=
  let rs := reportsOf s h.job
  (dCores h.desc h.lead).all fun c => rs.any (·.core == c)

/-- Records that are due on a lead are formed, and records on their way go on. -/
def settleLead (s : State) (c : Nat) : State :=
  let go := fun (s : State) (j : Nat) =>
    match findShare s j c with
    | none => s
    | some h =>
      if dLong h.desc then
        if h.phase = 4 && allReported s h && !(rootDue h && (lowestFail (reportsOf s j)).isNone) then finishLong s h else s
      else if h.phase = 3 && shareIdle s h && !(rootDue h && h.fail.isNone) then finishShort s h
      else s
  pumpRecs (forAll ((s.eng.shares.filter fun h => h.core == c && h.lead == c).map (·.job)) go s)

/-- A core reports a share that is expanded and idle (R154). A lead that is lost reads no report. -/
def doReport (s : State) (core lead num : Nat) : State :=
  match s.eng.shares.find? fun h => h.core == core && h.lead == lead && h.num == num && h.phase == 3 with
  | none => settleLead s lead
  | some h =>
    if !shareIdle s h || !dLong h.desc then s
    else
      let s1 := closeColl s h
      let r : Report := { job := h.job, core := core, fail := h.fail, mine := h.mine, flags := h.flags, tally := h.tally,
                          start := h.start, fin := h.fin }
      let led := (findShare s1 h.job lead).isSome
      let s2 := if led then { s1 with eng := { s1.eng with reports := s1.eng.reports ++ [r] } } else s1
      if core = lead then settleLead (putShare s2 { h with phase := 4 }) lead
      else
        let s3 := { s2 with eng := { s2.eng with shares := s2.eng.shares.filter fun x => !(x.job == h.job && x.core == core) } }
        settleLead s3 lead

/-- SEGMENT_REPORT (R154). -/
def execSegmentReport (core lead : Core) (num : Nat) (s : State) : Host.Outcome State Fault Refusal :=
  .next (whenAlive s (doReport · core lead num))

/-! Reading a descriptor (R147 to R152). -/

/-- A descriptor accepted before `num` on the core has not completed (R149). -/
def earlierOpen (s : State) (c num : Nat) : Bool :=
  s.eng.shares.any (fun h => h.lead == c && h.core == c && decide (h.num < num))
    || s.eng.recs.any (fun r => r.core == c && decide (r.num < num))

/-- Expansion begins: the lead may send the segments (R152). -/
def beginExpand (h : Share) : Share := { h with phase := 2, toSend := (dCores h.desc h.lead).filter (· != h.lead) }

/-- A descriptor released to run: a built-in pattern expands at once, another is fetched first. -/
def releaseShare (h : Share) : Share := if dPat h.desc = 0 then beginExpand h else { h with phase := 1 }

/-- The lead gives CORE_LOST at once to the cores of a mask that were lost before their segments could go (R154).
(DEDUCED, log 79) -/
def learnLost (s : State) (c : Nat) : State :=
  let hs := s.eng.shares.filter fun h => h.core == c && h.lead == c
  let rs := hs.flatMap fun h => (h.toSend.filter (lostCore s)).map fun k =>
    lostReport { job := h.job, core := k, lead := c, pt := h.pt, desc := h.desc } []
  let kept := fun (h : Share) => { h with toSend := h.toSend.filter fun k => !(h.core == c && h.lead == c && lostCore s k) }
  { s with eng := { s.eng with reports := s.eng.reports ++ rs, shares := s.eng.shares.map kept } }

/-- The lead's descriptor ends before any segment (R167). (DEDUCED, log 73) -/
def dropEarly (s : State) (h : Share) (status detail : Nat) : State :=
  pumpRecs (endEarly (closeJob s h) h.core h.pt h.num h.desc status detail (seedUsed h))

/-- The lead has the pattern block of its descriptor (R155, R158): the static check, then expansion. -/
def takeBlock (s : State) (h : Share) (ws : List Nat) : State :=
  match staticBreach ws with
  | some i => dropEarly s h 33 i
  | none => learnLost (putShare s (beginExpand { h with words := ws })) h.core

/-- The sequencer takes up a sound descriptor with its seed: its share, which ORDER may hold (R149, R188). -/
def takeUp (s : State) (c pt : Nat) (e : FifoEnt) (seed : Nat) : State :=
  let h : Share := { job := s.eng.jobs + 1, core := c, lead := c, pt := pt, desc := e.desc, num := e.num, seed := seed, img := e.img }
  let h1 := if dOrder e.desc && earlierOpen s c e.num then { h with phase := 0 } else releaseShare h
  let s1 := learnLost { s with eng := { s.eng with jobs := s.eng.jobs + 1, shares := s.eng.shares ++ [h1] } } c
  if h1.phase = 1 ∧ !e.words.isEmpty then takeBlock s1 h1 e.words else s1

/-- DESC_READ (R147, R151, R188): the sequencer reads stage 0. -/
def doDescRead (s : State) (c : Nat) : State :=
  match ownerOf s c with
  | none => s
  | some pt =>
    if !coreUp s c || passive s c || (flushMark s c).isSome || s.eng.shares.any (fun h => h.core == c && h.lead == c && h.phase ≤ 2)
    then s
    else match fifoOf s c pt with
      | [] => s
      | e :: rest =>
        let d := e.desc
        let s1 := placeImages (setFifo s c pt rest)
        match if e.img.isSome then none else badField d c (runsFor s pt) with
        | some o => pumpRecs (endEarly s1 c pt e.num d 32 o (seedGiven d))
        | none =>
          if dTrng d && detOn s1 then pumpRecs (endEarly s1 c pt e.num d 34 0 0)
          else if dTrng d then takeUp (draw s1 64).2 c pt e (draw s1 64).1
          else takeUp s1 c pt e (dSeed d)

/-- DESC_READ (R151). -/
def execDescRead (core : Core) (s : State) : Host.Outcome State Fault Refusal := .next (whenAlive s (doDescRead · core))

/-- ORDER_RELEASE (R149). -/
def doOrderRelease (s0 : State) (c : Nat) : State :=
  let s := pumpRecs s0
  match s.eng.shares.find? fun h => h.core == c && h.lead == c && h.phase == 0 with
  | some h => if earlierOpen s c h.num then s else learnLost (putShare s (releaseShare h)) c
  | none => s
/-- ORDER_RELEASE. -/
def execOrderRelease (core : Core) (s : State) : Host.Outcome State Fault Refusal := .next (whenAlive s (doOrderRelease · core))

/-- Read a pattern block (R155): the header, then its words. -/
def readBlock (s : State) (c pt d : Nat) : Reach (List Nat) × State :=
  match seqRead s c seqEng pt (dPat d : Nat) 8 with
  | (.wait, s1) => (.wait, s1)
  | (.fail st e, s1) => (.fail st e, s1)
  | (.ok w0, s1) =>
    match seqRead s1 c seqEng pt (dPat d : Nat) (8 * (w0 % 64 + 1)) with
    | (.wait, s2) => (.wait, s2)
    | (.fail st e, s2) => (.fail st e, s2)
    | (.ok v, s2) => (.ok (elems 64 (w0 % 64 + 1) v), s2)

/-- The descriptor at the head of a core's FIFO, when its pattern block is to be fetched ahead: another expands, and it
is sound, supplied and not held by ORDER (R155). -/
def aheadOf (s : State) (c pt : Nat) : Option FifoEnt :=
  match (fifoOf s c pt).head? with
  | none => none
  | some e =>
    if expanding s c && !dOrder e.desc && dPat e.desc != 0 && e.words.isEmpty && (flushMark s c).isNone
      && (badField e.desc c (runsFor s pt)).isNone && !(dTrng e.desc && detOn s) then some e else none

/-- Fetch the block of the descriptor in stage 0 ahead (R155). One that cannot be had yet is left for its own turn.
(DEDUCED, log 81) -/
def fetchAhead (s : State) (c : Nat) : State :=
  match ownerOf s c with
  | none => s
  | some pt =>
    match aheadOf s c pt with
    | none => s
    | some e =>
      match readBlock s c pt e.desc with
      | (.wait, s1) => s1
      | (.fail _ _, _) => s
      | (.ok ws, s1) => setFifo s1 c pt ((fifoOf s1 c pt).map fun x => if x.num = e.num then { x with words := ws } else x)

/-- PATTERN_FETCH_DONE (R155, R158): the block of the descriptor read, else that of stage 0. (DESIGN CHOICE, log 81) -/
def doPatternFetch (s : State) (c : Nat) : State :=
  match s.eng.shares.find? fun h => h.core == c && h.lead == c && h.phase == 1 with
  | none => fetchAhead s c
  | some h =>
    match readBlock s c h.pt h.desc with
    | (.wait, s1) => s1
    | (.fail st d, s1) => dropEarly s1 h st d
    | (.ok ws, s1) => takeBlock s1 h ws

/-- PATTERN_FETCH_DONE (R155). -/
def execPatternFetchDone (core : Core) (s : State) : Host.Outcome State Fault Refusal :=
  .next (whenAlive s fun s => match ownerOf s core with
    | some pt => slotted s core pt (doPatternFetch · core)
    | none => s)

/-- Segments that wait in a core's queue. -/
def segQueue (s : State) (c : Nat) : List Share := s.eng.shares.filter fun h => h.core == c && h.lead != c && h.phase == 1

/-- SEGMENT (R152, R153): the lead sends a segment to a core whose queue has room. -/
def doSegment (s : State) (c to_ : Nat) : State :=
  match s.eng.shares.find? fun h => h.core == c && h.lead == c && h.toSend.contains to_ with
  | none => s
  | some h =>
    if !coreUp s to_ || 32 ≤ (segQueue s to_).length then s
    else
      let g : Share := { job := h.job, core := to_, lead := c, pt := h.pt, desc := h.desc, num := h.num, seed := h.seed }
      let s1 := putShare s { h with toSend := h.toSend.filter (· != to_) }
      { s1 with eng := { s1.eng with shares := s1.eng.shares ++ [g] } }
/-- SEGMENT (R153). -/
def execSegment (core dest : Core) (s : State) : Host.Outcome State Fault Refusal :=
  .next (whenAlive s (doSegment · core dest))

/-! Expanding (R157 to R159). -/

/-- The share that a context expands: the descriptor of the local context; the segment under way, or the next in the
queue. -/
def ctxShare (s : State) (c : Nat) (seg : Bool) : Option Share :=
  if seg then
    match s.eng.shares.find? fun h => h.core == c && h.lead != c && h.phase == 2 with
    | some h => some h
    | none => (segQueue s c).head?.map fun h => { h with phase := 2 }
  else s.eng.shares.find? fun h => h.core == c && h.lead == c && h.phase == 2

/-- A share stops at the next tile: every core of the mask meets the same (R154). (DEDUCED, log 74) -/
def stopShare (s : State) (h : Share) (status detail result : Nat) : State :=
  let s1 := putShare s { h with phase := 3 }
  failShare s1 h.job h.core
    { tile := h.emitted, below := h.mine, status := status, detail := detail, offset := h.bytes, result := result }

/-- The words of a built-in pattern that hold PVAs (R77). -/
def pvaWords (d : Nat) : List Nat :=
  if dPat d ≠ 0 then []
  else match dOp d with
    | 1 => [1]
    | 2 => if isMcast d then [0] else [0, 1]
    | 3 => [0, 1]
    | 4 => [0, 1]
    | 10 => [0, 2]
    | 13 => [0]
    | _ => []

/-- A built-in pattern that forms no tile. -/
def emptyRun (d : Nat) : Bool := dOp d != 10 && dW d 2 == 0

/-- The contributor list has a PID twice, or one that is not bound to the partition. -/
def badPids (s : State) (pt : Nat) (l : List Nat) : Bool := l.any (fun p => !pidBound s p pt) || decide (l.eraseDups.length < l.length)

/-- A COLLECTIVE starts on a core (R230, R231): none while another runs there or tiles of its context wait.
(DEDUCED, log 76) -/
def beginColl (s : State) (h : Share) : Reach Unit × State :=
  let d := h.desc
  let n := ncontrib d
  let x := if h.lead = h.core then 0 else 1
  if dGroup d ≠ 0 ∧ !holdsGroup s h.pt (dGroup d) then (.fail 40 0, s)
  else if (collOf s h.core).isSome || !(readyOf s h.core x).isEmpty then (.wait, s)
  else match seqRead s h.core seqEng h.pt (dW d 1 : Nat) (2 * n) with
    | (.wait, s1) => (.wait, s1)
    | (.fail st e, s1) => (.fail st e, s1)
    | (.ok v, s1) =>
      let es := elems 16 n v
      let l := es.map (· % 4096)
      if es.any (4096 ≤ ·) || badPids s1 h.pt l then (.fail 32 0x30, s1)
      else match l.find? fun p => !pidLive s1 p with
        | some p => (.fail 41 p, s1)
        | none => (.ok (), setColl s1 h.core (some { job := h.job, pt := h.pt, pids := l }))

/-- What a core checks when it starts a share (R77, R220, R230). -/
def checkShare (s : State) (h : Share) : Reach Unit × State :=
  let d := h.desc
  match (pvaWords d).find? fun i => decide (2 ^ 57 ≤ dW d i) && !emptyRun d with
  | some i =>
    let v := dW d i % 2 ^ 57
    (.fail 1 (faultDetail v 3 ((dOp d == 1 || dOp d == 2 || dOp d == 4) && i == 1)),
      if h.core = h.lead then xltFault s h.pt v 3 true (h.core * 16 + seqEng) else s)
  | none =>
    if isMcast d ∧ !holdsGroup s h.pt (dGroup d) then (.fail 40 0, s)
    else if dOp d = 7 then beginColl s h
    else (.ok (), s)

/-- A core starts a share: a segment's core reads the pattern block itself (R152, R155). -/
def beginShare (s : State) (h : Share) : Reach Share × State :=
  let (b, s1) : Reach (List Nat) × State :=
    if dPat h.desc = 0 ∨ !h.words.isEmpty then (.ok h.words, s) else readBlock s h.core h.pt h.desc
  match b with
  | .wait => (.wait, s1)
  | .fail st d => (.fail st d, s1)
  | .ok ws =>
    match if dPat h.desc = 0 then none else staticBreach ws with
    | some i => (.fail 33 i, s1)
    | none =>
      match checkShare s1 { h with words := ws } with
      | (.wait, s2) => (.wait, s2)
      | (.fail st d, s2) => (.fail st d, s2)
      | (.ok _, s2) => (.ok { h with words := ws, begun := true }, s2)

/-- Take the tile of an EMIT: the limits, then the share's counts, and the tile if it falls to this core (R152, R157,
R158, R224). -/
def takeTile (s : State) (h : Share) (rs : List Rows) (word : Nat) (aux : List Nat) : State :=
  let d := h.desc
  let t := h.emitted
  let cls := tileBreach d t rs
  if cls ≠ 0 then stopShare s h 33 (word + cls * 64) 0
  else
    let leaf : Int := (match streamRows rs 0 with | some r => r.base | none => 0) - 64 * t
    let h0 := if t = 0 then { h with leaf0 := leaf } else h
    if dOp d = 4 ∧ opBit0 d ∧ leaf ≠ h0.leaf0 then stopShare s h 33 (word + 2 * 64) 0
    else
      let h1 := h0.counted rs
      if tileCore d h.lead t ≠ h.core then putShare s h1
      else
        let x : Tile := { job := h.job, core := h.core, pt := h.pt, t := t, i := h.mine, word := word, rows := rs, bytes := h.bytes,
                          elems := h.elems, in1 := h.in1, aux := aux }
        let s1 := putShare s { h1 with mine := h1.mine + 1 }
        let above := match h.fail with | some f => decide (f.tile ≤ t) | none => false
        let c := if h.lead = h.core then 0 else 1
        if above then s1 else setReady s1 h.core c (readyOf s1 h.core c ++ [x])

/-- TILE_EMIT (R153, R157): a context runs its pattern to the next EMIT. -/
def doTileEmit (s : State) (c : Nat) (seg : Bool) : State :=
  match ctxShare s c seg with
  | none => s
  | some h0 =>
    let s0 := putShare s h0
    let (b, s1) := if h0.begun then (.ok h0, s0) else beginShare s0 h0
    match b with
    | .wait => s1
    | .fail st d =>
      let s2 := putShare s1 { h0 with begun := true, phase := 3 }
      let (det, res) := if st = 41 then (0, d) else (d, 0)
      settleLead (failShare s2 h0.job c { tile := 0, below := 0, status := st, detail := det, result := res }) h0.lead
    | .ok h1 =>
      let (h, o) := Share.patRun patBudget h1
      let s2 := match o with
        | .more => putShare s1 h
        | .want => putShare s1 h
        | .fin => putShare s1 { h with phase := 3 }
        | .stop st d r => stopShare s1 h st d r
        | .tile rs w aux => takeTile s1 h rs w aux
      settleLead s2 h0.lead

/-- TILE_EMIT (R157). -/
def execTileEmit (core : Core) (seg : Bool) (s : State) : Host.Outcome State Fault Refusal :=
  .next (whenAlive s fun s => if !coreUp s core then s else match ctxShare s core seg with
    | some h =>
      let reads := !h.begun && ((dPat h.desc != 0 && h.words.isEmpty) || dOp h.desc == 7)
      if reads then slotted s core h.pt (doTileEmit · core seg) else doTileEmit s core seg
    | none => s)

/-- The index buffer's window (R159): 4 KiB from the line of address `a`. -/
def inWindow (a va : Nat) : Bool := decide (a / 128 * 128 ≤ va ∧ va < a / 128 * 128 + 4096)

/-- One line into an index buffer, unless it is there; `false` where it cannot be read. -/
def fillLine (s : State) (c pt : Nat) (m : Store Nat) (va : Nat) : Bool × Store Nat × State :=
  if buffered m va then (true, m, s)
  else match seqLines s c seqEng pt (va : Nat) 128 with
    | (.ok x, s1) => (true, Store.ins m va (Store.get 0 x va), s1)
    | _ => (false, m, s)

/-- Fill an index buffer ahead, line by line, as far as lines can be read. (DEDUCED, log 139) -/
def fillIndex (s : State) (c pt : Nat) (m : Store Nat) (l : List Nat) : Store Nat × State :=
  (l.foldl (fun (a : Bool × Store Nat × State) va => if a.1 then fillLine a.2.2 c pt a.2.1 va else a) (true, m, s)).2

/-- INDEX_ARRIVAL (R159): the index that a stalled IDX waits for comes into the index buffer, with up to `ahead` lines
after it; or its read faults. (DEDUCED, log 139) -/
def doIndexArrival (s : State) (c : Nat) (seg : Bool) (ahead : Nat) : State :=
  match ctxShare s c seg with
  | none => s
  | some h =>
    match h.want with
    | none => s
    | some (a, n) =>
      let old := h.ibuf.filter fun e => inWindow a.toNat e.1
      let gone := (rangeLines a.toNat n).filter fun va => !buffered old va
      if 0 ≤ a ∧ a + n ≤ 2 ^ 57 ∧ gone.isEmpty then s
      else match seqLines s c seqEng h.pt a n with
        | (.wait, s1) => s1
        | (.fail st d, s1) => settleLead (stopShare s1 h st d 0) h.lead
        | (.ok x, s1) =>
          let m := gone.foldl (fun m va => Store.ins m va (Store.get 0 x va)) old
          let next := (upTo 32).map fun i => (a.toNat / 128 + i) * 128
          let (m1, s2) := fillIndex s1 c h.pt m (next.take ((rangeLines a.toNat n).length + ahead))
          putShare s2 { h with ibuf := m1 }

/-- INDEX_ARRIVAL (R159). -/
def execIndexArrival (core : Core) (fill : IndexFill) (s : State) : Host.Outcome State Fault Refusal :=
  .next (whenAlive s fun s => if !coreUp s core then s else match ctxShare s core fill.seg with
    | some h => slotted s core h.pt (doIndexArrival · core fill.seg fill.ahead)
    | none => s)

/-- TIER_HINT (R165, R296): for a block of a tile not more than TIER_AHEAD tiles ahead of the last dispatched.
(DEDUCED, log 55) -/
def doTierHintCmd (s : State) (c : Nat) (seg : Bool) (t va : Nat) : State :=
  match (readyOf s c seg.toNat).find? fun x => x.t == t && x.rows.any fun r =>
      (rowVas r).any fun a => decide (a ≤ va ∧ va < a + r.bytes) with
  | none => s
  | some x =>
    if t + 1 ≤ Store.get 0 s.eng.sent (x.job * 16 + c) + getF s (SCORE.TIER_AHEAD_TILES c) then
      match pagePlace s c seqEng x.pt va 0 with
      | (.ok (.tier a), s1) => tierHint s1 x.pt ((a + va % 65536) / 4096)
      | (_, s1) => s1
    else s

/-- TIER_HINT (R296). -/
def execTierHint (core : Core) (seg : Bool) (t va : Nat) (s : State) : Host.Outcome State Fault Refusal :=
  .next (whenAlive s fun s => if coreUp s core then doTierHintCmd s core seg t va else s)

end Sys2Proof.Machine
end

