-- ==== Sys2Proof/Machine/Engines.lean ====
section
/-!
DEFINITION. Engines (chapters 6 to 8): dispatch, execution, datapath checks and re-execution, the spare engine and its
self-test, the collective assist, tier moves and ROOT.
-/

namespace Sys2Proof.Machine

/-! Which engine serves which logical engine (R28, R160, R161, R172). -/

/-- The physical engine that serves a logical engine; 15 none. -/
def engMap (s : State) (c k : Nat) : Nat := bitsOf (getF s (SCORE.ENG_MAP_PHYS c)) (4 * k) 4
/-- Change it. -/
def setMap (s : State) (c k e : Nat) : State :=
  setF s (SCORE.ENG_MAP_PHYS c) (insertBits (getF s (SCORE.ENG_MAP_PHYS c)) (4 * k) 4 e)
/-- The logical engine that a physical engine serves. -/
def logicalOf (s : State) (c e : Nat) : Option Nat := (upTo 8).find? fun k => engMap s c k == e
/-- The served logical engines, ascending. -/
def servedEngines (s : State) (c : Nat) : List Nat := (upTo 8).filter fun k => engMap s c k != 15
/-- An engine has failed. -/
def engFailed (s : State) (c e : Nat) : Bool := (Store.get 0 s.eng.failed c).testBit e
/-- The engine under test. -/
def testedEngine (s : State) (c : Nat) : Option Nat := match Store.get 0 s.eng.testing c with | 0 => none | n + 1 => some n
/-- End a test. -/
def endTest (s : State) (c : Nat) : State := { s with eng := { s.eng with testing := Store.del s.eng.testing c } }
/-- The index of an engine's page. -/
def engIdx (c e : Nat) : Nat := c * 16 + e

/-- ROLE of ENG_STS (Table 06-14). -/
def engRole (s : State) (c e : Nat) : Nat :=
  if engFailed s c e then 3
  else if e ≠ 8 then 0
  else if flag s (SCORE.SPARE_STS_STANDIN c) then 2
  else if (logicalOf s c 8).isSome then 0 else 1

/-! The end of a tile. -/

/-- The slots of collective tiles that no engine holds any more are free. -/
def pruneColl (s : State) (c : Nat) : State :=
  match collOf s c with
  | none => s
  | some k =>
    let held := tilesHeld s c k.job
    setColl s c (some { k with tiles := k.tiles.filter fun x => held.contains x.t })

/-- A tile leaves the queue of its engine. -/
def dropTile (s : State) (e : Nat) (x : Tile) : State :=
  setQueueAt s (engIdx x.core e) ((queueAt s (engIdx x.core e)).filter fun y => !(y.job == x.job && y.t == x.t))

/-- Replace a tile in the queue of its engine. -/
def putTile (s : State) (e : Nat) (x : Tile) : State :=
  setQueueAt s (engIdx x.core e)
    ((queueAt s (engIdx x.core e)).map fun y => if y.job = x.job ∧ y.t = x.t then x else y)

/-- The lead that a job's share on a core reports to. -/
def leadOf (s : State) (job core : Nat) : Nat := match findShare s job core with | some h => h.lead | none => core

/-- The share fails at a tile (R102). (DEDUCED, log 74) -/
def shareFails (s : State) (x : Tile) (status detail result : Nat) : State :=
  pruneColl (failShare s x.job x.core
    { tile := x.t, below := x.i, status := status, detail := detail, offset := x.bytes, result := result }) x.core

/-- A tile fails and leaves its engine. -/
def failTile (s : State) (e : Nat) (x : Tile) (status detail : Nat) : State :=
  settleLead (shareFails (dropTile s e x) x status detail 0) (leadOf s x.job x.core)

/-- The tile's third detection, or one that cannot be re-executed (R206, R207, R208, R232). -/
def datapathEntry (s : State) (e : Nat) (x : Tile) : State :=
  faultEntry s 17 1 (some x.pt) (0x0200 + engIdx x.core e) (engIdx x.core e) x.t

/-- A COLLECTIVE that has to stop fails at the lowest of its tiles that is not full (R233). (DEDUCED, log 85) -/
def collStopNow (s : State) (c : Nat) : State :=
  match collOf s c with
  | none => s
  | some k =>
    match k.stop, findShare s k.job c with
    | some pid, some h =>
      let held := ((upTo 2).flatMap (readyOf s c)) ++ (upTo 16).flatMap fun e => queueAt s (engIdx c e)
      let undone := held.filter fun x => x.job == k.job && x.st == 0 && !collFull s c x.t (collLines h.desc x.rows)
      match least (undone.map (·.t)) with
      | none => s
      | some t => match undone.find? fun x => x.t == t with
        | some x => settleLead (shareFails s x 41 0 pid) h.lead
        | none => s
    | _, _ => s

/-! Dispatch (R160, R161, R232). -/

/-- The head tiles of the contexts that may go, the segment context's first; while a COLLECTIVE runs, only its own
(R153, R232). (DEDUCED, log 76) -/
def readyHeads (s : State) (c : Nat) : List (Nat × Tile) :=
  ([1, 0].filterMap fun x => ((readyOf s c x).head?).map fun t => (x, t)).filter fun p =>
    match collOf s c with
    | some k => k.job == p.2.job && k.stop.isNone
    | none => match findShare s p.2.job c with
      | some h => dOp h.desc != 7
      | none => true

/-- The logical engine that takes a tile: with the mode in force by its place in the share; else the first with room
from the one after the last. -/
def engineFor (s : State) (c : Nat) (x : Tile) : Option Nat :=
  let room := fun k => decide ((queueAt s (engIdx c (engMap s c k))).length < 2)
  let served := servedEngines s c
  if detOn s then
    match served[x.i % max 1 served.length]? with
    | some k => if room k then some k else none
    | none => none
  else
    let n := Store.get 0 s.eng.turn c
    ((upTo 8).map fun i => (n + i) % 8).find? fun k => served.contains k && room k

/-- The grant of a collective tile goes to every contributor (R230, R231). -/
def sendGrants (s : State) (k : Coll) (c t : Nat) : State :=
  forAll k.pids (fun s p => sendPid s p c s.time.ft (classQueue 2 k.pt)
    { opcode := 0x61, cls := 2, addr := c * 2 ^ 12 + t * 2 ^ 21 }) s

/-- The slots of a collective tile are reserved and its grants sent when it enters an engine's queue; one that has come
back to the dispatcher keeps both (R230, R231). (DEDUCED, log 84) -/
def reserveSlots (s : State) (c : Nat) (x : Tile) : State :=
  match collOf s c with
  | some q =>
    if q.job = x.job ∧ !(q.tiles.any fun y => y.t == x.t) then
      sendGrants (setColl s c (some { q with tiles := q.tiles ++ [{ t := x.t }] })) q c x.t
    else s
  | none => s

/-- TILE_DISPATCH (R160, R161): the first context's head tile that its engine has room for. -/
def doTileDispatch (s0 : State) (c : Nat) : State :=
  let s := collStopNow s0 c
  match (readyHeads s c).findSome? fun p => (engineFor s c p.2).map fun k => (p.1, p.2, k) with
  | none => s
  | some (ctx, x, k) =>
    let ce := engIdx c (engMap s c k)
    let s1 := setQueueAt (setReady s c ctx ((readyOf s c ctx).drop 1)) ce (queueAt s ce ++ [x])
    let s2 := { s1 with eng := { s1.eng with turn := Store.set 0 s1.eng.turn c ((k + 1) % 8)
                                             sent := Store.set 0 s1.eng.sent (x.job * 16 + c) (x.t + 1) } }
    reserveSlots s2 c x

/-- TILE_DISPATCH. -/
def execTileDispatch (core : Core) (s : State) : Host.Outcome State Fault Refusal :=
  .next (whenAlive s fun s => if coreUp s core then doTileDispatch s core else s)

/-! Failed engines (R28, R174). -/

/-- Enter an engine failure in the fault log (Table 15-8): 1 substitution, 2 ENGINE_SHORT, 3 SPARE_LOST. -/
def engineEntry (s : State) (c e code : Nat) (byTest : Bool) : State :=
  let info := if byTest then
      getF s (SCORE.ST_LAST_UNIT c) + getF s (SCORE.ST_LAST_PASS c) * 16 + getF s (SCORE.ST_LAST_ABORTED c) * 32
        + getF s (SCORE.ST_LAST_BLOCK c) * 256
    else
      let i := engIdx c e
      getF s (ENG.DET_INFO_BLOCK i) + getF s (ENG.DET_INFO_ATTEMPT i) * 8 + getF s (ENG.DET_INFO_WRPATH i) * 32
        + getF s (ENG.DET_INFO_INJECTED i) * 64 + getF s (ENG.DET_INFO_VALID i) * 2 ^ 31
  let s1 := faultEntry s 16 code (ownerOf s c) (0x0100 + c) (engIdx c e) info
  let s2 := raise s1 (0x0100 + c) (code - 1)
  match ownerOf s2 c with
  | some pt => if code < 3 then recordDx 8 s2 pt else s2
  | none => s2

/-- The tiles of an engine that have issued nothing go to another engine's queue; those that write stay and finish.
Their input is fetched anew (R206). (DEDUCED, log 80) (DEDUCED, log 84) -/
def moveTiles (s : State) (c e f : Nat) (only : Tile → Bool) : State :=
  let q := queueAt s (engIdx c e)
  let go := q.filter fun x => only x && x.st != 2 && x.st != 4
  let s1 := setQueueAt s (engIdx c e) (q.filter fun x => !go.contains x)
  setQueueAt s1 (engIdx c f) (queueAt s1 (engIdx c f) ++ go.map fun x => { x with input := [] })

/-- They go back to the dispatcher, ahead of the others of their contexts. (DEDUCED, log 80) (DEDUCED, log 84) -/
def returnTiles (s : State) (c e : Nat) : State :=
  let q := queueAt s (engIdx c e)
  let go := q.filter fun x => x.st != 2 && x.st != 4
  let s1 := setQueueAt s (engIdx c e) (q.filter fun x => !go.contains x)
  forAll (upTo 2) (fun s ctx =>
    let back := go.filter fun x => (if leadOf s x.job c = c then 0 else 1) == ctx
    setReady s c ctx (back.map (fun x => { x with input := [] }) ++ readyOf s c ctx)) s1

/-- A self-test is abandoned (R174). (DEDUCED, log 86) -/
def abortTest (s : State) (c : Nat) : State :=
  match testedEngine s c with
  | none => s
  | some k =>
    let s1 := setF (setB s (SCORE.ST_LAST_PASS c) false) (SCORE.ST_LAST_UNIT c) k
    endTest (setF (setB s1 (SCORE.ST_LAST_ABORTED c) true) (SCORE.ST_LAST_BLOCK c) 0) c

/-- The stand-in ends: Lk is served by Ek again. (DEDUCED, log 80) (DEDUCED, log 86) -/
def endStandin (s : State) (c : Nat) : State :=
  let k := getF s (SCORE.SPARE_STS_STANDIN_FOR c)
  setB (setMap s c k k) (SCORE.SPARE_STS_STANDIN c) false

/-- E8 is no spare any more. (DEDUCED, log 86) -/
def noSpare (s : State) (c : Nat) : State :=
  setB (setF s (SCORE.SPARE_STS_SPARE c) 15) (SCORE.SPARE_STS_STANDIN c) false

/-- An engine fails (R28, R174); `byTest`: in its self-test. -/
def engineFails (s0 : State) (c e : Nat) (byTest : Bool) : State :=
  if engFailed s0 c e then s0
  else
    let s := { s0 with eng := { s0.eng with failed := Store.set 0 s0.eng.failed c (withBit (Store.get 0 s0.eng.failed c) e true) } }
    let standin := flag s (SCORE.SPARE_STS_STANDIN c)
    let k := getF s (SCORE.SPARE_STS_STANDIN_FOR c)
    let hasSpare := getF s (SCORE.SPARE_STS_SPARE c) = 8
    if e = 8 ∧ hasSpare then
      let s1 := if standin then endStandin (abortTest s c) c else if testedEngine s c = some 8 then abortTest s c else s
      engineEntry (noSpare (moveTiles s1 c 8 k fun _ => true) c) c 8 3 byTest
    else if hasSpare ∧ standin ∧ e = k then
      let s1 := abortTest s c
      engineEntry (noSpare (moveTiles s1 c e 8 fun _ => true) c) c e 1 byTest
    else if hasSpare then
      let s1 := if standin then moveTiles (endStandin (abortTest s c) c) c 8 k fun x => !x.begun
        else if (testedEngine s c).isSome then abortTest s c else s
      let s2 := match logicalOf s1 c e with
        | some j => setMap s1 c j 8
        | none => s1
      engineEntry (noSpare (moveTiles s2 c e 8 fun _ => true) c) c e 1 byTest
    else if flag s (SCORE.SPARE_STS_ENGINE_SHORT c) then declareLost s c 0
    else
      let s1 := match logicalOf s c e with
        | some j => setMap s c j 15
        | none => s
      let s2 := engineEntry (setB (returnTiles s1 c e) (SCORE.SPARE_STS_ENGINE_SHORT c) true) c e 2 byTest
      match ownerOf s2 c with
      | some pt => if ptState s2 pt = ptState s pt then s2 else bumpConfigGen s2 pt
      | none => s2

/-! Executing a tile (R162 to R166, R204 to R208). -/

/-- A detection on engine `i` is counted and captured (R205, R211). -/
def noteDetection (s : State) (i block attempt : Nat) (wr inj : Bool) : State :=
  let s1 := bumpF s (ENG.DETECTS_COUNT i)
  if flag s1 (ENG.DET_INFO_VALID i) then s1
  else
    let s2 := setF (setF s1 (ENG.DET_INFO_BLOCK i) (if wr then 0 else block)) (ENG.DET_INFO_ATTEMPT i) attempt
    let s3 := setB (setB s2 (ENG.DET_INFO_WRPATH i) wr) (ENG.DET_INFO_INJECTED i) inj
    raise (setB s3 (ENG.DET_INFO_VALID i) true) (0x0200 + i) 0

/-- A detection on an engine in a tile, which counts towards its failure (R205, R209). (DEDUCED, log 88) -/
def detect (s : State) (e : Nat) (x : Tile) (block : Nat) (wr inj : Bool) : State :=
  let i := engIdx x.core e
  noteDetection (bumpF s (ENG.DET_SINCE_ST_COUNT i)) i block x.attempt wr inj

/-- The first detection of an attempt: an injected one, or what the checks find. -/
def detection (x : Tile) (found : Nat) : Option (Nat × Bool) :=
  if x.attempt ≤ x.inj.2 then some (x.inj.1, true)
  else if 1 ≤ found ∧ found ≤ 7 then some (found, false) else none

/-- Launch a line on the ports of a multicast group (R221, R369, R370). -/
def multicast (s : State) (core pt g va data : Nat) : State :=
  forAll ((upTo 48).filter (getF s (ROUTE.MC_PORTS g)).testBit) (fun s p => enqueue s p
    { kind := classQueue 3 pt, core := core, ready := s.time.ft,
      pkt := { opcode := 0x62, cls := 3, mc := true, dst := getF s (ROUTE.MC_ID_MCID g), src := getF s ROUTE.SELF_NODE_ID,
               epoch := getF s ROUTE.ROUTE_STS_EPOCH, addr := va, len := 128, payload := data } }) s

/-- The rows of some streams. -/
def rowsOf (x : Tile) (ss : List Nat) : List Rows := x.rows.filter fun r => ss.contains r.stream

/-- Translate every page of a tile (R102, R166): the places of its pages. -/
def tilePages (s : State) (e : Nat) (x : Tile) (rd wr : List Rows) : Except (Nat × Nat) (Store Place) × State :=
  match translateAll x.core e x.pt 0 (pagesOf rd) [] s with
  | (.error (v, c), s1) => (.error (1, faultDetail v c false), xltFault s1 x.pt v c true (engIdx x.core e))
  | (.ok m, s1) =>
    match translateAll x.core e x.pt 1 (pagesOf wr) m s1 with
    | (.error (v, c), s2) => (.error (1, faultDetail v c true), xltFault s2 x.pt v c true (engIdx x.core e))
    | (.ok m2, s2) => (.ok m2, s2)

/-! The staging buffer (R162 to R164, Table 06-7). -/

/-- The streams of MX scales, which an engine reads into its Resident region (R229, R239). -/
def scaleStreams (d : Nat) : List Nat :=
  (readStreams d).filter fun x => decide (8 ≤ x) && x != 15 && (isReduce d || dOp d == 11)

/-- The Resident region of an engine as a tile of a job finds it: cleared for the first of another job. -/
def residentOf (s : State) (i job : Nat) : Store Nat :=
  let (j, m) := Store.get (0, []) s.eng.resident i
  if j = job then m else []
/-- Replace it. It holds at most 512 lines: those of the tile alone when there are more. (DESIGN CHOICE, log 140) -/
def setResident (s : State) (i job : Nat) (m : Store Nat) (scales : List Nat) : State :=
  let m1 := if 512 < m.length then m.filter fun e => scales.contains e.1 else m
  { s with eng := { s.eng with resident := Store.set (0, []) s.eng.resident i (job, m1) } }

/-- The lines of some streams that the regions of an engine do not hold. -/
def linesMissing (m : Store Nat) (rs : List Rows) : List Nat := (linesOf rs).filter fun va => !buffered m va

/-- Both of two buffers. -/
def joinBuf (a b : Store Nat) : Store Nat := b.foldl (fun m e => Store.ins m e.1 e.2) a

/-- The lines fetched for a tile go into the Input region, those of its scales into the Resident region. -/
def keepLines (s : State) (i : Nat) (h : Share) (x : Tile) (got : Store Nat) : Tile × State :=
  let scales := linesOf (rowsOf x (scaleStreams h.desc))
  let m := joinBuf (residentOf s i x.job) (got.filter fun e => scales.contains e.1)
  let s1 := if scales.isEmpty then s else setResident s i x.job m scales
  ({ x with input := joinBuf x.input (got.filter fun e => !scales.contains e.1) }, s1)

/-- What a parity error leaves of a tile's buffered input: in the Input region the failing lines go, `bad` of them in
the order of fetching; in the Resident region its scales (R206, R207). (DEDUCED, log 140) -/
def dropBad (s : State) (i : Nat) (h : Share) (x : Tile) (block : Nat) (bad : List Nat) : Tile × State :=
  let ls := linesOf (rowsOf x (readStreams h.desc))
  let gone := (if bad.isEmpty then [0] else bad).filterMap fun k => ls[k]?
  if block = 5 then ({ x with input := x.input.filter fun e => !gone.contains e.1 }, s)
  else if block = 7 then (x, setResident s i x.job [] [])
  else (x, s)

/-- What the tile computes from the lines that the engine holds. -/
def tileResult (s : State) (h : Share) (x : Tile) (m : Store Nat) : TileOut :=
  let d := h.desc
  if dOp d = 7 then
    match (collOf s x.core).bind fun k => k.tiles.find? (·.t == x.t) with
    | some c => collTile d h.seed x.elems (streamElems d x.rows 0) c
    | none => {}
  else tileCompute d h.seed (detOn s) x fun n => match streamRows x.rows n with
    | some r => streamBytes m r
    | none => 0

/-- The multicast of COPY (R220). -/
def castTile (s : State) (h : Share) (x : Tile) (m : Store Nat) : State :=
  if isMcast h.desc then
    forAll (linesOf (rowsOf x [1])) (fun s va => multicast s x.core x.pt (dGroup h.desc) va (Store.get 0 m va)) s
  else s

/-- The writes of a tile's results. (DEDUCED, log 69) -/
def tileWrites (s : State) (x : Tile) (keys : Store Nat) (o : TileOut) : List (Nat × Nat × Nat × Nat) × State :=
  let (w, s1) := o.outs.foldl (fun a p => match streamRows x.rows p.1 with
    | some r => streamWrites keys a r p.2
    | none => a) (([] : Store (Nat × Nat × Nat)), s)
  (w, s1)

/-- The results that a tile holds start to be written; `found` 8: a write-path detection whose retry passes, 9: one
whose retry fails at the line that `bad` names first: the lines before it are written, and the bytes from it on are open
(R208). Its input leaves the buffer (R163). (DESIGN CHOICE, log 83) (DEDUCED, log 87) -/
def startWrites (s : State) (e : Nat) (y : Tile) (found : Nat) (bad : List Nat) (hold : Nat → Nat → Bool) : State :=
  let x := { y with input := [] }
  let wrong := !x.out.isEmpty && (found == 8 || found == 9)
  let s1 := if wrong then detect s e x 0 true false else s
  if found = 9 ∧ wrong then
    let n := min (bad.headD 0) (x.out.length - 1)
    let (out, s2) := (x.out.drop n).foldl (fun (a : List (Nat × Nat × Nat × Nat) × State) w =>
      let (v, s2) := freeNat a.2 1024
      (a.1 ++ [(w.1, v &&& spreadMask w.2.2.1, w.2.2)], s2)) (x.out.take n, s1)
    let s3 := datapathEntry (shareFails s2 x 35 0 0) e x
    let (rest, s4) := issueWrites x.core e x.pt x.hint hold out s3
    putTile s4 e { x with st := 4, out := rest, lines := x.out.map (·.1) }
  else
    let (rest, s2) := issueWrites x.core e x.pt x.hint hold x.out s1
    putTile s2 e { x with st := 2, out := rest, lines := x.out.map (·.1) }

/-- A detection in a tile that waits for its re-execution. A COLLECTIVE tile cannot be re-executed (R232). -/
def tileDetected (s : State) (e : Nat) (x : Tile) (block : Nat) (inj coll : Bool) : State :=
  let s1 := detect s e x block false inj
  if coll then failTile (datapathEntry s1 e x) e x 35 0 else putTile s1 e { x with st := 1 }

/-! Tier moves (R242, R297). -/

/-- A tier block of a TIER_MOVE on its way (R297): the stage it reaches (1 done; 10 filled; 11 written back, 13 by a
write-back begun before; 12 evicted, 14 with a write-back), and the counts of fetched and written back. A block that is
stranded, whose fill fails, or whose write-back fails ends the tile. -/
def moveBlock (s : State) (ce pt act b stage : Nat) : Option (Nat × Nat × Nat) × State :=
  if stage = 1 then (some (1, 0, 0), s)
  else
    let k := findWay s pt b
    let st := match k with | some k => (getWay s k).state | none => 0
    let fails := match k with
      | some k => (getWay s k).stranded || (stage != 0 && stage != 10 && s.tier.failed.contains k)
      | none => false
    if fails then (none, s)
    else match act, k with
      | 0, _ =>
        if st = 2 ∨ st = 3 ∨ st = 4 then (some (1, if stage = 10 then 1 else 0, 0), s)
        else match tierLook s pt b (.engine ce) with
          | (.fail _ _, s1) => (none, s1)
          | (_, s1) => (some (10, 0, 0), s1)
      | _, none => (some (1, 0, if stage = 14 then 1 else 0), s)
      | 1, some k =>
        if stage = 11 ∨ stage = 13 then
          (if st = 4 then (some (stage, 0, 0), s) else (some (1, 0, if stage = 11 then 1 else 0), s))
        else if st = 2 then (some (1, 0, 0), s)
        else if st = 3 then
          let s1 := startClean s k
          if s1.tier.failed.contains k then (none, s1)
          else if (getWay s1 k).state = 4 then (some (11, 0, 0), s1) else (some (1, 0, 0), s1)
        else if st = 4 then (some (13, 0, 0), s)
        else (some (0, 0, 0), s)
      | _, some k =>
        if stage = 12 ∨ stage = 14 then
          if st = 5 then (some (if (getWay s k).prior = 3 then 14 else stage, 0, 0), s)
          else if goalOf s k = some .empty then (some (stage, 0, 0), wantEmpty s k)
          else (some (1, 0, if stage = 14 then 1 else 0), s)
        else if st = 2 ∨ st = 3 then (some (if st = 3 then 14 else 12, 0, 0), wantEmpty s k)
        else if st = 5 then (some (12, 0, 0), s)
        else if st = 4 then (some (0, 0, 0), s)
        else (some (0, 0, 0), s)

/-- The tier blocks of a TIER_MOVE tile, and the number of its 4 KiB blocks that lie in DRAM. -/
def moveBlocks (x : Tile) (m : Store Place) : List Nat × Nat :=
  let vas := firstOf (fun v => v) ((rowsOf x [1]).flatMap fun r => (rowVas r).flatMap fun a =>
    (upTo (r.bytes / 4096)).map fun i => a + i * 4096)
  let ps := vas.map (linePlace m)
  (ps.filterMap fun p => match p with | .tier a => some (a / 4096) | .dram _ _ => none,
   (ps.filter fun p => match p with | .dram _ _ => true | .tier _ => false).length)

/-- One go at each block of a TIER_MOVE tile. (DEDUCED, log 87) -/
def moveTile (s : State) (e : Nat) (h : Share) (x : Tile) (m : Store Place) : State :=
  let ce := engIdx x.core e
  match takeFail s ce with
  | (some (st, va), s1) => failTile s1 e x st va
  | (none, s1) =>
    let (bs, skip) := moveBlocks x m
    let todo := if x.moved.isEmpty then bs.map fun b => (b, 0) else x.moved
    let t0 : Tally := if x.moved.isEmpty then { c := skip } else x.tally
    let (r, t, ok, s2) := todo.foldl (fun (a : List (Nat × Nat) × Tally × Bool × State) b =>
      match moveBlock a.2.2.2 ce x.pt (dFlags h.desc % 4) b.1 b.2 with
      | (some (st, f, w), s2) => (a.1 ++ [(b.1, st)], { a.2.1 with a := a.2.1.a + f, b := a.2.1.b + w }, a.2.2.1, s2)
      | (none, s2) => (a.1 ++ [b], a.2.1, false, s2)) ([], t0, true, s1)
    if !ok then failTile s2 e x 38 0
    else putTile s2 e { x with moved := r, tally := t, st := if r.all fun b => b.2 == 1 then 2 else 0 }

/-- The tile that an engine starts, or goes on with: its first start takes the injected detections (R212), attempt 3 is
counted. -/
def startTile (s : State) (e : Nat) (y : Tile) : Tile × State :=
  let i := engIdx y.core e
  let (x, s1) : Tile × State :=
    if y.st = 3 then ({ y with st := 0 }, bumpF s (ENG.REEXEC_THIRD i))
    else if y.begun then (y, s)
    else ({ y with begun := true, inj := Store.get (0, 0) s.eng.inject i },
      { s with eng := { s.eng with inject := Store.del s.eng.inject i } })
  (x, onShare (putTile s1 e x) x.job x.core fun h => { h with start := minStart h.start (some s1.time.ft) })

/-- The attempt of a tile whose lines are all in the engine's buffer: the result, and its checks (R204 to R207).
(DESIGN CHOICE, log 83) -/
def runTile (s : State) (e : Nat) (h : Share) (x : Tile) (keys : Store Nat) (found : Nat) (bad : List Nat)
    (hold : Nat → Nat → Bool) : State :=
  let i := engIdx x.core e
  let m := joinBuf (residentOf s i x.job) x.input
  match detection x found with
  | some (b, inj) =>
    let (x1, s1) := dropBad s i h x b (if inj then [] else bad)
    tileDetected s1 e x1 b inj (dOp h.desc == 7)
  | none =>
    let o := tileResult s h x m
    if o.bad then failTile s e x 33 (x.word + 3 * 64)
    else
      let leaf := ((o.outs.head?).map (·.2)).getD 0
      let (w, s1) : List (Nat × Nat × Nat × Nat) × State :=
        if h.img.isSome then ([], onShare s x.job x.core fun h => { h with leaves := Store.ins h.leaves x.t leaf })
        else tileWrites s x keys o
      let x1 := { x with out := w, flags := o.flags, tally := o.tally, hint := if dOp h.desc = 6 then o.hint else none }
      startWrites (castTile s1 h x m) e x1 found bad hold

/-- The fetch unit runs ahead (R163): while the head tile of an engine executes, it reads up to `ahead` of the lines of
the next, 512 at most. Lines that cannot be read at once are left for that tile's turn. (DEDUCED, log 141) -/
def runAhead (s : State) (c e ahead : Nat) : State :=
  match queueAt s (engIdx c e) with
  | _ :: y :: _ =>
    match findShare s y.job c with
    | none => s
    | some h =>
      if ahead = 0 ∨ dOp h.desc = 7 ∨ dOp h.desc = 13 ∨ y.st ≠ 0 then s
      else
        let rd := rowsOf y (readStreams h.desc)
        match tilePages s e y rd [] with
        | (.error _, _) => s
        | (.ok m, s1) =>
          let need := (linesMissing y.input rd).take (min ahead 512)
          match reachLines s1 c e y.pt (need.map fun v => (v, linePlace m v)) with
          | (.ok ls, s2) =>
            (match fetchLines s2 c e y.pt ls with
             | (.ok got, s3) => putTile s3 e { y with input := joinBuf y.input got }
             | _ => s)
          | _ => s
  | _ => s

/-- The pages and lines of a tile, then its attempt (R163, R166): as far as its memory lets it go. -/
def fetchTile (s : State) (e : Nat) (h : Share) (x : Tile) (found : Nat) (bad : List Nat) (ahead : Nat)
    (hold : Nat → Nat → Bool) : State :=
  let rd := rowsOf x (readStreams h.desc)
  let wr := if h.img.isSome then [] else rowsOf x (writeStreams h.desc)
  match tilePages s e x rd wr with
  | (.error (st, d), s1) => failTile s1 e x st d
  | (.ok m, s1) =>
    if dOp h.desc = 13 then
      match detection x found with
      | some (b, inj) => tileDetected s1 e x b inj false
      | none => moveTile s1 e h x m
    else
      let need := linesMissing (joinBuf (residentOf s1 (engIdx x.core e) x.job) x.input) rd
      let all := firstOf (fun v => v) (need ++ linesOf wr)
      match reachLines s1 x.core e x.pt (all.map fun v => (v, linePlace m v)) with
      | (.wait, s2) => s2
      | (.fail st d, s2) => failTile s2 e x st d
      | (.ok ls, s2) =>
        let reads := ls.filter fun p => need.contains p.1
        if reads.any fun p => hold p.2 p.1 then s2
        else match fetchLines s2 x.core e x.pt reads with
          | (.wait, s3) => s3
          | (.fail st d, s3) => failTile s3 e x st d
          | (.ok got, s3) =>
            let (x1, s4) := keepLines s3 (engIdx x.core e) h x got
            runAhead (runTile (putTile s4 e x1) e h x1 (keyMap ls) found bad hold) x.core e ahead

/-- A parity error in the entries of an engine's TLB: they are discarded, and refilled from the second level
(Table 07-10). (DEDUCED, log 142) -/
def dropEngTlb (s : State) (i found : Nat) : State :=
  if found = 10 then { s with xlt := { s.xlt with etlb := Store.del s.xlt.etlb i } } else s

/-- TILE_EXECUTE (R166): the head tile of an engine's queue. (DESIGN CHOICE, log 83) -/
def doTileExecute (s0 : State) (c e found : Nat) (bad : List Nat) (ahead : Nat) (ties : Ties) : State :=
  let i := engIdx c e
  let s := dropEngTlb (collStopNow s0 c) i found
  match (queueAt s i).head? with
  | none => s
  | some y =>
    match findShare s y.job c with
    | none => dropTile s e y
    | some h =>
      if y.st ≠ 0 ∧ y.st ≠ 3 then s
      else if dOp h.desc = 7 ∧ !collFull s c y.t (collLines h.desc y.rows) then s
      else slotted s c y.pt fun s =>
        let (x, s1) := startTile s e y
        fetchTile s1 e h x found bad ahead (yields s1 ties i x.pt)

/-- TILE_EXECUTE. -/
def execTileExecute (core : Core) (eng : Eng) (run : TileRun) (s : State) :
    Host.Outcome State Fault Refusal :=
  .next (whenAlive s fun s => if coreUp s core then doTileExecute s core eng run.found run.bad run.ahead run.ties else s)

/-- The next attempt of a tile after a detection (R206, R209). (DEDUCED, log 88) -/
def nextAttempt (s : State) (e : Nat) (x : Tile) : State :=
  let i := engIdx x.core e
  if x.attempt = 3 then failTile (datapathEntry s e x) e x 35 0
  else
    let s1 := recordDx 3 s x.pt
    if x.attempt = 2 ∨ 8 ≤ getF s (ENG.DET_SINCE_ST_COUNT i) then
      engineFails (putTile s1 e { x with attempt := 3, st := 3, input := [] }) x.core e false
    else putTile (bumpF s1 (ENG.REEXEC_SECOND i)) e { x with attempt := 2, st := 0 }

/-- TILE_REEXECUTE (R206). -/
def doTileReexecute (s : State) (c e : Nat) : State :=
  match (queueAt s (engIdx c e)).head? with
  | some x => if x.st = 1 then nextAttempt s e x else s
  | none => s
/-- TILE_REEXECUTE. -/
def execTileReexecute (core : Core) (eng : Eng) (s : State) : Host.Outcome State Fault Refusal :=
  .next (whenAlive s fun s => if coreUp s core then doTileReexecute s core eng else s)

/-- DET_LIMIT (R209): at the eighth detection since the last passed self-test the engine is declared failed. -/
def doDetLimit (s : State) (c e : Nat) : State :=
  if getF s (ENG.DET_SINCE_ST_COUNT (engIdx c e)) < 8 ∨ engFailed s c e then s
  else match (queueAt s (engIdx c e)).head? with
    | some x => if x.st = 1 then nextAttempt s e x else engineFails s c e false
    | none => engineFails s c e false
/-- DET_LIMIT. -/
def execDetLimit (core : Core) (eng : Eng) (s : State) : Host.Outcome State Fault Refusal :=
  .next (whenAlive s fun s => if coreUp s core then doDetLimit s core eng else s)

/-- A tile is done (R166): its share and the counters take it. The lines of a collective tile go to its group, and its
slots are free (R232). -/
def finishTile (s : State) (e : Nat) (h : Share) (x : Tile) : State :=
  let c := x.core
  let i := engIdx c e
  let g := dGroup h.desc
  let s1 := if dOp h.desc = 7 ∧ g ≠ 0 then
      forAll x.lines (fun s l => multicast s c x.pt g (linePva s l) (memRead s l 128)) s
    else s
  let s2 := onShare s1 x.job c fun h =>
    { h with flags := h.flags ||| x.flags, tally := h.tally.join x.tally, fin := max h.fin s.time.ft }
  let s3 := wrapF (wrapF s2 (SCORE.TILES c) 1) (ENG.TILES i) 1
  let (w, s4) := freeNat s3 64
  let (b, s5) := freeNat s4 64
  let s6 := wrapF (wrapF s5 (ENG.FETCH_WAIT i) w) (ENG.BUSY i) b
  settleLead (pruneColl (dropTile s6 e x) c) h.lead

/-- TILE_DONE (R166). -/
def doTileDone (s : State) (c e : Nat) (ties : Ties) : State :=
  let i := engIdx c e
  match (queueAt s i).head? with
  | none => s
  | some x =>
    match findShare s x.job c with
    | none => dropTile s e x
    | some h =>
      if x.st ≠ 2 ∧ x.st ≠ 4 then s
      else
        match takeFail s i with
        | (some (st, va), s1) => if x.st = 4 then settleLead (dropTile s1 e x) h.lead else failTile s1 e x st va
        | (none, s1) =>
          let (rest, s2) := issueWrites c e x.pt x.hint (yields s1 ties i x.pt) x.out s1
          let s3 := putTile s2 e { x with out := rest }
          if !rest.isEmpty || x.lines.any (writePending s3 i) then s3
          else if x.st = 4 then settleLead (dropTile s3 e x) h.lead
          else finishTile s3 e h x
/-- TILE_DONE. -/
def execTileDone (e : EngId) (ties : Ties) (s : State) : Host.Outcome State Fault Refusal :=
  .next (whenAlive s fun s => if coreUp s e.core then doTileDone s e.core e.eng ties else s)

/-! ROOT (R225). -/

/-- The lead's share has every tile of every core done, with no failure. -/
def rootReady (s : State) (h : Share) : Bool :=
  rootDue h && shareIdle s h && h.fail.isNone
    && (if dLong h.desc then h.phase == 4 && allReported s h && (lowestFail (reportsOf s h.job)).isNone else h.phase == 3)

/-- The bytes of stream 1 that all cores hashed. -/
def rootTotal (s : State) (h : Share) : Nat :=
  if dLong h.desc then ((reportsOf s h.job).map fun r => r.tally.a).sum else h.tally.a

/-- ROOT_COMPUTE (R225, R207): by an engine of the lead. A detection in the sponge state is recorded, and does not count
towards the engine's failure. -/
def doRootCompute (s : State) (c e num : Nat) (found : Bool) : State :=
  match s.eng.shares.find? fun h => h.core == c && h.lead == c && h.num == num && rootDue h with
  | none => s
  | some h =>
    if !rootReady s h then s
    else
      let fails := fun (s : State) (st d : Nat) =>
        let f : TileFail := { tile := h.emitted, below := h.mine, status := st, detail := d, offset := 2 ^ 48 - 1 }
        let s1 := onShare s h.job c fun h => { h with fail := some f }
        let rs := s1.eng.reports.map fun r => if r.job = h.job ∧ r.core = c then { r with fail := some f } else r
        settleLead { s1 with eng := { s1.eng with reports := rs } } c
      if found then
        let i := engIdx c e
        fails (faultEntry (noteDetection s i 7 1 false false) 17 1 (some h.pt) (0x0200 + i) i h.emitted) 35 0
      else
        let total := rootTotal s h
        let bytes := fun (leaves : Nat) => Keccak.toBytes (64 * h.emitted) leaves ++ le 8 total
        if h.emitted = 0 ∨ h.img.isSome then
          let v := (upTo h.emitted).foldl (fun v t => v + Store.get 0 h.leaves t * 2 ^ (512 * t)) 0
          settleLead (onShare s h.job c fun h => { h with root := some (sha3 (bytes v)) }) c
        else match seqRead s c e h.pt h.leaf0 (64 * h.emitted) with
          | (.wait, s1) => s1
          | (.fail st d, s1) => fails s1 st d
          | (.ok v, s1) => settleLead (onShare s1 h.job c fun h => { h with root := some (sha3 (bytes v)) }) c
/-- ROOT_COMPUTE. -/
def execRootCompute (e : EngId) (num : Nat) (found : Bool) (s : State) : Host.Outcome State Fault Refusal :=
  .next (whenAlive s fun s => match ownerOf s e.core with
    | some pt =>
      if coreUp s e.core && (logicalOf s e.core e.eng).isSome then slotted s e.core pt (doRootCompute · e.core e.eng num found) else s
    | none => s)

/-! Collective contributions (R231). -/

/-- The tiles of a core's queues and lists. -/
def heldTiles (s : State) (c : Nat) : List Tile :=
  ((upTo 2).flatMap (readyOf s c)) ++ (upTo 16).flatMap fun e => queueAt s (engIdx c e)

/-- COLL_PUT (R231): a line is added into the slots of its tile, or discarded and counted; once the COLLECTIVE stops, no
tile takes one (R233; DEDUCED, log 85). (DESIGN CHOICE, log 40) -/
def doCollPut (s : State) (c pid t j data : Nat) : State :=
  let drop := bumpF s (SCORE.COLL_DROPPED_COUNT c)
  match collOf s c with
  | none => drop
  | some k =>
    match k.tiles.find? (·.t == t), findShare s k.job c with
    | some x, some h =>
      let rows := ((heldTiles s c).find? fun y => y.job == k.job && y.t == t).map (·.rows)
      let n := collLines h.desc (rows.getD [])
      if k.stop.isSome || !k.pids.contains pid || decide (n ≤ j) || x.seen.contains (pid, j) then drop
      else
        let x1 := { collAdd h.desc j data x with seen := x.seen ++ [(pid, j)] }
        setColl s c (some { k with tiles := k.tiles.map fun y => if y.t = t then x1 else y })
    | _, _ => drop
/-- COLL_PUT. -/
def execCollPut (core : Core) (pid : Pid) (t j data : Nat) (s : State) : Host.Outcome State Fault Refusal :=
  .next (whenAlive s fun s => if coreUp s core then doCollPut s core pid t j (data % 2 ^ 1024) else s)

/-! Self-test and injection (R172, R174, R212). -/

/-- SELFTEST_ROTATION_STEP (R172): the step's time comes; with a spare and ROT_EN it is taken. -/
def doRotationStep (s0 : State) (c : Nat) : State :=
  let s := atPeriodic s0 (16 + c) 268435456 ((4096 * c + 2048) * 4096 + 32 * 64)
  if getF s (SCORE.SPARE_STS_SPARE c) ≠ 8 ∨ !flag s (SCORE.ST_CTL_ROT_EN c) ∨ (testedEngine s c).isSome then s
  else
    let k := getF s (SCORE.SPARE_STS_NEXT_STEP c)
    let s1 := setF s (SCORE.SPARE_STS_NEXT_STEP c) ((k + 1) % 9)
    let s2 := { s1 with eng := { s1.eng with testing := Store.set 0 s1.eng.testing c (k + 1) } }
    if 8 ≤ k then s2
    else setF (setB (setMap s2 c k 8) (SCORE.SPARE_STS_STANDIN c) true) (SCORE.SPARE_STS_STANDIN_FOR c) k
/-- SELFTEST_ROTATION_STEP. -/
def execSelftestRotationStep (core : Core) (s : State) : Host.Outcome State Fault Refusal :=
  .next (whenAlive s fun s => if coreUp s core then doRotationStep s core else s)

/-- SELFTEST_DONE (R172, R174): of the engine under test, once it has completed its queued tiles. -/
def doSelftestDone (s : State) (c block : Nat) : State :=
  match testedEngine s c with
  | none => s
  | some e =>
    if !(queueAt s (engIdx c e)).isEmpty then s
    else
      let i := engIdx c e
      let s1 := setF (setB (bumpF s (ENG.ST_COUNT_RUNS i)) (SCORE.ST_LAST_PASS c) (block == 0)) (SCORE.ST_LAST_UNIT c) e
      let s2 := endTest (setF (setB s1 (SCORE.ST_LAST_ABORTED c) false) (SCORE.ST_LAST_BLOCK c) block) c
      if block = 0 then
        let s3 := setF s2 (ENG.DET_SINCE_ST_COUNT i) 0
        if e = 8 then s3 else endStandin s3 c
      else
        let s3 := engineEntry (bumpF s2 (ENG.ST_COUNT_FAILS i)) c e 4 true
        engineFails s3 c e true
/-- SELFTEST_DONE. -/
def execSelftestDone (core : Core) (block : Fin 7) (s : State) : Host.Outcome State Fault Refusal :=
  .next (whenAlive s fun s => if coreUp s core then doSelftestDone s core block else s)

/-- CHK_INJECT with GO (R212). -/
def doChkInject (s : State) (c e v : Nat) : State :=
  let i := engIdx c e
  let busy := match ownerOf s c with | some pt => runOpen s pt | none => false
  if !v.testBit 0 then s
  else if busy || engFailed s c e then setB s (ENG.CHK_INJECT_REFUSED i) true
  else
    let block := match bitsOf v 1 2 with | 0 => 1 | 1 => 2 | 2 => 5 | _ => 6
    let s1 := setB s (ENG.CHK_INJECT_REFUSED i) false
    { s1 with eng := { s1.eng with inject := Store.set (0, 0) s1.eng.inject i (block, max 1 (bitsOf v 3 2)) } }
/-- CHK_INJECT: the page of a core out of service ignores it (R2, R474). -/
def execChkInject (core : Core) (eng : Eng) (value : Nat) (s : State) : Host.Outcome State Fault Refusal :=
  .next (whenAlive s fun s => if coreUp s core then doChkInject s core eng value else s)

end Sys2Proof.Machine
end

