-- ==== Sys2Proof/Machine/XltCmd.lean ====
section
/-!
DEFINITION. Invalidations and page moves (R94 to R97, R101, R105), which wait for coherence and for the engines.
-/

namespace Sys2Proof.Machine

/-! What was translated before (R95). -/

/-- Two ranges share a byte. -/
def overlaps (a b lo hi : Nat) : Bool := decide (a < hi ∧ lo < b)

/-- A tile touches a range of PVAs. -/
def tileTouches (x : Tile) (lo hi : Nat) : Bool :=
  x.rows.any fun r => (rowVas r).any fun a => overlaps a (a + r.bytes) lo hi

/-- A tile goes on with translations that it has made. -/
def usesOld (x : Tile) : Bool := x.st == 2 || x.st == 4 || !x.moved.isEmpty

/-- The tiles of a partition in a range that go on with their translations. -/
def oldTiles (s : State) (pt lo hi : Nat) : List Tile :=
  ((coresOf s pt).flatMap fun c => (upTo 16).flatMap fun e => queueAt s (c * 16 + e)).filter fun x =>
    usesOld x && tileTouches x lo hi

/-- The stored requests of a partition to a range of PVAs. -/
def oldReqs (s : State) (pt lo hi : Nat) : List Req :=
  s.net.store.filter fun r => r.pt == pt && r.op != 0x0C && r.op != 0x0D && decide (lo ≤ r.pva ∧ r.pva < hi)

/-! Invalidation (R94 to R96). -/

/-- The frames, as keys of the frame map, and the GiBs of tier space whose records name a PVA in a range. -/
def namedFrames (s : State) (pt lo hi : Nat) : List (Nat × FrameRec) × List (Nat × FrameRec) :=
  let hit := fun (size : Nat) (r : FrameRec) => recPt r == some pt &&
    (match recPva r with | some v => overlaps v (v + size) lo hi | none => false)
  (s.xlt.frames.filter fun e => hit 65536 e.2, s.xlt.tframes.filter fun e => hit (2 ^ 30) e.2)

/-- The lines to recall for them: those of the frames, and those of the resident blocks of the GiBs. -/
def frameLines (s : State) (pt : Nat) (fs ts : List (Nat × FrameRec)) : List Nat :=
  (fs.flatMap fun e => let o := e.1 % 2 ^ 20 * 65536; namedLines s (e.1 / 2 ^ 20) o (o + 65536))
    ++ (ts.flatMap fun e => (rangeWays s pt (e.1 * 2 ^ 30) ((e.1 + 1) * 2 ^ 30)).flatMap (wayLines s pt))

/-- A record is retired. -/
def isRet (r : FrameRec) : Bool := match r with | .ret _ _ _ _ => true | _ => false

/-- The result of an invalidation's GO (R94, R101, Table 04-9). (DEDUCED, log 15) -/
def invResult (s : State) (pt kind : Nat) : Nat :=
  if (coresOf s pt).isEmpty then 1
  else if runOpen s pt then 2
  else if s.xlt.inv.isSome then 3
  else if kind % 4 = 3 then 9
  else 0

/-- The leaf translations of a partition that are cached (R90). -/
def cachedLeaves (s : State) (pt : Nat) : List CacheEnt :=
  (s.xlt.pxc ++ s.xlt.l2.flatMap (·.2) ++ s.xlt.etlb.flatMap (·.2)).filter fun e => e.pt == pt

/-- The page that holds a PVA, as base and end: the largest that a frame record, current or retired, or a cached
translation gives it, else 64 KiB (R94, R96). (DEDUCED, log 123) -/
def pageScope (s : State) (pt va : Nat) : Nat × Nat :=
  let pages := ((s.xlt.frames ++ s.xlt.tframes).filterMap fun e => if recPt e.2 = some pt then recPage e.2 else none)
    ++ (cachedLeaves s pt).map fun e => (e.base, 2 ^ e.span)
  let size := ((pages.filter fun p => decide (p.1 ≤ va ∧ va < p.1 + p.2)).map (·.2)).foldl max 65536
  (va / size * size, va / size * size + size)

/-- The PVAs in the scope of an invalidation, as first and end (R94). -/
def invScope (s : State) (pt kind : Nat) : Nat × Nat :=
  let base := getF s XLT.INV_PVA * 65536
  match kind % 4 with
  | 0 => pageScope s pt base
  | 1 => (base, base + max 1 (getF s XLT.INV_COUNT_UNITS) * 65536)
  | _ => (0, 2 ^ 57)

/-- The cached translations that a scope removes (R94): the page scope takes those that cover INV_PVA, the others those
that overlap them. (DEDUCED, log 123) -/
def removes (s : State) (pt kind : Nat) (e : CacheEnt) : Bool :=
  let va := getF s XLT.INV_PVA * 65536
  if kind % 4 = 0 then spanOverlaps va (va + 1) e
  else spanOverlaps (invScope s pt kind).1 (invScope s pt kind).2 e

/-- The PVAs of the translations that a scope removes, as first and end, with the scope's own (R94, R95).
(DEDUCED, log 123) -/
def removedRange (s : State) (pt kind : Nat) : Nat × Nat :=
  let sc := invScope s pt kind
  let es := (cachedLeaves s pt).filter (removes s pt kind)
  ((es.map (·.base)).foldl min sc.1, (es.map fun e => e.base + 2 ^ e.span).foldl max sc.2)

/-- The records that RECALL names in a scope; the partition scope never recalls (R96). -/
def invFrames (s : State) (pt kind : Nat) (rcl : Bool) : List (Nat × FrameRec) × List (Nat × FrameRec) :=
  if rcl && kind % 4 != 2 then namedFrames s pt (invScope s pt kind).1 (invScope s pt kind).2 else ([], [])

/-- The invalidation that GO starts: what it waits for and what it clears at its end (R95, R96).
(DEDUCED, log 89) -/
def invJob (s : State) (pt kind : Nat) (rcl : Bool) : InvJob :=
  let r := removedRange s pt kind
  let sc := if rcl && kind % 4 != 2 then invScope s pt kind else (0, 0)
  let fs := invFrames s pt kind rcl
  { pt := pt, lo := sc.1, hi := sc.2
    reqs := (oldReqs s pt r.1 r.2).map fun q => (q.pid, q.tag, isWb q.op)
    tiles := (oldTiles s pt r.1 r.2).map fun x => (x.core, x.job, x.t)
    frames := (fs.1.filter fun e => isRet e.2).map (·.1)
    tframes := (fs.2.filter fun e => isRet e.2).map (·.1) }

/-- INV_CMD.GO (R94 to R96). (DEDUCED, log 90) (DEDUCED, log 89) (DEDUCED, log 160) -/
def doXltInvalidate (s : State) (pt kind : Nat) (rcl : Bool) : State :=
  let r := invResult s pt kind
  if r ≠ 0 then setF s XLT.INV_STS_RESULT r
  else
    let fs := invFrames s pt kind rcl
    let s1 := { s with xlt := { s.xlt with inv := some (invJob s pt kind rcl) } }
    let s2 := bumpConfigGen (setB s1 XLT.INV_STS_BUSY true) pt
    recallLines (dropCached s2 pt (removes s pt kind)) 1 (frameLines s pt fs.1 fs.2)

/-- XLT_INVALIDATE (R94). -/
def execXltInvalidate (pt : Ptn) (kind : Nat) (rcl : Bool) (s : State) : Host.Outcome State Fault Refusal :=
  .next (whenAlive s fun s => doXltInvalidate s pt kind rcl)

/-- What was translated before an invalidation has finished (R95). (DEDUCED, log 89) -/
def oldFinished (s : State) (j : InvJob) : Bool :=
  j.reqs.all (fun q => !(s.net.store.any fun r => r.pid == q.1 && r.tag == q.2.1 && isWb r.op == q.2.2 && r.pt == j.pt))
    && j.tiles.all fun t => !(tilesHeld s t.1 t.2.1).contains t.2.2

/-- The lines that an invalidation recalls and that a copy is out of now. -/
def invHeld (s : State) (j : InvJob) : List Nat :=
  let fs := namedFrames s j.pt j.lo j.hi
  (frameLines s j.pt fs.1 fs.2).filter (lineHeld s)

/-- INV_DONE (R95, R96): once the accesses translated before have finished, the lines that they have fetched since GO are
recalled too; then it ends. (DEDUCED, log 89) (DEDUCED, log 160) -/
def doInvDone (s : State) : State :=
  match s.xlt.inv with
  | none => s
  | some j =>
    if !oldFinished s j || recalling s 1 then s
    else if !j.again && !(invHeld s j).isEmpty then
      recallLines { s with xlt := { s.xlt with inv := some { j with again := true } } } 1 (invHeld s j)
    else
      let clear := fun (ks : List Nat) (m : Store FrameRec) => m.filter fun e => !(ks.contains e.1 && isRet e.2)
      let x := { s.xlt with inv := none, frames := clear j.frames s.xlt.frames, tframes := clear j.tframes s.xlt.tframes }
      raise (setF (setB { s with xlt := x } XLT.INV_STS_BUSY false) XLT.INV_STS_RESULT 0) 0x0400 0
/-- INV_DONE. -/
def execInvDone (s : State) : Host.Outcome State Fault Refusal := .next (whenAlive s doInvDone)

/-! Page moves (R105). -/

/-- The leaf that the tables give a PVA now: level, table offset and entry. -/
def leafFrom (s : State) (pt va : Nat) : Nat → Nat → Option (Nat × Nat × Nat)
  | l, base =>
    let off := base + levelIndex va l * 8
    let e := tableEntry s pt off
    if !eV e || entryResult s pt l e != 0 then none
    else if eLeaf e then some (l, off, e)
    else match l with
      | 0 => none
      | l' + 1 => leafFrom s pt va l' (eNext e)

/-- The leaf of a PVA. -/
def leafOf (s : State) (pt va : Nat) : Option (Nat × Nat × Nat) :=
  if flag s (XLT.ROOT_V pt) then leafFrom s pt va 4 (getF s (XLT.ROOT_OFFSET pt) * 4096) else none

/-- The result of a move's GO (R101, R105, R403, Table 04-9), the lowest that applies (DEDUCED, log 15). -/
def moveResult (s : State) (pt va dst : Nat) : Nat :=
  if (coresOf s pt).isEmpty then 1
  else if runOpen s pt then 2
  else if (Store.get none s.xlt.moves pt).isSome || decide (4 ≤ ((upTo 16).filter fun p => (Store.get none s.xlt.moves p).isSome).length)
  then 3
  else match leafOf s pt va with
    | none => 10
    | some (l, _, e) =>
      let size := 2 ^ levelShift l
      if 1 < l ∨ (ePpa e).testBit 47 then 10
      else if dst % size ≠ 0 then 5
      else if dst.testBit 47 || !leafOwned s pt dst l then 6
      else if !((leafPlaces s pt dst l).all fun x => frameRec s x.2 == .none) || coversImage s pt (va / size * size) size then 10
      else 0

/-- The lines of a page's pieces. -/
def pageLines (s : State) (ps : List (Nat × Place)) : List Nat :=
  ps.flatMap fun p => match p.2 with
    | .dram c o => namedLines s c o (o + 65536)
    | .tier _ => []

/-- MOVE_CMD.GO (R105): accesses are held, and the page's lines are recalled. -/
def doPageMove (s : State) (pt : Nat) : State :=
  let va := getF s XLT.MOVE_PVA * 65536
  let dst := getF s XLT.MOVE_DST * 65536
  let r := moveResult s pt va dst
  let s1 := setF s XLT.MOVE_STS_RESULT r
  if r ≠ 0 then s1
  else match leafOf s pt va with
    | none => s1
    | some (l, off, e) =>
      let size := 2 ^ levelShift l
      let job : MoveJob := { pva := va / size * size, size := size, off := off, lvl := l, dst := dst }
      let s2 := { s1 with xlt := { s1.xlt with moves := Store.set none s1.xlt.moves pt (some job) } }
      recallLines (setBitF s2 XLT.MOVE_STS_BUSY pt true) (16 + pt) (pageLines s (leafPlaces s pt (ePpa e) l))
/-- PAGE_MOVE (R105). -/
def execPageMove (pt : Ptn) (s : State) : Host.Outcome State Fault Refusal := .next (whenAlive s (doPageMove · pt))

/-- The frames of a page are at rest: no recall, no transaction, no copy outside, no tile in the middle of its writes. -/
def pageAtRest (s : State) (pt : Nat) (j : MoveJob) (ps : List (Nat × Place)) : Bool :=
  !recalling s (16 + pt) && (pageLines s ps).all (fun l => !lineHeld s l)
    && (oldTiles s pt j.pva (j.pva + j.size)).isEmpty

/-- Copy a 64 KiB piece, and to the secondary of the home it goes to. -/
def copyPiece (s : State) (a b : Place) : State :=
  match a, b with
  | .dram c o, .dram c' o' =>
    let s1 := copyLines s (memKey c o) (memKey c' o') 65536
    match secondaryOf s1 c' with
    | some q => if mirrored s1 c' then copyLines s1 (memKey c' o') (memKey q o') 65536 else s1
    | none => s1
  | _, _ => s

/-- The held requests to the page go to its new frames. (DEDUCED, log 91) -/
def reline (s : State) (pt : Nat) (j : MoveJob) : State :=
  let f := fun (r : Req) =>
    if r.pt = pt ∧ !r.taken ∧ r.line.isSome ∧ j.pva ≤ r.pva ∧ r.pva < j.pva + j.size then
      match placeOf s pt (j.dst + (r.pva - j.pva)) with
      | some (.dram c o) => { r with line := some (lineAt c o) }
      | _ => r
    else r
  { s with net := { s.net with store := s.net.store.map f } }

/-- MOVE_DONE (R105): copy, commit, invalidate, release. (DEDUCED, log 91) -/
def doMoveDone (s : State) (pt : Nat) : State :=
  match Store.get none s.xlt.moves pt with
  | none => s
  | some j =>
    let e := tableEntry s pt j.off
    let old := leafPlaces s pt (ePpa e) j.lvl
    if !pageAtRest s pt j old then s
    else
      let new := leafPlaces s pt j.dst j.lvl
      let s1 := forAll (old.zip new) (fun s p => copyPiece s p.1.2 p.2.2) s
      let s2 := bumpConfigGen (applyCommit s1 pt j.off j.lvl (withPpa e j.dst)) pt
      let s3 := forAll old (fun s p => if isRet (frameRec s p.2) then setFrame s p.2 .none else s) s2
      let s4 := reline (dropCached s3 pt (spanOverlaps j.pva (j.pva + j.size))) pt j
      let s5 := { s4 with xlt := { s4.xlt with moves := Store.del s4.xlt.moves pt } }
      raise (setBitF s5 XLT.MOVE_STS_BUSY pt false) 0x0400 1
/-- MOVE_DONE. -/
def execMoveDone (pt : Ptn) (s : State) : Host.Outcome State Fault Refusal := .next (whenAlive s (doMoveDone · pt))

end Sys2Proof.Machine
end

