-- ==== Sys2Proof/Machine/Partition.lean ====
section
/-!
DEFINITION. Partitions (R394, R395, R405 to R408, R517, R518): quiesce, configuration, binding and the muslin scrub.
-/

namespace Sys2Proof.Machine

/-- The partition that PT_SEL names. -/
def selPt (s : State) : Nat := getF s PART.PT_SEL_PT

/-- A member of a bit set. -/
def setBit16 (v : BitVec 16) (i : Nat) (b : Bool) : BitVec 16 :=
  if b then v ||| BitVec.ofNat 16 (2 ^ i) else v &&& ~~~ BitVec.ofNat 16 (2 ^ i)

/-- A change of the partition's state advances its CONFIG_GEN (R396). (DEDUCED, log 90) -/
def noteState (pt : Nat) (f : State → State) (s : State) : State :=
  let s1 := f s
  if ptState s1 pt = ptState s pt then s1 else bumpConfigGen s1 pt

/-! Quiesce (R395). -/

/-- A pair of the partition is being copied (R517). -/
def copyingPt (s : State) (pt : Nat) : Bool := (coresOf s pt).any s.parts.copying.getLsbD

/-- QUIESCE_CMD.GO (R395). -/
def doQuiesce (s : State) (pt : Nat) : State :=
  let st := ptState s pt
  if runOpen s pt then setF s (PART.PT_STS_QRESULT pt) 1
  else if st = 0 ∨ st = 5 then setF s (PART.PT_STS_QRESULT pt) 2
  else
    let s1 := setF s (PART.PT_STS_QRESULT pt) 0
    if st = 4 then s1 else setB s1 (PART.PT_STS_QUIESCING pt) true
/-- QUIESCE (R395): of the partition that PT_SEL names. -/
def execQuiesce (s : State) : Host.Outcome State Fault Refusal := .next (whenAlive s fun s => doQuiesce s (selPt s))

/-- Nothing of the partition's work is left: no descriptor, segment, tile or record, no tier operation.
(DEDUCED, log 92) -/
def ptDrained (s : State) (pt : Nat) : Bool :=
  ((upTo 16).all fun c => (fifoOf s c pt).isEmpty) && s.eng.shares.all (·.pt != pt) && s.eng.recs.all (·.pt != pt)
    && (s.tier.ops ++ s.tier.waiting).all fun o => wayPt s o.way != pt

/-- QUIESCED (R395). (DEDUCED, log 92) -/
def doQuiesced (s : State) (pt : Nat) : State :=
  if flag s (PART.PT_STS_QUIESCING pt) && ptDrained s pt then
    let s1 := setB s (PART.PT_STS_QUIESCING pt) false
    raise { s1 with parts := { s1.parts with quiesced := setBit16 s1.parts.quiesced pt true } } 0x0030 4
  else s
/-- QUIESCED. -/
def execQuiesced (pt : Ptn) (s : State) : Host.Outcome State Fault Refusal := .next (whenAlive s (noteState pt (doQuiesced · pt)))

/-- QUIESCE_CMD.RESUME (R395). -/
def doResume (s : State) (pt : Nat) : State :=
  if scrubbing s pt || copyingPt s pt || !(flag s (PART.PT_STS_QUIESCING pt) || s.parts.quiesced.getLsbD pt) then
    setF s (PART.PT_STS_QRESULT pt) 2
  else
    let s1 := setB (setF s (PART.PT_STS_QRESULT pt) 0) (PART.PT_STS_QUIESCING pt) false
    { s1 with parts := { s1.parts with quiesced := setBit16 s1.parts.quiesced pt false } }

/-! Configuration (R517, Table 13-20). -/

/-- The pairs that the CFG registers name: primary and secondary. -/
def cfgPairs (s : State) : List (Nat × Nat) :=
  ((upTo 16).filter (getF s PART.CFG_PRIMARY_PRIMARY).testBit).map fun p => (p, bitsOf (getF s PART.CFG_SEC) (4 * p) 4)

/-- A pair is one that the partition holds whole already. (DEDUCED, log 93) -/
def keptPair (s : State) (x : Nat × Nat) : Bool := secondaryOf s x.1 == some x.2 && pairWhole s x.1

/-- BAD_PAIR of Table 13-20. -/
def badPairs (s : State) (pt mask : Nat) : Bool :=
  let ps := cfgPairs s
  let all := ps.flatMap fun x => [x.1, x.2]
  ps.any (fun x => !mask.testBit x.1 || !mask.testBit x.2 || x.1 == x.2)
    || decide (all.eraseDups.length < all.length)
    || ps.any fun x => !keptPair s x && (ownerOf s x.2 == some pt
        || [x.1, x.2].any fun c => (upTo 16).any fun p => pairWhole s p && (c == p || secondaryOf s p == some c))

/-- The result of a configuration, the first of Table 13-20 that applies. -/
def cfgResult (s : State) (pt : Nat) : Nat :=
  let mask := getF s PART.CFG_CORES_CORES
  let st := ptState s pt
  let named := (upTo 16).filter mask.testBit
  let mine := coresOf s pt
  if (st ≠ 0 ∧ st ≠ 4) ∨ copyingPt s pt then 1
  else if runOpen s pt then 2
  else if named.isEmpty then 3
  else if (named ++ (cfgPairs s).flatMap fun x => [x.1, x.2]).any fun c => !coreFitted s c || lostCore s c then 4
  else if (named.any fun c => (match ownerOf s c with | some q => q != pt | none => false))
      || mine.any fun c => !lostCore s c && !mask.testBit c then 5
  else if badPairs s pt mask then 6
  else if (named != mine) && !tierEmpty s pt then 7
  else 0

/-- A table area goes from one core to another. (DEDUCED, log 93) -/
def copyTables (s : State) (p q : Nat) : State := copyLines s (memKey p tableArea) (memKey q tableArea) (2 ^ 28)

/-- The tables stay with the partition when the cores that hold them change (R83). (DEDUCED, log 93) -/
def carryTables (s : State) (pt : Nat) (old : List Nat) : State :=
  match old.find? fun c => !lostCore s c with
  | some p => forAll ((tableCores s pt).filter fun q => !old.contains q) (fun s q => copyTables s p q) s
  | none => s

/-- A core comes to a partition: its FIFO bank there is enabled, empty (R144, R517). -/
def joinCore (s : State) (pt c : Nat) : State :=
  let e := { s.eng with accepted := Store.del s.eng.accepted c, fifos := Store.del s.eng.fifos (c * 16 + pt),
                        mark := Store.del s.eng.mark c, markCmd := Store.del s.eng.markCmd c }
  { s with parts := { s.parts with owner := Store.set 0 s.parts.owner c (pt + 1) }, eng := e }

/-- A lost core leaves: it belongs to no partition, and its key is discarded (R517, R135). -/
def leaveLost (s : State) (c : Nat) : State :=
  clearRegions { s with parts := { s.parts with owner := Store.del s.parts.owner c }
                        sec := { s.sec with ck := Store.del s.sec.ck c } } c

/-- CFG_CMD.GO (R517). (DEDUCED, log 93) -/
def doCfg (s : State) (pt : Nat) : State :=
  let r := cfgResult s pt
  let s0 := setF s (PART.CFG_STS_RESULT pt) r
  if r ≠ 0 then s0
  else
    let mask := getF s PART.CFG_CORES_CORES
    let named := (upTo 16).filter mask.testBit
    let mine := coresOf s pt
    let pairs := cfgPairs s
    let old := tableCores s pt
    let copy := (pairs.filter fun x => !keptPair s x && mine.contains x.1).map (·.1)
    let s1 := forAll (mine.filter fun c => !mask.testBit c) leaveLost s0
    let s2 := forAll (named.filter fun c => !mine.contains c) (joinCore · pt) s1
    let sec0 := s2.parts.sec.filter fun e => !(mine.contains e.1)
    let home := s2.parts.home.filter fun e => !(mine.contains e.1)
    let mineMask := BitVec.ofNat 16 ((mine.map fun c => 2 ^ c).sum)
    let p := { s2.parts with
      sec := pairs.foldl (fun m x => Store.set 0 m x.1 (x.2 + 1)) sec0
      home := home
      broken := s2.parts.broken &&& ~~~ mineMask
      failing := s2.parts.failing &&& ~~~ mineMask
      copying := copy.foldl (fun v c => setBit16 v c true) s2.parts.copying
      lostOne := setBit16 s2.parts.lostOne pt false }
    let s3 := carryTables { s2 with parts := p } pt old
    let s4 := if named = mine then s3 else dropCached s3 pt fun _ => true
    bumpConfigGen (setB s4 (PART.CFG_STS_COPYING pt) (!copy.isEmpty)) pt
/-- CFG_GO (R517): of the partition that PT_SEL names. -/
def execCfgGo (s : State) : Host.Outcome State Fault Refusal := .next (whenAlive s fun s => doCfg s (selPt s))

/-- The offsets below the table area, and the tags with their replica. -/
def copyPair (s : State) (p q : Nat) : State :=
  copyLines (copyLines s (memKey p 0) (memKey q 0) tableArea) (memKey p (tagOff 0)) (memKey q (tagOff 0)) (2 ^ 27)

/-- PAIR_COPY_DONE (R25, R517): the pairs become whole. -/
def doPairCopyDone (s : State) (pt : Nat) : State :=
  let ps := (coresOf s pt).filter s.parts.copying.getLsbD
  if ps.isEmpty then s
  else
    let one := fun (s : State) (p : Nat) => match secondaryOf s p with
      | some q => if coreUp s p && coreUp s q then copyPair s p q else s
      | none => s
    let s1 := forAll ps one s
    let s2 := { s1 with parts := { s1.parts with copying := ps.foldl (fun v p => setBit16 v p false) s1.parts.copying } }
    setB s2 (PART.CFG_STS_COPYING pt) false
/-- PAIR_COPY_DONE. -/
def execPairCopyDone (pt : Ptn) (s : State) : Host.Outcome State Fault Refusal := .next (whenAlive s (noteState pt (doPairCopyDone · pt)))

/-! Binding (R518). -/

/-- BIND_CMD.BIND (R518): the first refusal in the rule's order. (DEDUCED, log 124) -/
def doBind (s : State) (pt : Nat) : State :=
  let pid := getF s PART.BIND_PID_PID
  let st := pidState s pid
  let r := if st ≠ 0 ∧ st ≠ 4 then 1
    else if !flag s (ROUTE.PTAB_DATA_V pid) then 2
    else if (coresOf s pt).isEmpty then 3
    else if 4096 * (viewCores s pt).length < limitSum s pt pid + getF s (SHAPE.E2E_DATA_LIMIT pid) then 4
    else 0
  let s1 := setF s (PART.BIND_STS_RESULT 0) r
  if r ≠ 0 then s1
  else freshBinding (setF (setF s1 (PART.FENCE_STS_STATE pid) 1) (PART.BIND_STS_PT pid) pt) pid
/-- BIND (R518): of the PID that BIND_PID names. -/
def execBind (pt : Ptn) (s : State) : Host.Outcome State Fault Refusal := .next (whenAlive s (doBind · pt))

/-- BIND_CMD.UNBIND (R518). (DEDUCED, log 124) -/
def doUnbind (s : State) : State :=
  let pid := getF s PART.BIND_PID_PID
  if pidState s pid ≠ 4 then setF s (PART.BIND_STS_RESULT 0) 1
  else setF (setF (setF s (PART.BIND_STS_RESULT 0) 0) (PART.FENCE_STS_STATE pid) 0) (PART.BIND_STS_PT pid) 0
/-- UNBIND (R518). -/
def execUnbind (s : State) : Host.Outcome State Fault Refusal := .next (whenAlive s doUnbind)

/-! The muslin scrub (R405 to R408). -/

/-- The job code of a partition's scrub recalls. -/
def scrubJob (pt : Nat) : Nat := 32 + pt

/-- The scrub of a partition. -/
def scrubOf (s : State) (pt : Nat) : Option Scrub := Store.get none s.parts.scrubs pt
/-- Replace it. -/
def setScrub (s : State) (pt : Nat) (x : Option Scrub) : State :=
  { s with parts := { s.parts with scrubs := Store.set none s.parts.scrubs pt x } }

/-- A drive that SCRUB_DRIVES may name: one assigned to the partition, or one whose sanitize was cut short (R408).
(DEDUCED, log 94) -/
def scrubDriveOk (s : State) (pt d : Nat) : Bool :=
  (flag s (TIER.DRIVE_EN d) && getF s (TIER.DRIVE_PT d) == pt)
    || (s.tier.unclean.contains d && driveReady s d && !flag s (TIER.DRIVE_EN d))

/-- The masks of a scrub are good (R405). (DEDUCED, log 94) -/
def scrubMaskOk (s : State) (pt cores drives : Nat) : Bool :=
  let cs := (upTo 16).filter cores.testBit
  let ds := (upTo 16).filter drives.testBit
  !(cs.isEmpty && ds.isEmpty) && cs.all (fun c => coreUp s c && ownerOf s c == some pt)
    && ds.all (scrubDriveOk s pt)
    && cs.all fun c => match secondaryOf s c with
      | some q => s.parts.broken.getLsbD c || cores.testBit q
      | none => true

/-- The PIDs whose answers the recalls of a job await. -/
def awaitedBy (s : State) (job : Nat) : List Nat :=
  (s.coh.txns.flatMap fun e => match e.2 with
    | some t => if t.req.agent = .recall job then t.invs ++ (if t.snoop ≠ 0 then [t.owner] else []) else []
    | none => []).eraseDups

/-- Step 1 of R406 begins: copies are withdrawn and the drives that are ready sanitized; another drive waits for a sanitize
of its own (R408). SCRUB_STS shows it. (DEDUCED, log 95) (DEDUCED, log 94) -/
def withdraw (s : State) (pt : Nat) (x : Scrub) : State :=
  let ready := x.drives.filter (driveReady s)
  let lost := x.drives.filter (!driveReady s ·)
  let s0 := { s with tier := { s.tier with unclean := lost ++ s.tier.unclean.filter (!lost.contains ·) } }
  let s1 := setScrub s0 pt (some x)
  let s2 := forAll x.cores (fun s c => recallLines s (scrubJob pt) (namedLines s c 0 (2 ^ 36))) s1
  let owed := (awaitedBy s2 (scrubJob pt)).map fun p => (p, s2.time.elapsed)
  let s3 := forAll ready (fun s d => setF s (PCIE.DRV_STS_STATE d) 5) (setScrub s2 pt (some { x with owed := owed }))
  let s4 := setF (setB s3 (PART.SCRUB_STS_BUSY pt) true) (PART.SCRUB_STS_STEP pt) (if x.cores.isEmpty then 0 else 1)
  setF s4 (PART.SCRUB_STS_DRIVES_LEFT pt) ((ready.map fun d => 2 ^ d).sum)

/-- A scrub begins (R405, R406): the partition's stored requests are answered NOT_READY. (DEDUCED, log 95) -/
def scrubStart (s : State) (pt : Nat) (cores drives : List Nat) : State :=
  let gone := s.net.store.filter fun r => r.pt == pt && !r.taken
  let s0 := { s with tier := { s.tier with waiters := s.tier.waiters.filter fun w => match w.2 with
    | .req p t => !gone.any fun r => r.pid == p && r.tag == t
    | .engine _ => true } }
  withdraw (forAll gone (fun s r => refuse s r 16 3 0) s0) pt { cores := cores, drives := drives }

/-- A scrub that a warm reset cut short restarts from step 1 when the reset completes (R408). (DEDUCED, log 95) -/
def restartScrub (s : State) (pt : Nat) : State :=
  match scrubOf s pt with
  | some x => if x.restart then withdraw s pt { x with restart := false } else s
  | none => s

/-- SCRUB_CMD.GO (R405): refused with the lowest code that applies, else K_T is drawn and the scrub begins (R406). -/
def doScrubGo (s : State) (pt : Nat) : State :=
  let cores := getF s PART.SCRUB_CORES_CORES
  let drives := getF s PART.SCRUB_DRIVES_DRIVES
  let r := if ptState s pt ≠ 4 then 1
    else if runOpen s pt then 2
    else if trngFailed s then 3
    else if !scrubMaskOk s pt cores drives then 4
    else 0
  let s1 := setF s (PART.SCRUB_STS_RESULT pt) r
  if r ≠ 0 then s1
  else
    let (k, s2) := draw s1 512
    scrubStart { s2 with sec := { s2.sec with kt := k + 1 } } pt ((upTo 16).filter cores.testBit) ((upTo 16).filter drives.testBit)
/-- SCRUB_GO (R405): of the partition that PT_SEL names. -/
def execScrubGo (s : State) : Host.Outcome State Fault Refusal := .next (whenAlive s fun s => noteState (selPt s) (doScrubGo · (selPt s)) s)

/-- SCRUB_SNOOP_TIMEOUT (R406): 250 us after the snoop. -/
def doScrubTimeout (s : State) (pid : Nat) : State :=
  match (upTo 16).find? fun pt => (scrubOf s pt).isSome && (awaitedBy s (scrubJob pt)).contains pid with
  | none => s
  | some pt =>
    let since := (((scrubOf s pt).map (·.owed)).getD []).find? fun o => o.1 == pid
    fencePid (advanceEl s ((match since with | some o => o.2 | none => s.time.elapsed) + 250000)) pid
/-- SCRUB_SNOOP_TIMEOUT. -/
def execScrubSnoopTimeout (pid : Pid) (s : State) : Host.Outcome State Fault Refusal :=
  .next (whenAlive s (doScrubTimeout · pid))

/-- SANITIZE_DONE (R406): the data of the drive are gone. -/
def doSanitizeDone (s : State) (d : Nat) : State :=
  if getF s (PCIE.DRV_STS_STATE d) ≠ 5 then s
  else
    let s1 := setF s (PCIE.DRV_STS_STATE d) 2
    let s2 := { s1 with tier := { s1.tier with flash := unkey 31 d s1.tier.flash, unclean := s1.tier.unclean.filter (· != d) } }
    forAll (upTo 16) (fun s pt =>
      setF s (PART.SCRUB_STS_DRIVES_LEFT pt) (withBit (getF s (PART.SCRUB_STS_DRIVES_LEFT pt)) d false)) s2
/-- SANITIZE_DONE. -/
def execSanitizeDone (root : Root) (s : State) : Host.Outcome State Fault Refusal := .next (whenAlive s (doSanitizeDone · root))

/-- A core is covered, rekeyed and cleared (R406 steps 2 to 4). (DEDUCED, log 95) -/
def scrubCore (s : State) (c : Nat) : State :=
  let n := Store.get 0 s.sec.scrubs c + 1
  let s1 := zeroRange s (memKey c 0) (2 ^ 36)
  let s2 := newCoreKey { s1 with sec := { s1.sec with scrubs := Store.set 0 s1.sec.scrubs c n } } c
  let s3 := clearRegions (discardWork s2 c) c
  let d := { s3.dram with faults := unkey 36 c s3.dram.faults, raw := unkey 36 c s3.dram.raw }
  let coh := { s3.coh with dir := unkey 36 c s3.coh.dir, txns := unkey 36 c s3.coh.txns, dcache := unkey 11 c s3.coh.dcache }
  let here : TierOp → Bool := fun o => wayCore o.way != c
  let t := { s3.tier with ways := unkey 23 c s3.tier.ways, plru := unkey 20 c s3.tier.plru, goals := unkey 23 c s3.tier.goals,
                          ops := s3.tier.ops.filter here, waiting := s3.tier.waiting.filter here,
                          failed := s3.tier.failed.filter fun k => wayCore k != c,
                          tagc := s3.tier.tagc.map fun e => (e.1, e.2.filter fun k => k / 2 ^ 20 != c) }
  let x := { s3.xlt with frames := unkey 20 c s3.xlt.frames, hot := s3.xlt.hot.filter fun h => h.1 != c }
  clearCounters { s3 with dram := d, coh := coh, tier := t, xlt := x } (fun b => b % 16 == c)

/-- A core leaves its partition. -/
def freeCore (s : State) (c : Nat) : State :=
  let sec := (s.parts.sec.filter fun e => e.1 != c).filter fun e => e.2 != c + 1
  let home := (s.parts.home.filter fun e => e.1 != c).filter fun e => e.2 != c + 1
  let p := { s.parts with owner := Store.del s.parts.owner c, sec := sec, home := home,
                          broken := setBit16 s.parts.broken c false, copying := setBit16 s.parts.copying c false }
  { s with parts := p }

/-- A drive leaves its partition (R406): with the last one the tier key goes, and the key slots on the drive empty.
(DEDUCED, log 94) -/
def freeDrive (s : State) (pt d : Nat) : State :=
  if !flag s (TIER.DRIVE_EN d) then s
  else
    let w := if flag s (TIER.DRIVE_PAIR (d / 2 * 2)) then d / 2 * 2 else d
    let mine := fun k => (getF s (KEY.KSLOT_CTL_STATE k) != 0 || Store.get 0 s.sec.slotNext k != 0)
      && getF s (KEY.KSLOT_CTL_PT k) == pt && decide (getF s (KEY.KSLOT_BASE_GIB k) < (w + 1) * 8192
        ∧ w * 8192 < getF s (KEY.KSLOT_BASE_GIB k) + getF s (KEY.KSLOT_LEN_GIB k))
    let s1 := setB (setB (releaseWindow s d) (TIER.DRIVE_EN d) false) (TIER.DRIVE_PAIR (d / 2 * 2)) false
    let s2 := forAll ((upTo 16).filter mine) (fun s k =>
      setF { s with sec := { s.sec with imageKey := Store.del s.sec.imageKey k, slotNext := Store.del s.sec.slotNext k } }
        (KEY.KSLOT_CTL_STATE k) 0) s1
    let last := (upTo 16).all fun i => !(flag s2 (TIER.DRIVE_EN i) && getF s2 (TIER.DRIVE_PT i) == pt)
    if last then
      let s3 := { s2 with sec := { s2.sec with tk := Store.del s2.sec.tk pt } }
      if profileS s3 then s3 else wrapF s3 (KEY.TGEN_GEN pt) 1
    else s2

/-- Every recall of the scrub is answered, and no drive of it still sanitizes. -/
def scrubOver (s : State) (pt : Nat) (x : Scrub) : Bool :=
  !x.restart && !recalling s (scrubJob pt) && x.drives.all fun d => getF s (PCIE.DRV_STS_STATE d) != 5

/-- SCRUB_DONE (R405 to R408). -/
def doScrubDone (s : State) (pt : Nat) : State :=
  match scrubOf s pt with
  | none => s
  | some x =>
    if !scrubOver s pt x then s
    else
      let cs := x.cores.filter fun c => !lostCore s c
      let old := (tableCores s pt).filter fun c => !lostCore s c
      let s1 := forAll cs freeCore s
      let s2 := forAll cs scrubCore (carryTables s1 pt old)
      let s3 := forAll x.drives (freeDrive · pt) s2
      let s4 := setScrub { s3 with sec := { s3.sec with kt := 0 } } pt none
      let s5 := setF (setB s4 (PART.SCRUB_STS_BUSY pt) false) (PART.SCRUB_STS_STEP pt) 0
      let free := (coresOf s5 pt).isEmpty
      let s6 := { s5 with parts := { s5.parts with quiesced := setBit16 s5.parts.quiesced pt !free } }
      let s7 := setB s6 (PART.CFG_STS_COPYING pt) (copyingPt s6 pt)
      raise (invalidatePt s7 pt) 0x0030 3
/-- SCRUB_DONE. -/
def execScrubDone (pt : Ptn) (s : State) : Host.Outcome State Fault Refusal := .next (whenAlive s (doScrubDone · pt))

end Sys2Proof.Machine
end

