-- ==== Sys2Proof/Machine/DetMode.lean ====
section
/-!
DEFINITION. Deterministic mode, deterministic runs and heartbeats (R19, R63, R65, R71, R73).
-/

namespace Sys2Proof.Machine

/-- Every command FIFO of every present core is empty and no engine is busy (R65). -/
def machineIdle (s : State) : Bool :=
  (upTo 16).all fun c => !coreUp s c ||
    ((upTo 16).all fun p => (fifoOf s c p).isEmpty) && (upTo 16).all fun e => (queueAt s (c * 16 + e)).isEmpty

/-- A write of TOP.DET_MODE (R65). One that is refused changes neither EN nor LOCK; one that would change a locked field
is counted (R483). (DEDUCED, log 96) -/
def doDetWrite (s : State) (v : Nat) : State :=
  let en := v.testBit 0
  if flag s TOP.DET_MODE_LOCK then
    let s1 := if en == flag s TOP.DET_MODE_EN && v.testBit 1 then s else bumpF s (HDR.LOCKED_WR 0x0000)
    if en == flag s TOP.DET_MODE_EN then s1 else raise (setB s1 TOP.DET_MODE_REFUSED true) 0x0000 4
  else if en != flag s TOP.DET_MODE_EN && (!machineIdle s || anyRun s) then
    raise (setB s TOP.DET_MODE_REFUSED true) 0x0000 4
  else
    setB (setB (setB s TOP.DET_MODE_REFUSED false) TOP.DET_MODE_EN en) TOP.DET_MODE_LOCK (v.testBit 1)
/-- DET_MODE_WRITE (R65). -/
def execDetModeWrite (value : Nat) (s : State) : Host.Outcome State Fault Refusal := .next (whenAlive s (noteChip (doDetWrite · value)))

/-- DET_MODE_TAKES_EFFECT (R65): at the next frame boundary. -/
def doDetEffect (s : State) : State :=
  if flag s TOP.DET_MODE_EN == flag s TOP.DET_MODE_ACTIVE then s
  else bumpAll (setB (toFrameStart s) TOP.DET_MODE_ACTIVE (flag s TOP.DET_MODE_EN))

/-! Runs (R71). -/

/-- DRUN_CMD.OPEN (R71): remaps on its stacks are deferred from here (R272). (DEDUCED, log 90) -/
def doDrunOpen (s : State) (pt : Nat) : State :=
  let f := getF s PART.DRUN_START
  let ok := detOn s && flag s FT.FT_STS_ALIGNED && !runOpen s pt && !(coresOf s pt).isEmpty
    && decide (s.time.ft / 4096 + 2 ≤ f)
  if !ok then raise s 0x0030 0
  else
    let s1 := setBitF { s with runs := Store.set none s.runs pt (some { frame := f, phase := 0 }) } PART.DRUN_OPEN_OPEN pt true
    let s2 := bumpConfigGen (setF (setF s1 (PART.DX_CAUSE_CAUSE pt) 0) (PART.DX_COUNT_COUNT pt) 0) pt
    forAll (coresOf s2 pt) remapSts s2
/-- DRUN_OPEN (R71). -/
def execDrunOpen (pt : Ptn) (s : State) : Host.Outcome State Fault Refusal := .next (whenAlive s (doDrunOpen · pt))

/-- The staging buffers of a core are cleared (R71): queued tiles that have not been computed are fetched again. -/
def clearStaging (s : State) (c : Nat) : State :=
  let fresh := fun (x : Tile) => if x.st = 0 ∨ x.st = 3 then { x with input := [] } else x
  let queues := s.eng.queues.map fun q => if q.1 / 16 = c then (q.1, q.2.map fresh) else q
  { s with eng := { s.eng with resident := unkey 4 c s.eng.resident, queues := queues } }

/-- RUN_COLD_START (R71): frame F begins; the partition's directory-cache blocks are written back, and its caches and
staging buffers are emptied. -/
def doColdStart (s : State) (pt : Nat) : State :=
  match Store.get none s.runs pt with
  | none => s
  | some r =>
    if r.phase ≠ 0 then s
    else
      let s1 := advanceFt s (r.frame * 4096)
      let cs := coresOf s1 pt
      let s2 := flushDc { s1 with runs := Store.set none s1.runs pt (some { r with phase := 1 }) } cs
      invalidatePt (forAll cs clearStaging s2) pt
/-- RUN_COLD_START. -/
def execRunColdStart (pt : Ptn) (s : State) : Host.Outcome State Fault Refusal := .next (whenAlive s (doColdStart · pt))

/-- RUN_FRAME0 (R71): frame F + 16 begins. -/
def doRunFrame0 (s : State) (pt : Nat) : State :=
  match Store.get none s.runs pt with
  | none => s
  | some r =>
    if r.phase ≠ 1 then s
    else
      let s1 := advanceFt s ((r.frame + 16) * 4096)
      { s1 with runs := Store.set none s1.runs pt (some { r with phase := 2 }) }
/-- RUN_FRAME0. -/
def execRunFrame0 (pt : Ptn) (s : State) : Host.Outcome State Fault Refusal := .next (whenAlive s (doRunFrame0 · pt))

/-- DRUN_CMD.CLOSE (R71): what R272 deferred falls due. (DEDUCED, log 90) -/
def doDrunClose (s : State) (pt : Nat) : State :=
  if bitF s PART.DRUN_OPEN_OPEN pt then
    let s1 := bumpConfigGen (setBitF { s with runs := Store.del s.runs pt } PART.DRUN_OPEN_OPEN pt false) pt
    forAll (coresOf s1 pt) remapSts s1
  else s
/-- DRUN_CLOSE (R71). -/
def execDrunClose (pt : Ptn) (s : State) : Host.Outcome State Fault Refusal := .next (whenAlive s (doDrunClose · pt))

/-- DX_UNALIGNED (R73): once per frame while Fabric Time is not aligned. -/
def doDxUnaligned (s : State) : State :=
  let s1 := atPeriodic s 5 4096 0
  if flag s1 FT.FT_STS_ALIGNED then s1 else forAll (upTo 16) (recordDx 0) s1
/-- DX_UNALIGNED. -/
def execDxUnaligned (s : State) : Host.Outcome State Fault Refusal := .next (whenAlive s doDxUnaligned)

/-! Heartbeats (R19, R63). -/

/-- A core misses the heartbeat of a frame: lost where it missed that of the frame before. -/
def missBeat (s : State) (c : Nat) : State :=
  let f := s.time.ft / 4096
  let s1 := { s with time := { s.time with missed := Store.set 0 s.time.missed c (f + 1) } }
  if coreUp s c && decide (0 < f) && Store.get 0 s.time.missed c == f then declareLost s1 c 3 else s1

/-- Slot 0 of a frame: a core of which three channels reported within one frame is declared lost, at the latest now
(R19). (DEDUCED, log 126) -/
def beatStart (s : State) : State := forAll (upTo 16) checkChannels (atPeriodic s 0 4096 0)

/-- HEARTBEAT (R19, R63): slot 0 of a frame. None is expected in HIBERNATE (R438). -/
def doHeartbeat (s : State) (missing : List Nat) : State :=
  let s1 := beatStart s
  if getF s1 PWR.PWR_STS_STATE = 3 then s1 else forAll missing missBeat s1
/-- HEARTBEAT. -/
def execHeartbeat (missing : List Core) (s : State) : Host.Outcome State Fault Refusal :=
  .next (whenAlive s (doHeartbeat · ((missing.map (·.val)).eraseDups)))

end Sys2Proof.Machine
end

