-- ==== Sys2Proof/Machine/Dram.lean ====
section
/-!
DEFINITION. The DRAM subsystem at work: scheduling, refresh, maintenance, training, correction and write-back, scrub,
remap, BIST and the checker test mode (chapter 9).
-/

namespace Sys2Proof.Machine

/-- The stack of a core takes commands. -/
def stackLive (s : State) (c : Nat) : Bool := coreUp s c && !s.pwr.selfRef && !s.pwr.dramOff

/-- The number of a pseudo-channel among all. -/
def pcKey (c pc : Nat) : Nat := c * 64 + pc
/-- The number of a bank among all. -/
def bankKey (c pc b : Nat) : Nat := (c * 64 + pc) * 64 + b

/-- A queue of a pseudo-channel. -/
def pcQueue (s : State) (k : Nat) : List DramReq := Store.get [] s.dram.queues k
/-- Replace a queue of a pseudo-channel. -/
def setPcQueue (s : State) (k : Nat) (q : List DramReq) : State :=
  { s with dram := { s.dram with queues := Store.set [] s.dram.queues k q } }

/-! Requests (R254, R255, R259). -/

/-- Service and target class of a request (Table 09-4): `src` is 0 directory, tables, frame map or tags; 1 partner read
from `port`; 2 walker; 3 engine or sequencer; 4 tier; 5 corrected write-back. -/
def dramClass (s : State) (c src port : Nat) (write : Bool) : Nat × Nat :=
  let tc := match src with
    | 1 => bitsOf (getF s (DRC.PORT_TC_TC c (port / 16))) (2 * (port % 16)) 2
    | 3 => getF s (DRC.SRC_TC_ENG_TC c)
    | 4 => getF s (DRC.SRC_TC_TIER_TC c)
    | 5 => 3
    | _ => 0
  let svc := match src with | 1 => 1 | 2 => 1 | 3 => 2 | 4 => 2 | 5 => 3 | _ => 0
  (if write then 3 else svc, tc)

/-- Room in the queue of a direction. -/
def dirRoom (q : List DramReq) (write : Bool) : Bool := decide ((q.filter (·.write == write)).length < 32)

/-- The raise of a write queue follows its water marks (R255). -/
def noteWater (s : State) (k : Nat) : State :=
  let c := k / 64
  let n := ((pcQueue s k).filter (·.write)).length
  if getF s (DRC.WR_WATER_HIGH c) ≤ n then { s with dram := { s.dram with raised := Store.set 0 s.dram.raised k 1 } }
  else if n ≤ getF s (DRC.WR_WATER_LOW c) then { s with dram := { s.dram with raised := Store.del s.dram.raised k } }
  else s

/-- Write-back entries of a core. -/
def wbEntries (s : State) (c : Nat) : List WbEntry := Store.get [] s.dram.wbq c
/-- Replace the write-back entries of a core; WBQ.PENDING follows. -/
def setWb (s : State) (c : Nat) (l : List WbEntry) : State :=
  setF { s with dram := { s.dram with wbq := Store.set [] s.dram.wbq c l } } (EDAC.WBQ_PENDING c) l.length

/-- A request leaves the slice and enters its queue (R255): its age, its eligible half (R259) and its place in the order
count from here. A write cancels the line's queued write-back (R268). (DESIGN CHOICE, log 49) -/
def enterQueue (s : State) (k : Nat) (r : DramReq) : State :=
  let c := k / 64
  let n := Store.get 0 s.dram.issued c
  let r1 := { r with since := s.time.elapsed, half := (s.time.ft + 51) / 32, order := n }
  let s1 := { s with dram := { s.dram with issued := Store.set 0 s.dram.issued c (n + 1) } }
  let s2 := if r.write && !r.wb then setWb s1 c ((wbEntries s1 c).filter fun e => e.written || e.line != r.line) else s1
  noteWater (setPcQueue s2 k (pcQueue s2 k ++ [r1])) k

/-- A waiting tag's request enters the queue of its direction if that has room, else it waits on (R255). -/
def admitTag (s : State) (k : Nat) (r : DramReq) : State :=
  if dirRoom (pcQueue s k) r.write then enterQueue s k r
  else { s with dram := { s.dram with tags := Store.set [] s.dram.tags k (Store.get [] s.dram.tags k ++ [r]) } }

/-- Waiting tags enter the queues as these have room, in order. (DESIGN CHOICE, log 136) -/
def admitTags (s : State) (k : Nat) : State :=
  let tags := Store.get [] s.dram.tags k
  forAll tags (admitTag · k ·) { s with dram := { s.dram with tags := Store.set [] s.dram.tags k [] } }

/-- A request comes to the pseudo-channel where its line lies: it enters its queue or waits in its tag (R255).
(DESIGN CHOICE, log 49) -/
def pushDram (s : State) (c off src port : Nat) (write part : Bool) : State :=
  let p := physOff s c off
  let (svc, tc) := dramClass s c src port write
  admitTag s (pcKey c (pcOf p)) { line := memKey c off, write := write, rmw := write && part, svc := svc, tc := tc,
                                  since := s.time.elapsed, bank := bankOf p, wb := src == 5 }

/-- A stack offset of a line, from an operand. -/
def lineOffArg (off : Nat) : Nat := off % 2 ^ 36 / 128 * 128

/-- DRAM_REQUEST (R254, R255). -/
def execDramRequest (core : Core) (off : Nat) (src : Fin 6) (port : Port) (write part : Bool) (s : State) :
    Host.Outcome State Fault Refusal :=
  .next (whenAlive s fun s => if stackLive s core then pushDram s core (lineOffArg off) src port write part else s)

/-- The age of a request. -/
def ageOf (s : State) (r : DramReq) : Nat := s.time.elapsed - r.since

/-- The target of a class. -/
def tcTarget (s : State) (c tc : Nat) : Nat :=
  match tc with
  | 0 => getF s (DRC.TC_TARGET01_TC0 c)
  | 1 => getF s (DRC.TC_TARGET01_TC1 c)
  | 2 => getF s (DRC.TC_TARGET23_TC2 c)
  | _ => getF s (DRC.TC_TARGET23_TC3 c)

/-- The urgency of a request (R255). -/
def urgency (s : State) (k : Nat) (r : DramReq) : Nat :=
  let c := k / 64
  let a := ageOf s r
  let t := tcTarget s c r.tc
  let u := if getF s (DRC.AGE_LIMIT_NS c) ≤ a then 3 else if t ≤ a then 2 else if t ≤ 2 * a then 1 else 0
  if u < 2 ∧ r.write ∧ Store.get 0 s.dram.raised k ≠ 0 then u + 1 else u

/-- AGE_EXPIRED (R256): the oldest uncounted request of a queue reaches the age limit. -/
def doAgeExpired (s : State) (c pc : Nat) : State :=
  let k := pcKey c pc
  if detOn s then s
  else match (pcQueue s k).find? (fun r => !r.aged) with
    | none => s
    | some r =>
      let s1 := advanceEl s (r.since + getF s (DRC.AGE_LIMIT_NS c))
      bumpF (setPcQueue s1 k ((pcQueue s1 k).map fun x => if x = r then { x with aged := true } else x))
        (DRC.AGE_EXPIRED_COUNT c)
/-- AGE_EXPIRED (R256). -/
def execAgeExpired (core : Core) (pc : Fin 64) (s : State) : Host.Outcome State Fault Refusal :=
  .next (whenAlive s fun s => if stackLive s core then doAgeExpired s core pc else s)

/-! Windows (R250 to R253, R256 to R259, R261). -/

/-- The gingham entry of a core's column in the controller slot `n` (R251). -/
def coreEntry (s : State) (c n : Nat) : Nat := slotEntry s (n % 64) (48 + c)

/-- Controller slot of a time, and window in it. -/
def ctlSlot (t : Nat) : Nat := (t - 12) / 64
/-- The window of a time. -/
def ctlWindow (t : Nat) : Nat := (t - 12) % 64 / 4

/-- An access in the window at `t` leaves its bank free at the start of the next slot, where that is a MAINT slot or a
REFRESH slot of the bank's SID (R253). -/
def quietAt (s : State) (c bank t : Nat) : Bool :=
  let n := ctlSlot t
  let nxt := coreEntry s c (n + 1)
  decide (t + 12 ≤ 12 + 64 * (n + 1))
    || !(isKind nxt 5 || (isKind nxt 4 && Store.get 0 s.dram.refresh c % 4 == bank / 16))

/-- A bank can be activated for the present window, 36 ns ahead of it (R250, R260, R261). The controller's timers run in
elapsed time: a load of Fabric Time leaves them as they are. -/
def canActivate (s : State) (c pc bank : Nat) : Bool :=
  let e := s.time.elapsed
  let sidT := Store.get 0 s.dram.sidAt (c * 4 + bank / 16)
  let refFree := decide (sidT = 0 ∨ sidT + 2 * (bank % 16) + 156 ≤ e)
  let faw := match Store.get [] s.dram.acts4 (pcKey c pc) with
    | [a, _, _, _] => decide (a + 16 ≤ e)
    | _ => true
  decide (Store.get 0 s.dram.ready (bankKey c pc bank) + 36 ≤ e) && refFree && faw
    && decide (Store.get 0 s.dram.acts (bankKey c pc bank) < 96)

/-- An activate of a bank adds to its rolling count; at 32 the bank is queued for RFMpb (R261). -/
def noteActAt (s0 : State) (c pc bank : Nat) : State :=
  let s := countWork s0 c 0 1
  let bk := bankKey c pc bank
  let k := pcKey c pc
  let n := Store.get 0 s.dram.acts bk + 1
  let q := Store.get [] s.dram.rfmq k
  let d := { s.dram with acts := Store.set 0 s.dram.acts bk n }
  { s with dram := if 32 ≤ n ∧ !q.contains bank then { d with rfmq := Store.set [] d.rfmq k (q ++ [bank]) } else d }

/-- An activate for the line kept at `off`. -/
def noteAct (s : State) (c off : Nat) : State :=
  let p := physOff s c off
  noteActAt s c (pcOf p) (bankOf p)

/-- A bank is busy with the access of the present window. -/
def busyBank (s : State) (c pc bank : Nat) : State :=
  { s with dram := { s.dram with ready := Store.set 0 s.dram.ready (bankKey c pc bank) (s.time.elapsed + 12) } }

/-- Activate a bank for the present window: its counts, tFAW and tRC. -/
def activate (s : State) (c pc bank : Nat) : State :=
  let k := pcKey c pc
  let l := Store.get [] s.dram.acts4 k ++ [s.time.elapsed]
  noteActAt (busyBank { s with dram := { s.dram with acts4 := Store.set [] s.dram.acts4 k (l.drop (l.length - 4)) } } c pc bank)
    c pc bank

/-- A request that can go in the window at `t`: it entered its queue before its activate is due (R256; in deterministic mode
R259 says so), no other holds its bank, its bank will be free where R253 asks, and it can be activated. With
deterministic mode off a held bank is open, and a read-modify-write starts only where its write too is early enough.
(DEDUCED, log 131) -/
def canGo (s : State) (c pc t : Nat) (r : DramReq) : Bool :=
  let off := !detOn s
  let free := (pcQueue s (pcKey c pc)).all fun x => !(x.held && x.bank == r.bank) || x == r
  let quiet := quietAt s c r.bank t && (!(off && r.rmw) || quietAt s c r.bank (t + 8))
  (!off || decide (r.since + 36 ≤ s.time.elapsed)) && free && quiet && ((off && r.held) || canActivate s c pc r.bank)

/-- Direction of the transfer that a request needs next: 1 read, 2 write. -/
def dirNow (r : DramReq) : Nat := if r.write && !r.rmw then 2 else 1

/-- Carry out a request's transfer in the present window (R257): after the read of a read-modify-write its bank is held.
(DEDUCED, log 131) -/
def transfer (s : State) (c pc : Nat) (r : DramReq) : State :=
  let k := pcKey c pc
  let s0 := if r.held && !detOn s then busyBank s c pc r.bank else activate s c pc r.bank
  let s1 := { countWork s0 c (dirNow r) 1 with
    dram := { s0.dram with lastWr := Store.set (0, 0) s0.dram.lastWr k (dirNow r, s0.time.elapsed) } }
  let q := pcQueue s1 k
  if r.rmw then
    setPcQueue (wrapF (bumpF s1 (DRC.RMW_COUNT c)) (DRC.RD c) 1) k
      (q.map fun x => if x = r then { x with rmw := false, held := true } else x)
  else
    admitTags (noteWater (setPcQueue (wrapF s1 (if r.write then DRC.WR c else DRC.RD c) 1) k (q.filter (· != r))) k) k

/-- The first element by a list of keys, compared in order. -/
def firstBy (lt : DramReq → DramReq → Bool) : List DramReq → Option DramReq
  | [] => none
  | x :: xs => match firstBy lt xs with
    | none => some x
    | some y => if lt y x then some y else some x

/-- Rank of requests with deterministic mode off (R256), higher first; then older first. A write whose bank is held goes
before all. (DEDUCED, log 131) -/
def offRank (s : State) (k : Nat) (r : DramReq) : Nat :=
  let u := urgency s k r
  if r.held then 2000 else if u = 3 then 1000 else u * 100 + (if dirNow r = (Store.get (0, 0) s.dram.lastWr k).1 then 50 else 0) + (10 - r.svc)

/-- A window with deterministic mode off (R256): a change of direction leaves one window idle. -/
def windowOff (s : State) (c pc t : Nat) : State :=
  let k := pcKey c pc
  let ok := (pcQueue s k).filter (canGo s c pc t)
  match firstBy (fun a b => offRank s k b < offRank s k a) ok with
  | none => s
  | some r =>
    let (d, last) := Store.get (0, 0) s.dram.lastWr k
    if d ≠ 0 ∧ d ≠ dirNow r ∧ last + 4 = s.time.elapsed then
      { s with dram := { s.dram with lastWr := Store.set (0, 0) s.dram.lastWr k (dirNow r, last) } }
    else transfer s c pc r

/-- The order of R259. -/
def detBefore (a b : DramReq) : Bool :=
  decide (a.half < b.half) || (a.half == b.half && (decide (a.svc < b.svc) || (a.svc == b.svc && decide (a.order < b.order))))

/-- A window in deterministic mode (R258, R259). -/
def windowOn (s : State) (c pc t : Nat) : State :=
  let k := pcKey c pc
  let w := ctlWindow t
  let e := coreEntry s c (ctlSlot t)
  if w % 8 == 7 || !isKind e 0 || ownerOf s c != some (entPt e) then s
  else
    let h := (t - 12) / 32
    let ready := (pcQueue s k).filter (fun r => decide (r.half ≤ h))
    let (seen, dir0) := Store.get (0, 0) s.dram.halves k
    let dir := if seen = h + 1 then dir0 else match firstBy detBefore ready with | some r => dirNow r | none => 0
    let s1 := if dir = 0 then s else { s with dram := { s.dram with halves := Store.set (0, 0) s.dram.halves k (h + 1, dir) } }
    match firstBy detBefore (ready.filter fun r => dirNow r == dir && canGo s1 c pc t r) with
    | none => s1
    | some r => transfer s1 c pc r

/-- A data window of a pseudo-channel (R251, R253). BIST takes every slot while it runs (R264). (DESIGN CHOICE, log 49) -/
def doDataWindow (s0 : State) (c pc : Nat) : State :=
  let s := atPeriodic s0 (4096 + pcKey c pc) 4 0
  let t := s.time.ft
  let e := coreEntry s c (ctlSlot t)
  if t < 48 || isKind e 4 || isKind e 5 || Store.get 0 s.dram.bist c != 0 then s
  else if detOn s then windowOn s c pc t else windowOff s c pc t
/-- DATA_WINDOW (R256). -/
def execDataWindow (core : Core) (pc : Fin 64) (s : State) : Host.Outcome State Fault Refusal :=
  .next (whenAlive s fun s => if stackLive s core then doDataWindow s core pc else s)

/-! Refresh (R260, R261). -/

/-- The next slot, as an absolute number, whose entry in a core's column has a kind. -/
def nextKind (s : State) (c k start : Nat) : Option Nat :=
  ((upTo 64).map (start + ·)).find? fun n => isKind (coreEntry s c n) k

/-- Let the clocks reach the next slot of a kind in a core's column, once each (`id`). -/
def toKind (s : State) (c k id : Nat) : Option State :=
  let start := max ((s.time.ft + 63) / 64) (Store.get 0 s.time.last id)
  match nextKind s c k start with
  | none => none
  | some n =>
    let s1 := advanceFt s (n * 64)
    some { s1 with time := { s1.time with last := Store.set 0 s1.time.last id (n + 1) } }

/-- The bank's count falls by 32. -/
def relieve (m : Store Nat) (bk : Nat) : Store Nat := Store.set 0 m bk (Store.get 0 m bk - 32)

/-- The RFMpb commands of one pseudo-channel in a REFRESH slot (R261). -/
def sendRfm (s : State) (c pc : Nat) : State :=
  let k := pcKey c pc
  let q := (Store.get [] s.dram.rfmq k).take 8
  let m := q.foldl (fun m b => relieve m (bankKey c pc b)) s.dram.acts
  let t := s.time.elapsed + 44
  let rd := (q.zip (upTo 8)).foldl (fun m x => Store.set 0 m (bankKey c pc x.1) (t + 4 * x.2 + 120)) s.dram.ready
  addF { countWork s c 4 q.length with dram := { s.dram with acts := m, ready := rd, rfmq := Store.set [] s.dram.rfmq k ((Store.get [] s.dram.rfmq k).drop 8) } }
    (DRC.RFM_COUNT c) q.length

/-- The commands of the k-th REFRESH slot: REFpb to the banks of one SID, then the pending RFMpb (R260). -/
def refreshBanks (s : State) (c k : Nat) : State :=
  let sid := k % 4
  let acts := (s.dram.acts.filter fun e => e.1 / 4096 == c && e.1 % 64 / 16 == sid).foldl (fun m e => relieve m e.1) s.dram.acts
  let d := { s.dram with acts := acts, sidAt := Store.set 0 s.dram.sidAt (c * 4 + sid) (s.time.elapsed + 12) }
  forAll ((upTo 64).filter fun pc => !(Store.get [] d.rfmq (pcKey c pc)).isEmpty) (sendRfm · c ·) { countWork s c 3 1024 with dram := d }

/-- REFRESH_SLOT (R260): the slots are counted from cold reset, also while the stack takes no commands (R438). -/
def doRefreshSlot (s0 : State) (c : Nat) : State :=
  match toKind s0 c 4 (8192 + c) with
  | none => s0
  | some s =>
    let n := Store.get 0 s.dram.refresh c
    let s1 := { s with dram := { s.dram with refresh := Store.set 0 s.dram.refresh c (n + 1) } }
    if stackLive s c then refreshBanks s1 c n else s1
/-- REFRESH_SLOT (R260). -/
def execRefreshSlot (core : Core) (s : State) : Host.Outcome State Fault Refusal :=
  .next (whenAlive s fun s => if coreUp s core then doRefreshSlot s core else s)

/-! Correction (R267 to R270). -/

/-- The pin of a symbol (R266). -/
def pinOf (sym : Nat) : Nat := if sym < 128 then sym % 32 else 32 + (sym - 128) % 4

/-- Requests not yet carried out: the first and those behind it. -/
def openRemaps (s : State) (c : Nat) : List RemapReq :=
  (match copyingEntry s c with | some e => [entryRegion s c e] | none => []) ++ Store.get [] s.dram.waitq c

/-- A corrected line is entered for write-back (R269). -/
def enterWb (s : State) (line : Nat) (syms : List Nat) : State :=
  let c := lineCore line
  let l := wbEntries s c
  if l.any (·.line == line) || (openRemaps s c).any (inRegion · (physOff s c (lineOff line))) then s
  else if l.length < 64 then setWb s c (l ++ [{ line := line, symbols := syms }])
  else bumpF s (EDAC.WBQ_DROPPED c)

/-- Note the rows in which a pin's symbols were corrected (R267). -/
def notePins (s : State) (line : Nat) (syms : List Nat) : State :=
  let c := lineCore line
  let off := physLine s line
  let row := rowOf off * 64 + bankOf off
  forAll ((syms.map pinOf).eraseDups) (fun s p =>
    let k := bankKey c (pcOf off) p
    let l := Store.get [] s.dram.pinRows k
    if l.contains row then s else { s with dram := { s.dram with pinRows := Store.set [] s.dram.pinRows k (row :: l) } }) s

/-- A corrected read is counted, captured and accounted to its pins (R267). -/
def ceNote (s : State) (line : Nat) (corr : List (Nat × Nat)) (scrub : Bool) : State :=
  let c := lineCore line
  let syms := corr.map (·.1)
  let s1 := wrapF s (EDAC.CE c) 1
  let s2 := if flag s1 (EDAC.CE_CAP_INFO_VALID c) then s1
    else
      let a := setF (setF s1 (EDAC.CE_CAP_ADDR_LINE c) (lineOff line / 128)) (EDAC.CE_CAP_INFO_SYMBOL c) (syms.foldl min 143)
      setB (setB (setF a (EDAC.CE_CAP_INFO_SYMBOLS c) syms.length) (EDAC.CE_CAP_INFO_SCRUB c) scrub) (EDAC.CE_CAP_INFO_VALID c) true
  notePins s2 line syms

/-- A corrected read (R267, R268): noted, and written back unless it is confined to an erased pin. -/
def ceRead (s : State) (line : Nat) (corr : List (Nat × Nat)) (scrub : Bool) : State :=
  let s1 := ceNote s line corr scrub
  if corr.all (fun x => (erasures s line).contains x.1) then s1 else enterWb s1 line (corr.map (·.1))

/-- The directory entries of a backing-store line are recalled anew (R271). A line that is BUSY is recalled as soon as its
transaction ends, which still knows the entry. (DESIGN CHOICE, log 161) -/
def recoverDir (s : State) (line : Nat) : State :=
  let c := lineCore line
  let first := (lineOff line - 0xF10800000) / 128 * 32
  let s1 := bumpF (freshLine s line) (EDAC.DIR_RECOVER_COUNT c)
  if (mirrorOf s c).isSome then s1
  else match ownerOf s c with
    | none => s1
    | some pt =>
      let ps := (upTo 4096).filter fun p => liveIn s p pt
      forAll (upTo 32) (fun s i =>
        let l := memKey c ((first + i) * 128)
        let r : Req := { agent := .recall 2, op := 0x24 }
        match txnOf s l with
        | some t => setTxn s l (some { t with queue := r :: t.queue })
        | none =>
        if ps.isEmpty then setDir s l .unc
        else setTxn (setDir (forAll ps (fun s p => sendSnoop s l p 0x24 none 0) s) l .unc) l
          (some { req := r, invs := ps })) s1

/-- Where a stack offset lies: 0 mappable, 1 table area, 2 frame map, 3 directory backing store, 4 tags, 5 elsewhere
(Table 04-3). -/
def areaOf (off : Nat) : Nat :=
  if off < 0xF00000000 then 0
  else if off < 0xF10000000 then 1
  else if off < 0xF10800000 then 2
  else if off < 0xF88800000 then 3
  else if off < 0xF90800000 then 4
  else 5

/-- An uncorrectable read of a structure of the module (R271). -/
def ueArea (s : State) (line : Nat) : State :=
  match areaOf (lineOff line) with
  | 0 => s
  | 3 => if runOnStack s (lineCore line) then addRepair s line else recoverDir s line
  | 5 => s
  | _ => addRepair s line

/-- The codeword of a line shows symbol errors. (DESIGN CHOICE, log 67) -/
def setErrors (s : State) (line : Nat) (es : List (Nat × Nat)) : State :=
  let l := es.filter fun e => decide (e.1 < 144) && e.2 % 256 != 0
  { s with dram := { s.dram with faults := Store.set [] s.dram.faults line (l.map fun e => (e.1, e.2 % 256)) } }

/-- A read reaches the decoder (R268, R270, R271). What a slice answered to a partner or an engine from a line known to be
uncorrectable it has counted already; errors that show with this read are counted here (DEDUCED, log 29).
(DESIGN CHOICE, log 67) -/
def doReadData (s0 : State) (c off src : Nat) (es : List (Nat × Nat)) : State :=
  let line := memKey c (keptOff s0 c off)
  let s := if es.isEmpty then s0 else setErrors s0 line es
  match readOutcome s line with
  | none => if (src = 1 ∨ src = 3) ∧ (es.isEmpty ∨ chanDown s line) then s else ueArea (ueRead s line false) line
  | some [] => s
  | some l => ceRead s line l false
/-- DRAM_READ_DATA (R268). -/
def execDramReadData (core : Core) (off : Nat) (src : Fin 6) (errors : List (Nat × Nat)) (s : State) :
    Host.Outcome State Fault Refusal :=
  .next (whenAlive s fun s => if stackLive s core then checkChannels (doReadData s core (lineOffArg off) src errors) core else s)

/-- CORRECTED_WRITEBACK (R268): with deterministic mode off, the oldest queued line is written as an SVC 3 write. -/
def doWriteback (s : State) (c : Nat) : State :=
  if detOn s then s
  else match (wbEntries s c).find? (fun e => !e.written) with
    | none => s
    | some e =>
      let s1 := setWb s c ((wbEntries s c).map fun x => if x = e then { x with written := true } else x)
      pushDram (rewriteLine s1 e.line) c (lineOff e.line) 5 0 true false
/-- CORRECTED_WRITEBACK (R268). -/
def execCorrectedWriteback (core : Core) (s : State) : Host.Outcome State Fault Refusal :=
  .next (whenAlive s fun s => if stackLive s core then doWriteback s core else s)

/-- PIN_ERASED (R267): a pin with corrections in 64 rows of this pass is erased. -/
def doPinErased (s : State) (c pc : Nat) : State :=
  if !flag s (EDAC.REMAP_CTL_ERASE_AUTO c) || flag s (EDAC.ERASE_EN c pc) then s
  else match (upTo 36).find? (fun p => decide (64 ≤ (Store.get [] s.dram.pinRows (bankKey c pc p)).length)) with
    | none => s
    | some p =>
      let s1 := setB (setF s (EDAC.ERASE_PIN c pc) p) (EDAC.ERASE_EN c pc) true
      raise (setB s1 (EDAC.ERASE_AUTO_SET c pc) true) (0x0320 + c) 4
/-- PIN_ERASED (R267). -/
def execPinErased (core : Core) (pc : Fin 64) (s : State) : Host.Outcome State Fault Refusal :=
  .next (whenAlive s fun s => if stackLive s core then doPinErased s core pc else s)

/-! Remap (R275 to R277). -/

/-- One region lies wholly within another (R275). -/
def within (a b : RemapReq) : Bool :=
  a.pc == b.pc && a.bank == b.bank && (b.kind == 3 || (a.kind == b.kind && a.pos == b.pos))

/-- Entries that a region needs. -/
def needs (k : Nat) : Nat := if k = 3 then 2 else 1

/-- Some access would need a third look-up after a remap of `r` (R275): a line of a first region goes to a spare line of a
second, whose own spare line lies in `r`. -/
def thirdLookup (s : State) (c : Nat) (r : RemapReq) : Bool :=
  let fs := firsts s c
  fs.any fun e2 => (imageOf s c e2).any (inRegion r) &&
    (fs.takeWhile (· != e2)).any fun e1 => (imageOf s c e1).any (inRegion (entryRegion s c e2))

/-- Write one entry. -/
def putEntry (s : State) (c e : Nat) (r : RemapReq) (st : Nat) : State :=
  let s1 := setF (setF s (EDAC.REMAP_ENT_KIND c e) r.kind) (EDAC.REMAP_ENT_STATE c e) st
  setF (setF (setF s1 (EDAC.REMAP_ENT_PC c e) r.pc) (EDAC.REMAP_ENT_BANK c e) r.bank) (EDAC.REMAP_ENT_POS c e) r.pos

/-- A request becomes the first: it takes the lowest free entries, and copying may begin. -/
def takeEntry (s : State) (c : Nat) (r : RemapReq) : State :=
  let es := (freeEntries s c).take (needs r.kind)
  let s1 := match es with
    | [e] => putEntry s c e r 1
    | [e, f] => putEntry (putEntry s c e r 1) c f r 3
    | _ => s
  let s2 := { s1 with dram := { s1.dram with remaps := Store.set [] s1.dram.remaps c (entries s1 c ++ es) } }
  remapSts (setF s2 (EDAC.REMAP_RES_PROGRESS c) 0) c

/-- The result of a remap request (Table 09-9), the lowest code that applies. -/
def remapResult (s : State) (c : Nat) (r : RemapReq) : Nat :=
  let waiting := Store.get [] s.dram.waitq c
  if r.kind = 0 then 4
  else if (((firsts s c).map (entryRegion s c)) ++ waiting).any (within r) then 3
  else if (freeEntries s c).length < (waiting.map fun w => needs w.kind).sum + needs r.kind || thirdLookup s c r then 1
  else if (copyingEntry s c).isSome && decide (4 ≤ waiting.length) then 2
  else 0

/-- An accepted request becomes the first or waits behind it. -/
def acceptRemap (s : State) (c : Nat) (r : RemapReq) : State :=
  if (copyingEntry s c).isSome then
    remapSts { s with dram := { s.dram with waitq := Store.set [] s.dram.waitq c (Store.get [] s.dram.waitq c ++ [r]) } } c
  else takeEntry s c r

/-- The request that a write of REMAP_REQ makes: a ROW takes 14 bits of POS, a COLUMN 3 (R275). -/
def RemapReq.ofWord (v : Nat) : RemapReq :=
  ⟨v % 4, bitsOf v 2 6, bitsOf v 8 6, match v % 4 with | 1 => bitsOf v 14 14 | 2 => bitsOf v 14 3 | _ => 0⟩

/-- REMAP_CMD.GO (R277): `v` is the register's value. -/
def doRemapRequest (s : State) (c v : Nat) : State :=
  let r := RemapReq.ofWord v
  let x := remapResult s c r
  let s1 := setF s (EDAC.REMAP_RES_RESULT c) x
  if x = 0 then acceptRemap s1 c r else s1
/-- REMAP_REQUEST (R277). -/
def execRemapRequest (core : Core) (value : Nat) (s : State) : Host.Outcome State Fault Refusal :=
  .next (whenAlive s fun s => if coreUp s core then doRemapRequest s core value else s)

/-- A hard fault (R274, R277). A request that the table refuses with OVERLAP is reported as one refused with BUSY.
(DESIGN CHOICE, log 132) -/
def hardFault (s : State) (line : Nat) : State :=
  let c := lineCore line
  let off := physLine s line
  if !flag s (EDAC.REMAP_CTL_AUTO c) then raise s (0x0320 + c) 7
  else
    let r : RemapReq := ⟨1, pcOf off, bankOf off, rowOf off⟩
    match remapResult s c r with
    | 0 => acceptRemap s c r
    | 1 => raise (faultEntry s 18 2 (ownerOf s c) (0x0320 + c) c (lineOff line)) (0x0320 + c) 3
    | _ => raise s (0x0320 + c) 7

/-- The spare copy of a line that could not be read, its channel being down: uncorrectable, by errors in five symbols of
which nothing is known. (DESIGN CHOICE, log 130) -/
def lostCopy (s : State) (line : Nat) : State :=
  setErrors s line ((upTo 5).map fun i => (i, (Config.free 8 (line + i)).toNat % 255 + 1))

/-- Copy the `k`-th line of the copying region to its spare line: corrected, or as it is stored (R276). What the spare
line showed before is overwritten. -/
def copyToSpare (s : State) (c e k : Nat) : State :=
  let spare := memKey c ((imageOf s c e).getD k 0)
  let line := memKey c (keptOff s c (regionLine (entryRegion s c e) k))
  let s1 := if chanDown s line then lostCopy s line else rewriteLine s line
  noteActAt (if spare = line then s1 else freshLine s1 spare) c (pcOf (lineOff spare)) (bankOf (lineOff spare))

/-- A step of the copying remap (R276): one source row's lines of the region are copied; the last step ends it. -/
def remapStep (s : State) (c e : Nat) : State :=
  let r := entryRegion s c e
  let n := getF s (EDAC.REMAP_RES_PROGRESS c)
  let ks := match r.kind with | 1 => upTo 8 | 2 => [n] | _ => (upTo 8).map (8 * n + ·)
  let s1 := setF (forAll ks (copyToSpare · c e ·) (noteActAt s c r.pc r.bank)) (EDAC.REMAP_RES_PROGRESS c) (n + 1)
  if n + 1 < (if r.kind = 1 then 1 else 16384) then s1
  else
    let s2 := raise (setF s1 (EDAC.REMAP_ENT_STATE c e) 2) (0x0320 + c) 1
    match Store.get [] s2.dram.waitq c with
    | [] => remapSts s2 c
    | w :: q => takeEntry { s2 with dram := { s2.dram with waitq := Store.set [] s2.dram.waitq c q } } c w

/-! Repairs from the other copy (R271, R302). -/

/-- Write a line with what another holds; a line on a down channel stays (R263). -/
def copyLine (s : State) (src dst : Nat) : State :=
  let s1 := noteAct s (lineCore src) (lineOff src)
  if chanDown s dst then s1
  else freshLine { s1 with mem := memPut s1.mem dst 128 (lineValue s src) } dst

/-- A bad line of the tag area or of its replica: rewritten from the other copy and counted, or its sets are lost where
that is bad too (R302). -/
def repairTags (s : State) (line : Nat) : State :=
  let c := lineCore line
  let o := (lineOff line - 0xF88800000) % 0x4000000
  let other := if lineOff line < 0xF8C800000 then line + 0x4000000 else line - 0x4000000
  if lineFails s other then tagsLost s c (o / 64)
  else bumpF (freshLine s line) (TIER.TAG_REPAIR_COUNT ((ownerOf s c).getD 0))

/-- One line is rewritten from its other copy, in a MAINT slot. It stays listed while it is deferred or the other copy is
bad too. (DEDUCED, log 127) -/
def repairLine (s : State) (line : Nat) : State × Bool :=
  let c := lineCore line
  let off := lineOff line
  let deferred := runOnStack s c
  let fromCore := fun (o : Option Nat) (cnt : Bool) => match o with
    | none => (s, false)
    | some q =>
      let src := memKey q off
      if lineFails s src then (s, true)
      else (if cnt then bumpF (copyLine s src line) (EDAC.MIRROR_REPAIR_COUNT c) else copyLine s src line, false)
  match areaOf off with
  | 0 => if deferred then (s, true) else if lineFails s line then fromCore (mirrorOf s c) true else (s, false)
  | 1 => match ownerOf s c with
    | some pt => fromCore ((tableCores s pt).find? (· != c)) false
    | none => (s, false)
  | 2 => if deferred then (s, true) else (freshLine s line, false)
  | 3 => if deferred then (s, true) else (recoverDir s line, false)
  | 4 => if deferred then (s, true) else (if lineFails s line then repairTags s line else s, false)
  | _ => if deferred then (s, true) else (freshLine s line, false)

/-- The repairs of a core, done in its MAINT slot. -/
def doRepairs (s : State) (c : Nat) : State :=
  let l := Store.get [] s.dram.repairs c
  let (s1, keep) := l.foldl (fun (x : State × List Nat) line =>
    let (s2, k) := repairLine x.1 line
    if k then (s2, x.2 ++ [line]) else (noteAct s2 c (lineOff line), x.2)) (s, [])
  { s1 with dram := { s1.dram with repairs := Store.set [] s1.dram.repairs c keep } }

/-! Maintenance (R262 to R264, R273, R274). -/

/-- A periodic action of a core was last due in this frame, if ever: period and stagger in frames (Table 03-6).
(DEDUCED, log 66) -/
def lastDue (now period stagger : Nat) : Option Nat :=
  if now < stagger then none else some (now - (now - stagger) % period)

/-- An action (0 training, 1 calibration) is due and not yet done. (DEDUCED, log 66) -/
def maintDue (s : State) (c kind : Nat) : Bool :=
  match lastDue (frameOf s) (if kind = 0 then 262144 else 65536) ((if kind = 0 then 16384 else 4096) * c) with
  | none => false
  | some f => decide (Store.get 0 s.dram.due (c * 2 + kind) < f + 1)

/-- An action has been done in this frame. -/
def maintDone (s : State) (c kind : Nat) : State :=
  { s with dram := { s.dram with due := Store.set 0 s.dram.due (c * 2 + kind) (frameOf s + 1) } }

/-- A pseudo-channel fails training (R263): once, it is due again; twice in a row, its channel is down. -/
def trainFails (s : State) (c pc : Nat) : State :=
  let k := pcKey c pc
  let s1 := raise (bumpF (chanError s c (pc / 2)) (HPHY.TRAIN_FAILS c)) (0x0310 + c) 0
  if s1.dram.failed.contains k then
    let m := Store.get 0 s1.dram.down c
    if m.testBit (pc / 2) then s1
    else
      let s2 := { s1 with dram := { s1.dram with down := Store.set 0 s1.dram.down c (withBit m (pc / 2) true) } }
      let s3 := raise (setBitF s2 (HPHY.CH_UP_CH c) (pc / 2) false) (0x0310 + c) 1
      faultEntry s3 19 1 (ownerOf s3 c) (0x0310 + c) c pc
  else { s1 with dram := { s1.dram with failed := k :: s1.dram.failed } }

/-- Periodic training of a stack; `bad` are the pseudo-channels that fail. -/
def trainStack (s : State) (c : Nat) (bad : List Nat) : State :=
  let s1 := bumpF (maintDone s c 0) (HPHY.TRAIN_RUNS c)
  let ok := s1.dram.failed.filter fun k => k / 64 != c || bad.contains (k % 64)
  forAll (bad.filter (· < 64)).eraseDups (trainFails · c ·) { s1 with dram := { s1.dram with failed := ok } }

/-- PHY calibration of a stack (R262). -/
def calibrate (s : State) (c : Nat) : State := bumpF (maintDone s c 1) (HPHY.CAL_RUNS c)

/-- The stack offset of a patrol index (R273). -/
def patrolOff (i : Nat) : Nat := offOf (i / 32768) (i / 64 % 64) (i / 4096 % 8) (i % 64)

/-- A scrub read of a line. (DESIGN CHOICE, log 161) -/
def scrubRead (s0 : State) (line : Nat) : State :=
  let s := noteAct s0 (lineCore line) (lineOff line)
  match readOutcome s line with
  | none => ueArea (ueRead s line true) line
  | some [] => s
  | some l => ceRead s line l true

/-- The verify read of a write-back entry (R274). -/
def verifyEntry (s : State) (e : WbEntry) : State :=
  let c := lineCore e.line
  let s1 := setWb s c ((wbEntries s c).filter (·.line != e.line))
  match readOutcome s1 e.line with
  | some l =>
    if l.any fun x => e.symbols.contains x.1 && !(erasures s1 e.line).contains x.1 then
      hardFault (ceNote (noteAct s1 c (lineOff e.line)) e.line l true) e.line
    else scrubRead s1 e.line
  | none => scrubRead s1 e.line

/-- Entries of a list by pseudo-channel, at most `n` each, in order. (DEDUCED, log 30) -/
def perChannel (n : Nat) (l : List WbEntry) : List WbEntry :=
  (upTo 64).flatMap fun pc => (l.filter fun e => pcOf (lineOff e.line) == pc).take n

/-- The patrol lines that each pseudo-channel reads in a step: the windows that write-backs and verifies leave free in the
busiest pseudo-channel (DEDUCED, log 30). -/
def patrolLines (s : State) (c : Nat) (wrote verify : List WbEntry) : Nat :=
  let lim := max 1 (min 14 (getF s (EDAC.SCRUB_CTL_LINES c)))
  let most := fun (l : List WbEntry) => (upTo 64).foldl (fun m pc => max m (l.filter fun e => pcOf (lineOff e.line) == pc).length) 0
  if flag s (EDAC.SCRUB_CTL_EN c) then min lim ((if wrote.isEmpty then 7 else 0) + (7 - most verify)) else 0

/-- The patrol of a step: the next `n` lines of every pseudo-channel are read, where they lie. -/
def patrol (s : State) (c n : Nat) : State :=
  let i := getF s (EDAC.SCRUB_PTR_INDEX c)
  let s1 := forAll (upTo (64 * n)) (fun s k => scrubRead s (memKey c (keptOff s c (patrolOff ((i + k) % 2 ^ 29))))) s
  let s2 := setF s1 (EDAC.SCRUB_PTR_INDEX c) (i + 64 * n)
  if 2 ^ 29 ≤ i + 64 * n then
    let keep := s2.dram.pinRows.filter fun e => e.1 / 4096 != c
    raise (bumpF { s2 with dram := { s2.dram with pinRows := keep } } (EDAC.SCRUB_PASSES_COUNT c)) (0x0320 + c) 5
  else s2

/-- A scrub step (R273): write-backs, their verify reads, patrol reads. `again` are the errors that lines just written
back show again. -/
def scrubStep (s : State) (c : Nat) (again : List (Nat × List (Nat × Nat))) : State :=
  let wrote := perChannel 7 ((wbEntries s c).filter fun e => !e.written)
  let s1 := forAll wrote (fun s e => rewriteLine (noteAct s c (lineOff e.line)) e.line) s
  let s2 := setWb s1 c ((wbEntries s1 c).map fun x => if wrote.contains x then { x with written := true } else x)
  let verify := perChannel 7 ((wbEntries s2 c).filter (·.written))
  let s3 := forAll again (fun s x => setErrors s (memKey c (keptOff s c (lineOffArg x.1))) x.2) s2
  let n := patrolLines s3 c wrote verify
  patrol (forAll verify verifyEntry s3) c n

/-- MAINT_SLOT (R64, R262): the first of remap, training, calibration and scrub that is due; repairs are made too.
(DESIGN CHOICE, log 67) -/
def doMaintSlot (s0 : State) (c : Nat) (bad : List Nat) (again : List (Nat × List (Nat × Nat))) : State :=
  match toKind s0 c 5 (8208 + c) with
  | none => s0
  | some s1 =>
    let s := remapSts (doRepairs s1 c) c
    match copyingEntry s c, runOnStack s c with
    | some e, false => remapStep s c e
    | _, _ =>
      if maintDue s c 0 || s.dram.failed.any (fun k => k / 64 == c && !(Store.get 0 s.dram.down c).testBit (k % 64 / 2)) then
        trainStack s c bad
      else if maintDue s c 1 then calibrate s c
      else scrubStep s c again
/-- MAINT_SLOT (R64). -/
def execMaintSlot (core : Core) (untrained : List Nat) (again : List (Nat × List (Nat × Nat))) (s : State) :
    Host.Outcome State Fault Refusal :=
  .next (whenAlive s fun s => if stackLive s core then checkChannels (doMaintSlot s core untrained again) core else s)

/-! BIST (R264). -/

/-- BIST_CMD.GO: kind 0 READ, 1 PATTERN. -/
def doBistStart (s : State) (c kind : Nat) : State :=
  let ok := match ownerOf s c with
    | none => true
    | some pt => kind == 0 && s.parts.quiesced.getLsbD pt
  if ok && !flag s (HPHY.BIST_STS_BUSY c) then
    setB { s with dram := { s.dram with bist := Store.set 0 s.dram.bist c (kind + 1) } } (HPHY.BIST_STS_BUSY c) true
  else setF s (HPHY.BIST_STS_RESULT c) 2
/-- BIST_START (R264). -/
def execBistStart (core : Core) (kind : Fin 2) (s : State) : Host.Outcome State Fault Refusal :=
  .next (whenAlive s fun s => if stackLive s core then doBistStart s core kind else s)

/-- The channels of a core that are down. -/
def downChannels (s : State) (c : Nat) : List Nat := (upTo 32).filter (Store.get 0 s.dram.down c).testBit

/-- `n` accesses to every line of the down channels: each is an uncorrectable read of its channel (R263). -/
def downReads (s : State) (c n : Nat) : State :=
  forAll (downChannels s c) (fun s ch =>
    addF (ueRead s (memKey c (offOf 0 0 0 (2 * ch))) true) (EDAC.UE_COUNT_COUNT c) (n * 2 ^ 24 - 1)) s

/-- The stack as PATTERN leaves it: unwritten memory without the errors known before. (DESIGN CHOICE, log 14) -/
def wipeStack (s : State) (c : Nat) : State :=
  let mine : Nat → Bool := fun l => lineCore l != c
  { s with mem := s.mem.filter fun e => e.1 / 2 ^ 36 != c,
           dram := { s.dram with raw := s.dram.raw.filter (mine ·.1), faults := s.dram.faults.filter (mine ·.1) } }

/-- BIST ends; `errors` are those it finds beside the known ones. READ corrects and counts as scrub does; PATTERN rewrites
the whole stack, so that only what it finds stands. Every bank has been activated since its last refresh.
(DESIGN CHOICE, log 67) (DESIGN CHOICE, log 14) (DESIGN CHOICE, log 161) -/
def doBistDone (s0 : State) (c : Nat) (errors : List (Nat × List (Nat × Nat))) : State :=
  match Store.get 0 s0.dram.bist c with
  | 0 => s0
  | k + 1 =>
    let s := if k = 0 then s0 else wipeStack s0 c
    let s1 := forAll errors (fun s x => setErrors s (memKey c (keptOff s c (lineOffArg x.1))) x.2) s
    let ls := (s1.dram.faults.map (·.1)).filter fun l => lineCore l == c && !chanDown s1 l
    let bad := (ls.filter fun l => (decodeLine s1 l).isNone).length + (downChannels s1 c).length * 2 ^ 24
    let s2 := downReads (if k = 0 then forAll ls scrubRead s1 else s1) c (if k = 0 then 1 else 4)
    let s3 := forAll (upTo 4096) (fun s b => noteActAt s c (b / 64) (b % 64))
      { s2 with dram := { s2.dram with bist := Store.del s2.dram.bist c } }
    let s4 := setB (setF s3 (HPHY.BIST_STS_RESULT c) (if bad = 0 then 0 else 1)) (HPHY.BIST_STS_BUSY c) false
    raise (setF s4 (HPHY.BIST_STS_FAIL_LINES c) (min bad 65535)) (0x0310 + c) 2
/-- BIST_DONE (R264). -/
def execBistDone (core : Core) (errors : List (Nat × List (Nat × Nat))) (s : State) : Host.Outcome State Fault Refusal :=
  .next (whenAlive s fun s => if stackLive s core then checkChannels (doBistDone s core errors) core else s)

/-! Checker test mode (R278). -/

/-- Bytes and check symbols of a line exactly as stored. -/
def storedLine (s : State) (line : Nat) : Nat × Nat :=
  match Store.get none s.dram.raw line with
  | none =>
    let v := lineCipher s (lineCore line) (lineTweak line) (readLine s line)
    let es := Store.get [] s.dram.faults line
    (RS.applyData v es, RS.applyChk (RS.checks v) es)
  | some x => x

/-- The check symbols in which a stored word differs from its data's codeword, as an error pattern. -/
def checkDiff (data chk : Nat) : List (Nat × Nat) :=
  let d := RS.checks data ^^^ chk
  (upTo 16).filterMap fun j => if d / 256 ^ j % 256 = 0 then none else some (128 + j, d / 256 ^ j % 256)

/-- Store a word unchanged: its data decrypt to what the decoder makes of them. -/
def storeRaw (s : State) (line data chk : Nat) : State :=
  let c := lineCore line
  let es := checkDiff data chk
  let (good, errs) := match RS.decode (RS.syndromes es) (erasures s line) with
    | some l => (RS.applyData data l, l)
    | none => (data, es)
  let s1 := { s with mem := memPut s.mem line 128 (linePlain s c (lineTweak line) good) }
  let d := { s1.dram with faults := Store.set [] s1.dram.faults line errs }
  { s1 with dram := { d with raw := Store.set none d.raw line (some (data, chk)) } }

/-- The line that TEST_ADDR names. -/
def testLine (s : State) (c : Nat) : Nat := memKey c (keptOff s c (getF s (EDAC.TEST_ADDR_LINE c) * 128))

/-- Run a test command on the line that TEST_ADDR names, refused while a partition owns the core. It activates the
line's bank; on a down channel it counts as any access does (R263). -/
def testCommand (s : State) (c : Nat) (f : State → Nat → State) : State :=
  if (ownerOf s c).isSome then setB s (EDAC.TEST_STS_REFUSED c) true
  else
    let line := testLine s c
    let s1 := noteAct (setB s (EDAC.TEST_STS_REFUSED c) false) c (lineOff line)
    raise (f (if chanDown s1 line then ueRead s1 line false else s1) line) (0x0320 + c) 6

/-- TEST_CMD.WRITE; a down channel keeps what it holds. -/
def doTestWrite (s : State) (c : Nat) : State :=
  testCommand s c fun s line =>
    if chanDown s line then s else storeRaw s line (getF s (EDAC.TEST_DATA c)) (getF s (EDAC.TEST_CHK c))
/-- TEST_WRITE (R278). -/
def execTestWrite (core : Core) (s : State) : Host.Outcome State Fault Refusal :=
  .next (whenAlive s fun s => if stackLive s core then doTestWrite s core else s)

/-- TEST_CMD.READ. (DESIGN CHOICE, log 120) (DESIGN CHOICE, log 161) -/
def doTestRead (s : State) (c : Nat) : State :=
  testCommand s c fun s line =>
    let (v, k) := storedLine s line
    let l := readOutcome s line
    let fix := l.getD []
    let s1 := setF (setF s (EDAC.TEST_DATA c) (RS.applyData v fix)) (EDAC.TEST_CHK c) (RS.applyChk k fix)
    let s2 := setF s1 (EDAC.TEST_STS_RESULT c) (match l with | none => 2 | some [] => 0 | some _ => 1)
    setF s2 (EDAC.TEST_STS_SYMBOLS c) fix.length
/-- TEST_READ (R278). -/
def execTestRead (core : Core) (s : State) : Host.Outcome State Fault Refusal :=
  .next (whenAlive s fun s => if stackLive s core then doTestRead s core else s)

/-- TEST_CMD.READ_RAW. -/
def doTestReadRaw (s : State) (c : Nat) : State :=
  testCommand s c fun s line =>
    let (v, k) := storedLine s line
    setF (setF s (EDAC.TEST_DATA c) v) (EDAC.TEST_CHK c) k
/-- TEST_READ_RAW (R278). -/
def execTestReadRaw (core : Core) (s : State) : Host.Outcome State Fault Refusal :=
  .next (whenAlive s fun s => if stackLive s core then doTestReadRaw s core else s)

end Sys2Proof.Machine
end

