-- ==== Sys2Proof/Machine/Flit.lean ====
section
/-!
DEFINITION. Training blocks and flits as bytes (Tables 11-2, 11-4, 11-5) with their CRCs (R313, R325): what a received one
says, and how one is laid out to be sent.
-/

namespace Sys2Proof.Machine

/-! Checks. -/

/-- CRC-32C over the low `n` bits, bit 0 first, from the register `c` (R325). -/
def crc32Bits : Nat → Nat → Nat → Nat
  | 0, _, c => c
  | n + 1, v, c => crc32Bits n (v / 2) (if (c ^^^ v) % 2 = 1 then c / 2 ^^^ 0x82F63B78 else c / 2)

/-- CRC-32C of the first `n` bytes of a number. -/
def crc32c (n v : Nat) : Nat := crc32Bits (8 * n) v (2 ^ 32 - 1) ^^^ (2 ^ 32 - 1)

/-- One bit into the CRC-16 register. -/
def crc16Bit (c : Nat) (b : Bool) : Nat :=
  if c.testBit 15 != b then (c * 2 % 65536) ^^^ 0x1021 else c * 2 % 65536

/-- CRC-16 of the first `n` bytes of a number, each from its highest bit (R313; DEDUCED, log 144). -/
def crc16 (n v : Nat) : Nat :=
  (upTo n).foldl (fun c i => (upTo 8).foldl (fun c j => crc16Bit c (v.testBit (8 * i + 7 - j))) c) 65535

/-! Training blocks (Table 11-2). -/

/-- TYPE of a training block. -/
inductive TsType where
  | tseq
  | ts1
  | ts2
  | ts3
  deriving DecidableEq, Repr

/-- Its code. -/
def TsType.code : TsType → Nat
  | .tseq => 0x5A
  | .ts1 => 0x5B
  | .ts2 => 0x5C
  | .ts3 => 0x5D

/-- What a received block of 32 bytes says when a block of type `t` is looked for. One of another type, or whose CRC fails,
counts as none (R313). (DEDUCED, log 144) -/
def readTs (t : TsType) (v : Nat) : TsBlock :=
  let f := fun (byte bit w : Nat) => bitsOf v (8 * byte + bit) w
  { crcOk := f 0 0 8 == t.code && f 30 0 16 == crc16 30 v
    plane := f 1 0 3, rtr := f 1 3 1 == 1, node := f 2 0 16, coef := f 4 0 6, atLimit := f 4 6 1 == 1, eqDone := f 4 7 1 == 1
    vmin := f 4 0 8, vmax := f 5 0 8, feat := f 6 0 4, rxgood := f 7 0 5, wreq := f 8 0 2, att := f 8 2 2, maxvc := f 8 4 4
    lanes := f 9 0 5, width := f 9 5 2, ver := f 10 0 8, nvc := f 11 0 4, afeat := f 11 4 4, nextSeq := f 12 0 12
    pool := f 14 0 12, rsv := (upTo 8).map fun i => f (16 + i) 0 8 }

/-- The fields of a block of a type, at their bytes; those that the type does not use are 0. -/
def tsFields (t : TsType) (b : TsBlock) : Nat :=
  let at_ := fun (byte bit v : Nat) => v * 2 ^ (8 * byte + bit)
  let head := t.code + at_ 1 0 (b.plane % 8) + at_ 1 3 b.rtr.toNat + at_ 2 0 (b.node % 65536)
  let caps := at_ 4 0 (b.vmin % 256) + at_ 5 0 (b.vmax % 256) + at_ 6 0 (b.feat % 16) + at_ 7 0 (b.rxgood % 32)
    + at_ 8 0 (b.wreq % 4) + at_ 8 2 (b.att % 4) + at_ 8 4 (b.maxvc % 16)
  let conf := at_ 9 0 (b.lanes % 32) + at_ 9 5 (b.width % 4) + at_ 10 0 (b.ver % 256) + at_ 11 0 (b.nvc % 16)
    + at_ 11 4 (b.afeat % 16) + at_ 12 0 (b.nextSeq % 4096) + at_ 14 0 (b.pool % 4096)
    + ((upTo 8).map fun i => at_ (16 + i) 0 (b.rsv.getD i 0 % 256)).sum
  match t with
  | .tseq => head + at_ 4 0 (b.coef % 64) + at_ 4 6 b.atLimit.toNat + at_ 4 7 b.eqDone.toNat
  | .ts1 => head
  | .ts2 => head + caps
  | .ts3 => head + caps + conf

/-- A training block as it is sent. (DEDUCED, log 144) -/
def tsBytes (t : TsType) (b : TsBlock) : Nat := tsFields t b + crc16 30 (tsFields t b) * 2 ^ 240

/-! Flits (Tables 11-4, 11-5). -/

/-- What a received flit of 256 bytes says. -/
def readFlit (v : Nat) : RxFlit :=
  { crcOk := bitsOf v 2016 32 == crc32c 252 v
    seq := bitsOf v 0 12, kind := bitsOf v 12 2, keyPh := v.testBit 14, wsw := v.testBit 15, ack := bitsOf v 16 12
    av := v.testBit 28, nak := v.testBit 29, rsvd := v.testBit 30 || bitsOf v 43 5 != 0, cvc := bitsOf v 31 3
    cv := v.testBit 34, cret := bitsOf v 35 8, body := bitsOf v 48 1968 }

/-- The header and body of a flit. -/
def flitFields (f : RxFlit) : Nat :=
  f.seq % 4096 + f.kind % 4 * 2 ^ 12 + f.keyPh.toNat * 2 ^ 14 + f.wsw.toNat * 2 ^ 15 + f.ack % 4096 * 2 ^ 16
    + f.av.toNat * 2 ^ 28 + f.nak.toNat * 2 ^ 29 + f.cvc % 8 * 2 ^ 31 + f.cv.toNat * 2 ^ 34 + f.cret % 256 * 2 ^ 35
    + f.body % 2 ^ 1968 * 2 ^ 48

/-- A flit as it is sent. -/
def flitBytes (f : RxFlit) : Nat := flitFields f + crc32c 252 (flitFields f) * 2 ^ 2016

end Sys2Proof.Machine
end

