-- ==== Sys2Proof/Machine/Link.lean ====
section
/-!
DEFINITION. The fabric link (chapter 11): training, retraining and width change (R312 to R323), flits, acknowledgement and
replay (R324 to R332), hop credits (R333 to R338) and link security (R339 to R341), and where a port's keys come from
(R386, R389, R391).
-/

namespace Sys2Proof.Machine

/-! Training states (Table 11-1). -/

/-- The training state of a port. -/
def portState (s : State) (p : Nat) : Nat := getF s (PORT.LINK_STS_STATE p)

/-- A retrain of the port runs. -/
def retraining (s : State) (p : Nat) : Bool := flag s (PORT.LINK_STS_RETRAINING p)

/-- Enter a training state. -/
def enterState (s : State) (p st : Nat) : State :=
  let l := getLink s p
  setLink (setF s (PORT.LINK_STS_STATE p) st) p { l with since := s.time.elapsed, last := none, run := 0 }

/-- Forget what the last training found out about the lanes. -/
def clearLanes (s : State) (p : Nat) : State :=
  setLink s p { getLink s p with judged := 0, good := 0, eqDone := 0, planes := [] }

/-- Lanes 0 to 4 that are neither disabled nor failed, nor taken out by the unit map (R463). -/
def usableLanes (s : State) (p : Nat) : List Nat :=
  (upTo 5).filter fun i => !bitF s (PORT.LANE_CTL_DIS p) i && !bitF s (PORT.LANE_STS_FAILED p) i
    && !(Store.get 0 s.boot.badLanes p).testBit i

/-- A mask of lanes. -/
def laneMask (l : List Nat) : Nat := l.foldl (fun m i => withBit m i true) 0

/-- Cold training from DETECT (R312, R316). -/
def startCold (s : State) (p attempt : Nat) : State :=
  let s1 := setF (setF s (PORT.TRAIN_STS_ATTEMPT p) attempt) (PORT.LANE_STS_FAILED p) 0
  let s2 := setB (enterState (clearLanes s1 p) p 1) (PORT.LINK_STS_RETRAINING p) false
  setLink s2 p { getLink s2 p with failed := 0, cap := 0, widen := false, lwcAsk := 0, lwcPend := 0, deferred := 0 }

/-- PORT_CMD.TRAIN (R312): accepted in DISABLED only, while EN is 1. -/
def doTrain (s : State) (p : Nat) : State :=
  if portState s p = 0 && flag s (PORT.PORT_CTL_EN p) then startCold s p 0 else s

/-- PORT_TRAIN (R312). -/
def execPortTrain (port : Port) (s : State) : Host.Outcome State Fault Refusal := .next (whenAlive s (doTrain · port))

/-- A partition's traffic is carried by a port: the gingham table gives it slots there, or a routing entry of one of its
partners lists the port (R73; DEDUCED, log 26). -/
def carries (s : State) (p pt : Nat) : Bool :=
  (upTo 64).any (fun sl => let e := slotEntry s sl p; isKind e 0 && entPt e == pt)
    || (upTo 4096).any fun pid => pidBound s pid pt && (portsToward s (nodeOf s pid)).contains p

/-- Record REPLAY for the partitions whose traffic a port carries (R332). -/
def recordReplay (s : State) (p : Nat) : State :=
  forAll (upTo 16) (fun s pt => if runOpen s pt && carries s p pt then recordDx 2 s pt else s) s

/-- Give up the exchange of link keys that runs on a port (R390). -/
def dropExchange (s : State) (p : Nat) : State :=
  { s with sec := { s.sec with kx := Store.set none s.sec.kx p none, linkNext := Store.set (0, 0) s.sec.linkNext p (0, 0) } }

/-- A retrain abandons the exchange that runs; a receive key that is installed beside the old one stays (R319, R389,
R390). (DEDUCED, log 162) -/
def abandonExchange (s : State) (p : Nat) : State :=
  let next := (0, (Store.get (0, 0) s.sec.linkNext p).2)
  { s with sec := { s.sec with kx := Store.set none s.sec.kx p none, linkNext := Store.set (0, 0) s.sec.linkNext p next } }

/-- The first SEQ of the secured frame that is not yet verified; the flits held for it are discarded (R319, R330). -/
def unhold (l : LinkPort) : LinkPort := { l with e := l.e / 8 * 8, held := [] }

/-- A retrain begins (R318, R319, R321). -/
def beginRetrain (s : State) (p : Nat) : State :=
  if linkActive s p then
    let l := getLink s p
    let s1 := setLink s p { unhold l with lwcPend := 0, deferred := 0, failed := 0, filling := none }
    let s2 := bumpF (setB (clearLanes s1 p) (PORT.LINK_STS_RETRAINING p) true) (PORT.RETRAINS_COUNT p)
    recordReplay (raise (enterState s2 p 2) (0x0600 + p) 4) p
  else s

/-- A port stops: DISABLED, its replay buffer, exchange and keys gone, its queues left to PORT_OUT_OF_SERVICE (R323). -/
def stopPort (s : State) (p : Nat) : State :=
  let was := portState s p == 7 || retraining s p
  let s1 := enterState (dropExchange s p) p 0
  let s2 := setB (setF (setF s1 (PORT.LINK_STS_WIDTH p) 0) (PORT.LINK_STS_LANES p) 0) (PORT.LINK_STS_RETRAINING p) false
  let s3 := setB s2 (PORT.LINK_STS_DEGRADED p) false
  let l := getLink s3 p
  let s4 := setLink s3 p { unhold l with replay := [], ctrlQ := [], part := [], stuck := 0, tagRun := 0, frag := none,
                                          filling := none, carry := (0, 0), nakAt := none }
  let s5 := { s4 with sec := { s4.sec with linkKey := Store.set (0, 0) s4.sec.linkKey p (0, 0) } }
  if was then raise s5 (0x0600 + p) 1 else s5

/-- A port stops with a reason and a fault-log entry (R316, R323, R341). (DEDUCED, log 57) -/
def failPort (s : State) (p reason code : Nat) : State :=
  faultEntry (setF (stopPort s p) (PORT.TRAIN_STS_REASON p) reason) 20 code none (0x0600 + p) p reason

/-- An attempt, or a retrain, fails with a reason (R312, R316, R323). -/
def failAttempt (s : State) (p reason : Nat) : State :=
  let s1 := setF s (PORT.TRAIN_STS_REASON p) reason
  let s2 := if retraining s p then
      setLink (bumpF s1 (PORT.RETRAINS_FAILED p)) p { getLink s1 p with failed := (getLink s1 p).failed + 1 }
    else dropExchange s1 p
  enterState s2 p 8

/-- PORT_CTL.EN = 0 keeps a port in DISABLED. -/
def disablePort (s : State) (p : Nat) : State := if portState s p = 0 then s else stopPort s p

/-- Every port goes to DISABLED. -/
def portsOff (s : State) : State := forAll (upTo 48) disablePort s

/-- The ports that EN enables start cold training (M8). -/
def trainEnabled (s : State) : State :=
  forAll (upTo 48) (fun s p => if portState s p = 0 && flag s (PORT.PORT_CTL_EN p) then startCold s p 0 else s) s

/-- PORT_CMD.RETRAIN (R318): accepted in ACTIVE only. -/
def doRetrain (s : State) (p : Nat) : State := if linkActive s p then beginRetrain s p else s

/-- PORT_RETRAIN (R318). -/
def execPortRetrain (port : Port) (s : State) : Host.Outcome State Fault Refusal := .next (whenAlive s (doRetrain · port))

/-- DETECT_SIGNAL (R312): 10 us of signal lead from DETECT to EQUALIZE. -/
def execDetectSignal (port : Port) (s : State) : Host.Outcome State Fault Refusal :=
  .next (whenAlive s fun s =>
    if portState s port = 1 then enterState (advanceEl s ((getLink s port).since + 10000)) port 2 else s)

/-- The peer's NODE_ID as its training blocks give it. -/
def notePeer (s : State) (p : Nat) (b : TsBlock) : State := setF s (PORT.PEER_NODE_ID p) b.node

/-- One step of a transmit equalizer setting: 0 hold, 1 increase, 2 decrease (Table 11-2). (DESIGN CHOICE, log 52) -/
def tapStep (v : Int) (c : Nat) : Int := if c % 4 = 1 then v + 1 else if c % 4 = 2 then v - 1 else v

/-- EQUALIZE ends when every usable lane is judged and every good one has reported EQ_DONE.
(DESIGN CHOICE, log 52) -/
def checkEqualize (s : State) (p : Nat) : State :=
  let l := getLink s p
  if (usableLanes s p).all fun i => l.judged.testBit i && (!l.good.testBit i || l.eqDone.testBit i) then
    enterState (setF s (PORT.LANE_STS_RXGOOD p) l.good) p 3
  else s

/-- A training block with RTR asks an ACTIVE port for a retrain (R318). -/
def takeRtr (s : State) (p : Nat) (b : TsBlock) : State := if linkActive s p && b.rtr then beginRetrain s p else s

/-- A TSEQ block (R312, R318): RTR asks an ACTIVE port for a retrain; in EQUALIZE the block adjusts the lane. -/
def doTseq (s : State) (p lane : Nat) (b : TsBlock) (good : Option Bool) : State :=
  if !b.crcOk then s
  else
    let s0 := takeRtr s p b
    if portState s0 p = 2 && (usableLanes s0 p).contains lane then
      let s1 := notePeer s0 p b
      let l := getLink s1 p
      let t := Store.get (0, 0, 0) l.taps lane
      let j := good.isSome
      let taps := (tapStep t.1 b.coef, tapStep t.2.1 (b.coef / 4), tapStep t.2.2 (b.coef / 16))
      checkEqualize (setLink s1 p { l with
        taps := Store.set (0, 0, 0) l.taps lane taps
        judged := withBit l.judged lane (j || l.judged.testBit lane)
        good := withBit l.good lane (if j then good == some true else l.good.testBit lane)
        eqDone := withBit l.eqDone lane (b.eqDone || l.eqDone.testBit lane) }) p
    else s0

/-- TSEQ (R312). -/
def execTseq (port : Port) (lane : Fin 5) (block : Nat) (good : Option Bool) (s : State) :
    Host.Outcome State Fault Refusal := .next (whenAlive s (doTseq · port lane (readTs .tseq block) good))

/-- Lanes whose blocks name the lane they should name are good; reversal is the exact reverse order (R309). -/
def alignLanes (s : State) (p : Nat) : State :=
  let l := getLink s p
  let known := (upTo 5).filter l.good.testBit
  if known.all fun i => Store.get 0 l.planes i != 0 then
    let rev := !known.isEmpty && known.all fun i => Store.get 0 l.planes i == 5 - i
    let ok := known.filter fun i => Store.get 0 l.planes i == (if rev then 5 - i else i + 1)
    let s1 := setB (setF s (PORT.LANE_STS_RXGOOD p) (laneMask ok)) (PORT.LINK_STS_REVERSED p) rev
    enterState (setLink s1 p { getLink s1 p with good := laneMask ok }) p 4
  else s

/-- A TS1 block (R309, R312, R318). -/
def doTs1 (s0 : State) (p lane : Nat) (b : TsBlock) : State :=
  let s := if b.crcOk then takeRtr s0 p b else s0
  if b.crcOk && portState s p = 3 && (getLink s p).good.testBit lane then
    let s1 := notePeer s p b
    let l := getLink s1 p
    alignLanes (setLink s1 p { l with planes := Store.set 0 l.planes lane (b.plane + 1) }) p
  else s

/-- TS1 (R312). -/
def execTs1 (port : Port) (lane : Fin 5) (block : Nat) (s : State) : Host.Outcome State Fault Refusal :=
  .next (whenAlive s (doTs1 · port lane (readTs .ts1 block)))

/-! Negotiation (R314 to R317, R320). -/

/-- The highest version offered (VCAP). -/
def ownVmax (s : State) (p : Nat) : Nat :=
  match getF s (PORT.PORT_CTL_VCAP p) with
  | 0 => 0x10 | 1 => 0x11 | 2 => 0x20 | _ => 0x21

/-- The features of a version (Table 11-3): SPARE, LWC, STAMP, CCHK in bits 0 to 3. -/
def verFeat (v : Nat) : Nat := if v = 0x11 then 1 else if v = 0x20 then 13 else if v = 0x21 then 15 else 0

/-- The features offered. -/
def ownFeat (s : State) (p : Nat) : Nat :=
  getF s (PORT.PORT_CTL_SPARE_EN p) + 2 * getF s (PORT.PORT_CTL_LWC_EN p) + 4 + 8

/-- WREQ of PORT_CTL: 3 acts as 2. -/
def ctlWreq (s : State) (p : Nat) : Nat := min 2 (getF s (PORT.PORT_CTL_WREQ p))

/-- The WREQ sent: in a retrain requested wider the width requested; in any other, no more than a retrain has narrowed the
link to (R320, R321). -/
def ownWreq (s : State) (p : Nat) : Nat :=
  let l := getLink s p
  if retraining s p then
    if l.widen then min (ctlWreq s p) (l.lwcAsk - 1)
    else if l.cap = 0 then ctlWreq s p else min (ctlWreq s p) (l.cap - 1)
  else ctlWreq s p

/-- MAXVC offered. -/
def ownMaxVc (s : State) (p : Nat) : Nat :=
  let v := getF s (PORT.PORT_CTL_VC_MAX p)
  if 2 ≤ v ∧ v ≤ 8 then v else 8

/-- VER, NVC and AFEAT: in cold training what R315 makes of both ends', in a retrain those that it keeps (R319). -/
def agreed (s : State) (p : Nat) (b : TsBlock) : Option (Nat × Nat × Nat) :=
  if retraining s p then
    some (getF s (PORT.LINK_STS_VER p), getF s (PORT.LINK_STS_NVC p), getF s (PORT.LINK_STS_AFEAT p))
  else
    ([0x21, 0x20, 0x11, 0x10].find? fun v => decide (v ≤ ownVmax s p ∧ b.vmin ≤ v ∧ v ≤ b.vmax)).map fun v =>
      (v, min (min (ownMaxVc s p) b.maxvc) (if v < 0x20 then 4 else 8), ownFeat s p &&& b.feat &&& verFeat v)

/-- The configuration of R315, or the reason of its failure. -/
def computeConf (s : State) (p : Nat) (b : TsBlock) : Except Nat LinkConf :=
  match agreed s p b with
  | none => .error 6
  | some (v, n, feat) =>
    let spare := (feat &&& ownFeat s p &&& b.feat).testBit 0
    let c := (upTo 5).filter fun i => (getLink s p).good.testBit i && b.rxgood.testBit i && (i != 4 || spare)
    let w := min (min (ownWreq s p) (min 2 b.wreq)) (if 4 ≤ c.length then 2 else if 2 ≤ c.length then 1 else 0)
    if c.isEmpty then .error 7
    else if !retraining s p && decide (getF s (PORT.TRAIN_STS_ATTEMPT p) < 3)
        && decide (w < min (ownWreq s p) (min 2 b.wreq)) then .error 9
    else .ok { lanes := laneMask (c.take (2 ^ w)), width := w + 1, ver := v, nvc := n, afeat := feat }

/-- Eight identical TS2 blocks settle the leader and the configuration (R314 to R316). -/
def settleTs2 (s : State) (p : Nat) (b : TsBlock) : State :=
  let self := getF s ROUTE.SELF_NODE_ID
  let s1 := setF (setF (notePeer s p b) (PORT.PEER_VMIN p) b.vmin) (PORT.PEER_VMAX p) b.vmax
  let s2 := setB s1 (PORT.LINK_STS_LEADER p) (decide (self < b.node))
  let s3 := if b.node < self ∧ !retraining s p then setF s2 (PORT.TRAIN_STS_ATTEMPT p) b.att else s2
  if b.node = self then failAttempt s3 p 8
  else match computeConf s3 p b with
    | .error r => failAttempt s3 p r
    | .ok c => enterState (setLink s3 p { getLink s3 p with conf := c }) p 5

/-- A TS2 block (R312, R314, R318). -/
def doTs2 (s0 : State) (p : Nat) (b : TsBlock) : State :=
  let s := if b.crcOk then takeRtr s0 p b else s0
  if b.crcOk && portState s p = 4 then
    let l := getLink s p
    let n := if l.last = some b then l.run + 1 else 1
    if n = 8 then settleTs2 s p b else setLink s p { l with last := some b, run := n }
  else s

/-- TS2 (R314). -/
def execTs2 (port : Port) (block : Nat) (s : State) : Host.Outcome State Fault Refusal :=
  .next (whenAlive s (doTs2 · port (readTs .ts2 block)))

/-- R_v of a channel as the registers give it: values below 16 act as 16 (R333). -/
def vcRsv (s : State) (p v : Nat) : Nat := max 16 (bitsOf (getF s (PORT.VC_RSV p)) (8 * v) 8)

/-- The units of a port's receive buffer that hold packets of a channel. -/
def heldUnits (s : State) (p v : Nat) : Nat :=
  let us := fun (q : Packet) => if portVc s p q = v then pktUnits q else 0
  ((getLink s p).inbox.map us).sum + ((s.net.arrived.filter fun x => x.1 == p).map fun x => us x.2.1).sum
    + ((s.net.waiting.filter fun x => x.1 == p + 1).map fun x => us x.2.pkt).sum

/-- Credits restart at the end of CONFIG (R334). -/
def restartCredits (s : State) (p : Nat) (c : LinkConf) (b : TsBlock) : State :=
  let mine : Store Nat := ((upTo c.nvc).map fun v => (v, vcRsv s p v))
  let busy := ((upTo 8).map (heldUnits s p)).sum
  setLink s p { getLink s p with
    rsv := ((upTo c.nvc).map fun v => (v, b.rsv.getD v 0)).filter (·.2 != 0), pool := b.pool, sent := [], known := []
    got := [], freed := [], advRsv := mine, advPool := 2048 - (mine.map (·.2)).sum - busy }

/-! Width change in service (R321, R322). -/

/-- LWC is agreed. -/
def lwcAgreed (s : State) (p : Nat) : Bool := (getF s (PORT.LINK_STS_AFEAT p)).testBit 1

/-- The lowest-numbered lanes in use for a width (1 x1, 2 x2, 3 x4). -/
def narrowLanes (s : State) (p w : Nat) : Nat :=
  laneMask (((upTo 5).filter (bitF s (PORT.LINK_STS_LANES p))).take (2 ^ (w - 1)))

/-- The transmit direction takes a width and lanes; the receive direction follows at the peer's WSW.
(DEDUCED, log 58) -/
def switchWidth (s : State) (p w lanes : Nat) : State :=
  if w = getF s (PORT.LINK_STS_WIDTH p) then s
  else
    let s1 := setF (setF s (PORT.LINK_STS_WIDTH p) w) (PORT.LINK_STS_LANES p) lanes
    let s2 := setB s1 (PORT.LINK_STS_DEGRADED p) (decide (w < 3))
    raise (setLink s2 p { getLink s2 p with lwcPend := w }) (0x0600 + p) 8

/-- The leader sends LWC_GO to a width, or repeats the present one where that is no narrower or deterministic mode is in
force. -/
def sendGo (s : State) (p w : Nat) : State :=
  let cur := getF s (PORT.LINK_STS_WIDTH p)
  let w1 := if detOn s || decide (cur ≤ w) then cur else w
  let lanes := if w1 = cur then getF s (PORT.LINK_STS_LANES p) else narrowLanes s p w1
  switchWidth (sendCtrl s p (.lwcGo w1 lanes)) p w1 lanes

/-- After a retrain the width change that it cancelled is asked for again (R321). -/
def askAgain (s : State) (p : Nat) : State :=
  let w := (getLink s p).lwcAsk
  if w = 0 ∨ !lwcAgreed s p ∨ detOn s then s
  else if flag s (PORT.LINK_STS_LEADER p) then sendGo s p w
  else sendCtrl s p (.lwcReq (w - 1))

/-! The end of a retrain, and of cold training. -/

/-- A retrain has ended: what changed in the lanes is reported, the flits from the peer's NEXT_SEQ are sent again
(R316, R319, R320). -/
def endRetrain (s : State) (p : Nat) (c : LinkConf) (b : TsBlock) : State :=
  let l := getLink s p
  let oldW := getF s (PORT.LINK_STS_WIDTH p)
  let oldL := getF s (PORT.LINK_STS_LANES p)
  let keep := l.replay.dropWhile fun f => f.seq != b.nextSeq
  let lost := (upTo 5).find? fun i => oldL.testBit i && !c.lanes.testBit i && bitF s (PORT.LANE_STS_FAILED p) i
  let cap := if c.width < oldW then c.width
    else if l.widen && decide (oldW < c.width) then (if c.width = 3 then 0 else c.width) else l.cap
  let again := if !l.widen && decide (l.lwcAsk < c.width) then l.lwcAsk else 0
  let s1 := setLink s p { l with replay := keep, timerAt := s.time.elapsed, stuck := 0, failed := 0, widen := false, cap := cap,
                                 lwcAsk := again, rxWidth := c.width }
  let s2 := setF (setF (setB s1 (PORT.LINK_STS_RETRAINING p) false) (PORT.LINK_STS_WIDTH p) c.width) (PORT.LINK_STS_LANES p) c.lanes
  let s3 := if keep.isEmpty then s2 else bumpF s2 (PORT.REPLAYS_COUNT p)
  let s4 := match c.width == 3 && c.lanes.testBit 4 && !oldL.testBit 4, lost with
    | true, some i => faultEntry (raise s3 (0x0600 + p) 3) 20 2 none (0x0600 + p) p i
    | _, _ => s3
  let s5 := if c.width ≠ oldW then raise s4 (0x0600 + p) 8 else s4
  let s6 := setB s5 (PORT.LINK_STS_DEGRADED p) (decide (c.width < 3))
  let s7 := if c.width < 3 ∧ c.width ≠ oldW then raise s6 (0x0600 + p) 2 else s6
  askAgain (flushLink (enterState s7 p 7) p) p

/-- Start an exchange of link keys: the leader's OFFER or ROT_OFFER, or in profile F both ends' NONCE (R387, R388, R390).
With no fresh randomness an agreement of profile S sends nothing (R384). -/
def startExchange (s : State) (p : Nat) (cold : Bool) : State :=
  let rot := if cold then 0 else Store.get 0 s.sec.linkRot p + 1
  let k : KeyX := { start := s.time.elapsed, cold := cold, rot := rot }
  let s0 := setF s (KEY.KX_STS_STATE p) 1
  if trngFailed s && linkS s then { s0 with sec := { s0.sec with kx := Store.set none s0.sec.kx p (some k) } }
  else
    let (n, s1) := draw s0 256
    if linkS s then
      if flag s (PORT.LINK_STS_LEADER p) then
        let (d, s2) := draw s1 512
        let ek := Config.mlkemPublic d
        let msg := if cold then Config.mldsaPublic (s.sec.dik - 1) + n * 256 ^ 2592 + ek * 256 ^ 2624 else n + ek * 256 ^ 32
        let k1 := { k with script := [msg], seed := d, nonce := n }
        let s3 := { s2 with sec := { s2.sec with kx := Store.set none s2.sec.kx p (some k1) } }
        sendCtrl s3 p (if cold then .keyx 1 4192 msg else .keyx 5 1600 msg)
      else { s0 with sec := { s0.sec with kx := Store.set none s0.sec.kx p (some k) } }
    else
      let k1 := { k with nonce := n }
      let s2 := { s1 with sec := { s1.sec with kx := Store.set none s1.sec.kx p (some k1) } }
      sendCtrl s2 p (.keyx 4 36 (n + rot * 256 ^ 32))

/-- A cold training has configured the port: sequence numbers and buffers start anew, and the keys are agreed (R327,
R340). -/
def enterKeying (s : State) (p : Nat) (c : LinkConf) : State :=
  let l := getLink s p
  let s1 := setLink s p { l with nextTx := 0, replay := [], total := 0, filling := none, carry := (0, 0), e := 0, held := [],
                                 nakAt := none, waiting := false, accepted := false, tagRun := 0, part := [], stuck := 0,
                                 ctrlQ := [], rxWidth := c.width, frag := none }
  let s2 := setF (setF s1 (PORT.LINK_STS_WIDTH p) c.width) (PORT.LINK_STS_LANES p) c.lanes
  let s3 := setF (setF s2 (PORT.FRAMES_TX p) 0) (PORT.FRAMES_RX p) 0
  let s4 := setF (setF s3 (PORT.KEY_STS_TX_PH p) 0) (PORT.KEY_STS_RX_PH p) 0
  startExchange (enterState s4 p 6) p true

/-- Sixteen TS3 blocks with the leader's configuration end CONFIG (R312, R315). A retrain keeps VER, NVC and AFEAT
(R319). -/
def settleTs3 (s : State) (p : Nat) (b : TsBlock) (c0 : LinkConf) : State :=
  let c := if retraining s p then
      { c0 with ver := getF s (PORT.LINK_STS_VER p), nvc := getF s (PORT.LINK_STS_NVC p), afeat := getF s (PORT.LINK_STS_AFEAT p) }
    else c0
  let s1 := setF (setF (setF s (PORT.LINK_STS_VER p) c.ver) (PORT.LINK_STS_NVC p) c.nvc) (PORT.LINK_STS_AFEAT p) c.afeat
  let s2 := restartCredits (setLink s1 p { getLink s1 p with conf := c }) p c b
  if retraining s p then
    let s3 := endRetrain s2 p c b
    if flag s (PORT.LINK_STS_LEADER p) && (Store.get none s.sec.kx p).isSome then startExchange (abandonExchange s3 p) p false
    else abandonExchange s3 p
  else enterKeying s2 p c

/-- A TS3 block (R312, R314, R315, R318). -/
def doTs3 (s0 : State) (p : Nat) (b : TsBlock) : State :=
  let s := if b.crcOk then takeRtr s0 p b else s0
  if b.crcOk && portState s p = 5 then
    let l := getLink s p
    let c : LinkConf := ⟨b.lanes, b.width, b.ver, b.nvc, b.afeat⟩
    let same := match l.last with
      | some x => (⟨x.lanes, x.width, x.ver, x.nvc, x.afeat⟩ : LinkConf) == c
      | none => false
    let ok := if flag s (PORT.LINK_STS_LEADER p) then c == l.conf else true
    let n := if !ok then 0 else if same then l.run + 1 else 1
    if n = 16 then settleTs3 s p b c else setLink s p { l with last := some b, run := n }
  else s

/-- TS3 (R315). -/
def execTs3 (port : Port) (block : Nat) (s : State) : Host.Outcome State Fault Refusal :=
  .next (whenAlive s (doTs3 · port (readTs .ts3 block)))

/-! What a port sends while it trains (Table 11-1, R313, R314). -/

/-- What a training block of the port on a lane says. The port takes part in no other lane's adaptation: COEF holds, and
EQ_DONE says that it has judged the lane. The leader sends its configuration; the follower what the leader's last TS3
says (R314). (DEDUCED, log 145) -/
def ownTs (s : State) (p lane : Nat) : TsBlock :=
  let l := getLink s p
  let conf := if flag s (PORT.LINK_STS_LEADER p) then l.conf else match l.last with
    | some x => ⟨x.lanes, x.width, x.ver, x.nvc, x.afeat⟩
    | none => {}
  { plane := lane, rtr := retraining s p, node := getF s ROUTE.SELF_NODE_ID, eqDone := l.judged.testBit lane
    vmin := 0x10, vmax := ownVmax s p, feat := ownFeat s p, rxgood := l.good, wreq := ownWreq s p
    att := getF s (PORT.TRAIN_STS_ATTEMPT p), maxvc := ownMaxVc s p
    lanes := conf.lanes, width := conf.width, ver := conf.ver, nvc := conf.nvc, afeat := conf.afeat
    nextSeq := l.e / 8 * 8
    pool := 2048 - ((upTo conf.nvc).map fun v => vcRsv s p v + heldUnits s p v).sum
    rsv := (upTo 8).map fun v => if v < conf.nvc then vcRsv s p v else 0 }

/-- The training block that a port sends on a lane in its present state: none outside EQUALIZE to CONFIG (Table 11-1).
(DEDUCED, log 145) -/
def sentTs (s : State) (p lane : Nat) : Option Nat :=
  let f := fun (t : TsType) => if (usableLanes s p).contains lane then some (tsBytes t (ownTs s p lane)) else none
  match portState s p with
  | 2 => f .tseq
  | 3 => f .ts1
  | 4 => f .ts2
  | 5 => f .ts3
  | _ => none

/-- The limit of a training state in ns, cold or in a retrain (Table 11-1). -/
def stateLimit (st : Nat) (re : Bool) : Nat :=
  match st with
  | 1 => 10000000
  | 2 => if re then 30000 else 25000000
  | 3 => if re then 3000 else 1000000
  | 4 => if re then 3000 else 2000000
  | 5 => if re then 4000 else 2000000
  | _ => 100000000

/-- The reason that the limit of a state gives. -/
def limitReason (st : Nat) : Nat := if st = 6 then 10 else st

/-- An exchange fails (R391): KX_STS.FAIL, KX_FAIL and a fault-log entry; in KEYING the attempt fails.
(DEDUCED, log 60) -/
def failExchange (s : State) (p code : Nat) : State :=
  let s1 := setF (setF (dropExchange s p) (KEY.KX_STS_FAIL p) code) (KEY.KX_STS_STATE p) 0
  let s2 := faultEntry (raise s1 0x0022 0) 21 1 none 0x0022 p code
  if portState s p = 6 then failAttempt s2 p 10 else s2

/-- TRAIN_STATE_LIMIT (R312): in KEYING the exchange has not finished in its 100 ms either (R391). -/
def execTrainStateLimit (port : Port) (s : State) : Host.Outcome State Fault Refusal :=
  .next (whenAlive s fun s =>
    let st := portState s port
    if 1 ≤ st ∧ st ≤ 6 then
      let s1 := advanceEl s ((getLink s port).since + stateLimit st (retraining s port))
      if st = 6 then failExchange s1 port 5 else failAttempt s1 port (limitReason st)
    else s)

/-- FAILED_HOLD_END (R316, R323): another attempt, or DISABLED when none remains. -/
def execFailedHoldEnd (port : Port) (s : State) : Host.Outcome State Fault Refusal :=
  .next (whenAlive s fun s =>
    if portState s port = 8 then
      let re := retraining s port
      let s1 := advanceEl s ((getLink s port).since + (if re then 10000 else 1000000))
      let a := getF s (PORT.TRAIN_STS_ATTEMPT port)
      if re then
        if 4 ≤ (getLink s port).failed then failPort s1 port 12 3
        else enterState (clearLanes s1 port) port 2
      else if a = 3 then raise (failPort s1 port (getF s (PORT.TRAIN_STS_REASON port)) 1) (0x0600 + port) 5
      else startCold s1 port (a + 1)
    else s)

/-- A lane in use fails: it is marked and a retrain begins (R318). -/
def failLane (s : State) (p lane : Nat) : State :=
  if linkActive s p && bitF s (PORT.LINK_STS_LANES p) lane then
    beginRetrain (setBitF s (PORT.LANE_STS_FAILED p) lane true) p
  else s

/-- LANE_LOSS_OF_LOCK (R318). -/
def execLaneLossOfLock (port : Port) (lane : Fin 5) (s : State) : Host.Outcome State Fault Refusal :=
  .next (whenAlive s (failLane · port lane))

/-- LANE_SER_LIMIT (R318): the symbols are counted; above the limit the lane fails. -/
def execLaneSerLimit (port : Port) (lane : Fin 5) (symbols : Nat) (s : State) : Host.Outcome State Fault Refusal :=
  .next (whenAlive s fun s =>
    let s1 := addF s (PORT.LANE_SER_SYMBOLS port lane) symbols
    if getF s (PORT.LANE_SER_LIMIT_SYMBOLS port) < symbols then failLane s1 port lane else s1)

/-- FEC_UNCORRECTABLE_LIMIT (R318). -/
def execFecUncorrectableLimit (port : Port) (words : Nat) (s : State) : Host.Outcome State Fault Refusal :=
  .next (whenAlive s fun s =>
    let s1 := addF s (PORT.FEC_UNCORR_COUNT port) words
    if 8 ≤ words then beginRetrain s1 port else s1)

/-! Commands of a width change (R322). -/

/-- LWC_CMD.GO (R318, R322). `width` is 0 x1, 1 x2, 2 x4. (DEDUCED, log 62) -/
def doLwcRequest (s : State) (p width : Nat) : State :=
  let cur := getF s (PORT.LINK_STS_WIDTH p)
  let w := min 3 (width + 1)
  if !lwcAgreed s p || detOn s || !linkActive s p then setB s (PORT.LWC_CMD_REFUSED p) true
  else
    let s1 := setB s (PORT.LWC_CMD_REFUSED p) false
    if cur < w then beginRetrain (setLink s1 p { getLink s1 p with widen := true, lwcAsk := w }) p
    else if w = cur then s1
    else
      let s2 := setLink s1 p { getLink s1 p with lwcAsk := w }
      if flag s (PORT.LINK_STS_LEADER p) then sendGo s2 p w else sendCtrl s2 p (.lwcReq (w - 1))

/-- LWC_REQUEST (R322). -/
def execLwcRequest (port : Port) (width : Nat) (s : State) : Host.Outcome State Fault Refusal :=
  .next (whenAlive s (doLwcRequest · port width))

/-- LWC_REQ (R322): a request that comes while the leader's own switch is pending is answered after it. -/
def execLwcReq (port : Port) (width : Nat) (s : State) : Host.Outcome State Fault Refusal :=
  .next (whenAlive s fun s =>
    let l := getLink s port
    if linkActive s port && lwcAgreed s port && flag s (PORT.LINK_STS_LEADER port) then
      if l.lwcPend ≠ 0 then setLink s port { l with deferred := min 3 (width + 1) } else sendGo s port (min 3 (width + 1))
    else s)

/-- LWC_GO (R322): a narrower width is taken up; one that repeats the present width ends the request. -/
def execLwcGo (port : Port) (width lanes : Nat) (s : State) : Host.Outcome State Fault Refusal :=
  .next (whenAlive s fun s =>
    if linkActive s port && lwcAgreed s port && decide (1 ≤ width) then
      if width < getF s (PORT.LINK_STS_WIDTH port) then switchWidth s port width lanes
      else setLink s port { getLink s port with lwcAsk := 0 }
    else s)

/-- A flit with WSW arrived: the receive direction switches, and a request that waited is answered (R322).
(DEDUCED, log 58) -/
def takeSwitch (s : State) (p : Nat) : State :=
  let l := getLink s p
  let s1 := setLink s p { l with rxWidth := if l.lwcPend = 0 then l.rxWidth else l.lwcPend
                                 lwcAsk := if l.lwcPend = 0 then l.lwcAsk else 0, lwcPend := 0, deferred := 0 }
  if l.deferred = 0 then s1 else sendGo s1 p l.deferred

/-! Acknowledgement and replay (R327 to R332). -/

/-- A replay begins (R331): from the oldest flit in the buffer. -/
def replayFrom (s : State) (p : Nat) (l : LinkPort) : State :=
  recordReplay (bumpF (setLink s p { l with timerAt := s.time.elapsed, stuck := l.stuck + 1, filling := none })
    (PORT.REPLAYS_COUNT p)) p

/-- The receiver asks for a replay (R330). -/
def sendNak (s : State) (p : Nat) : State :=
  let l := getLink s p
  if l.waiting then s
  else recordReplay (bumpF (setLink s p { unhold l with nakAt := some s.time.elapsed, waiting := true }) (PORT.NAKS_SENT p)) p

/-- The flits that an acknowledgement of `a` leaves; none where it names a flit not yet sent (R329). -/
def ackLeaves (l : LinkPort) (a : Nat) : Option (List TxFlit) :=
  if l.replay.any (fun f => f.seq == a) then some ((l.replay.dropWhile fun f => f.seq != a).drop 1)
  else if (l.nextTx + 4095 - a % 4096) % 4096 < min l.total 2048 then some l.replay
  else none

/-- The flits from SEQ `n` on; none where a NAK may not name it (R331). -/
def nakLeaves (l : LinkPort) (n : Nat) : Option (List TxFlit) :=
  if l.replay.any (fun f => f.seq == n) then some (l.replay.dropWhile fun f => f.seq != n)
  else if n = l.nextTx then some []
  else none

/-- Apply ACK or NAK of a received flit; none for a protocol breach. -/
def applyAck (s : State) (p : Nat) (f : RxFlit) : Option State :=
  let l := getLink s p
  let moved := fun (r : List TxFlit) => { l with
    replay := r, stuck := if r.length < l.replay.length then 0 else l.stuck
    timerAt := if r.length < l.replay.length then s.time.elapsed else l.timerAt }
  if f.nak then
    (nakLeaves l f.ack).map fun r => replayFrom (bumpF s (PORT.NAKS_RECEIVED p)) p (moved r)
  else if f.av then
    (ackLeaves l f.ack).map fun r => flushLink (setLink s p (moved r)) p
  else some s

/-- Apply CRET: the units known to be freed (R336). -/
def applyCret (s : State) (p : Nat) (f : RxFlit) : State :=
  if f.cv then
    let l := getLink s p
    let g := Store.get 0 l.known f.cvc
    setLink s p { l with known := Store.set 0 l.known f.cvc (g + (f.cret + 256 - g % 256) % 256) }
  else s

/-! Secured frames that arrive (R326, R328, R338 to R341, R348). -/

/-- Packets in the bytes of one body: the bytes left of one that has not ended, and the packets that ended. A zero where a
header would begin ends the flit. -/
def parseBody : Nat → List Nat → List Nat → List Nat × List Packet
  | 0, part, bs => (part ++ bs, [])
  | n + 1, part, bs =>
    let all := part ++ bs
    if part.isEmpty && all.headD 0 == 0 then ([], [])
    else if all.length < 32 then (all, [])
    else
      let len := 32 + all.getD 13 0
      if all.length < len then (all, [])
      else
        let r := parseBody n [] (all.drop len)
        (r.1, unpackPacket (Keccak.ofBytes (all.take len)) :: r.2)

/-- The packets of the DATA flits of a frame, given (KIND, payload) of each flit. -/
def parseFrame (part : List Nat) (fs : List (Nat × List Nat)) : List Nat × List Packet :=
  fs.foldl (fun acc f => if f.1 = 0 then
    let r := parseBody 16 acc.1 f.2
    (r.1, acc.2 ++ r.2) else acc) (part, [])

/-- The additional authenticated data of a frame (R339). -/
def frameAad (fs : List RxFlit) : Nat :=
  fs.foldr (fun f v => f.seq % 4096 + f.kind % 4 * 2 ^ 12 + f.keyPh.toNat * 2 ^ 14 + v * 2 ^ 16) 0

/-- The ciphertext and tag of a frame: its bodies in order. -/
def frameText (fs : List RxFlit) : Nat := fs.foldr (fun f v => f.body % 256 ^ 246 + v * 256 ^ 246) 0

/-- A secured frame verifies: its plaintext of 1,952 bytes, and whether it is the first under a new key. -/
def openFrame (s : State) (p : Nat) (fs : List RxFlit) : Option (Nat × Bool) :=
  let ph := (fs.headD {}).keyPh
  let fresh := ph != flag s (PORT.KEY_STS_RX_PH p)
  let k := if fresh then (Store.get (0, 0) s.sec.linkNext p).2 else (Store.get (0, 0) s.sec.linkKey p).2
  let ctr := if fresh then 0 else getF s (PORT.FRAMES_RX p)
  if k = 0 ∨ fs.any (fun f => f.keyPh != ph) then none
  else (Config.gcmOpen ((k - 1) / 2 ^ 32) ((k - 1) % 2 ^ 32 + ctr * 2 ^ 32) (frameAad fs) (frameText fs)).map (·, fresh)

/-- The plaintext payload bytes of the flits of a frame. -/
def framePayload (s : State) (p : Nat) (fs : List RxFlit) (plain : Nat) : List (Nat × List Nat) :=
  (upTo fs.length).map fun i =>
    let f := fs.getD i {}
    let n := payloadLen i
    (f.kind, Keccak.toBytes n (if portState s p = 6 then f.body else plain / 256 ^ (246 * i)))

/-- A CTRL body: its message type is one of Table 11-6; KEYX fragments come in order (R326, R386). -/
def takeCtrl (p : Nat) (s : State) (b : List Nat) : State :=
  let t := b.getD 0 0
  if t = 4 then
    let ty := b.getD 1 0
    let fr := b.getD 2 0 + 256 * b.getD 3 0
    let n := b.getD 4 0 + 256 * b.getD 5 0
    let l := getLink s p
    let want := match l.frag with
      | some x => decide (x.1 = ty ∧ x.2.1 = fr ∧ x.2.2 = n)
      | none => decide (fr = 0 ∧ 0 < n)
    if want && decide (1 ≤ ty ∧ ty ≤ 7) then
      setLink s p { l with frag := if fr + 1 < n then some (ty, fr + 1, n) else none }
    else if (Store.get none s.sec.kx p).isSome then failExchange (setLink s p { l with frag := none }) p 4
    else setLink s p { l with frag := none }
  else if t = 0 ∨ 4 < t then beginRetrain s p
  else s

/-- Units of packets on a channel. -/
def unitsOn (s : State) (p v : Nat) (ps : List Packet) : Nat :=
  (ps.map fun q => if portVc s p q = v then pktUnits q else 0).sum

/-- Whether a receiver has the units for the packets of a frame, counted as their sender counts them (R335, R338). -/
def bufferRoom (s : State) (p : Nat) (ps : List Packet) : Bool :=
  let l := getLink s p
  withinPool (fun v => ((Store.get 0 l.got v + unitsOn s p v ps : Nat) : Int) - (Store.get 0 l.freed v : Nat)) (Store.get 0 l.advRsv) l.advPool

/-- The units of delivered packets are received. -/
def gotUnits (s : State) (p : Nat) (ps : List Packet) : Store Nat :=
  (upTo 8).foldl (fun m v => Store.set 0 m v (Store.get 0 m v + unitsOn s p v ps)) (getLink s p).got

/-- A frame has verified: the packets of its DATA flits reach the transport layer, its link messages are consumed; where
the buffer has no room for a packet it is not accepted, and the port retrains (R328, R338). -/
def deliver (s : State) (p : Nat) (fs : List RxFlit) (plain : Nat) (fresh : Bool) : State :=
  let l := getLink s p
  let pay := framePayload s p fs plain
  let (part, pkts) := parseFrame l.part pay
  if portState s p = 7 && !bufferRoom s p pkts then
    beginRetrain (bumpF (sendNak (setLink s p { l with tagRun := 0 }) p) (PORT.CREDIT_STS_OVERRUNS p)) p
  else
    let s1 := setLink s p { l with held := [], e := (l.e + 1) % 4096, part := part, inbox := l.inbox ++ pkts
                                   got := gotUnits s p pkts, accepted := true, tagRun := 0 }
    let s2 := if portState s p = 7 then
        if fresh then
          let nx := Store.get (0, 0) s1.sec.linkNext p
          let cur := Store.get (0, 0) s1.sec.linkKey p
          let s3 := setF (setB s1 (PORT.KEY_STS_RX_PH p) (fs.headD {}).keyPh) (PORT.FRAMES_RX p) 1
          let keep := if (Store.get none s.sec.kx p).isSome then (nx.1, 0) else (0, 0)
          { s3 with sec := { s3.sec with linkKey := Store.set (0, 0) s3.sec.linkKey p (cur.1, nx.2),
                                         linkNext := Store.set (0, 0) s3.sec.linkNext p keep } }
        else wrapF s1 (PORT.FRAMES_RX p) 1
      else s1
    forAll ((pay.filter fun x => x.1 == 1).map (·.2)) (takeCtrl p) s2

/-- The eighth flit of a secured frame is held, E being its SEQ still: the tag is verified; in KEYING it is not (R328,
R340, R341). A frame that fails is asked for from its first flit (R330). -/
def endFrame (s : State) (p : Nat) : State :=
  let fs := (getLink s p).held
  if portState s p = 6 then deliver s p fs 0 false
  else match openFrame s p fs with
    | some (plain, fresh) => deliver s p fs plain fresh
    | none =>
      let l := getLink s p
      sendNak (bumpF (setLink s p { l with tagRun := l.tagRun + 1 }) (PORT.TAG_FAIL_COUNT p)) p

/-- A DATA or CTRL flit by its sequence number (R328, R330). -/
def takeFlit (s : State) (p : Nat) (f : RxFlit) : State :=
  let l := getLink s p
  if f.seq = l.e then
    let l1 := { l with held := l.held ++ [f], waiting := false, nakAt := none }
    if (l.e + 1) % 8 = 0 then endFrame (setLink s p l1) p else setLink s p { l1 with e := (l.e + 1) % 4096 }
  else if (l.e + 4096 - f.seq % 4096) % 4096 ≤ 2048 then s
  else sendNak s p

/-- A flit arrives (R325 to R332): its link fields are applied, and it is held, dropped or asked for again. -/
def recvFlit (s : State) (p : Nat) (f : RxFlit) : State :=
  if !linkCarries s p then s
  else if !f.crcOk then sendNak (bumpF s (PORT.CRC_ERR_COUNT p)) p
  else if f.kind = 3 ∨ f.rsvd then beginRetrain s p
  else match applyAck s p f with
    | none => beginRetrain s p
    | some s1 =>
      let s2 := applyCret s1 p f
      let s3 := if f.wsw then takeSwitch s2 p else s2
      if f.kind = 2 then s3 else takeFlit s3 p f

/-- FLIT (R328). -/
def execFlit (port : Port) (bytes : Nat) (s : State) : Host.Outcome State Fault Refusal :=
  .next (whenAlive s (recvFlit · port (readFlit bytes)))

/-- REPLAY_TIMER (R331): values below 500 ns act as 500. -/
def execReplayTimer (port : Port) (s : State) : Host.Outcome State Fault Refusal :=
  .next (whenAlive s fun s =>
    let l := getLink s port
    if linkCarries s port && !l.replay.isEmpty then
      replayFrom (advanceEl s (l.timerAt + max 500 (getF s (PORT.REPLAY_CTL_TIMER_NS port)))) port l
    else s)

/-- REPLAY_LIMIT (R318): LIMIT replays without progress; 0 acts as 1. -/
def execReplayLimit (port : Port) (s : State) : Host.Outcome State Fault Refusal :=
  .next (whenAlive s fun s =>
    if max 1 (getF s (PORT.REPLAY_CTL_LIMIT port)) ≤ (getLink s port).stuck then beginRetrain s port else s)

/-- TAG_FAIL_LIMIT (R341): the port stops with reason TAG; 0 acts as 1. (DEDUCED, log 57) -/
def execTagFailLimit (port : Port) (s : State) : Host.Outcome State Fault Refusal :=
  .next (whenAlive s fun s =>
    if linkActive s port && decide (max 1 (getF s (PORT.TAG_CTL_LIMIT port)) ≤ (getLink s port).tagRun) then
      raise (failPort s port 11 5) (0x0600 + port) 7
    else s)

/-! Credit checks (R337). -/

/-- CCHK is agreed. -/
def cchkAgreed (s : State) (p : Nat) : Bool := (getF s (PORT.LINK_STS_AFEAT p)).testBit 3

/-- d of R337 for a channel. -/
def creditGap (l : LinkPort) (v f : Nat) : Nat := (f % 65536 + 65536 - Store.get 0 l.known v % 65536) % 65536

/-- CREDIT_CHECK of the peer: the counts are set right, or a leak shows. -/
def doCreditCheck (s : State) (p : Nat) (freed : List Nat) : State :=
  if linkActive s p && cchkAgreed s p then
    let l := getLink s p
    let vs := upTo (getF s (PORT.LINK_STS_NVC p))
    let gap := fun v => creditGap l v (freed.getD v 0)
    let s1 := setLink s p { l with known := vs.foldl (fun k v =>
      if gap v < 256 then Store.set 0 k v (Store.get 0 k v + gap v) else k) l.known }
    if vs.any fun v => decide (256 ≤ gap v ∧ gap v ≤ 65280) then
      let s2 := raise (bumpF s1 (PORT.CREDIT_STS_LEAKS p)) (0x0600 + p) 6
      beginRetrain (faultEntry s2 20 4 none (0x0600 + p) p 0) p
    else s1
  else s

/-- CREDIT_CHECK (R337). -/
def execCreditCheck (port : Port) (freed : List Nat) (s : State) : Host.Outcome State Fault Refusal :=
  .next (whenAlive s (doCreditCheck · port freed))

/-- The packet at the head of a queue of a port that has waited more than 1 ms for hop credit and has not been counted.
(DEDUCED, log 146) -/
def starved (s : State) (p k : Nat) : Option Sending :=
  match queueOf s p k with
  | x :: _ => if !x.stalled && decide (x.queued + 1000000 < s.time.elapsed)
      && !creditOk (getLink s p) (portVc s p x.pkt) (pktUnits x.pkt) then some x else none
  | [] => none

/-- Count it, once. (DEDUCED, log 146) -/
def noteStall (p : Nat) (s : State) (k : Nat) : State :=
  match starved s p k with
  | some x => bumpF (setQueue s p k ({ x with stalled := true } :: (queueOf s p k).tail)) (PORT.CREDIT_STALL_COUNT p)
  | none => s

/-- CREDIT_STALL (R337): without CCHK each packet that has waited more than 1 ms is counted. (DEDUCED, log 146) -/
def execCreditStall (port : Port) (s : State) : Host.Outcome State Fault Refusal :=
  .next (whenAlive s fun s =>
    if linkActive s port && !cchkAgreed s port then forAll queueKinds (noteStall port) s else s)

/-- CCHK_PERIOD (R337): the receiver sends its freed-unit counts; 0 acts as 1. -/
def execCchkPeriod (port : Port) (s : State) : Host.Outcome State Fault Refusal :=
  .next (whenAlive s fun s =>
    let s1 := atPeriodic s (128 + port) (4096 * max 1 (getF s (PORT.CCHK_PERIOD_FRAMES port))) 0
    if linkActive s port && cchkAgreed s port then
      let l := getLink s port
      let n := getF s (PORT.LINK_STS_NVC port)
      sendCtrl s1 port (.creditCheck n ((upTo 8).map fun v => if v < n then Store.get 0 l.freed v % 65536 else 0))
    else s1)

/-! What a port sends in KEYING and ACTIVE (R324, R329, R330, R336, R339). -/

/-- A NAK is in the flit that the port sends now: the one after what called for it (R330). -/
def nakNow (s : State) (p : Nat) : Bool :=
  match (getLink s p).nakAt with
  | some t => decide ((s.time.elapsed - t) * 100 < flitTime s p)
  | none => false

/-- The acknowledgement that the next flit of a port carries (R329, R330): (AV, NAK, ACK). -/
def ackField (s : State) (p : Nat) : Bool × Bool × Nat :=
  let l := getLink s p
  if nakNow s p then (false, true, l.e) else (l.accepted, false, (l.e / 8 * 8 + 4095) % 4096)

/-- The AAD of a sent frame (R339). -/
def sentAad (fs : List TxFlit) : Nat :=
  fs.foldr (fun f v => f.seq % 4096 + f.kind % 4 * 2 ^ 12 + f.kph.toNat * 2 ^ 14 + v * 2 ^ 16) 0

/-- The eight bodies of a sent frame as one number: secured by its key and counter, in clear with a zero tag in KEYING
(R339, R340). -/
def sealFrame (fs : List TxFlit) : Nat :=
  let plain := ((fs.zip (upTo 8)).map fun x => x.1.body % 256 ^ payloadLen x.2 * 256 ^ (246 * x.2)).sum
  match fs.head? with
  | some f => if f.key = 0 then plain
    else Config.gcmSeal ((f.key - 1) / 2 ^ 32) ((f.key - 1) % 2 ^ 32 + f.ctr * 2 ^ 32) (sentAad fs) plain
  | none => 0

/-- A flit of the replay buffer as the port sends it now, `v` the channel whose freed units it reports (R324 to R326, R331,
R336): a replay carries the same SEQ, KIND, KEY_PH and body. -/
def sentFlit (s : State) (p seq v : Nat) (wsw : Bool) : Option Nat :=
  let l := getLink s p
  (l.replay.find? (·.seq == seq)).map fun f =>
    let (av, nak, a) := ackField s p
    let text := sealFrame (l.replay.filter fun g => g.seq / 8 == seq / 8)
    flitBytes { seq := seq, kind := f.kind, keyPh := f.kph, wsw := wsw, ack := if av || nak then a else 0, av := av, nak := nak
                cvc := v, cv := true, cret := Store.get 0 l.freed v % 256, body := text / 256 ^ (246 * (seq % 8)) % 256 ^ 246 }

/-- An IDLE flit: only link fields (R326). -/
def sentIdle (s : State) (p v : Nat) : Nat :=
  let (av, nak, a) := ackField s p
  flitBytes { kind := 2, ack := if av || nak then a else 0, av := av, nak := nak, cvc := v, cv := true
              cret := Store.get 0 (getLink s p).freed v % 256 }

end Sys2Proof.Machine
end

