-- ==== Sys2Proof/Machine/Selvedge.lean ====
section
/-!
DEFINITION. The Selvedge control ports: HELLO, leases, claims, handover, the periodic lease check and the dual-command
window (chapter 15, R444 to R454), and the fault-log commands (R468, R473).
-/

namespace Sys2Proof.Machine

/-- The preferred port: 0 SELV-A, 1 SELV-B (R444). -/
def preferred (s : State) : Nat := getF s TOP.CTL_STS_PREF

/-- The lease of a port is live: it has started and 10 ms have not passed since its last start (R447). -/
def leaseLive (s : State) (m : Nat) : Bool :=
  (getSelv s m).lease == .live && decide (s.time.elapsed < (getSelv s m).start + 10000000)

/-- CONTROL_CHANGE on both ports (R445); Selvedge 1.0 carries no CAUSE (R446). -/
def controlChange (s : State) (cause : Nat) : State :=
  forAll [0, 1] (fun s m => sendSelv s m (.controlChange (getF s TOP.CTL_STS_HOLDER) (getF s TOP.CTL_STS_EPOCH)
    (if getF s (SELV.LINK_STS_VER m) = 1 then none else some cause))) s

/-- LED_STAT_N is on from M11 DONE until the next reset (R512), while a holder is present. -/
def ledStatNow (s : State) : Bool := s.boot.service

/-- The fault log holds a critical entry or FATAL_N is asserted (R512). -/
def ledFaultNow (s : State) : Bool := latched s || s.log.any (fun e => critical e.cls)

/-- ALERT_N is asserted (R435, R469). -/
def alertNow (s : State) : Bool :=
  flag s PWR.PWR_STS_CAP_UNATTAINABLE || getF s PWR.PWR_STS_THERM_LEVEL != 0 || flag s PWR.PWR_STS_FAST
    || s.input.low || latched s

/-- The duty of FAN_PWM in percent (R435). -/
def fanNow (s : State) : Nat := if getF s PWR.PWR_STS_THERM_LEVEL = 0 then getF s PWR.FAN_CTL_DUTY else 100

/-- Hold the output pins at their present values (R451). -/
def holdOutputs (s : State) : State :=
  { s with ctl := { s.ctl with held := some (ledStatNow s, ledFaultNow s, alertNow s, fanNow s) } }

/-- LED_STAT_N: the held value while the module has no holder (R451, R512); a reset turns it off. Every output is
high-impedance while VAUX is down (R511). -/
def ledStat (s : State) : Bool :=
  s.input.vaux && match s.ctl.held with | some h => h.1 && s.boot.service | none => ledStatNow s

/-- LED_FAULT_N (R451, R512). -/
def ledFault (s : State) : Bool := s.input.vaux && match s.ctl.held with | some h => h.2.1 | none => ledFaultNow s

/-- ALERT_N: held while the module has no holder, but asserted by a latch (R451, R469). -/
def alertPin (s : State) : Bool :=
  s.input.vaux && match s.ctl.held with | some h => h.2.2.1 || latched s | none => alertNow s

/-- FAN_PWM duty (R435, R451); none while it is high-impedance (R511). -/
def fanPin (s : State) : Option Nat :=
  if s.input.vaux then some (match s.ctl.held with | some h => h.2.2.2 | none => fanNow s) else none

/-- FATAL_N is asserted while the module is latched (R511). -/
def fatalPin (s : State) : Bool := s.input.vaux && latched s

/-- Install port `m` as holder with the next epoch (R448): the window opens where there was an earlier holder (R449,
R450), the time source follows (R53), both ports hear of it and the port is resynchronised (R488). -/
def install (s : State) (m cause code : Nat) : State :=
  let epoch := getF s TOP.CTL_STS_EPOCH
  let had := s.ctl.hadHolder
  let c := { s.ctl with prevHolder := s.ctl.lastHolder, prevEpoch := epoch, lastHolder := m + 1, hadHolder := true,
                        windowEnd := s.time.elapsed + 2000000, noHolderLogged := false, held := none }
  let s1 := setF (wrapF { s with ctl := c } TOP.CTL_STS_EPOCH 1) TOP.CTL_STS_HOLDER (m + 1)
  let s2 := setB s1 TOP.CTL_STS_WINDOW had
  let s3 := if had && getF s FT.FT_STS_SRC != m then raise s2 0x0010 5 else s2
  let s4 := setF { s3 with time := { s3.time with exch := none } } FT.FT_STS_SRC m
  let s5 := controlChange s4 cause
  let s6 := faultEntry (raise s5 0x0000 3) 26 code none (0x0048 + m) m (getF s5 TOP.CTL_STS_EPOCH)
  resync s6 m

/-- The module loses its holder (R449, R451). -/
def dropHolder (s : State) (m : Nat) : State :=
  let s1 := holdOutputs s
  let s2 := setF s1 TOP.CTL_STS_HOLDER 0
  let s3 := raise (controlChange s2 1) 0x0000 3
  faultEntry s3 26 1 none (0x0048 + m) m (getF s TOP.CTL_STS_EPOCH)

/-- The highest Selvedge version from 0x10 to 0x12 that both HELLOs admit (R446). -/
def commonVersion (vmin vmax : Nat) : Option Nat :=
  [0x12, 0x11, 0x10].find? (fun v => decide (vmin ≤ v ∧ v ≤ vmax))

/-- HELLO (R446): the port takes the highest common version, and the module's own HELLO goes out. -/
def execHello (f : SelvFrame) (vmin vmax : Nat) (s : State) : Host.Outcome State Fault Refusal :=
  .next (whenManaged s <| onFrame f fun s =>
    if selvUp s f.port then s
    else
      let p := getSelv s f.port
      let s1 := setSelv s f.port { p with out := p.out ++
        [.hello 0x10 0x12 (getF s STRAP.STRAPS_MOD_ID) (getF s FUSE.SERIAL)] }
      setF s1 (SELV.LINK_STS_VER f.port) (match commonVersion vmin vmax with | some v => v - 0xF | none => 0))

/-- SELV_LINK_UP (R497, R488): the PCS is aligned and HELLO has been exchanged with a common version. -/
def execSelvLinkUp (m : Selv) (s : State) : Host.Outcome State Fault Refusal :=
  .next (whenManaged s fun s =>
    if selvUp s m || getF s (SELV.LINK_STS_VER m) = 0 then s
    else
      let s1 := setB s (SELV.LINK_STS_UP m) true
      resync (raise s1 (0x0048 + m) 0) m)

/-- End a lease (R447): LEASE_LOST where it was live. -/
def endLease (s : State) (m : Nat) : State :=
  let p := getSelv s m
  if p.lease = .live then raise (setSelv s m { p with lease := .expired }) (0x0048 + m) 2 else s

/-- Take a Selvedge link down (R447, R486): waiting messages are dropped, the lease ends. -/
def selvDown (s : State) (m : Nat) : State :=
  if selvUp s m then
    let p := getSelv s m
    let s1 := setSelv s m { p with queue := [] }
    let s2 := setF (setB s1 (SELV.LINK_STS_UP m) false) (SELV.LINK_STS_VER m) 0
    let s3 := raise (bumpF s2 (SELV.LINK_DROPS_COUNT m)) (0x0048 + m) 1
    endLease s3 m
  else s

/-- SELV_LINK_DOWN (R447, R497). -/
def execSelvLinkDown (m : Selv) (s : State) : Host.Outcome State Fault Refusal :=
  .next (whenManaged s fun s => selvDown s m)

/-- RENEW (R447): the lease starts or restarts and RENEW_ACK answers. -/
def execRenew (f : SelvFrame) (seq : Nat) (s : State) : Host.Outcome State Fault Refusal :=
  .next (whenManaged s <| onFrame f fun s =>
    if selvUp s f.port then
      let p := getSelv s f.port
      let since := if leaseLive s f.port then p.since else s.time.elapsed
      let s1 := setSelv s f.port { p with lease := .live, start := s.time.elapsed, since := since }
      sendSelv (bumpF s1 (SELV.RENEWS_COUNT f.port)) f.port
        (.renewAck (seq % 2 ^ 32) 10000 (getF s TOP.CTL_STS_HOLDER) (getF s TOP.CTL_STS_EPOCH))
    else s)

/-- The status of a CLAIM, in the order of test of R449: 0 accepted, 3 HOLDER_LIVE, 4 LEASE_NOT_LIVE, 2 STALE_EPOCH. -/
def claimStatus (s : State) (m epoch : Nat) : Nat :=
  if getF s TOP.CTL_STS_HOLDER ≠ 0 then 3
  else if !leaseLive s m then 4
  else if epoch ≠ getF s TOP.CTL_STS_EPOCH then 2
  else 0

/-- CLAIM (R449). -/
def execClaim (f : SelvFrame) (epoch : Nat) (s : State) : Host.Outcome State Fault Refusal :=
  .next (whenManaged s <| onFrame f fun s =>
    if selvUp s f.port then
      let st := claimStatus s f.port epoch
      if st = 0 then
        let s1 := sendSelv s f.port (.claimRsp 0 ((getF s TOP.CTL_STS_EPOCH + 1) % 65536))
        install s1 f.port 0 2
      else sendSelv s f.port (.claimRsp st (getF s TOP.CTL_STS_EPOCH))
    else s)

/-- The effect of CTL_CMD.HANDOVER (R453). -/
def doHandover (s : State) : State :=
  match holder s with
  | none => s
  | some m =>
    let o := 1 - m
    if leaseLive s o then
      let s1 := setB s TOP.CTL_STS_HANDOVER_REFUSED false
      let s2 := if m = preferred s then setB s1 TOP.CTL_CFG_AUTO_RETURN false else s1
      install s2 o 3 4
    else setB s TOP.CTL_STS_HANDOVER_REFUSED true

/-- HANDOVER (R453): an accepted write of TOP.CTL_CMD.HANDOVER. -/
def execHandover (s : State) : Host.Outcome State Fault Refusal := .next (whenAlive s doHandover)

/-- The lease of port `m` expires at this check when its 10 ms are over (R447). -/
def checkLease (s : State) (m : Nat) : State :=
  if (getSelv s m).lease == .live && !leaseLive s m then endLease s m else s

/-- The holder loses control at the check that finds its lease not live (R449). -/
def checkHolder (s : State) : State :=
  match holder s with
  | some m => if leaseLive s m then s else dropHolder s m
  | none => s

/-- The preferred port takes control back (R453). -/
def autoReturn (s : State) : State :=
  let p := preferred s
  if holder s = some (1 - p) && flag s TOP.CTL_CFG_AUTO_RETURN && leaseLive s p
      && decide ((getSelv s p).since + 100000000 ≤ s.time.elapsed)
  then install s p 2 3 else s

/-- The leases of both ports have expired (Table 15-12). -/
def bothExpired (s : State) : Bool := [0, 1].all fun m => (getSelv s m).lease == .expired

/-- Both leases have expired or ended and there is no holder (R454): one critical entry for each such state. -/
def noHolderCheck (s : State) : State :=
  if (holder s).isNone && (s.ctl.hadHolder || bothExpired s) && !s.ctl.noHolderLogged && !leaseLive s 0 && !leaseLive s 1 then
    let s1 := { s with ctl := { s.ctl with noHolderLogged := true } }
    faultEntry s1 5 1 none 0x0000 0 (getF s TOP.CTL_STS_EPOCH)
  else s

/-- SELVEDGE_LEASE_CHECK (R447, R449, R453, R454), at offset 2,048 of every sixteenth frame (Table 03-6). -/
def execSelvedgeLeaseCheck (s : State) : Host.Outcome State Fault Refusal :=
  .next (whenManaged s fun s =>
    let s1 := atPeriodic s 3 65536 2048
    noHolderCheck (autoReturn (checkHolder (checkLease (checkLease s1 0) 1))))

/-- DUAL_WINDOW_CLOSE (R450), 2,000,000 ns after the holder was installed. -/
def execDualWindowClose (s : State) : Host.Outcome State Fault Refusal :=
  .next (whenManaged s fun s =>
    if flag s TOP.CTL_STS_WINDOW then setB (advanceEl s s.ctl.windowEnd) TOP.CTL_STS_WINDOW false else s)

/-- The dual-command window is open (R450). -/
def windowOpen (s : State) : Bool := flag s TOP.CTL_STS_WINDOW && decide (s.time.elapsed < s.ctl.windowEnd)

/-! Messages as they leave (R477, R478, R498). -/

/-- A message of `ws` body words with its header (Table 16-2), as bytes. -/
def selvBytes (s : State) (opcode tag epoch : Nat) (ws : List Nat) : List Nat :=
  Keccak.toBytes 4 (opcode + ws.length * 2 ^ 8 + getF s (STRAP.STRAPS_MOD_ID) % 16 * 2 ^ 16) ++ Keccak.toBytes 2 tag
    ++ Keccak.toBytes 2 epoch ++ ws.flatMap (Keccak.toBytes 4)

/-- The bytes of a message (Tables 15-1, 16-3). The spec lays out the bodies of Table 16-3 alone. (DESIGN CHOICE, log 147) -/
def msgBytes (s : State) : SelvMsg → List Nat
  | .hello vmin vmax modId serial =>
    selvBytes s 0x01 0 0 [vmin + vmax * 2 ^ 8 + modId % 16 * 2 ^ 16, serial % 2 ^ 32, serial / 2 ^ 32]
  | .renewAck seq leaseUs holder epoch => selvBytes s 0x03 0 epoch [seq, leaseUs, holder]
  | .claimRsp status epoch => selvBytes s 0x05 0 epoch [status]
  | .controlChange holder epoch cause => selvBytes s 0x06 0 epoch [holder + (cause.getD 0) * 2 ^ 8]
  | .delayReq => selvBytes s 0x11 0 0 []
  | .regRsp tag epoch status performed data => selvBytes s 0x22 tag epoch ((status + performed * 2 ^ 8) :: data)
  | .event seq page resync evt en time =>
    selvBytes s 0x30 seq 0 [page + resync.toNat * 2 ^ 16, evt, en, time % 2 ^ 32, time / 2 ^ 32]

/-- A number of `n` bytes, most significant first. -/
def be (n v : Nat) : List Nat := (Keccak.toBytes n v).reverse

/-- The frame, without its check sequence, in which a port sends a message (R498): destination, source, EtherType, and the
payload padded with zeros. (DESIGN CHOICE, log 147) -/
def sentFrame (s : State) (m : Nat) (x : SelvMsg) : List Nat :=
  let b := msgBytes s x
  be 6 (getSelv s m).peer ++ (0x02 :: be 5 (getF s FUSE.SERIAL % 2 ^ 40)) ++ be 2 0x88B5 ++ b
    ++ List.replicate (46 - b.length) 0

/-! The fault log's commands. -/

/-- The entry with the lowest SEQ (R468). Entries are made in ascending SEQ. -/
def lowestEntry (s : State) : Option FaultEntry := s.log.head?

/-- FAULT_CMD.POP (R468). -/
def doFaultPop (s : State) : State := { s with log := s.log.drop 1 }

/-- FAULT_POP (R468). -/
def execFaultPop (s : State) : Host.Outcome State Fault Refusal := .next (whenAlive s doFaultPop)

/-- FAULT_CMD.CLEAR_LOST (R473). -/
def doClearLost (s : State) : State := setB s FAULT.LOG_STS_LOST false

/-- CLEAR_LOST (R473). -/
def execClearLost (s : State) : Host.Outcome State Fault Refusal := .next (whenAlive s doClearLost)

/-- A fault-log entry as 32 bytes (Table 15-9), as a number of 256 bits. -/
def FaultEntry.encode (e : FaultEntry) : Nat :=
  e.seq % 2 ^ 32 + (e.cls % 32) * 2 ^ 32 + (if critical e.cls then 2 ^ 37 else 0) + e.rsv.toNat * 2 ^ 38
    + e.lost.toNat * 2 ^ 39 + (e.code % 256) * 2 ^ 40
    + (match e.pt with | some p => (p % 16) * 2 ^ 48 + 2 ^ 52 | none => 0)
    + (e.page % 65536) * 2 ^ 64 + (e.unit % 65536) * 2 ^ 80
    + (e.time % 2 ^ 64) * 2 ^ 128 + (e.info % 2 ^ 64) * 2 ^ 192

end Sys2Proof.Machine
end

