-- ==== Sys2Proof/Machine/Power.lean ====
section
/-!
DEFINITION. Power, droop and thermal control (chapter 14): the cap loop and its ladder, the fast limit, the core clocks,
filler windows, telemetry, the power states and energy.
-/

namespace Sys2Proof.Machine

/-- The rails up and the sensors set aside: index of a DRAM stack's sensor. -/
def dramSensor (c : Nat) : Nat := 21 + c

/-- The temperature of a sensor. -/
def temp (s : State) (i : Nat) : Nat := Store.get 0 s.pwr.temps i

/-- Throttle value of a sensor (R432): settings above their defaults act as the defaults. -/
def throttleAt (s : State) (i : Nat) : Nat :=
  if i < 21 then min (getF s PWR.THERM_CTL_DIE_THROT) 95
  else if i < 37 then min (getF s PWR.THERM_CTL_DRAM_THROT) 88
  else 115

/-- Release value of a sensor: throttle less 3 degrees (Table 14-4). -/
def releaseAt (s : State) (i : Nat) : Nat := throttleAt s i - 3

/-- Trip value of a sensor (Table 14-4). -/
def tripAt (i : Nat) : Nat := if i < 21 then 110 else if i < 37 then 100 else 125

/-- The sensors: 21 on the die, 16 stacks, 20 rails at 64 up. -/
def sensors : List Nat := upTo 37 ++ (upTo 20).map (64 + ·)

/-- The cap C in 0.1 W, 450 to 1,400 W (R424). -/
def capTenths (s : State) : Nat := 10 * min 1400 (max 450 (getF s PWR.CAP_WATTS))

/-- Levels 1 to 5 change no core: none floats, or the outputs are held (R426, R451; DEDUCED, log 11). -/
def noStageA (s : State) : Bool := !(upTo 16).any (floating s) || (holder s).isNone

/-- One step up the ladder. (DEDUCED, log 11) -/
def levelUp (skip : Bool) (l : Nat) : Nat := min 24 (if skip && decide (l < 5) then 6 else l + 1)

/-- One step down the ladder. (DEDUCED, log 11) -/
def levelDown (skip : Bool) (l : Nat) : Nat := if skip && decide (l ≤ 6) then 0 else l - 1

/-- The next cap level (R426, R428). `p` is the mean power in 0.1 W. -/
def nextLevel (s : State) (p : Nat) : Nat :=
  let l := getF s PWR.PWR_STS_LEVEL
  let c := capTenths s
  let skip := noStageA s
  let two := levelUp skip (levelUp skip l)
  if flag s PWR.PWR_STS_FAST then two
  else if 105 * c < 100 * p then two
  else if c < p then levelUp skip l
  else if p + 10 * getF s PWR.CAP_HYST < c ∧ 0 < l then levelDown skip l
  else l

/-- The next thermal level (R433). -/
def nextThermal (s : State) : Nat :=
  let l := getF s PWR.PWR_STS_THERM_LEVEL
  if sensors.any (fun i => decide (throttleAt s i ≤ temp s i)) then min 24 (l + 1)
  else if sensors.all (fun i => decide (temp s i ≤ releaseAt s i)) then l - 1
  else l

/-- Issue duty in sixteenths (R425, R428). -/
def issueDuty (s : State) : Nat :=
  let l := ladder s
  let d := if l < 6 then 16 else 21 - min l 17
  if flag s PWR.PWR_STS_FAST then min 8 d else d

/-- Write the power state; a change raises STATE_CHANGE (R442). -/
def setPwrState (s : State) (v : Nat) : State :=
  if getF s PWR.PWR_STS_STATE = v then s else raise (setF s PWR.PWR_STS_STATE v) 0x0008 4

/-- Write the frequency of a core. -/
def setFreq (s : State) (c half : Nat) : State :=
  { s with pwr := { s.pwr with freq := Store.set 2200 s.pwr.freq c half } }

/-- Write the setpoint of a stack rail in 0.1 mV. -/
def setVstk (s : State) (c v : Nat) : State :=
  { s with pwr := { s.pwr with vstk := Store.set 0 s.pwr.vstk c v } }

/-- VPIN of a core in 0.1 mV (R418). -/
def vpin (s : State) (c : Nat) : Nat := 7000 + 25 * getF s (CLK.CORE_CLK_VPIN c)

/-- VSTK of a ceiling point in 0.1 mV (Table 14-2). -/
def ceilVolts (p : Nat) : Nat :=
  match p with
  | 0 => 6600 | 1 => 7000 | 2 => 7400 | 3 => 7800 | 4 => 8200 | _ => 8500

/-- The ceiling point the ladder allows; F0 in IDLE (R425, R437). -/
def ceilNow (s : State) : Nat := if getF s PWR.PWR_STS_STATE = 2 then 0 else 5 - min 5 (ladder s)

/-- A core that shall be pinned: its partition is, or deterministic mode is in force, or nothing owns it (R66). -/
def wantPinned (s : State) (c : Nat) : Bool :=
  detOn s || (match ownerOf s c with | some p => bitF s PART.PIN_PIN p | none => true)

/-- A frequency change of the core may not start now (R423). -/
def freqBlocked (s : State) (c : Nat) : Bool :=
  flag s (CLK.CORE_CLK_STRETCH c) || flag s (CLK.CORE_CLK_DEFER c)

/-- Defer a change of the core's frequency (R423). -/
def deferChange (s : State) (c : Nat) : State :=
  raise (bumpF (setB s (CLK.CORE_CLK_DEFER c) true) PWR.DEFERRED_COUNT) 0x0008 3

/-- Bring a core's clock to what pinning and the ceiling ask (R419, R421). -/
def applyClock (s : State) (c : Nat) : State :=
  if wantPinned s c then
    if flag s (CLK.CORE_CLK_PINNED c) then s
    else setVstk (setFreq (setB s (CLK.CORE_CLK_PINNED c) true) c 2200) c (vpin s c)
  else
    let was := flag s (CLK.CORE_CLK_PINNED c)
    let s1 := setF (setB s (CLK.CORE_CLK_PINNED c) false) (CLK.CORE_CLK_CEIL c) (ceilNow s)
    let f := if was then 2200 else freqHalf s c
    setVstk (setFreq s1 c (min f (limitHalf s1 c))) c (ceilVolts (ceilNow s))

/-- The core's clock asks for a change. -/
def clockStale (s : State) (c : Nat) : Bool :=
  coreUp s c && (if wantPinned s c then !flag s (CLK.CORE_CLK_PINNED c)
    else flag s (CLK.CORE_CLK_PINNED c) || getF s (CLK.CORE_CLK_CEIL c) != ceilNow s)

/-- Reconcile a core's clock at an update, or defer it (R421, R423). -/
def updateClock (s : State) (c : Nat) : State :=
  if clockStale s c then (if freqBlocked s c then deferChange s c else applyClock s c) else s

/-- DET_MODE_TAKES_EFFECT (R65): when the mode comes into force every floating core becomes pinned (R421, R451). -/
def execDetModeTakesEffect (s : State) : Host.Outcome State Fault Refusal :=
  .next (whenAlive s fun s =>
    let s1 := doDetEffect s
    if detOn s1 && !detOn s && (holder s1).isSome then forAll (upTo 16) updateClock s1 else s1)

/-- Record THROTTLE for the period that ends where stage B, stage C or the fast limit acted (R429). -/
def recordThrottle (s : State) : State :=
  if 6 ≤ ladder s ∨ flag s PWR.PWR_STS_FAST then forAll (upTo 16) (recordDx 4) s else s

/-- The stack cores that partitions own. -/
def ownedCores (s : State) : Nat := ((upTo 16).filter (fun c => (ownerOf s c).isSome)).length

/-- Stage C (R425): R0 is the release count of the period before level 18 was first entered, and each partition may
release its share by cores of (25 - L)/8 of it. -/
def admission (old : Nat) (s : State) : State :=
  let l := ladder s
  let r0 := if old < 18 ∧ 18 ≤ l then s.pwr.released else s.pwr.rate0
  let tok := (upTo 16).foldl (fun m pt =>
    Store.set 0 m pt (if 18 ≤ l then (25 - l) * r0 * (coresOf s pt).length / (8 * max 1 (ownedCores s)) else 0))
    ([] : Store Nat)
  { s with pwr := { s.pwr with rate0 := r0, released := 0, tokens := tok } }

/-- The energy counter of EN_SEL (Table 14-10): only the fields that the kind uses choose it. -/
def enBank (kind pt port q : Nat) : Nat :=
  match kind with
  | 0 => pt * 4
  | 1 => 1 + (if q < 3 then pt * 4 else 0) + port * 64 + q * 4096
  | 2 => 2
  | _ => 3

/-- Sum of a list. -/
def total (l : List Nat) : Nat := l.foldl (· + ·) 0

/-- The energy of the DRAM commands of a stack in the period, by the fixed energies (Table 14-7). (DESIGN CHOICE, log 148) -/
def dramWork (s : State) (c : Nat) : Nat :=
  total ((upTo 5).map fun k => Store.get 0 s.pwr.work (c * 8 + k) * Config.dramEnergy k)

/-- Charged bytes of a period that an entry selects. -/
def bytesOf (m : Store Nat) (p : Nat → Bool) : Nat := total ((m.filter fun e => p e.1).map (·.2))

/-- Charged bytes launched and received by all ports in the period. (DEDUCED, log 148) -/
def fabBytes (s : State) : Nat := bytesOf s.pwr.sentBytes (fun _ => true) + bytesOf s.pwr.gotBytes fun _ => true

/-- Charged bytes launched and received for a partition in the period. (DESIGN CHOICE, log 148) -/
def ptBytes (s : State) (pt : Nat) : Nat :=
  bytesOf s.pwr.sentBytes (fun k => decide (3 ≤ k % 64) && (k % 64 - 3) % 16 == pt) + bytesOf s.pwr.gotBytes (fun k => k % 32 == pt)

/-- A port's share of the energy of VFAB (Table 14-7). -/
def portEnergy (s : State) (fab p : Nat) : Nat :=
  fab * (bytesOf s.pwr.sentBytes (· / 64 == p) + bytesOf s.pwr.gotBytes (· / 32 == p)) / max 1 (fabBytes s)

/-- The partition and QUEUE of EN_SEL of an egress queue (Table 14-10). -/
def enQueue (k : Nat) : Nat × Nat := if k < 3 then (0, 3 + k) else ((k - 3) % 16, (k - 3) / 16)

/-- The energy of an egress queue: its port's share by charged bytes launched (Table 14-7). -/
def chargeQueue (fab : Nat) (s : State) (x : Nat × Nat) : State :=
  let p := x.1 / 64
  let q := enQueue (x.1 % 64)
  wrapF s (PWR.EN (enBank 1 q.1 p q.2)) (portEnergy s fab p * x.2 / max 1 (bytesOf s.pwr.sentBytes (· / 64 == p)))

/-- Attribute the energy of a period (R440, Table 14-7), in uJ: of VSTK0 up, of VDRAM and VDDQ, of VFAB, of VAUX, and of the
input. What no partition takes is unattributed, so the counters sum to the input. (DESIGN CHOICE, log 148) -/
def chargeEnergy (cores : List Nat) (dramE fab aux input : Nat) (s : State) : State :=
  let rails := total ((upTo 16).map (cores.getD · 0)) + dramE + fab + aux
  let owned := max 1 (ownedCores s)
  let dram := max 1 (total ((upTo 16).map (dramWork s)))
  let own := fun pt => total ((coresOf s pt).map fun c =>
      cores.getD c 0 + dramE * dramWork s c / dram)
    + fab * ptBytes s pt / max 1 (fabBytes s) + aux * (coresOf s pt).length / owned
  let loss := input - rails
  let share := fun pt => own pt + loss * own pt / max 1 rails
  let sum := total ((upTo 16).map share)
  let s1 := forAll (upTo 16) (fun s pt => wrapF s (PWR.EN (enBank 0 pt 0 0)) (share pt)) s
  let s2 := forAll s.pwr.sentBytes (chargeQueue fab) s1
  let s3 := wrapF (wrapF s2 (PWR.EN (enBank 2 0 0 0)) (input - sum)) (PWR.EN (enBank 3 0 0 0)) input
  { s3 with pwr := { s3.pwr with work := [], sentBytes := [], gotBytes := [] } }

/-- Set and clear CAP_UNATTAINABLE (R427). (DESIGN CHOICE, log 38) -/
def capFlag (old new : Nat) (s : State) : State :=
  if old ≤ 5 ∧ 5 < new then
    faultEntry (raise (setB s PWR.PWR_STS_CAP_UNATTAINABLE true) 0x0008 0) 24 2 none 0x0008 20 0
  else if new ≤ 5 then setB s PWR.PWR_STS_CAP_UNATTAINABLE false else s

/-- CAP_LOOP_UPDATE (R424 to R429, R433, R440), at offset 0 of every sixteenth frame. -/
def execCapLoopUpdate (avg : Nat) (cores : List Nat) (dram fab aux input : Nat) (s : State) : Host.Outcome State Fault Refusal :=
  .next (whenManaged s fun s =>
    let s0 := recordThrottle (atPeriodic s 1 65536 0)
    let old := getF s0 PWR.PWR_STS_LEVEL
    let oldTop := ladder s0
    let lvl := nextLevel s0 avg
    let th := nextThermal s0
    let s1 := setF (setF s0 PWR.IN_POWER_AVG (min avg 65535)) PWR.IN_POWER_PEAK
      (max (getF s0 PWR.IN_POWER_PEAK) (min avg 65535))
    let s2 := if getF s0 PWR.PWR_STS_THERM_LEVEL = 0 ∧ 0 < th then raise s1 0x0008 1 else s1
    let s3 := setB (setF (setF s2 PWR.PWR_STS_LEVEL lvl) PWR.PWR_STS_THERM_LEVEL th) PWR.PWR_STS_FAST false
    let s4 := admission oldTop (capFlag old lvl s3)
    let s5 := if (holder s4).isNone then s4 else forAll (upTo 16) updateClock s4
    let s6 := if getF s5 PWR.PWR_STS_STATE ≤ 1 then setPwrState s5 (if ladder s5 = 0 then 0 else 1) else s5
    chargeEnergy cores dram fab aux input s6)

/-- The fast limit in 0.1 W: the lesser of 1,400 W and C * (1 + PCT / 100); a PCT outside 5 to 50 acts as 25 (R428). -/
def fastLimitTenths (s : State) : Nat :=
  let p := getF s PWR.FAST_CTL_PCT
  min 14000 (capTenths s * (100 + if 5 ≤ p ∧ p ≤ 50 then p else 25) / 100)

/-- FAST_LIMIT (R428): sixteen slot averages over the limit; the highest of them in 0.1 W. -/
def execFastLimit (peak : Nat) (s : State) : Host.Outcome State Fault Refusal :=
  .next (whenManaged s fun s =>
    if peak ≤ fastLimitTenths s then s else
    let s1 := setF s PWR.IN_POWER_PEAK (max (getF s PWR.IN_POWER_PEAK) (min peak 65535))
    raise (setB s1 PWR.PWR_STS_FAST true) 0x0008 6)

/-- DROOP_STRETCH (R422): open runs of the core's partition record STRETCH. -/
def execDroopStretch (core : Core) (s : State) : Host.Outcome State Fault Refusal :=
  .next (whenManaged s fun s =>
    if coreUp s core && !flag s (CLK.CORE_CLK_STRETCH core) then
      let s1 := bumpF (setB s (CLK.CORE_CLK_STRETCH core) true) (CLK.STRETCHES_COUNT core)
      match ownerOf s core with
      | some p => recordDx 5 s1 p
      | none => s1
    else s)

/-- STRETCH_END (R422, R423): a deferred change starts 2 us later. -/
def execStretchEnd (core : Core) (s : State) : Host.Outcome State Fault Refusal :=
  .next (whenManaged s fun s =>
    if flag s (CLK.CORE_CLK_STRETCH core) then
      let s1 := setB s (CLK.CORE_CLK_STRETCH core) false
      { s1 with pwr := { s1.pwr with deferAt := Store.set 0 s1.pwr.deferAt core (s1.time.elapsed + 2001) } }
    else s)

/-- Step a floating core down 12.5 MHz; no core runs below F0 (R420, R427). -/
def stepDown (s : State) (c : Nat) : State :=
  bumpF (setFreq s c (max 1600 (freqHalf s c - 25))) (CLK.TRIM_DOWN c)

/-- Step a floating core up 12.5 MHz toward its limit (R420). -/
def stepUp (s : State) (c : Nat) : State :=
  if freqHalf s c < limitHalf s c then
    bumpF (setFreq s c (min (limitHalf s c) (freqHalf s c + 25))) (CLK.TRIM_UP c)
  else s

/-- Hold a monitor step back until the deferral ends. -/
def holdStep (s : State) (c k : Nat) : State :=
  { s with pwr := { s.pwr with held := Store.set 0 s.pwr.held c k } }

/-- DEFER_END (R423): 2 us after the stretch ended the deferred change starts. -/
def execDeferEnd (core : Core) (s : State) : Host.Outcome State Fault Refusal :=
  .next (whenManaged s fun s =>
    if flag s (CLK.CORE_CLK_DEFER core) && !flag s (CLK.CORE_CLK_STRETCH core) then
      let s1 := setB (advanceEl s (Store.get 0 s.pwr.deferAt core - 1)) (CLK.CORE_CLK_DEFER core) false
      let k := Store.get 0 s1.pwr.held core
      let s2 := holdStep (if clockStale s1 core then applyClock s1 core else s1) core 0
      if floating s2 core then (if k = 1 then stepDown s2 core else if k = 2 then stepUp s2 core else s2) else s2
    else s)

/-- MONITOR_ALARM (R420). -/
def execMonitorAlarm (core : Core) (s : State) : Host.Outcome State Fault Refusal :=
  .next (whenManaged s fun s =>
    if floating s core then
      if freqBlocked s core then holdStep (deferChange s core) core 1 else stepDown s core
    else s)

/-- MONITOR_STEP_UP (R420), at the start of a frame; floating cores do not step up while the outputs are held (R451). -/
def execMonitorStepUp (core : Core) (s : State) : Host.Outcome State Fault Refusal :=
  .next (whenManaged s fun s =>
    if floating s core && (holder s).isSome then
      let s1 := toFrameStart s
      if freqBlocked s1 core then holdStep (deferChange s1 core) core 2 else stepUp s1 core
    else s)

/-- FILLER_WINDOW (R430, R431): the floor of the next window is max(FLOOR, A - 1) sixteenths. -/
def execFillerWindow (core : Core) (issued : Nat) (s : State) : Host.Outcome State Fault Refusal :=
  .next (whenAlive s fun s =>
    if coreUp s core && (ownerOf s core).isSome then
      let on := flag s PWR.FILL_CTL_EN || detOn s
      let fl := if on then max (getF s PWR.FILL_CTL_FLOOR) (min issued 16 - 1) else 0
      { s with pwr := { s.pwr with filler := Store.set 0 s.pwr.filler core (min issued 16),
                                   floor := Store.set 0 s.pwr.floor core fl } }
    else s)

/-- The highest of a list. -/
def maxOf (l : List Nat) : Nat := l.foldl max 0

/-- Phases required and in service of a rail (Table 14-1). -/
def phasesReq (rail : Nat) : Nat :=
  if rail < 16 then 2 else match rail with | 16 => 6 | 17 => 4 | 18 => 10 | _ => 4

/-- Phases of a rail that are lost. (DEDUCED, log 98) -/
def phasesLost (s : State) (rail : Nat) : Nat := (s.pwr.lost.filter (·.1 == rail)).length

/-- The setpoint of a rail in mV (Table 14-1, R419). -/
def setpoint (s : State) (rail : Nat) : Nat :=
  if rail < 16 then Store.get 0 s.pwr.vstk rail / 10
  else match rail with | 16 => 1100 | 17 => 400 | 18 => 800 | _ => 850

/-- Take the sample of one rail: (rail, mV, 0.1 A, hottest phase) (R417). -/
def sampleRail (s : State) (x : Nat × Nat × Nat × Nat) : State :=
  let (r, mv, amps, t) := x
  let sp := setpoint s r
  let s1 := setF (setF (setF s (PWR.RAIL_TEL_MV r) mv) (PWR.RAIL_TEL_AMPS r) amps) (PWR.RAIL_STS_TEMP r) t
  let s2 := setF (setF s1 (PWR.RAIL_STS_PHASES_REQ r) (phasesReq r)) (PWR.RAIL_STS_PHASES_OK r)
    (phasesReq r + 2 - phasesLost s r)
  let s3 := setB s2 (PWR.RAIL_STS_OUT_OF_REG r) (decide (10 * mv < 9 * sp ∨ 11 * sp < 10 * mv))
  { s3 with pwr := { s3.pwr with temps := Store.set 0 s3.pwr.temps (64 + r) t } }

/-- TELEMETRY_SAMPLE (R417, R432, R299), at offset 2,048 of every 256th frame: rail samples, stack and die temperatures,
supply (mV, 10 mA), and the root ports whose drives report a fatal status. -/
def execTelemetrySample (rails : List (Nat × Nat × Nat)) (dram die : List Nat) (supply : Nat × Nat)
    (drives : List Root) (s : State) : Host.Outcome State Fault Refusal :=
  .next (whenManaged s fun s =>
    let s0 := atPeriodic s 4 1048576 2048
    let s1 := forAll ((upTo 20).filterMap fun r => rails[r]?.map fun x => (r, x)) sampleRail s0
    let tm := (upTo 16).foldl (fun m i => Store.set 0 m (21 + i) (dram.getD i 0)) s1.pwr.temps
    let tm2 := (upTo 21).foldl (fun m i => Store.set 0 m i (die.getD i 0)) tm
    let s2 := { s1 with pwr := { s1.pwr with temps := tm2 } }
    let s3 := setF (setF s2 PWR.THERM_STS_DIE_NOW (maxOf die)) PWR.THERM_STS_DRAM_NOW (maxOf dram)
    let s4 := setF (setF s3 PWR.THERM_STS_DIE_PEAK (max (getF s3 PWR.THERM_STS_DIE_PEAK) (maxOf die % 256)))
      PWR.THERM_STS_DRAM_PEAK (max (getF s3 PWR.THERM_STS_DRAM_PEAK) (maxOf dram % 256))
    let s4 := setF (setF s4 (PWR.RAIL_TEL_MV 20) supply.1) (PWR.RAIL_TEL_AMPS 20) (supply.2 / 10)
    let s5 := setF (setF s4 PWR.IN_SUPPLY_MV supply.1) PWR.IN_SUPPLY_CURRENT supply.2
    let s6 := forAll (coresUp s5) (fun s c => setF (setF s (HPHY.TEMP_NOW c) (dram.getD c 0)) (HPHY.TEMP_MAX c)
      (max (getF s (HPHY.TEMP_MAX c)) (dram.getD c 0 % 256))) s5
    forAll drives (fun s r => if latched s then s else driveFails s r 6) s6)

/-- One more phase of a rail is gone (R30). -/
def phaseGone (s : State) (rail phase req : Nat) : State :=
  let s1 := { s with pwr := { s.pwr with lost := s.pwr.lost ++ [(rail, phase)] } }
  let left := req + 2 - phasesLost s1 rail
  let s2 := setF s1 (PWR.RAIL_STS_PHASES_OK rail) left
  let s3 := raise (faultEntry s2 24 1 none 0x0008 rail phase) 0x0008 2
  if req ≤ left then s3
  else if rail < 16 then declareLost (setB s3 (PWR.RAIL_STS_SHUT rail) true) rail 1
  else latch (faultEntry s3 2 1 none 0x0008 0x0008 rail) 1 2

/-- PHASE_LOST (R30): up to two lost phases are reported; one more shuts a stack rail down and loses its core, or is a
chip-domain fault. -/
def execPhaseLost (rail : Fin 20) (phase : Nat) (s : State) : Host.Outcome State Fault Refusal :=
  .next (whenManaged s fun s =>
    if (s.pwr.lost.contains (rail.val, phase)) || decide (phasesReq rail + 2 ≤ phase) then s
    else phaseGone s rail phase (phasesReq rail))

/-- RAIL_OUT_OF_REGULATION (R19): the core is lost with code 1. -/
def execRailOutOfRegulation (core : Core) (s : State) : Host.Outcome State Fault Refusal :=
  .next (whenManaged s fun s => declareLost (setB s (PWR.RAIL_STS_OUT_OF_REG core) true) core 1)

/-- Shut rails down, or restore them. -/
def setRails (s : State) (rails : List Nat) (shut : Bool) : State :=
  forAll rails (fun s r => setB s (PWR.RAIL_STS_SHUT r) shut) s

/-- Shut rails down (R434): all but VAUX. -/
def shutRails (s : State) : State := setRails s (upTo 19) true

/-- The rails that are off in HIBERNATE: VSTK and VFAB (Table 14-5). -/
def sleepRails : List Nat := upTo 16 ++ [18]

/-- THERMAL_TRIP (R434, R469): every rail but VAUX shuts down, DRAM contents are lost, the module latches. -/
def execThermalTrip (sensor : Nat) (s : State) : Host.Outcome State Fault Refusal :=
  .next (whenManaged s fun s =>
    let s1 := { s with pwr := { s.pwr with temps := Store.set 0 s.pwr.temps sensor (tripAt sensor), dramOff := true } }
    let s2 := { shutRails s1 with mem := [] }
    latch (faultEntry s2 2 2 none 0x0008 0x0008 sensor) 2 2)

/-- CHIP_FATAL (R31, R469). -/
def execChipFatal (page detail : Nat) (s : State) : Host.Outcome State Fault Refusal :=
  .next (whenManaged s fun s => latch (faultEntry s 2 1 none page page detail) 1 2)

/-- INPUT_LOW (R436). -/
def execInputLow (s : State) : Host.Outcome State Fault Refusal :=
  .next (whenManaged s fun s => raise { s with input := { s.input with low := true } } 0x0008 5)

/-- INPUT_LOW_CLEAR (R436). -/
def execInputLowClear (s : State) : Host.Outcome State Fault Refusal :=
  .next (whenManaged s fun s => { s with input := { s.input with low := false } })

/-- Enter OFF (R436 to R438): every rail down, keys and contents lost; the standby controller alone runs.
(DESIGN CHOICE, log 14) -/
def enterOff (s : State) : State :=
  let s1 := setF (forAll [0, 1] selvDown s) PWR.PWR_STS_STATE 4
  { s1 with input := { s1.input with vaux := false, low := false, refclk := false, perst := 0 }, mem := [],
            sec := { s1.sec with ck := [], tk := [], imageKey := [], linkKey := [], linkNext := [], kt := 0,
                                 dik := 0, ak := 0, bootNonce := 0, releases := [] } }

/-- INPUT_SHUTDOWN (R436): the power stage shuts down every rail and the module enters OFF. -/
def execInputShutdown (s : State) : Host.Outcome State Fault Refusal :=
  .next { enterOff s with input := { (enterOff s).input with good := false } }

/-- Every partition is FREE or QUIESCED (R438, R456). -/
def allQuiet (s : State) : Bool := (upTo 16).all fun pt => ptState s pt == 0 || ptState s pt == 4

/-- The result of a PWR_CMD. -/
def pwrResult (s : State) (r : Nat) : State := setF s PWR.PWR_STS_RESULT r

/-- PWR_CMD with TARGET IDLE (R438). -/
def doPwrIdle (s : State) : State :=
  if getF s PWR.PWR_STS_STATE ≤ 1 ∧ allQuiet s then
    forAll (upTo 16) updateClock (setPwrState (pwrResult s 0) 2)
  else pwrResult s 1

/-- Leave IDLE for RUN, or CAP where the ladder's level is above 0 (R437, R438). -/
def leaveIdle (s : State) : State :=
  forAll (upTo 16) updateClock (setPwrState s (if ladder s = 0 then 0 else 1))

/-- PWR_CMD with TARGET RUN (R438): out of IDLE; out of HIBERNATE into IDLE, with the rails restored, save those short of
phases (R30), one PHY calibration per stack and the ports trained cold. -/
def doPwrRun (s : State) : State :=
  match getF s PWR.PWR_STS_STATE with
  | 2 => leaveIdle (pwrResult s 0)
  | 3 =>
    let s0 := setRails (pwrResult s 0) (sleepRails.filter fun r => decide (phasesLost s r ≤ 2)) false
    let s1 := { s0 with pwr := { s0.pwr with selfRef := false } }
    setPwrState (trainEnabled (forAll (coresUp s1) calibrate s1)) 2
  | _ => pwrResult s 1

/-- A PID is LIVE. -/
def anyLive (s : State) : Bool := (upTo 4096).any (pidLive s)

/-- OPEN key slots become LOCKED and their image keys are discarded (R399, R411). -/
def lockOpenSlots (s : State) : State :=
  let lock := fun (s : State) (k : Nat) =>
    if getF s (KEY.KSLOT_CTL_STATE k) = 3 then
      let s1 := setF { s with sec := { s.sec with imageKey := Store.del s.sec.imageKey k } } (KEY.KSLOT_CTL_STATE k) 2
      bumpConfigGen s1 (getF s (KEY.KSLOT_CTL_PT k))
    else s
  forAll (upTo 16) lock s

/-- PWR_CMD with TARGET HIBERNATE (R437, R438, R411): the link keys are discarded with the ports. -/
def doPwrHibernate (s : State) : State :=
  if getF s PWR.PWR_STS_STATE ≠ 2 then pwrResult s 1
  else if anyLive s then pwrResult s 2
  else if anyRun s then pwrResult s 3
  else
    let s1 := setPwrState (setRails (portsOff (lockOpenSlots (pwrResult s 0))) sleepRails true) 3
    { s1 with pwr := { s1.pwr with selfRef := true }, sec := { s1.sec with linkKey := [], linkNext := [] } }

/-- PWR_CMD with TARGET OFF (R438). -/
def doPwrOff (s : State) : State :=
  let st := getF s PWR.PWR_STS_STATE
  if st = 2 ∨ st = 3 then enterOff (pwrResult s 0) else pwrResult s 1

/-- RESUME of the partition that PT_SEL names (R395): the module leaves IDLE first (R438). -/
def doResumeCmd (s : State) : State :=
  let go := noteState (selPt s) (doResume · (selPt s))
  let s1 := go s
  if getF s1 (PART.PT_STS_QRESULT (selPt s)) = 0 && getF s PWR.PWR_STS_STATE = 2 then go (leaveIdle s) else s1
/-- RESUME. -/
def execResume (s : State) : Host.Outcome State Fault Refusal := .next (whenAlive s doResumeCmd)

/-- PWR_RUN (R438). -/
def execPwrRun (s : State) : Host.Outcome State Fault Refusal := .next (whenAlive s doPwrRun)
/-- PWR_IDLE (R438). -/
def execPwrIdle (s : State) : Host.Outcome State Fault Refusal := .next (whenAlive s doPwrIdle)
/-- PWR_HIBERNATE (R438). -/
def execPwrHibernate (s : State) : Host.Outcome State Fault Refusal := .next (whenAlive s doPwrHibernate)
/-- PWR_OFF (R438). -/
def execPwrOff (s : State) : Host.Outcome State Fault Refusal := .next (whenAlive s doPwrOff)

/-- Every field of one register address returns to its reset value. -/
def clearAddr (s : State) (addr : Nat) : State :=
  { s with regs := Store.drop (fun k => k / 32 % 0x10000000 == addr) s.regs }

/-- EN_CMD.CLEAR (R440). -/
def doEnClear (s : State) : State := clearAddr s 0x8094

/-- EN_CLEAR (R440). -/
def execEnClear (s : State) : Host.Outcome State Fault Refusal := .next (whenAlive s doEnClear)

end Sys2Proof.Machine
end

