-- ==== Sys2Proof/Machine/Attest.lean ====
section
/-!
DEFINITION. Evidence and image keys: quotes, key release, key slots and image slots (R396 to R403).
-/

namespace Sys2Proof.Machine

/-! Key slots and image slots. -/

/-- State of a key slot: 0 EMPTY, 1 LOADING, 2 LOCKED, 3 OPEN (Table 13-6). -/
def slotState (s : State) (k : Nat) : Nat := getF s (KEY.KSLOT_CTL_STATE k)

/-- Partition of a key slot. -/
def slotPt (s : State) (k : Nat) : Nat := getF s (KEY.KSLOT_CTL_PT k)

/-- Base and end of a key slot's sealed range, in GiB of tier address. -/
def slotRange (s : State) (k : Nat) : Nat × Nat :=
  (getF s (KEY.KSLOT_BASE_GIB k), getF s (KEY.KSLOT_BASE_GIB k) + getF s (KEY.KSLOT_LEN_GIB k))

/-- A key slot that is in use: not EMPTY, or evicting toward LOADING. -/
def slotUsed (s : State) (k : Nat) : Bool := slotState s k != 0 || Store.get 0 s.sec.slotNext k != 0

/-- The key slots of a partition, in ascending order. -/
def slotsOf (s : State) (pt : Nat) : List Nat := (upTo 16).filter (fun k => slotUsed s k && slotPt s k == pt)

/-- Two ranges given by base and end overlap. -/
def rangesMeet (a b : Nat × Nat) : Bool := decide (a.1 < b.2 ∧ b.1 < a.2)

/-- The result of LOAD, LOCK or CLEAR on a key slot (R399); where several apply, the lowest code (DEDUCED, log 13). `from`: the
state the command asks for. -/
def slotResult (s : State) (k from_ : Nat) : Nat :=
  let pt := slotPt s k
  let r := slotRange s k
  if (coresOf s pt).isEmpty then 1
  else if bitF s PART.DRUN_OPEN_OPEN pt then 2
  else if slotState s k ≠ from_ ∨ Store.get 0 s.sec.slotNext k ≠ 0 then 3
  else if from_ = 0 then
    if r.2 ≤ r.1 ∨ 32768 < r.2 - r.1 ∨ !tierRangeOk s pt (r.1 * 2 ^ 30) (r.2 * 2 ^ 30) then 4
    else if (upTo 16).any (fun j => j != k && slotUsed s j && rangesMeet r (slotRange s j)) then 5
    else if 4 ≤ (slotsOf s pt).length then 6
    else 0
  else 0

/-- Report the result of a key-slot command. -/
def setSlotResult (s : State) (k r : Nat) : State := setF s (KEY.KSLOT_RES_RESULT k) r

/-- Start evicting the slot's range toward state `goal`. -/
def startSlot (s : State) (k goal : Nat) : State :=
  let r := slotRange s k
  let s1 := { s with sec := { s.sec with slotNext := Store.set 0 s.sec.slotNext k (goal + 1) } }
  evictRange s1 (slotPt s k) (r.1 * 2 ^ 30) (r.2 * 2 ^ 30)

/-- The slot that KSLOT_SEL shows. -/
def slotSel (s : State) : Nat := getF s KEY.KSLOT_SEL_SLOT

/-- KSLOT_CTL.LOAD (R399). -/
def doSlotLoad (s : State) : State :=
  let k := slotSel s
  let r := slotResult s k 0
  let s1 := setSlotResult s k r
  if r = 0 then startSlot s1 k 1 else s1

/-- KSLOT_CTL.LOCK (R399). -/
def doSlotLock (s : State) : State :=
  let k := slotSel s
  let r := slotResult s k 1
  let s1 := setSlotResult s k r
  if r = 0 then startSlot s1 k 2 else s1

/-- Discard a slot's image key. -/
def dropImageKey (s : State) (k : Nat) : State :=
  { s with sec := { s.sec with imageKey := Store.del s.sec.imageKey k } }

/-- KSLOT_CTL.CLEAR (R399): refused in a run and while the slot evicts. -/
def doSlotClear (s : State) : State :=
  let k := slotSel s
  let pt := slotPt s k
  if bitF s PART.DRUN_OPEN_OPEN pt then setSlotResult s k 2
  else if Store.get 0 s.sec.slotNext k ≠ 0 then setSlotResult s k 3
  else
    let s1 := dropImageKey (setF (setSlotResult s k 0) (KEY.KSLOT_CTL_STATE k) 0) k
    if slotState s k = 0 then s1 else bumpConfigGen s1 pt

/-- KSLOT_LOAD (R399). -/
def execKslotLoad (s : State) : Host.Outcome State Fault Refusal := .next (whenAlive s doSlotLoad)
/-- KSLOT_LOCK (R399). -/
def execKslotLock (s : State) : Host.Outcome State Fault Refusal := .next (whenAlive s doSlotLock)
/-- KSLOT_CLEAR (R399). -/
def execKslotClear (s : State) : Host.Outcome State Fault Refusal := .next (whenAlive s doSlotClear)

/-- KSLOT_EVICTED (R399): once every block of the range is gone from the cache, the slot takes its new state. -/
def execKslotEvicted (slot : Fin 16) (s : State) : Host.Outcome State Fault Refusal :=
  .next (whenAlive s fun s =>
    match Store.get 0 s.sec.slotNext slot with
    | 0 => s
    | t + 1 =>
      let r := slotRange s slot
      if rangeEvicted s (slotPt s slot) (r.1 * 2 ^ 30) (r.2 * 2 ^ 30) then
        let s1 := { s with sec := { s.sec with slotNext := Store.del s.sec.slotNext slot } }
        bumpConfigGen (setF s1 (KEY.KSLOT_CTL_STATE slot) t) (slotPt s slot)
      else s)

/-! Quotes (R397, R398). -/

/-- `n` zero bytes. -/
def zeros (n : Nat) : List Nat := List.replicate n 0

/-- An image record of a quote (Table 13-5), 96 bytes. -/
def imageRecord (s : State) (k : Nat) : List Nat :=
  le 1 k ++ le 1 (getF s (ATT.IMG_CTL_STATE k)) ++ zeros 6 ++ le 8 (getF s (ATT.IMG_PVA k) * 65536)
    ++ le 8 (getF s (ATT.IMG_LEN_UNITS k) * 65536) ++ zeros 8 ++ le 64 (getF s (ATT.IMG_MEAS k))

/-- KEYCHECK of a key slot (R397). -/
def keycheck (s : State) (k : Nat) : Nat :=
  match Store.get 0 s.sec.imageKey k with
  | 0 => 0
  | key + 1 => if slotState s k = 3 then kdf (le 64 key) "VPF KEYCHECK" [] 8 else 0

/-- A key-slot record of a quote (Table 13-5), 32 bytes. -/
def slotRecord (s : State) (k : Nat) : List Nat :=
  le 1 k ++ le 1 (slotState s k) ++ zeros 2 ++ le 4 (getF s (KEY.KSLOT_LEN_GIB k))
    ++ le 8 (getF s (KEY.KSLOT_BASE_GIB k) * 2 ^ 30) ++ le 8 (keycheck s k) ++ zeros 8

/-- Join records and fill with zeros to `n` bytes. -/
def padTo (n : Nat) (l : List Nat) : List Nat := (l ++ zeros (n - l.length)).take n

/-- The image slots of a partition that are in use. -/
def imagesOf (s : State) (pt : Nat) : List Nat :=
  (upTo 16).filter (fun k => getF s (ATT.IMG_CTL_STATE k) != 0 && getF s (ATT.IMG_CTL_PT k) == pt)

/-- A mask of the numbers of a list. -/
def maskOf (l : List Nat) : Nat := l.foldl (fun v i => v ||| 2 ^ i) 0

/-- The PART_INFO register. -/
def partInfo (s : State) : Nat :=
  getF s FUSE.PART_INFO_PART + getF s FUSE.PART_INFO_PROFILE * 16 + getF s FUSE.PART_INFO_STACKS * 32
    + getF s FUSE.PART_INFO_STEPPING * 65536

/-- The quote body of a partition with encapsulation key `ek` (Table 13-5): 2,464 bytes. -/
def quoteBody (s : State) (pt ek : Nat) : List Nat :=
  le 2 1 ++ le 1 pt
  ++ le 1 ((flag s SEC.FW_STS_STAGED).toNat + 2 * (!(coresOf s pt).isEmpty).toNat + 4 * (flag s SEC.DEBUG_EVER).toNat)
  ++ le 4 (partInfo s) ++ le 1 (lifecycle s) ++ le 1 (getF s SEC.DEBUG_LEVEL) ++ le 1 (ptState s pt)
  ++ le 1 (bitF s PART.DRUN_OPEN_OPEN pt).toNat ++ le 2 (getF s (PART.DX_CAUSE_CAUSE pt)) ++ zeros 2
  ++ le 8 (getF s FUSE.SERIAL) ++ le 8 s.time.ft ++ le 8 (getF s (ATT.GEN pt)) ++ le 4 (detModeReg s)
  ++ le 4 (getF s (PART.DX_COUNT_COUNT pt)) ++ le 2 (maskOf (coresOf s pt)) ++ le 2 (maskOf (primariesOf s pt))
  ++ le 2 (maskOf (drivesOf s pt)) ++ le 2 (pxcWays s pt)
  ++ le 4 (getF s (PART.LEASE_CFG_LEN_US pt) + getF s (PART.LEASE_CFG_REVERT pt) * 65536)
  ++ le 4 (getF s SEC.FW_STS_RUN_SVN) ++ le 64 (getF s ATT.NONCE) ++ le 64 (getF s SEC.FW_RUN)
  ++ le 64 (getF s SEC.FW_STG) ++ le 64 (getF s GING.DIGEST) ++ le 64 (tableDigest s pt)
  ++ padTo 384 ((imagesOf s pt).flatMap (imageRecord s))
  ++ padTo 128 ((slotsOf s pt).flatMap (slotRecord s))
  ++ le 1568 ek

/-- A buffer request that cannot be served (R397): NO_IDENTITY or TRNG_FAIL. -/
def quoteRefused (s : State) (r : Nat) : State := setF s ATT.QUOTE_STS_RESULT r

/-- The buffer will hold `bytes` at QUOTE_DONE. -/
def quoteStart (s : State) (bytes : List Nat) : State :=
  { setF (setB s ATT.QUOTE_STS_BUSY true) ATT.QUOTE_STS_RESULT 0 with sec := { s.sec with qnext := bytes } }

/-- QUOTE_CMD with KIND 0 (R397, R398): the body is frozen and signed, and the partition's release pair replaced. -/
def doQuote (s : State) (pt : Nat) : State :=
  if flag s ATT.QUOTE_STS_BUSY then s
  else if s.sec.ak = 0 then quoteRefused s 1
  else if trngFailed s then quoteRefused s 2
  else
    let (seed, s1) := draw s 512
    let body := quoteBody s1 pt (Config.mlkemPublic seed)
    let sig := Config.mldsaSign (s1.sec.ak - 1) (Keccak.ofBytes body)
    let kept : Release := ⟨seed, sha3 body, getF s1 (ATT.GEN pt), frameOf s1⟩
    quoteStart { s1 with sec := { s1.sec with releases := Store.set none s1.sec.releases pt (some kept) } }
      (body ++ le 4627 sig)

/-- QUOTE (R397). -/
def execQuote (pt : Ptn) (s : State) : Host.Outcome State Fault Refusal := .next (whenAlive s (doQuote · pt))

/-- The AK certificate (R393). -/
def akCertificate (s : State) : List Nat :=
  let body := le 2592 (Config.mldsaPublic (s.sec.ak - 1)) ++ le 64 (getF s SEC.FW_RUN) ++ le 8 (getF s FUSE.SERIAL)
    ++ le 4 (getF s SEC.FW_STS_RUN_SVN) ++ zeros 4
  body ++ le 4627 (Config.mldsaSign (s.sec.dik - 1) (Keccak.ofBytes body))

/-- QUOTE_CMD with KIND 1 (R397). -/
def doAkCertificate (s : State) : State :=
  if flag s ATT.QUOTE_STS_BUSY then s
  else if s.sec.ak = 0 then quoteRefused s 1
  else quoteStart s (akCertificate s)

/-- AK_CERTIFICATE (R397). -/
def execAkCertificate (s : State) : Host.Outcome State Fault Refusal := .next (whenAlive s doAkCertificate)

/-- QUOTE_CMD with KIND 2 (R397). -/
def doDikPublicKey (s : State) : State :=
  if flag s ATT.QUOTE_STS_BUSY then s
  else if s.sec.dik = 0 then quoteRefused s 1
  else quoteStart s (le 2592 (Config.mldsaPublic (s.sec.dik - 1)))

/-- DIK_PUBLIC_KEY (R397). -/
def execDikPublicKey (s : State) : Host.Outcome State Fault Refusal := .next (whenAlive s doDikPublicKey)

/-- QUOTE_DONE (R397): the buffer is filled. -/
def execQuoteDone (s : State) : Host.Outcome State Fault Refusal :=
  .next (whenManaged s fun s =>
    if flag s ATT.QUOTE_STS_BUSY then
      let s1 := setF (setB s ATT.QUOTE_STS_BUSY false) ATT.QUOTE_STS_LENGTH s.sec.qnext.length
      raise { s1 with sec := { s1.sec with qbuf := s.sec.qnext, qnext := [] } } 0x0021 0
    else s)

/-- Four bytes of the quote buffer at OFFSET; bytes past its length read 0. -/
def qbufWord (s : State) : Nat :=
  let o := getF s ATT.QBUF_ADDR_OFFSET / 4 * 4
  (upTo 4).foldl (fun v k => v + s.sec.qbuf.getD (o + k) 0 * 256 ^ k) 0

/-- The holder's read of QBUF_DATA advances OFFSET where AUTOINC is 1 (R397, R481). -/
def readQbuf (s : State) : State :=
  if flag s ATT.QBUF_ADDR_AUTOINC then wrapF s ATT.QBUF_ADDR_OFFSET 4 else s

/-- QBUF_DATA (R397): a read by the holder. -/
def execQbufData (s : State) : Host.Outcome State Fault Refusal := .next (whenManaged s readQbuf)

/-- Discard the kept release pair of a partition (R398). -/
def dropRelease (s : State) (pt : Nat) : State :=
  { s with sec := { s.sec with releases := Store.set none s.sec.releases pt none } }

/-- RELEASE_PAIR_EXPIRY (R398), 2^24 frames after the quote. -/
def execReleasePairExpiry (pt : Ptn) (s : State) : Host.Outcome State Fault Refusal :=
  .next (whenManaged s fun s =>
    match Store.get none s.sec.releases pt with
    | some r => dropRelease (advanceFt s ((r.frame + 2 ^ 24) * 4096)) pt
    | none => s)

/-! Key release (R400, R401). -/

/-- A write of REL_DATA: four bytes of the record at OFFSET. -/
def doRelData (s : State) (v : Nat) : State :=
  let o := getF s KEY.REL_ADDR_OFFSET / 4 * 4
  let m := (upTo 4).foldl (fun m k => Store.set 0 m (o + k) (v / 256 ^ k % 256)) s.sec.record
  let s1 := { s with sec := { s.sec with record := m } }
  if flag s KEY.REL_ADDR_AUTOINC then wrapF s1 KEY.REL_ADDR_OFFSET 4 else s1

/-- REL_DATA (R400). -/
def execRelData (v : Nat) (s : State) : Host.Outcome State Fault Refusal := .next (whenAlive s (doRelData · v))

/-- `n` bytes of the release record from `o`, as a number. -/
def recordField (s : State) (o n : Nat) : Nat :=
  (upTo n).foldl (fun v i => v + Store.get 0 s.sec.record (o + i) * 256 ^ i) 0

/-- The image key that the record unwraps to under a kept pair (R400). -/
def unwrapKey (s : State) (r : Release) : Option Nat :=
  let ss := Config.mlkemDecapsulate r.seed (recordField s 0x010 1568)
  let key := kdf (le 32 ss) "VPF RELEASE" (le 64 r.hash) 32
  Config.gcmOpen key (recordField s 0x630 12) (recordField s 0 16 + r.hash * 256 ^ 16) (recordField s 0x640 80)

/-- The result of a release, in the order of Table 13-17, and the key it installs. -/
def releaseResult (s : State) : Nat × Nat :=
  let pt := recordField s 8 1 % 16
  let k := recordField s 9 1
  match Store.get none s.sec.releases pt with
  | none => (1, 0)
  | some r =>
    if recordField s 8 1 ≥ 16 then (1, 0)
    else if recordField s 0 8 ≠ r.gen ∨ recordField s 0 8 ≠ getF s (ATT.GEN pt) then (2, 0)
    else if 16 ≤ k ∨ slotPt s k ≠ pt ∨ slotState s k ≠ 2 ∨ Store.get 0 s.sec.slotNext k ≠ 0 then (3, 0)
    else match unwrapKey s r with
      | none => (4, 0)
      | some key =>
        if ptState s pt = 0 ∨ ptState s pt = 5 ∨ lifecycle s ≠ 1 ∨ 2 ≤ getF s SEC.DEBUG_LEVEL then (5, 0)
        else if flag s SEC.FW_STS_STAGED then (6, 0)
        else (0, key)

/-- REL_CMD.GO (R401): the release starts. -/
def doKeyRelease (s : State) : State :=
  if flag s KEY.REL_STS_BUSY then s
  else { setB s KEY.REL_STS_BUSY true with sec := { s.sec with relNext := 1 } }

/-- KEY_RELEASE (R401). -/
def execKeyRelease (s : State) : Host.Outcome State Fault Refusal := .next (whenAlive s doKeyRelease)

/-- REL_DONE (R401, R398): the slot is OPEN, or the first failing result is reported. While the module has no holder
or is latched no key is released (R33, R469). -/
def execRelDone (s : State) : Host.Outcome State Fault Refusal :=
  .next (whenManaged s fun s =>
    if s.sec.relNext = 0 then s
    else
      let (r0, key) := releaseResult s
      let r := if r0 = 0 ∧ ((holder s).isNone ∨ latched s) then 5 else r0
      let s1 := setF (setB { s with sec := { s.sec with relNext := 0 } } KEY.REL_STS_BUSY false) KEY.REL_STS_RESULT r
      let pt := recordField s 8 1 % 16
      let k := recordField s 9 1
      let s2 := if r = 0 then
          let s3 := setF (dropRelease s1 pt) (KEY.KSLOT_CTL_STATE k) 3
          bumpConfigGen { s3 with sec := { s3.sec with imageKey := Store.set 0 s3.sec.imageKey k (key + 1) } } pt
        else s1
      raise s2 0x0022 1)

/-! Image slots (R402, R403). -/

/-- The image slot that IMG_SEL shows. -/
def imgSel (s : State) : Nat := getF s ATT.IMG_SEL_SLOT

/-- The region of an image slot: base and end in the partition's PVA space. -/
def imgRange (s : State) (k : Nat) : Nat × Nat :=
  (getF s (ATT.IMG_PVA k) * 65536, (getF s (ATT.IMG_PVA k) + getF s (ATT.IMG_LEN_UNITS k)) * 65536)

/-- The region is mapped throughout by DRAM leaves with R = 1 (R402). -/
def imageMapped (s : State) (pt lo hi : Nat) : Bool :=
  (upTo ((hi - lo) / 65536)).all fun i => match leafOf s pt (lo + i * 65536) with
    | some (_, _, e) => eR e && !e.testBit 47
    | none => false

/-- Recall every line of a range of PVAs, as R96 recalls them, for an image slot. -/
def recallRange (s : State) (pt slot lo hi : Nat) : State :=
  let (fs, ts) := namedFrames s pt lo hi
  recallLines s (64 + slot) (frameLines s pt fs ts)

/-- The result of BIND of an image slot; where several apply, the lowest code (DEDUCED, log 13). -/
def bindResult (s : State) (k : Nat) : Nat :=
  let pt := getF s (ATT.IMG_CTL_PT k)
  let r := imgRange s k
  let n := getF s (ATT.IMG_LEN_UNITS k)
  if (coresOf s pt).isEmpty then 1
  else if bitF s PART.DRUN_OPEN_OPEN pt then 2
  else if getF s (ATT.IMG_CTL_STATE k) ≠ 0 ∨ (upTo 16).any (fun j => getF s (ATT.IMG_CTL_STATE j) == 1) then 3
  else if n ≠ 0 ∧ n ≤ 1048576 ∧ !imageMapped s pt r.1 r.2 then 4
  else if 4 ≤ (imagesOf s pt).length then 6
  else if n = 0 ∨ 1048576 < n ∨ 2 ^ 57 < r.2 then 7
  else if (imagesOf s pt).any (fun j => rangesMeet r (imgRange s j)) then 8
  else 0

/-- IMG_CTL.BIND (R402): write-lock, recall and measure. -/
def doImgBind (s : State) : State :=
  let k := imgSel s
  let pt := getF s (ATT.IMG_CTL_PT k)
  let r := bindResult s k
  let s1 := setF (setF s (ATT.IMG_RES_RESULT k) r) (ATT.IMG_RES_STATUS k) 0
  if r = 0 then
    let s2 := bumpConfigGen (setF s1 (ATT.IMG_CTL_STATE k) 1) pt
    let s3 := recallRange s2 pt k (imgRange s k).1 (imgRange s k).2
    placeImages { s3 with sec := { s3.sec with imgWait := s3.sec.imgWait ++ [k] } }
  else s1

/-- IMG_BIND (R402). -/
def execImgBind (s : State) : Host.Outcome State Fault Refusal := .next (whenAlive s doImgBind)

/-- IMG_DONE (R402): the measurement has ended with the status and ROOT that the HASH descriptor left. -/
def execImgDone (slot : Fin 16) (s : State) : Host.Outcome State Fault Refusal :=
  .next (whenAlive s fun s =>
    match Store.get 0 s.sec.imgStatus slot with
    | 0 => s
    | st + 1 =>
      let pt := getF s (ATT.IMG_CTL_PT slot)
      let s1 := { s with sec := { s.sec with imgStatus := Store.del s.sec.imgStatus slot } }
      let s2 :=
        if st ≠ 0 then setF (setF (setF s1 (ATT.IMG_CTL_STATE slot) 0) (ATT.IMG_RES_RESULT slot) 9)
          (ATT.IMG_RES_STATUS slot) st
        else if getF s (ATT.IMG_MEAS slot) = getF s (ATT.IMG_EXP slot) then setF s1 (ATT.IMG_CTL_STATE slot) 2
        else setF (setF s1 (ATT.IMG_CTL_STATE slot) 3) (ATT.IMG_RES_RESULT slot) 5
      raise (bumpConfigGen s2 pt) 0x0021 1)

/-- IMG_CTL.UNBIND (R402): refused while the partition has an open run, and from FREE or MEASURING. -/
def doImgUnbind (s : State) : State :=
  let k := imgSel s
  let pt := getF s (ATT.IMG_CTL_PT k)
  let st := getF s (ATT.IMG_CTL_STATE k)
  if bitF s PART.DRUN_OPEN_OPEN pt then setF s (ATT.IMG_RES_RESULT k) 2
  else if 2 ≤ st then bumpConfigGen (setF (setF s (ATT.IMG_CTL_STATE k) 0) (ATT.IMG_RES_RESULT k) 0) pt
  else if st = 1 then setF s (ATT.IMG_RES_RESULT k) 3
  else s

/-- IMG_UNBIND (R402). -/
def execImgUnbind (s : State) : Host.Outcome State Fault Refusal := .next (whenAlive s doImgUnbind)

end Sys2Proof.Machine
end

