-- ==== Sys2Proof/Machine/FabricTime.lean ====
section
/-!
DEFINITION. The time unit: exchanges, states, slewing and loads (R46 to R53, R76), and the tick of an idle step.
-/

namespace Sys2Proof.Machine

/-- The state of the time unit: 0 UNSET, 1 ACQUIRE, 2 LOCKED, 3 HOLDOVER, 4 FREERUN (Table 03-1). -/
def ftState (s : State) : Nat := getF s FT.FT_STS_STATE

/-- ALIGNED (R48). -/
def aligned (s : State) : Bool := flag s FT.FT_STS_ALIGNED

/-- Write ALIGNED; a fall raises ALIGN_LOST (Table 03-14). -/
def setAligned (s : State) (b : Bool) : State :=
  let s1 := setB s FT.FT_STS_ALIGNED b
  if aligned s && !b then raise s1 0x0010 6 else s1

/-- Set the offset still to be slewed away. -/
def setSlew (s : State) (q : Int) : State := { s with time := { s.time with slew := q, slewAt := s.time.elapsed } }

/-- The slew is one of a refused exchange, or not. -/
def setRefused (s : State) (b : Bool) : State := { s with time := { s.time with refused := b } }

/-- HOLD_ELAPSED (Table 03-13): it counts elapsed frames in HOLDOVER (R51). (DESIGN CHOICE, log 151) -/
def holdElapsed (s : State) : Nat :=
  if ftState s = 3 then min (((s.time.elapsed : Int) - s.time.holdAt) / 4096).toNat (2 ^ 32 - 1)
  else getF s FT.HOLD_ELAPSED_FRAMES

/-- The period of the time exchange in ns (R47, Table 03-13): 2^SYNC_LOG2 frames. (DEDUCED, log 150) -/
def syncPeriod (s : State) : Nat :=
  let n := getF s FT.FT_CTL_SYNC_LOG2
  4096 * 2 ^ (if 4 ≤ n ∧ n ≤ 12 then n else 8)

/-- The missing exchanges that end LOCKED (Table 03-13). -/
def missLimit (s : State) : Nat := max 1 (getF s FT.FT_CTL_MISS_LIMIT)

/-- The Fabric Time at which MISS_LIMIT consecutive exchanges are missing: the periods after that of the last exchange
received have gone by (R48). (DEDUCED, log 150) -/
def missedAt (s : State) : Nat := (s.time.heard / syncPeriod s + 1 + missLimit s) * syncPeriod s

/-- Enter LOCKED: event LOCKED, HOLD_ELAPSED cleared. -/
def enterLocked (s : State) : State :=
  raise (setF (setF s FT.HOLD_ELAPSED_FRAMES 0) FT.FT_STS_STATE 2) 0x0010 0

/-- Enter HOLDOVER: ALIGNED keeps its value, and of all slewing that of a refused exchange goes on (Table 03-1, R50).
HOLD_ELAPSED goes on from the value it shows: Table 03-13 clears it on LOCKED alone. (DESIGN CHOICE, log 151) -/
def enterHoldover (s : State) : State :=
  let s1 := setF s FT.FT_STS_STATE 3
  let s2 := if s.time.refused then s1 else setSlew s1 0
  raise { s2 with time := { s2.time with holdAt := (s2.time.elapsed : Int) - 4096 * holdElapsed s } } 0x0010 1

/-- Enter FREERUN: ALIGNED becomes 0 (R48). (DESIGN CHOICE, log 151) -/
def enterFreerun (s : State) : State :=
  let s1 := setF (setF s FT.HOLD_ELAPSED_FRAMES (holdElapsed s)) FT.FT_STS_STATE 4
  raise (setAligned (setSlew (setRefused s1 false) 0) false) 0x0010 2

/-- A signed number as a 32-bit two's complement field value. -/
def twos32 (i : Int) : Nat := (i % 2 ^ 32).toNat

/-- An applied exchange sets a new rate: how the rate is measured the spec does not say (DESIGN CHOICE, log 1, DESIGN CHOICE, log 6). -/
def newRate (s : State) : State :=
  let (v, s1) := freeNat s 32
  setF s1 FT.RATE_RATE v

/-- An exchange is refused as a step (R50): STEP_REFUSED, ALIGNED falls, and its offset is the slew's new target. -/
def refuseStep (s : State) (q : Int) : State :=
  setRefused (setSlew (setAligned (raise s 0x0010 3) false) q) true

/-- An exchange is applied: its offset is slewed away at the state's rate. -/
def applyStep (s : State) (q : Int) : State := setRefused (setSlew (newRate s) q) false

/-- Apply an exchange of `q` quarter nanoseconds of offset by Table 03-1 and R50. -/
def applyOffset (s : State) (q : Int) : State :=
  let small := decide (q.natAbs ≤ 4 * getF s FT.ALIGN_THRESH_NS)
  let big := decide (4 * getF s FT.STEP_THRESH_NS < q.natAbs)
  match ftState s with
  | 1 =>
    let n := if small then s.time.within + 1 else 0
    let s1 := applyStep s q
    let s2 := { s1 with time := { s1.time with within := n } }
    if 4 ≤ n then setAligned (enterLocked s2) true else s2
  | 2 =>
    if big then refuseStep s q else setAligned (applyStep s q) small
  | 3 =>
    if big then refuseStep s q else setAligned (applyStep (enterLocked s) q) small
  | 4 => if big then s else setAligned (applyStep (enterLocked s) q) small
  | _ => s

/-- The port the time unit takes time from: the one that holds control (R46). -/
def timeSource (s : State) (m : Nat) : Bool := holder s == some m && selvUp s m

/-- The exchange of the present period opens; where the period has had its exchange, the next opens at offset 0 of the
next period's first frame (R47, R63). (DEDUCED, log 150) -/
def openExchange (s : State) : State :=
  let p := syncPeriod s
  let l := Store.get 0 s.time.last 6
  let s1 := if l ≠ 0 ∧ s.time.ft / p ≤ (l - 1) / p then advanceFt s (((l - 1) / p + 1) * p) else s
  { s1 with time := { s1.time with last := Store.set 0 s1.time.last 6 (s1.time.ft + 1) } }

/-- TIME_SYNC (R46, R47): stamped t2, answered with DELAY_REQ at t3. Below Selvedge 1.2 the stamps are whole ticks
(R446). -/
def execTimeSync (f : SelvFrame) (t1 : Nat) (sub : Fin 8) (turn : Nat) (s : State) : Host.Outcome State Fault Refusal :=
  .next (whenManaged s <| onFrame f fun s =>
    if timeSource s f.port then
      let s := openExchange s
      let fine := decide (3 ≤ getF s (SELV.LINK_STS_VER f.port))
      let t2 := 2 * s.time.ft + (if fine then sub.val else 0)
      let t3 := if fine then t2 + turn else t2 + turn / 8 * 8
      sendSelv { s with time := { s.time with exch := some (f.port.val, t1, t2, t3) } } f.port .delayReq
    else s)

/-- DELAY_RSP (R47, R48): offset and path; the state, slew and ALIGNED follow. The fraction of a nanosecond that OFFSET
and PATH do not show is dropped toward zero (DEDUCED, log 7). -/
def execDelayRsp (f : SelvFrame) (t4 : Nat) (s : State) : Host.Outcome State Fault Refusal :=
  .next (whenManaged s <| onFrame f fun s =>
    match s.time.exch with
    | none => s
    | some (src, t1, t2, t3) =>
      if src = f.port.val ∧ timeSource s f.port then
        let up : Int := (t2 : Int) - t1
        let down : Int := (t4 : Int) - t3
        let s1 := { s with time := { s.time with exch := none, heard := s.time.ft } }
        let s2 := setF s1 FT.OFFSET_OFFSET (twos32 ((up - down).tdiv 4))
        let s3 := setF s2 FT.PATH_PATH (twos32 ((up + down).tdiv 4))
        applyOffset s3 (up - down)
      else s)

/-- MISSED_EXCHANGE (R48): MISS_LIMIT consecutive exchanges are missing in LOCKED. (DEDUCED, log 150) -/
def execMissedExchange (s : State) : Host.Outcome State Fault Refusal :=
  .next (whenManaged s fun s => if ftState s = 2 then enterHoldover (advanceFt s (missedAt s)) else s)

/-- HOLDOVER_LIMIT (R48): HOLD_ELAPSED reaches HOLD_LIMIT. -/
def execHoldoverLimit (s : State) : Host.Outcome State Fault Refusal :=
  .next (whenManaged s fun s =>
    if ftState s = 3 then
      enterFreerun (advanceEl s (s.time.holdAt + getF s FT.HOLD_LIMIT_FRAMES * 4096).toNat)
    else s)

/-- TCLK_LOSS_OF_LOCK (R38): a LOCKED time unit enters holdover (DEDUCED, log 8). -/
def execTclkLossOfLock (s : State) : Host.Outcome State Fault Refusal :=
  .next (whenManaged s fun s => if ftState s = 2 then enterHoldover s else s)

/-- A load may take effect in UNSET and FREERUN alone (R51, R53). -/
def loadable (s : State) : Bool := ftState s == 0 || ftState s == 4

/-- FT_CMD.LOAD (R51): an accepted value is due at the next frame boundary. -/
def doFtLoad (s : State) : State :=
  let v := getF s FT.LOAD
  if loadable s ∧ v % 4096 = 0 ∧ s.time.ft < v then
    let s1 := setB s FT.FT_STS_LOAD_PENDING true
    { s1 with time := { s1.time with loadVal := v, loadAt := (s.time.ft / 4096 + 1) * 4096 } }
  else raise s 0x0010 4

/-- FT_LOAD (R51). -/
def execFtLoad (s : State) : Host.Outcome State Fault Refusal := .next (whenAlive s doFtLoad)

/-- LOAD_TAKES_EFFECT (R51, R48): at the frame boundary the accepted value becomes the time of that boundary. A load in
UNSET enters ACQUIRE. One whose unit has meanwhile left UNSET and FREERUN is dropped: in LOCKED Fabric Time never jumps
(R49) and no load is accepted in LOCKED or HOLDOVER (R53). (DESIGN CHOICE, log 151) -/
def execLoadTakesEffect (s : State) : Host.Outcome State Fault Refusal :=
  .next (whenManaged s fun s =>
    if flag s FT.FT_STS_LOAD_PENDING then
      let s1 := setB (advanceFt s s.time.loadAt) FT.FT_STS_LOAD_PENDING false
      if loadable s then
        let s2 := { s1 with time := { s1.time with ft := s1.time.loadVal + (s1.time.ft - s1.time.loadAt), within := 0 } }
        if ftState s = 0 then setF s2 FT.FT_STS_STATE 1 else s2
      else s1
    else s)

/-- Elapsed ns between two slewed ticks: 1,024 ticks in ACQUIRE, else 65,536 (Table 03-1, R50). -/
def slewGap (s : State) : Nat := if ftState s = 1 then 4096 else 262144

/-- The kept rate in parts per 10^9 (R48). -/
def rateOf (s : State) : Int :=
  let r := getF s FT.RATE_RATE
  if r < 2 ^ 31 then r else (r : Int) - 2 ^ 32

/-- What Fabric Time gains in the present tick: 4 ns, or 0 or 8 where a tick is added or dropped at the end of a slot
(R49), and the time unit after the adjustment. -/
def tickGain (s : State) : Nat × TimeUnit :=
  let t := s.time
  let o := t.ft % 64
  let due := decide (t.slewAt + slewGap s ≤ t.elapsed)
  let kept := ftState s = 3 ∨ ftState s = 4
  let ph : Int := if kept then t.phase + 4 * rateOf s else 0
  if due && decide (16 ≤ t.slew) && o == 60 then (0, { t with slew := t.slew - 16, slewAt := t.elapsed })
  else if due && decide (t.slew ≤ -16) && o == 56 then (8, { t with slew := t.slew + 16, slewAt := t.elapsed })
  else if decide (4000000000 ≤ ph) && o == 56 then (8, { t with phase := ph - 4000000000 })
  else if decide (ph ≤ -4000000000) && o == 60 then (0, { t with phase := ph + 4000000000 })
  else (4, { t with phase := ph })

/-- One TCLK tick of 4 ns: what `step` does when no command waits (DESIGN CHOICE, log 9). Each Selvedge port whose link is up sends the
head of its event queue. While VAUX is down or the internal reset is asserted nothing runs. -/
def tick (s : State) : State :=
  if managed s then
    let (g, t) := tickGain s
    let s1 := advanceBy { s with time := t } 4 g
    sendEvt (sendEvt s1 0) 1
  else s

end Sys2Proof.Machine
end

