-- ==== Sys2Proof/Machine/Bringup.lean ====
section
/-!
DEFINITION. The input stage, the resets, the marionette sequence and the unit map (chapter 15, R455 to R464; R506, R507),
and the debug contacts' probe detection (R503).
-/

namespace Sys2Proof.Machine

/-! The input stage (R506, R507). -/

/-- VIN_APPLIED (R506): the input stage charges; a module that runs has its input already. -/
def execVinApplied (s : State) : Host.Outcome State Fault Refusal :=
  .next (if s.input.vaux then s else { s with input := { s.input with applied := true, good := false } })

/-- VIN_GOOD (R506): the standby controller and then VAUX start; the internal reset is held. -/
def execVinGood (s : State) : Host.Outcome State Fault Refusal :=
  .next (if s.input.applied && !s.input.good then
    { s with input := { s.input with good := true, vaux := true, inReset := true } } else s)

/-- After a thermal trip a whole-chip reset is accepted only once every sensor is below its release value (R434).
(DEDUCED, log 107) -/
def coolEnough (s : State) : Bool :=
  getF s FAULT.FATAL_CAUSE_CAUSE ≠ 2 || sensors.all fun i => decide (temp s i < releaseAt s i)

/-- The internal reset is asserted: the Selvedge links drop. -/
def holdReset (s : State) : State :=
  let s1 := forAll [0, 1] selvDown s
  { s1 with input := { s1.input with vaux := true, inReset := true, perst := 0 } }

/-- RESET_N_LOW (R507): at least 10 us is a cold reset, out of OFF as well; below 1 us nothing; between them the spec leaves
it open (DESIGN CHOICE, log 35). -/
def execResetNLow (ns : Nat) (s : State) : Host.Outcome State Fault Refusal :=
  .next (if !s.input.good || !coolEnough s || decide (ns < 1000) then s
    else if 10000 ≤ ns then holdReset s
    else
      let (b, s1) := freeNat s 1
      if b = 1 then holdReset s1 else s1)

/-! Resets (R455 to R457). -/

/-- Show the straps and take the reset values that they set (R455, Table 15-3). -/
def showStraps (s : State) (st : Nat) : State :=
  let s1 := setF (setF s STRAP.STRAPS_BOOT_FAST st) TOP.BOOT_CTL_FAST st
  let s2 := setF (setF (setF s1 STRAP.STRAPS_DET_DEFAULT (st / 2)) TOP.DET_MODE_EN (st / 2)) TOP.DET_MODE_ACTIVE (st / 2)
  let s3 := setF (setF s2 STRAP.STRAPS_SELV_PREF (st / 4)) TOP.CTL_STS_PREF (st / 4)
  setF (setF (setF s3 STRAP.STRAPS_MOD_ID (st / 8)) STRAP.STRAPS_FAB_RATE (st / 128)) STRAP.STRAPS_REFCLK_SEL (st / 512)

/-- What has left the module stays sent: a Selvedge port's messages. (DEDUCED, log 100) -/
def sentOnly (p : SelvPort) : SelvPort := { out := p.out }

/-- What has left the module stays sent: a fabric port's link messages. (DEDUCED, log 100) -/
def ctrlOnly (l : LinkPort) : LinkPort := { ctrl := l.ctrl }

/-- A cold reset (R457): every register at its reset value, the log and the start-up results cleared, the straps sampled
and the fuses read. Fuses, the boot flash, the drives and what has been sent remain. (DESIGN CHOICE, log 99)
(DEDUCED, log 100) (DESIGN CHOICE, log 149) -/
def coldReset (s : State) (straps cause : Nat) : State :=
  let staged := flag s SEC.FW_STS_STAGED
  let s1 : State := {
    pending := s.pending
    freeCtr := s.freeCtr
    sec := { fuses := s.sec.fuses, draws := s.sec.draws,
             flashSvn := if staged then s.sec.stagedSvn else s.sec.flashSvn,
             flashHash := if staged then getF s SEC.FW_STG else s.sec.flashHash }
    tier := { flash := s.tier.flash, unclean := s.tier.unclean }
    net := { wire := s.net.wire }
    links := s.links.map fun e => (e.1, ctrlOnly e.2)
    ctl := { selv := s.ctl.selv.map fun e => (e.1, sentOnly e.2) }
    pwr := { temps := s.pwr.temps, dramOff := true }
    input := { s.input with inReset := false, straps := straps % 1024, perst := 0 } }
  let s2 := adoptFirmware (showStraps (loadFuses s1) straps)
  setF { s2 with ging := { bank := defaultTable (fittedCores s2) } } TOP.RESET_STS_CAUSE cause

/-- INTERNAL_RESET_RELEASE (R507): 10 ms after VAUX is good and RESET_N is high; the straps are sampled. -/
def execInternalResetRelease (straps : Nat) (s : State) : Host.Outcome State Fault Refusal :=
  .next (if s.input.good && s.input.vaux && s.input.inReset then coldReset s straps 0 else s)

/-- A reset written by the holder sends CONTROL_CHANGE with CAUSE 4 before the Selvedge links drop (R456).
(DEDUCED, log 101) -/
def announceReset (s : State) : State :=
  if (holder s).isSome then controlChange (setF s TOP.CTL_STS_HOLDER 0) 4 else s

/-- A CHIP_RESET is refused with a reason. -/
def refuseReset (s : State) (reason : Nat) : State :=
  setF (setB s TOP.RESET_STS_REFUSED true) TOP.RESET_STS_REASON reason

/-- CHIP_RESET with KIND 0 (R456, R434). (DESIGN CHOICE, log 99) -/
def doResetCold (s : State) : State :=
  if coolEnough s then coldReset (announceReset s) s.input.straps 1 else refuseReset s 4

/-- CHIP_RESET_COLD (R456). -/
def execChipResetCold (s : State) : Host.Outcome State Fault Refusal := .next (whenManaged s doResetCold)

/-- A Selvedge port after a warm reset (Table 15-4): its link retrains and its lease has ended. -/
def warmSelv (s : State) (m : Nat) : State :=
  let s1 := selvDown s m
  setSelv s1 m { getSelv s1 m with lease := .none, start := 0, since := 0, queue := [] }

/-- A root port after a warm reset (Table 15-4): its link is down; a lost drive stays lost (R299).
(DEDUCED, log 102) -/
def warmRoot (s : State) (r : Nat) : State :=
  let s1 := setB s (PCIE.LINK_STS_UP r) false
  if getF s1 (PCIE.DRV_STS_STATE r) = 4 then s1 else setF s1 (PCIE.DRV_STS_STATE r) 0

/-- The queues, engines, caches and stores that a warm reset empties (Table 15-4). -/
def warmEmpty (s : State) : State :=
  let e := s.eng
  { s with
    eng := { accepted := e.accepted, jobs := e.jobs, turn := e.turn, failed := e.failed }
    xlt := { s.xlt with pxc := [], walker := [], l2 := [], etlb := [],
                        inv := s.xlt.inv.map fun j => { j with reqs := [], tiles := [] } }
    coh := { s.coh with txns := [], dcache := [], engFail := [] }
    net := { s.net with egress := [], waiting := [], store := [], owed := [], heldBack := [], arrived := [] }
    dram := { s.dram with queues := [], tags := [], raised := [], halves := [], bist := [], chErr := [] } }

/-- The registers that a warm reset changes (Table 15-4, R135). -/
def warmRegs (s : State) : State :=
  let s1 := setB (setF s TOP.DET_MODE_ACTIVE (getF s TOP.DET_MODE_EN)) TOP.DET_MODE_LOCK false
  let s2 := setF (setF s1 PWR.PWR_STS_LEVEL 0) PWR.PWR_STS_THERM_LEVEL 0
  let s2 := if getF s2 PWR.PWR_STS_STATE = 1 then setPwrState s2 0 else s2
  let s3 := setB (setB s2 PWR.PWR_STS_CAP_UNATTAINABLE false) PWR.PWR_STS_FAST false
  let s4 := setF (setF (setF s3 TOP.SEQ_STS_STEP 15) TOP.SEQ_STS_STATE 0) TOP.SEQ_STS_CODE 0
  let s5 := setF (setB (setB s4 TOP.SEQ_STS_FAST false) TOP.SEQ_STS_REFUSED false) TOP.SEQ_STS_MS 0
  let s6 := setF (setF (setB s5 DBG.DBG_STS_SCAN false) SEC.DEBUG_LEVEL 0) DBG.DBG_STS_LEVEL 0
  let s7 := setF (setB s6 TOP.RESET_STS_REFUSED false) TOP.RESET_STS_REASON 0
  setF (forAll (upTo 16) clearRegions s7) TOP.RESET_STS_CAUSE 2

/-- The keys and pairs that end with any reset (Tables 13-2 and 13-6, R398). -/
def warmKeys (s : State) : State :=
  let s1 := lockOpenSlots s
  { s1 with sec := { s1.sec with linkKey := [], linkNext := [], kx := [], ak := 0, releases := [], debugNext := 0 } }

/-- The control state, the debug port and the bring-up state after a warm reset (Table 15-4, R460). -/
def warmControl (s : State) : State :=
  { s with
    ctl := { s.ctl with lastHolder := 0, prevHolder := 0, prevEpoch := 0, windowEnd := 0, hadHolder := false,
                        noHolderLogged := false, latch := [] }
    dbg := {}
    parts := { s.parts with scrubs := s.parts.scrubs.map fun e => (e.1, e.2.map fun x => { x with restart := true }) }
    boot := { s.boot with admitted := false, service := false, work := 0,
                          path := if flag s TOP.BOOT_CTL_FAST then 2 else 1 } }

/-- A warm reset (R457): everything is kept but the items of Table 15-4; dirty directory-cache blocks are written back
before it. -/
def warmReset (s : State) : State :=
  let s1 := holdOutputs (announceReset (flushDc s (coresUp s)))
  let s2 := tierWarm (warmEmpty (portsOff (forAll [0, 1] warmSelv s1)))
  let s3 := noteChip (fun s => adoptFirmware (warmKeys (warmRegs s))) (forAll (upTo 16) warmRoot s2)
  let s4 := setB (setF s3 TOP.CTL_STS_HOLDER 0) TOP.CTL_STS_WINDOW false
  warmControl (enterHoldover { s4 with time := { s4.time with exch := none, within := 0 } })

/-- Why a warm reset is refused (R456): the lowest reason of Table 15-10; 0 when it is accepted.
(DEDUCED, log 107) -/
def warmReason (s : State) : Nat :=
  if !allQuiet s then 1 else if anyLive s then 2 else if anyRun s then 3 else if latched s then 4 else 0

/-- CHIP_RESET with KIND 1 (R456). -/
def doResetWarm (s : State) : State := if warmReason s = 0 then warmReset s else refuseReset s (warmReason s)

/-- CHIP_RESET_WARM (R456). -/
def execChipResetWarm (s : State) : Host.Outcome State Fault Refusal := .next (whenManaged s doResetWarm)

/-! The unit map (R462, R463). -/

/-- The valid fused entries of bad units, BAD and FIELD. -/
def fusedUnits (s : State) : List Nat :=
  ((upTo 128).map fun i => getF s (FUSE.BAD_DATA_ENTRY i)).filter entryValid

/-- The units that may not be used: fused, and found bad at start-up (R462), as (class, index). -/
def badUnits (s : State) : List (Nat × Nat) :=
  (fusedUnits s ++ s.boot.yield.map (·.1)).map fun e => (entryClass e, entryIndex e)

/-- The unusable units of a class, each once. -/
def badOf (s : State) (cls : Nat) : List Nat := (((badUnits s).filter (·.1 == cls)).map (·.2)).eraseDups

/-- The rail and the phase of regulator phase 0 to 95, in the order of Table 14-1 (DEDUCED, log 36). -/
def phaseOf (i : Nat) : Nat × Nat :=
  if i < 64 then (i / 4, i % 4) else if i < 72 then (16, i - 64) else if i < 78 then (17, i - 72)
  else if i < 90 then (18, i - 78) else (19, i - 90)

/-- The number of a rail's phase among the 96. (DEDUCED, log 36) -/
def phaseIndex (rail phase : Nat) : Nat :=
  if rail < 16 then rail * 4 + phase
  else match rail with | 16 => 64 + phase | 17 => 72 + phase | 18 => 78 + phase | _ => 90 + phase

/-- Phases of a rail among the unusable units. -/
def badPhases (s : State) (rail : Nat) : List Nat := ((badOf s 4).map phaseOf).filterMap fun x => if x.1 = rail then some x.2 else none

/-- Unusable engines of a core, ascending. -/
def badEngines (s : State) (c : Nat) : List Nat := (upTo 9).filter fun e => (badOf s 2).contains (c * 16 + e)

/-- The unit map makes the core absent (R463). -/
def mapAbsent (s : State) (c : Nat) : Bool :=
  (badOf s 1).contains c || decide (3 ≤ (badEngines s c).length) || decide (2 < (badPhases s c).length)

/-- Put the unit map in force: absent cores, lost phases, lanes and root ports left out. (DEDUCED, log 103) -/
def applyMap (s : State) : State :=
  let ph := ((badOf s 4).map phaseOf).filter fun x => !s.pwr.lost.contains x
  { s with
    pwr := { s.pwr with lost := s.pwr.lost ++ ph }
    boot := { s.boot with
      absent := BitVec.ofNat 16 (laneMask ((upTo 16).filter (mapAbsent s)))
      badLanes := (upTo 48).foldl (fun m p => Store.set 0 m p (laneMask ((upTo 5).filter fun l => (badOf s 3).contains (p * 8 + l)))) []
      badRoots := BitVec.ofNat 16 (laneMask ((badOf s 5).filter (· < 16))) } }

/-- A unit that the fuses leave good fails its start-up test in a step (R462, R464). (DEDUCED, log 104) -/
def failUnit (step cls : Nat) (s : State) (idx : Nat) : State :=
  if (badOf s cls).contains idx then s
  else
    let n := s.boot.yield.length
    let e := cls % 16 + idx % 512 * 16 + 0x8000
    let s1 := { s with boot := { s.boot with yield := s.boot.yield ++ [(e, step)] } }
    let s2 := if n < 128 then
        raise (setF (setF (setF s1 (TOP.YD_DATA_ENTRY n) e) (TOP.YD_DATA_STEP n) step) TOP.YIELD_DELTA_COUNT (n + 1)) 0x0000 2
      else setB s1 TOP.YIELD_DELTA_FULL true
    faultEntry s2 27 cls none 0x0000 idx step

/-- Units fail their start-up tests; a warm reset does not test again (R462). (DEDUCED, log 104) -/
def testUnits (s : State) (step cls : Nat) (l : List Nat) : State :=
  if s.boot.path = 0 then forAll l (failUnit step cls) s else s

/-- Engines that the map takes out are replaced as R28 says (R463). (DEDUCED, log 103) -/
def retireEngines (s : State) : State :=
  forAll (coresUp s) (fun s c => forAll (badEngines s c) (fun s e => engineFails s c e false) s) s

/-! The marionette sequence (R458 to R461). -/

/-- The step shows DONE or FAIL (R458). -/
def endStep (s : State) (code ms : Nat) (fast : Bool) : State :=
  let s1 := setF (setF (setB s TOP.SEQ_STS_FAST fast) TOP.SEQ_STS_CODE code) TOP.SEQ_STS_MS (min ms 65535)
  raise (setF s1 TOP.SEQ_STS_STATE (if code = 0 then 2 else 3)) 0x0000 (if code = 0 then 0 else 1)

/-- A write of SEQ_STEP with GO may start step `n` (R458). -/
def stepAllowed (s : State) (n : Nat) : Bool :=
  let k := getF s TOP.SEQ_STS_STEP
  let st := getF s TOP.SEQ_STS_STATE
  decide (n < 12) && (k == 15 && n == 0 || k != 15 && st == 2 && n == k + 1 || k != 15 && st == 3 && n == k)

/-- SEQ_STEP with GO (R458): the step starts, or is completed at once on the fast path (R460), or is refused. -/
def doSeqStep (s : State) (n : Nat) : State :=
  if stepAllowed s n then
    let s1 := setF (setF (setB s TOP.SEQ_STS_REFUSED false) TOP.SEQ_STS_STEP n) TOP.SEQ_STS_STATE 1
    let s2 := setF (setF (setB s1 TOP.SEQ_STS_FAST false) TOP.SEQ_STS_CODE 0) TOP.SEQ_STS_MS 0
    let s3 := { s2 with boot := { s2.boot with work := 0 } }
    if s.boot.path = 2 ∧ (n = 3 ∨ n = 7) then endStep s3 0 0 true else s3
  else setB s TOP.SEQ_STS_REFUSED true

/-- Step `n` waits for its work. -/
def stepReady (s : State) (n : Nat) : Bool := stepRunning s n && s.boot.work == 0

/-- Step `n`: the SEQ_STEP write where it has not been made, then the step's work, which answers a failure code.
(DESIGN CHOICE, log 106) -/
def stepWork (s : State) (n : Nat) (work : State → Nat × State) : State :=
  let s1 := if stepReady s n then s else doSeqStep s n
  if stepReady s1 n then
    let (code, s2) := work s1
    { s2 with boot := { s2.boot with work := code + 1 } }
  else s1

/-- NO_CORE where no stack core is in service (Table 15-6). -/
def coreCode (s : State) : Nat := if (coresUp s).isEmpty then 8 else 0

/-- The work of M0 (R459, R461): a failure, or the fused-bad units fenced off. (DEDUCED, log 103)
(DEDUCED, log 105) -/
def workM0 (eccBad : Bool) (s : State) : Nat × State :=
  if eccBad then (1, s) else if lifecycle s = 3 then (9, s) else (0, applyMap s)

/-- M0_IDENTIFY (R459). -/
def execM0Identify (eccBad : Bool) (s : State) : Host.Outcome State Fault Refusal :=
  .next (whenAlive s (stepWork · 0 (workM0 eccBad)))

/-- The rails at their setpoints: pinned cores at VPIN (R419, R506). -/
def railsUp (s : State) : State :=
  let s1 := forAll (coresUp s) (fun s c => setVstk s c (if flag s (CLK.CORE_CLK_PINNED c) then vpin s c
    else ceilVolts (getF s (CLK.CORE_CLK_CEIL c)))) s
  { s1 with pwr := { s1.pwr with dramOff := false } }

/-- The work of M1 (R459, R461 to R463). (DEDUCED, log 105) (DESIGN CHOICE, log 108) -/
def workM1 (pllOk : Bool) (bad : List (Fin 20 × Nat)) (s : State) : Nat × State :=
  let s1 := applyMap (testUnits s 1 4 (bad.map fun x => phaseIndex x.1 x.2))
  if getF s1 STRAP.STRAPS_FAB_RATE = 3 then (2, s1)
  else if [16, 17, 18, 19].any fun r => decide (2 < (badPhases s1 r).length) then (3, s1)
  else if !pllOk then (4, s1)
  else (0, railsUp s1)

/-- M1_CLOCKS_AND_RAILS (R459). -/
def execM1ClocksAndRails (pllOk : Bool) (badPhases : List (Fin 20 × Nat)) (s : State) : Host.Outcome State Fault Refusal :=
  .next (whenAlive s (stepWork · 1 (workM1 pllOk badPhases)))

/-- M2_TIME (R459): the step completes when the time unit is LOCKED. -/
def execM2Time (s : State) : Host.Outcome State Fault Refusal := .next (whenAlive s (stepWork · 2 fun s => (0, s)))

/-- The work of M3 (R459, R462). -/
def workM3 (logicOk : Bool) (bad : List (Core × Eng)) (s : State) : Nat × State :=
  let s1 := testUnits s 3 2 (bad.map fun x => x.1.val * 16 + x.2.val)
  (if logicOk then 0 else 6, s1)

/-- M3_DIE_SELF_TEST (R459). -/
def execM3DieSelfTest (logicOk : Bool) (badEngines : List (Core × Eng)) (s : State) : Host.Outcome State Fault Refusal :=
  .next (whenAlive s (stepWork · 3 (workM3 logicOk badEngines)))

/-- V = 0 throughout bank A in the columns of absent cores (R62). -/
def clearAbsent (s : State) : State := forAll ((upTo 16).filter fun c => s.boot.absent.getLsbD c) clearColumn s

/-- The work of M4 (R462, R463, R62). (DEDUCED, log 103) -/
def workM4 (s : State) : Nat × State :=
  let s1 := retireEngines (applyMap s)
  let s2 := if s.boot.path = 0 then clearAbsent s1 else s1
  (coreCode s2, s2)

/-- M4_RECONCILE (R462). -/
def execM4Reconcile (s : State) : Host.Outcome State Fault Refusal := .next (whenAlive s (stepWork · 4 workM4))

/-- The keys that a cold reset draws and derives (R383, Table 13-2). -/
def bootKeys (s : State) : State :=
  let (n, s1) := draw s 256
  forAll (coresUp s1) newCoreKey { s1 with sec := { s1.sec with bootNonce := n } }

/-- The work of M5 (R459, R384, R393). -/
def workM5 (failing : Option Nat) (s : State) : Nat × State :=
  match failing with
  | some t => (7, doTrngFail s t)
  | none => (0, deriveIdentity (if s.boot.path = 0 then bootKeys s else s))

/-- M5_SECURITY_ROOT (R459). -/
def execM5SecurityRoot (failing : Option Nat) (s : State) : Host.Outcome State Fault Refusal :=
  .next (whenAlive s (stepWork · 5 (workM5 failing)))

/-- The channels of a core as a full training leaves them: all trained and in service (R263). -/
def channelsUp (s : State) (c : Nat) : State :=
  let f := s.dram.failed.filter fun k => k / 64 != c
  setF { s with dram := { s.dram with down := Store.del s.dram.down c, failed := f } } (HPHY.CH_UP_CH c) (2 ^ 32 - 1)

/-- A pseudo-channel is trained in full in M6: every one after a cold reset, those of down channels after a warm one
(R263, Table 15-5). -/
def trained (s : State) (x : Core × Nat) : Bool :=
  decide (x.2 < 64) && (s.boot.path == 0 || (Store.get 0 s.dram.down x.1).testBit (x.2 / 2))

/-- The work of M6 (R459, R262, R263, R463). (DEDUCED, log 104) -/
def workM6 (untrained : List (Core × Nat)) (s : State) : Nat × State :=
  let bad := (untrained.filter (trained s)).map (·.1.val)
  let s1 := applyMap (forAll bad (failUnit 6 1) s)
  let s2 := forAll (coresUp s1) channelsUp s1
  let s3 := if s.boot.path = 2 then forAll (coresUp s2) calibrate s2 else s2
  (coreCode s3, s3)

/-- M6_DRAM_TRAINING (R459). -/
def execM6DramTraining (untrained : List (Core × Nat)) (s : State) : Host.Outcome State Fault Refusal :=
  .next (whenAlive s (stepWork · 6 (workM6 untrained)))

/-- The rows of a core that hold bad lines, as remap requests of KIND ROW. -/
def badRows (bad : List (Core × Nat)) (c : Nat) : List RemapReq :=
  ((bad.filter (·.1.val == c)).map fun x => (⟨1, pcOf x.2, bankOf x.2, rowOf x.2⟩ : RemapReq)).eraseDups

/-- A row that M7 finds bad gets a ROW remap, in place at once. -/
def placeRow (c : Nat) (s : State) (r : RemapReq) : State :=
  match freeEntries s c with
  | [] => s
  | e :: _ =>
    let s1 := putEntry s c e r 2
    remapSts { s1 with dram := { s1.dram with remaps := Store.set [] s1.dram.remaps c (entries s1 c ++ [e]) } } c

/-- M7 after a cold reset (R459, R463): rows remapped, every line zero. (DESIGN CHOICE, log 14) -/
def initDram (bad : List (Core × Nat)) (s : State) : State :=
  let many := (coresUp s).filter fun c => decide (8 < (badRows bad c).length)
  let s1 := applyMap (forAll many (failUnit 7 1) s)
  let s2 := forAll (coresUp s1) (fun s c => forAll (badRows bad c) (placeRow c) s) s1
  { s2 with mem := [], dram := { s2.dram with faults := [], raw := [] } }

/-- M7 after a warm reset (R460): BIST READ corrects and counts as a scrub pass does, and keeps the contents.
(DEDUCED, log 105) -/
def rereadDram (s : State) : State :=
  forAll ((s.dram.faults.map (·.1)).filter fun l => coreUp s (lineCore l)) scrubRead s

/-- The work of M7. (DEDUCED, log 105) -/
def workM7 (bad : List (Core × Nat)) (s : State) : Nat × State :=
  let s1 := if s.boot.path = 0 then initDram bad s else rereadDram s
  (coreCode s1, s1)

/-- M7_DRAM_TEST (R459). -/
def execM7DramTest (bad : List (Core × Nat)) (s : State) : Host.Outcome State Fault Refusal :=
  .next (whenAlive s (stepWork · 7 (workM7 bad)))

/-- The work of M8 (R459, R462): the enabled ports train cold. -/
def workM8 (bad : List (Port × Fin 5)) (s : State) : Nat × State :=
  (0, trainEnabled (applyMap (testUnits s 8 3 (bad.map fun x => x.1.val * 8 + x.2.val))))

/-- M8_FABRIC_PORTS (R459). -/
def execM8FabricPorts (badLanes : List (Port × Fin 5)) (s : State) : Host.Outcome State Fault Refusal :=
  .next (whenAlive s (stepWork · 8 (workM8 badLanes)))

/-- A root port that may be used starts to train (R285, R463). -/
def startRoot (s : State) (r : Nat) : State :=
  if s.boot.badRoots.getLsbD r || getF s (PCIE.DRV_STS_STATE r) == 4 then s
  else setF (setF s (PCIE.DRV_STS_STATE r) 1) (PCIE.DRV_STS_REASON r) 0

/-- PERST_N of every root port rises in M9 (R510). -/
def raisePerst (s : State) : State := { s with input := { s.input with perst := BitVec.allOnes 16 } }

/-- The work of M9 (R459, R462, R510). -/
def workM9 (bad : List Root) (s : State) : Nat × State :=
  (0, forAll (upTo 16) startRoot (raisePerst (applyMap (testUnits s 9 5 (bad.map (·.val))))))

/-- M9_ROOT_PORTS (R459). -/
def execM9RootPorts (badRoots : List Root) (s : State) : Host.Outcome State Fault Refusal :=
  .next (whenAlive s (stepWork · 9 (workM9 badRoots)))

/-- M10_ADMISSION (R459). -/
def execM10Admission (s : State) : Host.Outcome State Fault Refusal := .next (whenAlive s (stepWork · 10 fun s => (0, s)))

/-- M11_SERVICE (R459). -/
def execM11Service (s : State) : Host.Outcome State Fault Refusal := .next (whenAlive s (stepWork · 11 fun s => (0, s)))

/-- What the step that runs still waits for has come (R459): LOCKED in M2, the enabled ports' training in M8.
(DESIGN CHOICE, log 106) -/
def stepMayEnd (s : State) : Bool :=
  match getF s TOP.SEQ_STS_STEP with
  | 2 => ftState s == 2
  | 8 => (upTo 48).all fun p => !flag s (PORT.PORT_CTL_EN p) || portState s p == 0 || portState s p == 7
  | _ => true

/-- What the end of a step brings with it (R60, R129, R459, R460, R510). (DEDUCED, log 102) -/
def stepEffect (s : State) : State :=
  match getF s TOP.SEQ_STS_STEP with
  | 1 => { s with input := { s.input with refclk := true } }
  | 5 => noteChip digestStart s
  | 7 => { s with boot := { s.boot with initialised := true } }
  | 9 => forAll (upTo 16) (fun s r => if getF s (PCIE.DRV_STS_STATE r) = 1 then setF s (PCIE.DRV_STS_STATE r) 0 else s) s
  | 10 =>
    let l := ((upTo 4096).filter (pidLive s)).foldl (fun m p => Store.set 0 m p s.time.elapsed) s.coh.lease
    { s with boot := { s.boot with admitted := true }, coh := { s.coh with lease := l } }
  | 11 => forAll (upTo 16) restartScrub { s with boot := { s.boot with service := true } }
  | _ => s

/-- A step runs. -/
def anyStep (s : State) : Bool := getF s TOP.SEQ_STS_STATE == 1

/-- STEP_DONE (R458). (DESIGN CHOICE, log 106) -/
def execStepDone (ms : Nat) (s : State) : Host.Outcome State Fault Refusal :=
  .next (whenAlive s fun s =>
    if anyStep s && s.boot.work == 1 && stepMayEnd s then endStep (stepEffect s) 0 ms false else s)

/-- The steps that may fail with a code (Table 15-6). -/
def codeSteps (code : Nat) : List Nat :=
  match code with
  | 1 => [0] | 2 => [1] | 3 => [1] | 4 => [1] | 5 => [2] | 6 => [3] | 7 => [5] | 8 => [4, 6, 7] | 9 => [0] | _ => []

/-- STEP_FAIL (R461): the code that the step's work found; else the code given, of those that the step may show.
(DESIGN CHOICE, log 106) -/
def execStepFail (code ms : Nat) (s : State) : Host.Outcome State Fault Refusal :=
  .next (whenAlive s fun s =>
    let c := if 2 ≤ s.boot.work then s.boot.work - 1 else code
    if anyStep s && s.boot.work != 0 && (codeSteps c).contains (getF s TOP.SEQ_STS_STEP) then endStep s c ms false else s)

/-- DRIVE_READY_TIMEOUT (R459): a drive not ready 4 s into M9 becomes REJECTED, reason 9. (DEDUCED, log 102) -/
def execDriveReadyTimeout (root : Root) (s : State) : Host.Outcome State Fault Refusal :=
  .next (whenAlive s fun s =>
    if stepRunning s 9 && getF s (PCIE.DRV_STS_STATE root) = 1 then
      raise (setF (setF s (PCIE.DRV_STS_STATE root) 3) (PCIE.DRV_STS_REASON root) 9) (0x0510 + root) 1
    else s)

/-! The probe (R503). -/

/-- ATTACH (R503, R489). -/
def execAttach (s : State) : Host.Outcome State Fault Refusal :=
  .next (whenManaged s fun s =>
    if flag s DBG.DBG_STS_ATTACHED then s else raise (setB s DBG.DBG_STS_ATTACHED true) 0x0800 0)

/-- DETACH (R503, R489). -/
def execDetach (s : State) : Host.Outcome State Fault Refusal :=
  .next (whenManaged s fun s =>
    if flag s DBG.DBG_STS_ATTACHED then raise (setB s DBG.DBG_STS_ATTACHED false) 0x0800 1 else s)

/-! The lifecycle's end (R409, R410). -/

/-- LC_CMD with TARGET VOID: the ports stay DISABLED. -/
def doVoid (s : State) : State :=
  let s1 := doLcVoid s
  if lifecycle s1 = 3 then portsOff s1 else s1

/-- LC_VOID (R409). -/
def execLcVoid (s : State) : Host.Outcome State Fault Refusal := .next (whenAlive s doVoid)

end Sys2Proof.Machine
end

