-- ==== Sys2Proof/Machine/KeyX.lean ====
section
/-!
DEFINITION. The agreement of link keys (R386 to R391): the KEYX messages of profiles S and F, key rotation, and the end of a
link's service for its counters (R390).
-/

namespace Sys2Proof.Machine

/-- The exchange that runs on a port. -/
def exchange (s : State) (p : Nat) : Option KeyX := Store.get none s.sec.kx p

/-- Replace the exchange of a port. -/
def setExchange (s : State) (p : Nat) (k : KeyX) : State :=
  { s with sec := { s.sec with kx := Store.set none s.sec.kx p (some k) } }

/-- This end leads the port. -/
def leads (s : State) (p : Nat) : Bool := flag s (PORT.LINK_STS_LEADER p)

/-- A key and salt as they are held: plus 1. -/
def keySalt (key salt : Nat) : Nat := key * 2 ^ 32 + salt + 1

/-- The keys of the two directions as this end holds them: (transmit, receive), from those of leader to follower and of
follower to leader. -/
def byRole (s : State) (p d0 d1 : Nat) : Nat × Nat := if leads s p then (d0, d1) else (d1, d0)

/-- The keys of R387 from a shared secret and a transcript hash. -/
def keysS (s : State) (p ss th : Nat) : Nat × Nat :=
  let f := fun d => keySalt (kdf (le 32 ss) "VFL KEY" (le 64 th ++ [d]) 32) (kdf (le 32 ss) "VFL SALT" (le 64 th ++ [d]) 4)
  byRole s p (f 0) (f 1)

/-- The keys of R388 from the two nonces and ROT. -/
def keysF (s : State) (p nl nf rot : Nat) : Nat × Nat :=
  let self := getF s ROUTE.SELF_NODE_ID
  let peer := getF s (PORT.PEER_NODE_ID p)
  let l := if leads s p then self else peer
  let o := if leads s p then peer else self
  let c := le 2 l ++ le 2 o ++ le 32 nl ++ le 32 nf ++ le 4 rot
  let f := fun d => keySalt (kdf (drkE s) "VFL KEY F" (c ++ [d]) 32) (kdf (drkE s) "VFL SALT F" (c ++ [d]) 4)
  byRole s p (f 0) (f 1)

/-- The port enters ACTIVE after cold training (R316, R389). -/
def enterActive (s : State) (p : Nat) : State :=
  let s1 := raise (enterState s p 7) (0x0600 + p) 0
  if getF s (PORT.LINK_STS_WIDTH p) < 3 then raise (setB s1 (PORT.LINK_STS_DEGRADED p) true) (0x0600 + p) 2
  else setB s1 (PORT.LINK_STS_DEGRADED p) false

/-- Once this end has installed new keys and has the peer's READY, its transmit phase changes (R340, R389). -/
def finishExchange (s : State) (p : Nat) (k : KeyX) : State :=
  if k.derived && k.ready then
    let nx := Store.get (0, 0) s.sec.linkNext p
    let cur := Store.get (0, 0) s.sec.linkKey p
    let s1 := setF s (KEY.KX_STS_STATE p) 2
    let done := fun key next => { s1 with sec := { s1.sec with
      kx := Store.set none s1.sec.kx p none, linkKey := Store.set (0, 0) s1.sec.linkKey p key
      linkNext := Store.set (0, 0) s1.sec.linkNext p next, linkRot := Store.set 0 s1.sec.linkRot p k.rot } }
    if k.cold then
      let s2 := setF (setF (done nx (0, 0)) (PORT.FRAMES_TX p) 0) (PORT.FRAMES_RX p) 0
      enterActive (setF (setF s2 (PORT.KEY_STS_TX_PH p) 0) (PORT.KEY_STS_RX_PH p) 0) p
    else
      let s2 := done (nx.1, cur.2) (0, nx.2)
      let s3 := setF (setF s2 (PORT.FRAMES_TX p) 0) (PORT.KEY_STS_TX_PH p) (1 - getF s (PORT.KEY_STS_TX_PH p))
      bumpF s3 (KEY.KX_STS_ROTATIONS p)
  else setExchange s p k

/-- New keys are derived: the receive key is installed beside the old one, and READY is sent (R389). -/
def installKeys (s : State) (p : Nat) (k : KeyX) (keys : Nat × Nat) : State :=
  let s1 := { s with sec := { s.sec with linkNext := Store.set (0, 0) s.sec.linkNext p keys } }
  finishExchange (sendCtrl s1 p (.keyx 7 4 k.rot)) p { k with derived := true }

/-- SHA3-512 of messages given with their lengths, joined in order. -/
def hashOf (ms : List (Nat × Nat)) : Nat := sha3 (ms.flatMap fun m => le m.1 m.2)

/-- Two byte strings joined: the first has `n` bytes. -/
def join2 (n a b : Nat) : Nat := a % 256 ^ n + b * 256 ^ n

/-- SHA3-512 of the peer's DIK public key is PEER_DIG, and PEER_DIG is not all zero (R387). -/
def peerKnown (s : State) (p pk : Nat) : Bool :=
  getF s (KEY.PEER_DIG p) != 0 && sha3 (le 2592 pk) == getF s (KEY.PEER_DIG p)

/-- A KEYX message is taken where it is expected: in the profile given, of the length given, in an exchange that runs as
`ok` asks; any other message fails the exchange with FORMAT (R386). (DEDUCED, log 60) -/
def takeKeyx (s : State) (p : Nat) (profS : Bool) (want len : Nat) (ok : KeyX → Bool) (f : KeyX → State) : State :=
  match exchange s p with
  | none => s
  | some k => if linkCarries s p then
      if len = want && linkS s == profS && ok k then f k else failExchange s p 4
    else s

/-- An OFFER (R387): the follower checks the peer's key and answers with ACCEPT. -/
def doOffer (s : State) (p len c : Nat) : State :=
  takeKeyx s p true 4192 len (fun k => k.cold && !leads s p && k.script.isEmpty) fun k =>
    let pk := c % 256 ^ 2592
    let ek := c / 256 ^ 2624 % 256 ^ 1568
    if !peerKnown s p pk then failExchange s p 1
    else if !Config.mlkemKeyOk ek then failExchange s p 3
    else if trngFailed s then s
    else
      let (r, s1) := draw s 256
      let (n, s2) := draw s1 256
      let head := join2 2592 (Config.mldsaPublic (s.sec.dik - 1)) (join2 32 n (Config.mlkemCiphertext ek r))
      let acc := join2 4192 head (Config.mldsaSign (s.sec.dik - 1) (join2 4192 c head))
      sendCtrl (setExchange s2 p { k with script := [c, acc], seed := Config.mlkemShared ek r }) p (.keyx 2 8819 acc)

/-- OFFER (R387). -/
def execOffer (port : Port) (len content : Nat) (s : State) : Host.Outcome State Fault Refusal :=
  .next (whenAlive s (doOffer · port len content))

/-- An ACCEPT (R387): the leader checks the follower's key and signature, derives the keys and sends CONFIRM. -/
def doAccept (s : State) (p len c : Nat) : State :=
  takeKeyx s p true 8819 len (fun k => k.cold && leads s p && k.script.length == 1) fun k =>
    let offer := k.script.getD 0 0
    let pk := c % 256 ^ 2592
    let head := c % 256 ^ 4192
    if !peerKnown s p pk then failExchange s p 1
    else if !Config.mldsaVerify pk (join2 4192 offer head) (c / 256 ^ 4192 % 256 ^ 4627) then failExchange s p 2
    else
      let conf := Config.mldsaSign (s.sec.dik - 1) (join2 4192 offer c)
      let ss := Config.mlkemDecapsulate k.seed (c / 256 ^ 2624 % 256 ^ 1568)
      let th := hashOf [(4192, offer), (8819, c), (4627, conf)]
      let s1 := sendCtrl { s with sec := { s.sec with linkTh := Store.set 0 s.sec.linkTh p th } } p (.keyx 3 4627 conf)
      installKeys s1 p { k with script := [offer, c, conf] } (keysS s p ss th)

/-- ACCEPT (R387). -/
def execAccept (port : Port) (len content : Nat) (s : State) : Host.Outcome State Fault Refusal :=
  .next (whenAlive s (doAccept · port len content))

/-- A CONFIRM (R387): the follower verifies it and derives the keys. -/
def doConfirm (s : State) (p len c : Nat) : State :=
  takeKeyx s p true 4627 len (fun k => k.cold && !leads s p && k.script.length == 2) fun k =>
    let offer := k.script.getD 0 0
    let acc := k.script.getD 1 0
    if !Config.mldsaVerify (offer % 256 ^ 2592) (join2 4192 offer acc) c then failExchange s p 2
    else
      let th := hashOf [(4192, offer), (8819, acc), (4627, c)]
      let s1 := { s with sec := { s.sec with linkTh := Store.set 0 s.sec.linkTh p th } }
      installKeys s1 p { k with script := [offer, acc, c] } (keysS s p k.seed th)

/-- CONFIRM (R387). -/
def execConfirm (port : Port) (len content : Nat) (s : State) : Host.Outcome State Fault Refusal :=
  .next (whenAlive s (doConfirm · port len content))

/-- The peer of a rotation speaks first: this end joins (R390). -/
def joinRotation (s : State) (p : Nat) : State :=
  if (exchange s p).isNone && linkActive s p && !leads s p then startExchange s p false else s

/-- A NONCE of profile F (R388): the keys follow from both nonces; ROT is that of this end's own. -/
def doNonce (s : State) (p len c : Nat) : State :=
  let s0 := if linkS s then s else joinRotation s p
  takeKeyx s0 p false 36 len (fun k => !k.derived && c / 256 ^ 32 % 2 ^ 32 == k.rot) fun k =>
    let n := c % 256 ^ 32
    installKeys s0 p { k with script := [c] } (if leads s p then keysF s p k.nonce n k.rot else keysF s p n k.nonce k.rot)

/-- NONCE (R388). -/
def execNonce (port : Port) (len content : Nat) (s : State) : Host.Outcome State Fault Refusal :=
  .next (whenAlive s (doNonce · port len content))

/-- TH of a rotation (R390): over the previous TH and the two messages. -/
def rotationHash (s : State) (p offer acc : Nat) : Nat :=
  hashOf [(64, Store.get 0 s.sec.linkTh p), (1600, offer), (1600, acc)]

/-- A ROT_OFFER (R390): the follower answers with ROT_ACCEPT and derives the new keys. -/
def doRotOffer (s : State) (p len c : Nat) : State :=
  let s0 := if linkS s then joinRotation s p else s
  takeKeyx s0 p true 1600 len (fun k => !k.cold && !leads s p && k.script.isEmpty) fun k =>
    let ek := c / 256 ^ 32 % 256 ^ 1568
    if !Config.mlkemKeyOk ek then failExchange s0 p 3
    else if trngFailed s then s0
    else
      let (r, s1) := draw s0 256
      let (n, s2) := draw s1 256
      let acc := join2 32 n (Config.mlkemCiphertext ek r)
      let th := rotationHash s p c acc
      let s3 := sendCtrl { s2 with sec := { s2.sec with linkTh := Store.set 0 s2.sec.linkTh p th } } p (.keyx 6 1600 acc)
      installKeys s3 p { k with script := [c, acc] } (keysS s p (Config.mlkemShared ek r) th)

/-- ROT_OFFER (R390). -/
def execRotOffer (port : Port) (len content : Nat) (s : State) : Host.Outcome State Fault Refusal :=
  .next (whenAlive s (doRotOffer · port len content))

/-- A ROT_ACCEPT (R390): the leader derives the new keys. -/
def doRotAccept (s : State) (p len c : Nat) : State :=
  takeKeyx s p true 1600 len (fun k => !k.cold && leads s p && k.script.length == 1) fun k =>
    let offer := k.script.getD 0 0
    let th := rotationHash s p offer c
    let s1 := { s with sec := { s.sec with linkTh := Store.set 0 s.sec.linkTh p th } }
    installKeys s1 p { k with script := [offer, c] }
      (keysS s p (Config.mlkemDecapsulate k.seed (c / 256 ^ 32 % 256 ^ 1568)) th)

/-- ROT_ACCEPT (R390). -/
def execRotAccept (port : Port) (len content : Nat) (s : State) : Host.Outcome State Fault Refusal :=
  .next (whenAlive s (doRotAccept · port len content))

/-- The peer's READY (R389). (DEDUCED, log 59) -/
def doReady (s : State) (p len c : Nat) : State :=
  takeKeyx s p (linkS s) 4 len (fun k => c % 2 ^ 32 == k.rot) fun k => finishExchange s p { k with ready := true }

/-- READY (R389). -/
def execReady (port : Port) (len content : Nat) (s : State) : Host.Outcome State Fault Refusal :=
  .next (whenAlive s (doReady · port len content))

/-- KEYX_TIMEOUT (R391): 100 ms after its start an exchange that has not finished fails. -/
def execKeyxTimeout (port : Port) (s : State) : Host.Outcome State Fault Refusal :=
  .next (whenAlive s fun s =>
    match exchange s port with
    | some k => failExchange (advanceEl s (k.start + 100000000)) port 5
    | none => s)

/-- ROT_LOG2 as it acts: values outside 16 to 28 act as 24 (R390, Table 13-16). -/
def rotLog2 (s : State) : Nat :=
  let v := getF s KEY.ROT_CTL_ROT_LOG2
  if 16 ≤ v ∧ v ≤ 28 then v else 24

/-- A scheduled rotation (R390, R63): the leader of an ACTIVE port begins it; a port that is not ACTIVE skips it. -/
def doKeyRotation (s : State) (p : Nat) : State :=
  let r := rotLog2 s
  let s1 := atPeriodic s (64 + p) (4096 * 2 ^ r) (4096 * (p * 2 ^ (r - 6)))
  if !linkActive s1 p then bumpF s1 (KEY.KX_STS_SKIPPED p)
  else if leads s1 p && (exchange s1 p).isNone then startExchange s1 p false
  else s1

/-- LINK_KEY_ROTATION (R390). -/
def execLinkKeyRotation (port : Port) (s : State) : Host.Outcome State Fault Refusal :=
  .next (whenAlive s (doKeyRotation · port))

/-- FRAME_COUNTER_LIMIT (R390): a secured-frame counter has reached 2^40, and the port stops with reason KEYING.
(DEDUCED, log 57) -/
def execFrameCounterLimit (port : Port) (s : State) : Host.Outcome State Fault Refusal :=
  .next (whenAlive s fun s =>
    if 2 ^ 40 ≤ max (getF s (PORT.FRAMES_TX port)) (getF s (PORT.FRAMES_RX port)) then
      setF (stopPort s port) (PORT.TRAIN_STS_REASON port) 10
    else s)

end Sys2Proof.Machine
end

