-- ==== Sys2Proof/Machine/RegPages.lean ====
section
/-!
DEFINITION. Register pages (chapter 16): what a register reads as, what a write of it does, the register messages of the
Selvedge ports, and the header's event registers.
-/

namespace Sys2Proof.Machine

/-! Pages and registers. -/

/-- A page answers: its unit is in service (R474), and in VOID it is FUSE, TOP or SEC (R410). (DEDUCED, log 121) -/
def pageOpen (s : State) (p : Nat) : Bool :=
  pagePresent s p && (lifecycle s != 3 || p == 0x0000 || p == 0x0001 || p == 0x0020)

/-- The bits of a register that its views show. -/
def viewBits (s : State) (vs : List View) : Nat :=
  vs.foldl (fun v x => if x.acc = .wo then v else v + bitsOf (getF s x.fld) x.shift x.width * 2 ^ x.lsb) 0

/-- The stored bits of a register of a block. (DESIGN CHOICE, log 120) -/
def storedReg (s : State) (b : Block) (n o bank : Nat) : Nat :=
  match blockViews b n o bank with
  | some d => viewBits s d.views
  | none => 0

/-- The bank that the page's select register shows at an offset. -/
def bankAt (s : State) (b : Block) (n o : Nat) : Nat :=
  match blockSelect b o with
  | none => 0
  | some (so, w) =>
    let x := storedReg s b n so 0 % 2 ^ w
    if b = .pwr ∧ (o = 0x094 ∨ o = 0x098) then enBank (bitsOf x 0 2) (bitsOf x 2 4) (bitsOf x 6 6) (bitsOf x 12 3) else x

/-- The description of a register: a header register (Table 16-1) or a block register under its present bank. -/
def regAt (s : State) (p o : Nat) : Option RegDesc :=
  match pageBlock p with
  | none => none
  | some (b, n) => if o < 0x040 then headerViews p o else blockViews b n o (bankAt s b n o)

/-! Reads. -/

/-- A rate entry exists: flows 0 to 15 and FWD (Table 12-11). (DESIGN CHOICE, log 114) -/
def rateFlow (s : State) : Bool := decide (getF s SHAPE.RATE_ADDR_FLOW ≤ 16)

/-- SCORE.SEQ_STS (Table 06-13). -/
def seqStsNow (s : State) (c : Nat) : Nat :=
  let own := ownerOf s c
  let n := match own with | some pt => (fifoOf s c pt).length | none => 0
  let busy := s.eng.shares.any fun h => h.core == c && h.lead == c && decide (h.phase ≤ 2)
  let held := s.eng.shares.any fun h => h.core == c && h.lead == c && h.phase == 0
  n % 64 + (flushMark s c).isSome.toNat * 2 ^ 6 + (own.isSome && !busy && n == 0).toNat * 2 ^ 7
    + (match own with | some pt => pt % 16 * 2 ^ 8 + 2 ^ 12 | none => 0)
    + (segQueue s c).length % 64 * 2 ^ 13 + held.toNat * 2 ^ 19

/-- SCORE.COLL_STS (Table 08-11). -/
def collStsNow (s : State) (c : Nat) : Nat :=
  match collOf s c with
  | none => 0
  | some k => 1 + k.tiles.length % 32 * 2 + k.pids.length % 8192 * 2 ^ 6

/-- ENG.ENG_STS (Table 06-14). -/
def engStsNow (s : State) (n : Nat) : Nat :=
  let c := n / 16
  let e := n % 16
  let q := queueAt s n
  engRole s c e + (testedEngine s c == some e && q.isEmpty).toNat * 2 ^ 2 + (q.any (·.begun)).toNat * 2 ^ 3
    + (match logicalOf s c e with | some k => k | none => 15) * 2 ^ 4 + min q.length 2 * 2 ^ 8

/-- SELV.LEASE and SELV.LIVE_FOR (Table 15-12). -/
def leaseNow (s : State) (m : Nat) : Nat :=
  let p := getSelv s m
  (match p.lease with | .none => 0 | .live => 1 | .expired => 2)
    + (if p.lease = .live then min 65535 ((p.start + 10000000 - s.time.elapsed) / 1000) else 0) * 2 ^ 16
/-- SELV.LIVE_FOR. -/
def liveForNow (s : State) (m : Nat) : Nat :=
  if (getSelv s m).lease = .live then min (2 ^ 32 - 1) ((s.time.elapsed - (getSelv s m).since) / 1000) else 0

/-- A block register that shows something other than stored fields: its present value. (DESIGN CHOICE, log 120) -/
def liveReg (s : State) (b : Block) (n o bank : Nat) : Option Nat :=
  match b, o with
  | .top, 0x07C => some (maskOf (coresUp s) + getF s TOP.CORE_MAP_LOST * 2 ^ 16)
  | .part, 0x520 => some (fenceEntry s)
  | .part, 0x524 => some (leaseLeft s bank)
  | .part, 0x648 => some (pidState s bank + getF s (PART.BIND_STS_RESULT 0) * 2 ^ 4 + pidPt s bank * 2 ^ 8)
  | .part, 0x604 => some (ptState s bank + getF s (PART.PT_STS_QUIESCING bank) * 2 ^ 3
      + getF s (PART.PT_STS_QRESULT bank) * 2 ^ 4)
  | .ft, 0x048 => some s.time.ft
  | .ft, 0x04C => some (s.time.ft / 2 ^ 32)
  | .ft, 0x070 => some (holdElapsed s)
  | .ging, 0x054 => some (readEntData s)
  | .xlt, 0x170 => some (hotEntry s)
  | .dir, 0x064 => some (min 8191 (s.coh.txns.filter fun e => lineCore e.1 == n).length + getF s (DIR.BUSY_MAX n) * 2 ^ 16)
  | .score, 0x040 => some (seqStsNow s n)
  | .score, 0x078 => some (collStsNow s n)
  | .eng, 0x040 => some (engStsNow s n)
  | .tier, 0x0C0 => some (strandedNow s bank)
  | .tier, 0x04C => some (min 32767 (opsNow s) + getF s TIER.OPS_MAX * 2 ^ 16)
  | .tier, 0x058 => some ((tierEmpty s bank).toNat + getF s (TIER.PT_STS_FLUSHING bank) * 2
      + getF s (TIER.PT_STS_REFUSED bank) * 4)
  | .port, 0x10C => some (min (2 ^ 24 - 1) (portDepth s n))
  | .route, 0x054 => some (readTblData s)
  | .shape, 0x064 => if rateFlow s then none else some 0
  | .shape, 0x074 => some (getF s (SHAPE.E2E_DATA_LIMIT bank) + outOf s bank % 256 * 2 ^ 8
      + getF s (SHAPE.E2E_DATA_ECRED bank) * 2 ^ 16)
  | .att, 0x04C => some (qbufWord s)
  | .key, 0x144 => if profileS s then some 0 else none
  | .pwr, 0x068 => some (getF s PWR.FAN_CTL_DUTY + (decide (getF s PWR.PWR_STS_THERM_LEVEL ≠ 0)).toNat * 2 ^ 7)
  | .pwr, 0x06C => some (thrActive s)
  | .clk, 0x044 => some (freqHalf s bank / 2 + storedReg s .clk 0 0x044 bank / 2 ^ 11 * 2 ^ 11)
  | .selv, 0x044 => some (leaseNow s n)
  | .selv, 0x048 => some (liveForNow s n)
  | .fault, 0x040 => some (s.log.length % 1024 + reservedUsed s % 32 * 2 ^ 10 + getF s FAULT.LOG_STS_LOST * 2 ^ 15
      + getF s FAULT.LOG_STS_LATCHED * 2 ^ 16)
  | .tier, o => if 0x0E4 ≤ o ∧ o < 0x124 then
      some (bitsOf (tagSet s (bank % 16 * 2 ^ 20 + bank / 16)) (8 * (o - 0x0E4)) 32) else none
  | .fault, o => if 0x080 ≤ o ∧ o < 0x0A0 then
      some (bitsOf (match lowestEntry s with | some e => e.encode | none => 0) (8 * (o - 0x080)) 32) else none
  | _, _ => none

/-- The header constants and PAGE_STS (Table 16-1). -/
def headerReg (s : State) (p : Nat) (b : Block) (o : Nat) : Nat :=
  match o with
  | 0x000 => p + b.code * 2 ^ 16
  | 0x004 => 0x100
  | 0x008 => b.nevt
  | 0x010 => 1 + (evtPending s p).toNat * 2 + getF s (HDR.LOCKED_WR p) * 2 ^ 8 + getF s (HDR.IGNORED p) * 2 ^ 16
  | _ => match headerViews p o with
    | some d => viewBits s d.views
    | none => 0

/-- What a register reads as now; an absent page and a reserved offset read 0 (R13, R474). -/
def readValue (s : State) (p o : Nat) : Nat :=
  if pageOpen s p then
    match pageBlock p with
    | none => 0
    | some (b, n) =>
      if o < 0x040 then headerReg s p b o % 2 ^ 32
      else
        let bank := bankAt s b n o
        match liveReg s b n o bank with
        | some v => v % 2 ^ 32
        | none => storedReg s b n o bank
  else 0

/-- RATE_ADDR after an access of RATE_DATA while AUTOINC is 1: FLOW advances, then PORT (Table 12-11).
(DESIGN CHOICE, log 114) -/
def rateStep (s : State) : State :=
  if flag s SHAPE.RATE_ADDR_AUTOINC then
    if getF s SHAPE.RATE_ADDR_FLOW < 16 then wrapF s SHAPE.RATE_ADDR_FLOW 1
    else setF (setF s SHAPE.RATE_ADDR_FLOW 0) SHAPE.RATE_ADDR_PORT
      (if getF s SHAPE.RATE_ADDR_PORT < 47 then getF s SHAPE.RATE_ADDR_PORT + 1 else 0)
  else s

/-- An index register advances by `k` while its AUTOINC is 1. -/
def autoStep (auto idx : Fld) (k : Nat) (s : State) : State := if flag s auto then wrapF s idx k else s

/-- What the holder's read of a register changes (R481): popping registers and index registers. -/
def readEffect (s : State) (b : Block) (o : Nat) : State :=
  match b, o with
  | .ging, 0x054 => autoStep GING.ENT_ADDR_AUTOINC GING.ENT_ADDR_INDEX 4 s
  | .xlt, 0x164 => readCntData s
  | .xlt, 0x170 => readHotPop s
  | .part, 0x520 => readFencePop s
  | .att, 0x04C => readQbuf s
  | .route, 0x054 => tblStep s
  | .route, 0x064 => autoStep ROUTE.PTAB_ADDR_AUTOINC ROUTE.PTAB_ADDR_PID 1 s
  | .shape, 0x064 => rateStep s
  | .fuse, 0x05C => autoStep FUSE.BAD_ADDR_AUTOINC FUSE.BAD_ADDR_INDEX 1 s
  | .top, 0x078 => autoStep TOP.YD_ADDR_AUTOINC TOP.YD_ADDR_INDEX 1 s
  | .pwr, 0x050 => setF s PWR.IN_POWER_PEAK 0
  | _, _ => s

/-- The name of a latching value under R482: its bank and LO address, plus 1. (DEDUCED, log 116) -/
def latchName (bank addr : Nat) : Nat := bank * 0x10000000 + addr + 1

/-- One register read by a source (0 SELV-A, 1 SELV-B, 2 the debug port): the latches of R14 and R482, and the holder's
read effects (R481). (DEDUCED, log 116) -/
def readReg (s0 : State) (src addr : Nat) (holding : Bool) : Nat × State :=
  let p := addr / 4096 % 65536
  let o := addr % 4096 / 4 * 4
  let seen := if p = 0x0500 ∧ o = 0x0D8 ∧ pageOpen s0 p then rebuildSeen s0 else s0
  let s := if holding then seen else s0
  let v := readValue seen p o
  match pageBlock p with
  | none => (v, s)
  | some (b, n) =>
    if pageOpen s p then
      let s1 := if holding then readEffect s b o else s
      let bank := bankAt s b n o
      match (regAt s p o).map RegDesc.latch with
      | some Latch.latchLo =>
        (v, { s1 with ctl := { s1.ctl with
          latch := Store.set (0, 0) s1.ctl.latch src (latchName bank (p * 4096 + o), readValue seen p (o + 4)) } })
      | some Latch.latchHi =>
        let l := Store.get (0, 0) s.ctl.latch src
        (if l.1 = latchName bank (p * 4096 + o - 4) then l.2 else v, s1)
      | _ => (v, s1)
    else (v, s)

/-- `n` reads of a burst, in order (R478). -/
def readBurst (src : Nat) (holding fixed : Bool) : Nat → Nat → State → List Nat × State
  | 0, _, s => ([], s)
  | n + 1, a, s =>
    let (v, s1) := readReg s src a holding
    let (vs, s2) := readBurst src holding fixed n (if fixed then a else a + 4) s1
    (v :: vs, s2)

/-! Writes. -/

/-- Writes of a view's register bits that store: RW stores, W1C clears (Table 00-2). -/
def storeView (v : Nat) (s : State) (x : View) : State :=
  let w := bitsOf v x.lsb x.width
  match x.acc with
  | .rw => setF s x.fld (insertBits (getF s x.fld) x.shift x.width w)
  | .rwl => setF s x.fld (insertBits (getF s x.fld) x.shift x.width w)
  | .w1c => setF s x.fld (getF s x.fld - (getF s x.fld &&& (w * 2 ^ x.shift)))
  | .ro => s
  | .wo => s

/-- A write of a register that has no behaviour of its own (R483). -/
def storeReg (s : State) (d : RegDesc) (v : Nat) : State := d.views.foldl (storeView v) s

/-- The bits of a register that its fields cover. -/
def definedBits (d : RegDesc) : Nat := d.views.foldl (fun m x => m ||| ((2 ^ x.width - 1) * 2 ^ x.lsb)) 0

/-- The bits that stand for header fields with no store of their own: PRESENT and EVT_PENDING. -/
def headerBits (o : Nat) : Nat := if o = 0x010 then 3 else 0

/-- Some field of a register is writable. -/
def writable (d : RegDesc) : Bool := d.views.any fun x => x.acc != .ro && x.width != 0

/-- The action bits of the command registers of R516. -/
def actionBits (b : Block) (o : Nat) : List Nat :=
  match b, o with
  | .ging, 0x040 => [0, 1]
  | .part, 0x400 => [4, 5]
  | .part, 0x514 => [0, 1, 2]
  | .part, 0x608 => [0, 1]
  | .part, 0x644 => [4, 5]
  | .xlt, 0x090 => [0, 1]
  | .xlt, 0x168 => [4, 5]
  | .sec, 0x058 => [0, 1, 2]
  | .att, 0x0C4 => [6, 7]
  | .key, 0x0C4 => [6, 7, 8]
  | .edac, 0x0A4 => [0, 1, 2]
  | _, _ => []

/-- Do `f` when bit `i` of the value is 1. -/
def onBit (v i : Nat) (f : State → State) (s : State) : State := if v.testBit i then f s else s

/-- Do the store, and advance the partition's CONFIG_GEN where `watch` changes by it (R396). (DEDUCED, log 90) -/
def noteField (pt : Nat) (watch : State → List Nat) (f : State → State) (s : State) : State :=
  let s1 := f s
  if watch s1 = watch s then s1 else bumpConfigGen s1 pt

/-- The fields of an image slot that a quote holds. -/
def imageFields (k : Nat) (s : State) : List Nat :=
  if getF s (ATT.IMG_CTL_STATE k) = 0 then [] else [getF s (ATT.IMG_PVA k), getF s (ATT.IMG_LEN_UNITS k)]

/-- The fields of a key slot that a quote holds. -/
def keyFields (k : Nat) (s : State) : List Nat :=
  if slotState s k = 0 then [] else [getF s (KEY.KSLOT_BASE_GIB k), getF s (KEY.KSLOT_LEN_GIB k)]

/-- CHIP_RESET (R456). -/
def writeChipReset (v : Nat) (s : State) : State :=
  onBit v 0 (fun s => if v.testBit 1 then doResetWarm s else doResetCold s) s

/-- SEC.LC_CMD (R409): targets other than RMA and VOID are refused. (DESIGN CHOICE, log 117) -/
def writeLcCmd (v : Nat) (s : State) : State :=
  onBit v 2 (fun s => match v % 4 with
    | 2 => doLcRma s
    | 3 => doVoid s
    | _ => if flag s SEC.SEC_STS_LC_BUSY then s else lcStart s 1) s

/-- ATT.QUOTE_CMD (R397): KIND 3 is refused. (DESIGN CHOICE, log 117) -/
def writeQuoteCmd (v : Nat) (s : State) : State :=
  onBit v 6 (fun s => match bitsOf v 4 2 with
    | 0 => doQuote s (v % 16)
    | 1 => doAkCertificate s
    | 2 => doDikPublicKey s
    | _ => s) s

/-- PWR.PWR_CMD (R438): other targets are refused. (DESIGN CHOICE, log 117) -/
def writePwrCmd (v : Nat) (s : State) : State :=
  onBit v 3 (fun s => match v % 8 with
    | 0 => doPwrRun s
    | 2 => doPwrIdle s
    | 3 => doPwrHibernate s
    | 4 => doPwrOff s
    | _ => pwrResult s 1) s

/-- ATT.IMG_CTL (R402): PT is written only while the slot is FREE. (DEDUCED, log 115) -/
def writeImgCtl (v : Nat) (s : State) : State :=
  let k := imgSel s
  let s1 := if getF s (ATT.IMG_CTL_STATE k) = 0 then setF s (ATT.IMG_CTL_PT k) v else s
  onBit v 7 doImgUnbind (onBit v 6 doImgBind s1)

/-- KEY.KSLOT_CTL (R399): PT is written only while the slot is EMPTY and does not leave it. (DEDUCED, log 115) -/
def writeSlotCtl (v : Nat) (s : State) : State :=
  let k := slotSel s
  let s1 := if slotState s k = 0 ∧ Store.get 0 s.sec.slotNext k = 0 then setF s (KEY.KSLOT_CTL_PT k) v else s
  onBit v 8 doSlotClear (onBit v 7 doSlotLock (onBit v 6 doSlotLoad s1))

/-- XLT.TBL_CMD (R86): ignored and flagged while BUSY. -/
def writeTblCmd (v : Nat) (s : State) : State :=
  if flag s XLT.TBL_STS_BUSY then ignored s 0x0400
  else onBit v 1 (doTblRead · (bitsOf v 2 3)) (onBit v 0 (doTblCommit · (bitsOf v 2 3)) s)

/-- Every port is DISABLED. -/
def allDisabled (s : State) : Bool := (upTo 48).all fun p => portState s p == 0

/-- A write of a register that has a behaviour of its own; `d` describes it, `bank` is its bank. `none`: it has none.
(DEDUCED, log 112) (DEDUCED, log 113) -/
def behave (b : Block) (n o bank v : Nat) (d : RegDesc) : Option (State → State) :=
  match b, o with
  | .ging, 0x040 => some fun s => onBit v 1 doGingCopy (onBit v 0 doGingFlip s)
  | .ging, 0x054 => some (doEntData · v)
  | .top, 0x040 => some (writeChipReset v)
  | .top, 0x044 => some (onBit v 4 (doSeqStep · (v % 16)))
  | .top, 0x05C => some (onBit v 0 doHandover)
  | .top, 0x060 => some (noteChip (doDetWrite · v))
  | .part, 0x400 => some fun s => onBit v 5 (doDrunClose · (v % 16)) (onBit v 4 (doDrunOpen · (v % 16)) s)
  | .part, 0x504 => some (noteField bank (fun s => [getF s (PART.LEASE_CFG_LEN_US bank), getF s (PART.LEASE_CFG_REVERT bank)])
      (storeReg · d v))
  | .part, 0x514 => some fun s => onBit v 2 doUnfence (onBit v 1 doRelease (onBit v 0 doFence s))
  | .part, 0x608 => some fun s => onBit v 1 doResumeCmd (onBit v 0 (fun s => doQuiesce s (selPt s)) s)
  | .part, 0x614 => some (onBit v 0 fun s => noteState (selPt s) (doScrubGo · (selPt s)) s)
  | .part, 0x630 => some (onBit v 0 fun s => doCfg s (selPt s))
  | .part, 0x644 => some fun s => onBit v 5 doUnbind (onBit v 4 (doBind · (v % 16)) s)
  | .ft, 0x058 => some (onBit v 0 doFtLoad)
  | .xlt, 0x090 => some (writeTblCmd v)
  | .xlt, 0x0A0 => some (onBit v 7 (doXltInvalidate · (v % 16) (bitsOf v 4 2) (v.testBit 6)))
  | .xlt, 0x0D0 => some (onBit v 4 (doPageMove · (v % 16)))
  | .xlt, 0x0E0 => some (onBit v 4 (doXltDigest · (v % 16)))
  | .xlt, 0x168 => some fun s => onBit v 5 doCntClearAll (onBit v 4 (doCntClear · (v % 16)) s)
  | .dir, 0x084 => some (doRgnCtl · n v)
  | .dir, 0x088 => some (doRgnVer · n false v)
  | .dir, 0x08C => some (doRgnVer · n true v)
  | .score, 0x044 => some (onBit v 0 (doSeqFlush · n))
  | .eng, 0x070 => some (doChkInject · (n / 16) (n % 16) v)
  | .hphy, 0x050 => some (onBit v 0 fun s => if stackLive s n then doBistStart s n (bitsOf v 1 1) else s)
  | .edac, 0x080 => some (onBit v 31 (doRemapRequest · n v))
  | .edac, 0x08C => some fun s =>
      let s1 := storeReg s d v
      if getF s1 (EDAC.ERASE_PIN n bank) = getF s (EDAC.ERASE_PIN n bank)
          ∧ getF s1 (EDAC.ERASE_EN n bank) = getF s (EDAC.ERASE_EN n bank) then s1
      else setB s1 (EDAC.ERASE_AUTO_SET n bank) false
  | .edac, 0x0A4 => some fun s =>
      if stackLive s n then onBit v 2 (doTestReadRaw · n) (onBit v 1 (doTestRead · n) (onBit v 0 (doTestWrite · n) s)) else s
  | .tier, 0x054 => some fun s => doCacheWrite s bank v
  | .tier, 0x05C => some (onBit v 0 fun s => doTierFlush s (getF s TIER.PT_SEL_PT))
  | .tier, 0x0D0 => some (onBit v 4 (doRebuild · (v % 16)))
  | .pcie, 0x050 => some (onBit v 0 (doPortReset · n))
  | .port, 0x040 => some fun s => let s1 := storeReg s d v; if v.testBit 0 then s1 else disablePort s1 n
  | .port, 0x044 => some fun s => onBit v 1 (doRetrain · n) (onBit v 0 (doTrain · n) s)
  | .port, 0x0B0 => some (onBit v 2 (doLwcRequest · n (v % 4)))
  | .port, 0x100 => some fun s =>
      let s1 := setF s (PORT.XPORT_CTL_CC_MODE n) (v / 2)
      if portState s n = 0 then setF s1 (PORT.XPORT_CTL_GROUP n) v else s1
  | .route, 0x040 => some fun s => if allDisabled s then storeReg s d v else s
  | .route, 0x048 => some fun s => onBit v 1 doRouteCopy (onBit v 0 doRouteFlip s)
  | .route, 0x054 => some (doTblData · v)
  | .route, 0x064 => some fun s => autoStep ROUTE.PTAB_ADDR_AUTOINC ROUTE.PTAB_ADDR_PID 1 (storeReg s d v)
  | .route, 0x074 => some (doGroupWrite · 0 v)
  | .route, 0x078 => some (doGroupWrite · 1 v)
  | .route, 0x07C => some (doGroupWrite · 2 v)
  | .route, 0x080 => some (doGroupWrite · 3 v)
  | .shape, 0x064 => some fun s => rateStep (if rateFlow s then storeReg s d v else s)
  | .shape, 0x074 => some (doLimitWrite · v)
  | .fuse, 0x060 => some (onBit v 16 (doFieldProgram · (v % 65536)))
  | .sec, 0x040 => some (writeLcCmd v)
  | .sec, 0x048 => some (doDebugWrite · (v % 4))
  | .sec, 0x054 => some (doFwData · v)
  | .sec, 0x058 => some fun s => onBit v 2 doSvnCommit (onBit v 1 doFwDiscard (onBit v 0 doFwVerify s))
  | .att, 0x040 => some (writeQuoteCmd v)
  | .att, 0x0C4 => some (writeImgCtl v)
  | .att, 0x0C8 => some fun s => noteField (getF s (ATT.IMG_CTL_PT bank)) (imageFields bank) (storeReg · d v) s
  | .att, 0x0CC => some fun s => noteField (getF s (ATT.IMG_CTL_PT bank)) (imageFields bank) (storeReg · d v) s
  | .att, 0x0D0 => some fun s => noteField (getF s (ATT.IMG_CTL_PT bank)) (imageFields bank) (storeReg · d v) s
  | .key, 0x0C4 => some (writeSlotCtl v)
  | .key, 0x0C8 => some fun s => noteField (slotPt s bank) (keyFields bank) (storeReg · d v) s
  | .key, 0x0CC => some fun s => noteField (slotPt s bank) (keyFields bank) (storeReg · d v) s
  | .key, 0x104 => some (doRelData · v)
  | .key, 0x108 => some (onBit v 0 doKeyRelease)
  | .key, 0x144 => some fun s => if profileS s then s else followTgen (storeReg s d v) bank
  | .pwr, 0x048 => some (writePwrCmd v)
  | .pwr, 0x09C => some (onBit v 0 doEnClear)
  | .fault, 0x048 => some fun s => onBit v 1 doClearLost (onBit v 0 doFaultPop s)
  | .xlt, o => if 0x040 ≤ o ∧ o < 0x080 then
      let k := (o - 0x040) / 4
      some fun s => refreshFrames (noteField k (fun s => [getF s (XLT.ROOT_V k), getF s (XLT.ROOT_OFFSET k)])
        (storeReg · d v) (refreshFrames s)) else none
  | .pxc, o => if 0x040 ≤ o ∧ o < 0x080 then some (doWaysWrite · ((o - 0x040) / 4) v) else none
  | .tier, o => if 0x060 ≤ o ∧ o < 0x0A0 then some (doDriveAssign · ((o - 0x060) / 4) v) else none
  | .att, o => if 0x100 ≤ o ∧ o < 0x140 then
      some fun s => if getF s (ATT.IMG_CTL_STATE bank) = 0 then storeReg s d v else s else none
  | _, _ => none

/-- Clear bits of PAGE_EVT while events set the bits of `same` in the same cycle: a bit that both touch stays 1 and counts
as a new event (R483, R484). -/
def clearEvt (s : State) (p v same : Nat) : State :=
  let old := getF s (HDR.EVT p)
  let m := same % 2 ^ pageNevt p
  let s1 := setF s (HDR.EVT p) ((old - (old &&& v)) ||| m)
  let fresh := m - (m &&& (old - (old &&& v)))
  if (fresh &&& getF s1 (HDR.EVT_EN p)) != 0 then formEvt s1 p else s1

/-- PAGE_EVT AND PAGE_EVT_EN. -/
def evtLive (s : State) (p : Nat) : Nat := getF s (HDR.EVT p) &&& getF s (HDR.EVT_EN p)

/-- A write of PAGE_EVT_EN (R484): a message where an enabled bit is gained. -/
def writeEvtEn (s : State) (p v : Nat) : State :=
  let s1 := setF s (HDR.EVT_EN p) v
  if (evtLive s1 p - (evtLive s1 p &&& evtLive s p)) != 0 then formEvt s1 p else s1

/-- A write of PAGE_CTL (R484): a message where MSG_HOLD falls with bits pending. -/
def writeHold (s : State) (p v : Nat) : State :=
  let s1 := setF s (HDR.MSG_HOLD p) v
  if flag s (HDR.MSG_HOLD p) && !flag s1 (HDR.MSG_HOLD p) && evtLive s1 p != 0 then formEvt s1 p else s1

/-- Flag a write that reaches a reserved bit, or a register with no writable field (R483). -/
def flagWrite (s : State) (p o v : Nat) (d : RegDesc) : State :=
  let m := definedBits d ||| headerBits o
  if (v - (v &&& m)) != 0 || !writable d then ignored s p else s

/-- The effect of a write on an open page's register. A write of PAGE_STS that is itself flagged leaves IGNORED set. -/
def actReg (s : State) (p : Nat) (b : Block) (n o v : Nat) (d : RegDesc) : State :=
  match o with
  | 0x010 => flagWrite (storeReg s d v) p o v d
  | 0x00C => writeHold s p v
  | 0x014 => clearEvt s p v 0
  | 0x018 => writeEvtEn s p v
  | _ =>
    if o < 0x040 then storeReg s d v
    else match behave b n o (bankAt s b n o) v d with
      | some f => f s
      | none => storeReg s d v

/-- A write of a register (R13, R474, R483, R516). -/
def writeReg (s : State) (addr value : Nat) : State :=
  let p := addr / 4096 % 65536
  let o := addr % 4096 / 4 * 4
  let v := value % 2 ^ 32
  match pageBlock p with
  | none => s
  | some (b, n) =>
    if !pageOpen s p then s
    else match regAt s p o with
      | none => ignored s p
      | some d =>
        if 1 < ((actionBits b o).filter v.testBit).length then ignored s p
        else actReg (flagWrite s p o v d) p b n o v d

/-- REGISTER_WRITE (R483): a write that the holder may make. -/
def execRegisterWrite (addr value : Nat) (s : State) : Host.Outcome State Fault Refusal :=
  .next (whenAlive s (writeReg · addr value))

/-- `f s` on a page that answers. -/
def onPage (p : Nat) (f : State → State) (s : State) : State := if pageOpen s (p % 65536) then f s else s

/-- PAGE_EVT_CLEAR (R483, R485). -/
def execPageEvtClear (page value setSame : Nat) (s : State) : Host.Outcome State Fault Refusal :=
  .next (whenAlive s (onPage page fun s =>
    let p := page % 65536
    let s1 := if value % 2 ^ 32 / 2 ^ pageNevt p ≠ 0 ∨ pageNevt p = 0 then ignored s p else s
    clearEvt s1 p (value % 2 ^ 32) setSame))

/-- PAGE_EVT_EN_WRITE (R484). -/
def execPageEvtEnWrite (page value : Nat) (s : State) : Host.Outcome State Fault Refusal :=
  .next (whenAlive s fun s => writeReg s (page % 65536 * 4096 + 0x018) value)

/-- MSG_HOLD_WRITE (R484). -/
def execMsgHoldWrite (page value : Nat) (s : State) : Host.Outcome State Fault Refusal :=
  .next (whenAlive s fun s => writeReg s (page % 65536 * 4096 + 0x00C) value)

/-! Register messages (R448, R450, R460, R477 to R481). -/

/-- BAD_LEN or BAD_ADDR refuse a message as a whole (R479); BAD_LEN is tested first. (DEDUCED, log 109) -/
def shapeStatus (addr n : Nat) (fixed : Bool) : Nat :=
  if n = 0 ∨ 64 < n then 8
  else if addr % 4 ≠ 0 ∨ 2 ^ 28 ≤ addr ∨ (!fixed ∧ 4096 < addr % 4096 + 4 * n) then 6
  else 0

/-- Pages and registers that refuse writes with NOT_READY until M7 is DONE after a cold reset (R460). -/
def closedBefore (p o : Nat) : Bool :=
  match pageBlock p with
  | some (.part, _) => true
  | some (.xlt, _) => true
  | some (.pxc, _) => true
  | some (.dir, _) => true
  | some (.tier, _) => true
  | some (.att, _) => decide (0x0C0 ≤ o ∧ o < 0x180)
  | some (.key, _) => decide (0x0C0 ≤ o ∧ o < 0x0D4)
  | _ => false

/-- The registers that the dual-command window does not cover (R450). -/
def noOldWrite (addr : Nat) : Bool :=
  [0x0000040, 0x0000044, 0x0000060, 0x0000058, 0x000005C, 0x0020040, 0x0020058, 0x0020048, 0x0001060, 0x0022108].contains addr

/-- LATCHED and NOT_READY (R469, R460); a latched module takes only a cold CHIP_RESET. (DEDUCED, log 109) -/
def modeStatus (s : State) (addr v : Nat) : Nat :=
  if latched s ∧ !(addr = 0x0000040 ∧ !v.testBit 1) then 5
  else if !s.boot.initialised && closedBefore (addr / 4096) (addr % 4096) then 7
  else 0

/-- A write of the previous epoch from the previous holder's port, in the dual-command window (R450). -/
def oldWrite (s : State) (m epoch : Nat) : Bool :=
  windowOpen s && s.ctl.prevHolder == m + 1 && epoch == s.ctl.prevEpoch

/-- The status of one write access of a port (R444, R448, R450, R469, R460): the holder and the epoch are tested first.
(DEDUCED, log 109) -/
def writeStatus (s : State) (m epoch addr v : Nat) : Nat :=
  let cur := getF s TOP.CTL_STS_EPOCH
  let old := oldWrite s m epoch
  if holder s ≠ some m ∧ !old then
    if s.ctl.prevHolder = m + 1 ∧ epoch = s.ctl.prevEpoch ∧ epoch ≠ cur then 2 else 1
  else if epoch ≠ cur ∧ !old then 2
  else if old ∧ !(holder s = some m ∧ epoch = cur) ∧ noOldWrite addr then 2
  else modeStatus s addr v

/-- A refused CHIP_RESET leaves its reason (Table 15-10). -/
def noteRefusedReset (s : State) (addr v st : Nat) : State :=
  if addr = 0x0000040 ∧ v.testBit 0 then
    match st with
    | 2 => refuseReset s 5
    | 5 => refuseReset s 4
    | _ => s
  else s

/-- Count a refused write of a port (Table 15-12). -/
def countRefused (s : State) (m st : Nat) : State :=
  match st with
  | 1 => bumpF s (SELV.REFUSED_NOT_HOLDER m)
  | 2 => bumpF s (SELV.REFUSED_STALE m)
  | _ => s

/-- The write starts a reset that is accepted (R456). -/
def startsReset (s : State) (addr v : Nat) : Bool :=
  addr == 0x0000040 && v.testBit 0 && pageOpen s 0x0000
    && (if v.testBit 1 then warmReason s == 0 else coolEnough s)

/-- The response to a register message; its epoch is the one in force (R478, Table 16-2). -/
def regAnswer (s : State) (m tag status performed : Nat) (data : List Nat) : State :=
  sendSelv s m (.regRsp (tag % 65536) (getF s TOP.CTL_STS_EPOCH) status performed data)

/-- The writes of a burst, in order, up to the first that is refused (R479). The answer to one that resets the module
leaves before the links drop. (DEDUCED, log 101) -/
def writeBurst (m tag epoch : Nat) (fixed : Bool) : List Nat → Nat → Nat → State → State
  | [], _, k, s => regAnswer s m tag 0 k []
  | v :: vs, a, k, s =>
    let st := writeStatus s m epoch a v
    if st ≠ 0 then regAnswer (countRefused (noteRefusedReset s a v st) m st) m tag st k []
    else
      let s1 := if oldWrite s m epoch && !(holder s == some m && epoch == getF s TOP.CTL_STS_EPOCH)
        then bumpF s (SELV.OLD_EPOCH_WR_COUNT m) else s
      if startsReset s a v then writeReg (regAnswer s1 m tag 0 (k + 1) []) a v
      else writeBurst m tag epoch fixed vs (if fixed then a else a + 4) (k + 1) (writeReg s1 a v)

/-- REG_READ (R478, R481): never refused for control. -/
def execRegRead (f : SelvFrame) (tag addr n : Nat) (fixed : Bool) (s : State) : Host.Outcome State Fault Refusal :=
  .next (whenManaged s <| onFrame f fun s =>
    if selvUp s f.port then
      let st := if f.words ≠ 2 then 8 else shapeStatus addr n fixed
      if st ≠ 0 then regAnswer s f.port tag st 0 []
      else
        let (vs, s1) := readBurst f.port (holder s == some f.port.val) fixed n addr s
        regAnswer s1 f.port tag 0 n vs
    else s)

/-- REG_WRITE (R448, R478, R479). -/
def execRegWrite (f : SelvFrame) (tag epoch addr n : Nat) (fixed : Bool) (data : List Nat) (s : State) :
    Host.Outcome State Fault Refusal :=
  .next (whenManaged s <| onFrame f fun s =>
    if selvUp s f.port then
      let st := if data.length ≠ n ∨ f.words ≠ n + 2 then 8 else shapeStatus addr n fixed
      if st ≠ 0 then regAnswer s f.port tag st 0 []
      else writeBurst f.port tag (epoch % 65536) fixed (data.map (· % 2 ^ 32)) addr 0 s
    else s)

end Sys2Proof.Machine
end

