-- ==== Sys2Proof/Machine/Tap.lean ====
section
/-!
DEFINITION. The debug contacts: the test access port's instructions and the register messages that it carries (R489,
R513).
-/

namespace Sys2Proof.Machine

/-- The debug port's receivers are on (Table 16-4). (DEDUCED, log 110) -/
def tapOn (s : State) : Bool := managed s && flag s DBG.DBG_CTL_PORT_EN

/-- Shift an instruction into the test access port: the data register it selects holds `dr`. A scan that ran ends.
(DESIGN CHOICE, log 39) -/
def tapLoad (s : State) (ir dr : Nat) : State :=
  let s1 := setB s DBG.DBG_STS_SCAN false
  { s1 with dbg := { s1.dbg with ir := ir, dr := dr } }

/-- The identification register (Table 17-8). -/
def idcodeNow (s : State) : Nat :=
  getF s FUSE.PART_INFO_STEPPING % 256 * 2 ^ 24 + (if getF s FUSE.PART_INFO_PART = 3 then 0x480 else 0x960) * 2 ^ 12 + 1

/-- IDCODE (R513). -/
def execIdcode (s : State) : Host.Outcome State Fault Refusal :=
  .next (if tapOn s then tapLoad s 0x01 (idcodeNow s) else s)

/-- BYPASS (R513), for its own code and every undefined one. (PRESUMED, log 111) -/
def execBypass (code : Nat) (s : State) : Host.Outcome State Fault Refusal :=
  .next (if tapOn s && !([0x01, 0x10, 0x20].contains (code % 256)) then tapLoad s 0xFF 0 else s)

/-- SCAN (R513), accepted at D2 only. What the chains hold is a free value. (DESIGN CHOICE, log 39) -/
def doScan (s : State) : State :=
  if tapOn s && getF s SEC.DEBUG_LEVEL == 2 then
    let (v, s1) := freeNat s 32
    setB (tapLoad s1 0x20 v) DBG.DBG_STS_SCAN true
  else s
/-- SCAN. (DESIGN CHOICE, log 39) -/
def execScan (s : State) : Host.Outcome State Fault Refusal := .next (doScan s)

/-- The words of a REG_RSP (Tables 16-2 and 16-3). -/
def rspWords (s : State) (tag status performed : Nat) (data : List Nat) : List Nat :=
  [0x22 + (1 + data.length) % 256 * 2 ^ 8 + getF s STRAP.STRAPS_MOD_ID * 2 ^ 16,
   tag % 65536 + getF s TOP.CTL_STS_EPOCH * 2 ^ 16, status + performed * 2 ^ 8] ++ data

/-- The debug port's pending response grows by one REG_RSP. -/
def tapAnswer (s : State) (tag status performed : Nat) (data : List Nat) : State :=
  { s with dbg := { s.dbg with outWords := s.dbg.outWords ++ rspWords s tag status performed data } }

/-- A register read through the debug port: at D1 and D2 every page, at D0 none (R489). (DEDUCED, log 110) -/
def tapRead (s : State) (tag addr n : Nat) (fixed : Bool) : State :=
  if getF s SEC.DEBUG_LEVEL = 0 then tapAnswer s tag 0 n (List.replicate n 0)
  else
    let (vs, s1) := readBurst 2 false fixed n addr s
    tapAnswer (addF s1 DBG.DBG_ACCESS_COUNT n) tag 0 n vs

/-- The writes of the debug port, as though they came from the holder (R489). -/
def tapWrites (tag : Nat) (fixed : Bool) : List Nat → Nat → Nat → State → State
  | [], _, k, s => tapAnswer s tag 0 k []
  | v :: vs, a, k, s =>
    let st := modeStatus s a v
    if st ≠ 0 then tapAnswer (noteRefusedReset s a v st) tag st k []
    else
      let go := startsReset s a v
      let s1 := writeReg (bumpF s DBG.DBG_ACCESS_COUNT) a v
      if go then tapAnswer s1 tag 0 (k + 1) [] else tapWrites tag fixed vs (if fixed then a else a + 4) (k + 1) s1

/-- A register write through the debug port: at D2 only (R489). The status of a write at a lower level is a free value.
(DEDUCED, log 110) -/
def tapWrite (s : State) (tag addr : Nat) (fixed : Bool) (data : List Nat) : State :=
  if getF s SEC.DEBUG_LEVEL = 2 then tapWrites tag fixed data addr 0 s
  else
    let (st, s1) := freeNat s 8
    tapAnswer s1 tag st 0 []

/-- A whole message has come in through MSG: REG_READ and REG_WRITE are performed, any other is dropped (R513). -/
def tapMessage (s : State) (ws : List Nat) : State :=
  let w0 := ws.getD 0 0
  let tag := ws.getD 1 0 % 65536
  let a := ws.getD 2 0 % 2 ^ 28 + ws.getD 2 0 / 2 ^ 29 * 2 ^ 28
  let fixed := (ws.getD 2 0).testBit 28
  let n := ws.getD 3 0 % 128
  let data := ws.drop 4
  let op := w0 % 256
  if op ≠ 0x20 ∧ op ≠ 0x21 then s
  else
    let st := if w0 / 256 % 256 ≠ (if op = 0x20 then 2 else 2 + n) then 8 else shapeStatus a n fixed
    if st ≠ 0 then tapAnswer s tag st 0 []
    else if op = 0x20 then tapRead s tag a n fixed else tapWrite s tag a fixed data

/-- MSG (R513): one word of the response goes out, and one word comes in where VALID is 1. -/
def doMsg (s : State) (word : Nat) (valid : Bool) : State :=
  if tapOn s then
    let s1 := match s.dbg.outWords with
      | [] => tapLoad s 0x10 0
      | w :: rest => tapLoad { s with dbg := { s.dbg with outWords := rest } } 0x10 (w % 2 ^ 32 + 2 ^ 32)
    if valid then
      let ws := s1.dbg.inWords ++ [word % 2 ^ 32]
      if 2 ≤ ws.length ∧ ws.length = 2 + ws.getD 0 0 / 256 % 256 then
        tapMessage { s1 with dbg := { s1.dbg with inWords := [] } } ws
      else { s1 with dbg := { s1.dbg with inWords := ws } }
    else s1
  else s
/-- MSG. -/
def execMsg (word : Nat) (valid : Bool) (s : State) : Host.Outcome State Fault Refusal := .next (doMsg s word valid)

end Sys2Proof.Machine
end

