-- ==== Sys2Proof/Machine/Dispatch.lean ====
section
/-!
DEFINITION. The meaning of every command, one arm per constructor.
-/

namespace Sys2Proof.Machine

def exec (i : Instr) (s : State) : Host.Outcome State Fault Refusal :=
  match i with
  | .timeSync f t1 sub turn => Sys2Proof.Machine.execTimeSync f t1 sub turn s
  | .delayRsp f t4 => Sys2Proof.Machine.execDelayRsp f t4 s
  | .missedExchange => Sys2Proof.Machine.execMissedExchange s
  | .holdoverLimit => Sys2Proof.Machine.execHoldoverLimit s
  | .ftLoad => Sys2Proof.Machine.execFtLoad s
  | .loadTakesEffect => Sys2Proof.Machine.execLoadTakesEffect s
  | .gingFlip => Sys2Proof.Machine.execGingFlip s
  | .gingCopy => Sys2Proof.Machine.execGingCopy s
  | .gingFlipFrame => Sys2Proof.Machine.execGingFlipFrame s
  | .gingEntData value => Sys2Proof.Machine.execGingEntData value s
  | .detModeWrite value => Sys2Proof.Machine.execDetModeWrite value s
  | .detModeTakesEffect => Sys2Proof.Machine.execDetModeTakesEffect s
  | .drunOpen pt => Sys2Proof.Machine.execDrunOpen pt s
  | .runColdStart pt => Sys2Proof.Machine.execRunColdStart pt s
  | .runFrame0 pt => Sys2Proof.Machine.execRunFrame0 pt s
  | .drunClose pt => Sys2Proof.Machine.execDrunClose pt s
  | .dxUnaligned => Sys2Proof.Machine.execDxUnaligned s
  | .heartbeat missing => Sys2Proof.Machine.execHeartbeat missing s
  | .mirrorFailoverDone pt => Sys2Proof.Machine.execMirrorFailoverDone pt s
  | .tclkLossOfLock => Sys2Proof.Machine.execTclkLossOfLock s
  | .tblCommit level => Sys2Proof.Machine.execTblCommit level s
  | .tblCommitDone => Sys2Proof.Machine.execTblCommitDone s
  | .tblRead level => Sys2Proof.Machine.execTblRead level s
  | .xltInvalidate pt kind rcl => Sys2Proof.Machine.execXltInvalidate pt kind rcl s
  | .invDone => Sys2Proof.Machine.execInvDone s
  | .pageMove pt => Sys2Proof.Machine.execPageMove pt s
  | .moveDone pt => Sys2Proof.Machine.execMoveDone pt s
  | .xltDigest pt => Sys2Proof.Machine.execXltDigest pt s
  | .xltDigestDone => Sys2Proof.Machine.execXltDigestDone s
  | .pxcWaysWrite pt mask => Sys2Proof.Machine.execPxcWaysWrite pt mask s
  | .cntClear core => Sys2Proof.Machine.execCntClear core s
  | .cntClearAll => Sys2Proof.Machine.execCntClearAll s
  | .cntData => Sys2Proof.Machine.execCntData s
  | .hotPop => Sys2Proof.Machine.execHotPop s
  | .rdShared pid tag ties => Sys2Proof.Machine.execRdShared pid tag ties s
  | .rdOwn pid tag ties => Sys2Proof.Machine.execRdOwn pid tag ties s
  | .upgrade pid tag ties => Sys2Proof.Machine.execUpgrade pid tag ties s
  | .rdOnce pid tag ties => Sys2Proof.Machine.execRdOnce pid tag ties s
  | .wrFull pid tag ties => Sys2Proof.Machine.execWrFull pid tag ties s
  | .wrPart pid tag ties => Sys2Proof.Machine.execWrPart pid tag ties s
  | .wb pid tag => Sys2Proof.Machine.execWb pid tag s
  | .evict pid tag => Sys2Proof.Machine.execEvict pid tag s
  | .atomic pid tag ties => Sys2Proof.Machine.execAtomic pid tag ties s
  | .publish pid tag ties => Sys2Proof.Machine.execPublish pid tag ties s
  | .rdVersion pid tag ties => Sys2Proof.Machine.execRdVersion pid tag ties s
  | .invAck core pid off => Sys2Proof.Machine.execInvAck core pid off s
  | .snpAck core pid off isNew => Sys2Proof.Machine.execSnpAck core pid off isNew s
  | .snpData core pid off isNew data => Sys2Proof.Machine.execSnpData core pid off isNew data s
  | .snpFwded core pid off data => Sys2Proof.Machine.execSnpFwded core pid off data s
  | .wbPending core pid off => Sys2Proof.Machine.execWbPending core pid off s
  | .compAck core pid off => Sys2Proof.Machine.execCompAck core pid off s
  | .pushAck core pid off => Sys2Proof.Machine.execPushAck core pid off s
  | .pushDecline core pid off => Sys2Proof.Machine.execPushDecline core pid off s
  | .leaseRenew sender seq => Sys2Proof.Machine.execLeaseRenew sender seq s
  | .unknownOpcode core pid opcode off => Sys2Proof.Machine.execUnknownOpcode core pid opcode off s
  | .partnerLeaseCheck => Sys2Proof.Machine.execPartnerLeaseCheck s
  | .fence => Sys2Proof.Machine.execFence s
  | .release => Sys2Proof.Machine.execRelease s
  | .sweepDone pt => Sys2Proof.Machine.execSweepDone pt s
  | .unfence => Sys2Proof.Machine.execUnfence s
  | .fencePop => Sys2Proof.Machine.execFencePop s
  | .rgnCtlWrite core value => Sys2Proof.Machine.execRgnCtlWrite core value s
  | .rgnVerWrite core hi value => Sys2Proof.Machine.execRgnVerWrite core hi value s
  | .cmdWriteDesc pid tag ties => Sys2Proof.Machine.execCmdWriteDesc pid tag ties s
  | .cmdRead pid tag ties => Sys2Proof.Machine.execCmdRead pid tag ties s
  | .cmdWriteFlush pid tag ties => Sys2Proof.Machine.execCmdWriteFlush pid tag ties s
  | .seqCmdFlush core => Sys2Proof.Machine.execSeqCmdFlush core s
  | .flushTakesEffect core => Sys2Proof.Machine.execFlushTakesEffect core s
  | .descRead core => Sys2Proof.Machine.execDescRead core s
  | .orderRelease core => Sys2Proof.Machine.execOrderRelease core s
  | .patternFetchDone core => Sys2Proof.Machine.execPatternFetchDone core s
  | .segment core dest => Sys2Proof.Machine.execSegment core dest s
  | .tileEmit core seg => Sys2Proof.Machine.execTileEmit core seg s
  | .indexArrival core fill => Sys2Proof.Machine.execIndexArrival core fill s
  | .tierHint core seg t va => Sys2Proof.Machine.execTierHint core seg t va s
  | .tileDispatch core => Sys2Proof.Machine.execTileDispatch core s
  | .tileExecute core eng run => Sys2Proof.Machine.execTileExecute core eng run s
  | .tileReexecute core eng => Sys2Proof.Machine.execTileReexecute core eng s
  | .detLimit core eng => Sys2Proof.Machine.execDetLimit core eng s
  | .tileDone e ties => Sys2Proof.Machine.execTileDone e ties s
  | .segmentReport core lead num => Sys2Proof.Machine.execSegmentReport core lead num s
  | .rootCompute e num found => Sys2Proof.Machine.execRootCompute e num found s
  | .collPut core pid t j data => Sys2Proof.Machine.execCollPut core pid t j data s
  | .selftestRotationStep core => Sys2Proof.Machine.execSelftestRotationStep core s
  | .selftestDone core block => Sys2Proof.Machine.execSelftestDone core block s
  | .chkInject core eng value => Sys2Proof.Machine.execChkInject core eng value s
  | .dramRequest core off src port write part => Sys2Proof.Machine.execDramRequest core off src port write part s
  | .ageExpired core pc => Sys2Proof.Machine.execAgeExpired core pc s
  | .dataWindow core pc => Sys2Proof.Machine.execDataWindow core pc s
  | .dramReadData core off src errors => Sys2Proof.Machine.execDramReadData core off src errors s
  | .correctedWriteback core => Sys2Proof.Machine.execCorrectedWriteback core s
  | .refreshSlot core => Sys2Proof.Machine.execRefreshSlot core s
  | .maintSlot core untrained again => Sys2Proof.Machine.execMaintSlot core untrained again s
  | .remapRequest core value => Sys2Proof.Machine.execRemapRequest core value s
  | .pinErased core pc => Sys2Proof.Machine.execPinErased core pc s
  | .bistStart core kind => Sys2Proof.Machine.execBistStart core kind s
  | .bistDone core errors => Sys2Proof.Machine.execBistDone core errors s
  | .testWrite core => Sys2Proof.Machine.execTestWrite core s
  | .testRead core => Sys2Proof.Machine.execTestRead core s
  | .testReadRaw core => Sys2Proof.Machine.execTestReadRaw core s
  | .tierAccess pid tag => Sys2Proof.Machine.execTierAccess pid tag s
  | .tierWayWait pid tag => Sys2Proof.Machine.execTierWayWait pid tag s
  | .evictRecallDone core set way => Sys2Proof.Machine.execEvictRecallDone core set way s
  | .fillComplete core set way => Sys2Proof.Machine.execFillComplete core set way s
  | .writebackComplete core set way drive => Sys2Proof.Machine.execWritebackComplete core set way drive s
  | .nvmeTimeout core set way drive => Sys2Proof.Machine.execNvmeTimeout core set way drive s
  | .nvmeCommandFail core set way drive => Sys2Proof.Machine.execNvmeCommandFail core set way drive s
  | .rootLinkDown root => Sys2Proof.Machine.execRootLinkDown root s
  | .rebuildGo port => Sys2Proof.Machine.execRebuildGo port s
  | .rebuildDone => Sys2Proof.Machine.execRebuildDone s
  | .tierFlush pt => Sys2Proof.Machine.execTierFlush pt s
  | .tierFlushDone pt => Sys2Proof.Machine.execTierFlushDone pt s
  | .ptCacheWrite pt gib => Sys2Proof.Machine.execPtCacheWrite pt gib s
  | .driveAssign root value => Sys2Proof.Machine.execDriveAssign root value s
  | .portReset root => Sys2Proof.Machine.execPortReset root s
  | .driveReady root rate lanes flit id lbas => Sys2Proof.Machine.execDriveReady root rate lanes flit id lbas s
  | .driveRequest root req => Sys2Proof.Machine.execDriveRequest root req s
  | .portTrain port => Sys2Proof.Machine.execPortTrain port s
  | .portRetrain port => Sys2Proof.Machine.execPortRetrain port s
  | .detectSignal port => Sys2Proof.Machine.execDetectSignal port s
  | .tseq port lane block good => Sys2Proof.Machine.execTseq port lane block good s
  | .ts1 port lane block => Sys2Proof.Machine.execTs1 port lane block s
  | .ts2 port block => Sys2Proof.Machine.execTs2 port block s
  | .ts3 port block => Sys2Proof.Machine.execTs3 port block s
  | .trainStateLimit port => Sys2Proof.Machine.execTrainStateLimit port s
  | .failedHoldEnd port => Sys2Proof.Machine.execFailedHoldEnd port s
  | .laneLossOfLock port lane => Sys2Proof.Machine.execLaneLossOfLock port lane s
  | .laneSerLimit port lane symbols => Sys2Proof.Machine.execLaneSerLimit port lane symbols s
  | .fecUncorrectableLimit port words => Sys2Proof.Machine.execFecUncorrectableLimit port words s
  | .lwcRequest port width => Sys2Proof.Machine.execLwcRequest port width s
  | .lwcReq port width => Sys2Proof.Machine.execLwcReq port width s
  | .lwcGo port width lanes => Sys2Proof.Machine.execLwcGo port width lanes s
  | .flit port bytes => Sys2Proof.Machine.execFlit port bytes s
  | .replayTimer port => Sys2Proof.Machine.execReplayTimer port s
  | .replayLimit port => Sys2Proof.Machine.execReplayLimit port s
  | .tagFailLimit port => Sys2Proof.Machine.execTagFailLimit port s
  | .creditCheck port freed => Sys2Proof.Machine.execCreditCheck port freed s
  | .creditStall port => Sys2Proof.Machine.execCreditStall port s
  | .cchkPeriod port => Sys2Proof.Machine.execCchkPeriod port s
  | .packetArrival port p replayed => Sys2Proof.Machine.execPacketArrival port p replayed s
  | .processingSlot port => Sys2Proof.Machine.execProcessingSlot port s
  | .routeReturn status p => Sys2Proof.Machine.execRouteReturn status p s
  | .portOutOfService port => Sys2Proof.Machine.execPortOutOfService port s
  | .routeFlip => Sys2Proof.Machine.execRouteFlip s
  | .routeCopy => Sys2Proof.Machine.execRouteCopy s
  | .routeFlipDrained => Sys2Proof.Machine.execRouteFlipDrained s
  | .drainTimeout => Sys2Proof.Machine.execDrainTimeout s
  | .oldBankEnd => Sys2Proof.Machine.execOldBankEnd s
  | .routeTblData value => Sys2Proof.Machine.execRouteTblData value s
  | .creditRelease pid => Sys2Proof.Machine.execCreditRelease pid s
  | .e2eCredit pid => Sys2Proof.Machine.execE2eCredit pid s
  | .e2eLimitWrite value => Sys2Proof.Machine.execE2eLimitWrite value s
  | .mcGroupWrite reg value => Sys2Proof.Machine.execMcGroupWrite reg value s
  | .egressLaunch port => Sys2Proof.Machine.execEgressLaunch port s
  | .trngFail test => Sys2Proof.Machine.execTrngFail test s
  | .fwData value => Sys2Proof.Machine.execFwData value s
  | .fwVerify => Sys2Proof.Machine.execFwVerify s
  | .fwStaged => Sys2Proof.Machine.execFwStaged s
  | .fwDiscard => Sys2Proof.Machine.execFwDiscard s
  | .svnCommit => Sys2Proof.Machine.execSvnCommit s
  | .quote pt => Sys2Proof.Machine.execQuote pt s
  | .akCertificate => Sys2Proof.Machine.execAkCertificate s
  | .dikPublicKey => Sys2Proof.Machine.execDikPublicKey s
  | .quoteDone => Sys2Proof.Machine.execQuoteDone s
  | .qbufData => Sys2Proof.Machine.execQbufData s
  | .releasePairExpiry pt => Sys2Proof.Machine.execReleasePairExpiry pt s
  | .relData value => Sys2Proof.Machine.execRelData value s
  | .keyRelease => Sys2Proof.Machine.execKeyRelease s
  | .relDone => Sys2Proof.Machine.execRelDone s
  | .kslotLoad => Sys2Proof.Machine.execKslotLoad s
  | .kslotLock => Sys2Proof.Machine.execKslotLock s
  | .kslotClear => Sys2Proof.Machine.execKslotClear s
  | .kslotEvicted slot => Sys2Proof.Machine.execKslotEvicted slot s
  | .imgBind => Sys2Proof.Machine.execImgBind s
  | .imgDone slot => Sys2Proof.Machine.execImgDone slot s
  | .imgUnbind => Sys2Proof.Machine.execImgUnbind s
  | .quiesce => Sys2Proof.Machine.execQuiesce s
  | .quiesced pt => Sys2Proof.Machine.execQuiesced pt s
  | .resume => Sys2Proof.Machine.execResume s
  | .cfgGo => Sys2Proof.Machine.execCfgGo s
  | .pairCopyDone pt => Sys2Proof.Machine.execPairCopyDone pt s
  | .bind pt => Sys2Proof.Machine.execBind pt s
  | .unbind => Sys2Proof.Machine.execUnbind s
  | .scrubGo => Sys2Proof.Machine.execScrubGo s
  | .scrubSnoopTimeout pid => Sys2Proof.Machine.execScrubSnoopTimeout pid s
  | .scrubDone pt => Sys2Proof.Machine.execScrubDone pt s
  | .sanitizeDone root => Sys2Proof.Machine.execSanitizeDone root s
  | .lcRma => Sys2Proof.Machine.execLcRma s
  | .lcVoid => Sys2Proof.Machine.execLcVoid s
  | .lcDone => Sys2Proof.Machine.execLcDone s
  | .debugLevelWrite level => Sys2Proof.Machine.execDebugLevelWrite level s
  | .debugLevelTakesEffect => Sys2Proof.Machine.execDebugLevelTakesEffect s
  | .linkKeyRotation port => Sys2Proof.Machine.execLinkKeyRotation port s
  | .offer port len content => Sys2Proof.Machine.execOffer port len content s
  | .accept port len content => Sys2Proof.Machine.execAccept port len content s
  | .confirm port len content => Sys2Proof.Machine.execConfirm port len content s
  | .nonce port len content => Sys2Proof.Machine.execNonce port len content s
  | .rotOffer port len content => Sys2Proof.Machine.execRotOffer port len content s
  | .rotAccept port len content => Sys2Proof.Machine.execRotAccept port len content s
  | .ready port len content => Sys2Proof.Machine.execReady port len content s
  | .keyxTimeout port => Sys2Proof.Machine.execKeyxTimeout port s
  | .frameCounterLimit port => Sys2Proof.Machine.execFrameCounterLimit port s
  | .capLoopUpdate avg cores dram fab aux input => Sys2Proof.Machine.execCapLoopUpdate avg cores dram fab aux input s
  | .fastLimit peak => Sys2Proof.Machine.execFastLimit peak s
  | .droopStretch core => Sys2Proof.Machine.execDroopStretch core s
  | .stretchEnd core => Sys2Proof.Machine.execStretchEnd core s
  | .deferEnd core => Sys2Proof.Machine.execDeferEnd core s
  | .monitorAlarm core => Sys2Proof.Machine.execMonitorAlarm core s
  | .monitorStepUp core => Sys2Proof.Machine.execMonitorStepUp core s
  | .fillerWindow core issued => Sys2Proof.Machine.execFillerWindow core issued s
  | .telemetrySample rails dram die supply drives => Sys2Proof.Machine.execTelemetrySample rails dram die supply drives s
  | .pwrRun => Sys2Proof.Machine.execPwrRun s
  | .pwrIdle => Sys2Proof.Machine.execPwrIdle s
  | .pwrHibernate => Sys2Proof.Machine.execPwrHibernate s
  | .pwrOff => Sys2Proof.Machine.execPwrOff s
  | .enClear => Sys2Proof.Machine.execEnClear s
  | .vinApplied => Sys2Proof.Machine.execVinApplied s
  | .vinGood => Sys2Proof.Machine.execVinGood s
  | .resetNLow ns => Sys2Proof.Machine.execResetNLow ns s
  | .internalResetRelease straps => Sys2Proof.Machine.execInternalResetRelease straps s
  | .chipResetCold => Sys2Proof.Machine.execChipResetCold s
  | .chipResetWarm => Sys2Proof.Machine.execChipResetWarm s
  | .inputLow => Sys2Proof.Machine.execInputLow s
  | .inputLowClear => Sys2Proof.Machine.execInputLowClear s
  | .inputShutdown => Sys2Proof.Machine.execInputShutdown s
  | .thermalTrip sensor => Sys2Proof.Machine.execThermalTrip sensor s
  | .chipFatal page detail => Sys2Proof.Machine.execChipFatal page detail s
  | .phaseLost rail phase => Sys2Proof.Machine.execPhaseLost rail phase s
  | .railOutOfRegulation core => Sys2Proof.Machine.execRailOutOfRegulation core s
  | .attach => Sys2Proof.Machine.execAttach s
  | .detach => Sys2Proof.Machine.execDetach s
  | .m0Identify eccBad => Sys2Proof.Machine.execM0Identify eccBad s
  | .m1ClocksAndRails pllOk badPhases => Sys2Proof.Machine.execM1ClocksAndRails pllOk badPhases s
  | .m2Time => Sys2Proof.Machine.execM2Time s
  | .m3DieSelfTest logicOk badEngines => Sys2Proof.Machine.execM3DieSelfTest logicOk badEngines s
  | .m4Reconcile => Sys2Proof.Machine.execM4Reconcile s
  | .m5SecurityRoot failing => Sys2Proof.Machine.execM5SecurityRoot failing s
  | .m6DramTraining untrained => Sys2Proof.Machine.execM6DramTraining untrained s
  | .m7DramTest bad => Sys2Proof.Machine.execM7DramTest bad s
  | .m8FabricPorts badLanes => Sys2Proof.Machine.execM8FabricPorts badLanes s
  | .m9RootPorts badRoots => Sys2Proof.Machine.execM9RootPorts badRoots s
  | .m10Admission => Sys2Proof.Machine.execM10Admission s
  | .m11Service => Sys2Proof.Machine.execM11Service s
  | .stepDone ms => Sys2Proof.Machine.execStepDone ms s
  | .stepFail code ms => Sys2Proof.Machine.execStepFail code ms s
  | .driveReadyTimeout root => Sys2Proof.Machine.execDriveReadyTimeout root s
  | .hello f vmin vmax => Sys2Proof.Machine.execHello f vmin vmax s
  | .selvLinkUp m => Sys2Proof.Machine.execSelvLinkUp m s
  | .selvLinkDown m => Sys2Proof.Machine.execSelvLinkDown m s
  | .renew f seq => Sys2Proof.Machine.execRenew f seq s
  | .claim f epoch => Sys2Proof.Machine.execClaim f epoch s
  | .handover => Sys2Proof.Machine.execHandover s
  | .selvedgeLeaseCheck => Sys2Proof.Machine.execSelvedgeLeaseCheck s
  | .dualWindowClose => Sys2Proof.Machine.execDualWindowClose s
  | .regRead f tag addr n fixed => Sys2Proof.Machine.execRegRead f tag addr n fixed s
  | .regWrite f tag epoch addr n fixed data => Sys2Proof.Machine.execRegWrite f tag epoch addr n fixed data s
  | .registerWrite addr value => Sys2Proof.Machine.execRegisterWrite addr value s
  | .pageEvtClear page value setSame => Sys2Proof.Machine.execPageEvtClear page value setSame s
  | .pageEvtEnWrite page value => Sys2Proof.Machine.execPageEvtEnWrite page value s
  | .msgHoldWrite page value => Sys2Proof.Machine.execMsgHoldWrite page value s
  | .faultPop => Sys2Proof.Machine.execFaultPop s
  | .clearLost => Sys2Proof.Machine.execClearLost s
  | .idcode => Sys2Proof.Machine.execIdcode s
  | .msg word valid => Sys2Proof.Machine.execMsg word valid s
  | .scan => Sys2Proof.Machine.execScan s
  | .bypass code => Sys2Proof.Machine.execBypass code s
  | .fieldProgram entry => Sys2Proof.Machine.execFieldProgram entry s

end Sys2Proof.Machine
end

