-- ==== Sys2Proof/Machine/Step.lean ====
section
/-!
DEFINITION. One step: the command at the front of the queue, or a tick of the module's clock where none waits.
-/

namespace Sys2Proof.Machine

/-- The module with no command waiting: one TCLK tick (DESIGN CHOICE, log 9), and completion records on their way go on. -/
def idle (s : State) : State := whenAlive (tick s) pumpRecs

/-- One step: `exec` of the front command on the state with the rest of the queue; a tick on an empty queue.
(DESIGN CHOICE, log 9) (DESIGN CHOICE, log 119) -/
def step (s : State) : Host.Outcome State Fault Refusal :=
  match s.pending with
  | [] => .next (idle s)
  | c :: rest => exec c { s with pending := rest }

/-- `s` with the command that a word spells at the front of its queue; `s` where the word spells none.
(DESIGN CHOICE, log 119) -/
def State.withFetchWord (s : State) (nbits w : Nat) : State :=
  match decodeTableWord nbits w with
  | some c => { s with pending := c :: s.pending }
  | none => s

end Sys2Proof.Machine
end

