-- ==== Sys2Proof/Safety.lean ====
section
/-!
DEFINITION. What counts as a safe state and a safe run: the invariant that every command keeps.
-/

namespace Sys2Proof.Machine

/-- Each register field is listed at most once, in the order of its key. -/
def regsRising (s : State) : Prop := Store.rising s.regs = true

/-- The fault log stays within its two areas: 496 general and 16 reserved entries (R467). -/
def logWithin (s : State) : Prop := generalUsed s ≤ 496 ∧ reservedUsed s ≤ 16

/-- An event queue holds at most 64 messages (R487). -/
def queuesWithin (q : Store SelvPort) : Prop := ∀ e ∈ q, e.2.queue.length ≤ 64

/-- The invariant of the module: memory in its canonical form, each register listed once, the fault log within its
areas and the event queues of the Selvedge ports within their length. -/
def Inv (s : State) : Prop :=
  Memory.wf s.mem = true ∧ regsRising s ∧ logWithin s ∧ queuesWithin s.ctl.selv

/-- The commands whose effect can reach the stacks' memory: accesses of partners and engines, table and directory
entries, records, scrubs, moves, and register writes that start one of these. -/
def storesMemory : Instr → Bool
  | .runColdStart .. | .tblCommit .. | .xltInvalidate .. | .invDone .. | .pageMove .. | .moveDone ..
  | .rdShared .. | .rdOwn .. | .upgrade .. | .rdOnce .. | .wrFull .. | .wrPart .. | .wb .. | .evict ..
  | .atomic .. | .invAck .. | .snpAck .. | .snpData .. | .snpFwded .. | .wbPending .. | .compAck ..
  | .pushAck .. | .pushDecline .. | .partnerLeaseCheck .. | .fence .. | .sweepDone .. | .flushTakesEffect ..
  | .descRead .. | .orderRelease .. | .patternFetchDone .. | .tileEmit .. | .indexArrival .. | .tierHint ..
  | .tileDispatch .. | .tileExecute .. | .tileReexecute .. | .detLimit .. | .tileDone .. | .segmentReport ..
  | .rootCompute .. | .dramReadData .. | .correctedWriteback .. | .maintSlot .. | .bistDone ..
  | .testWrite .. | .tierAccess .. | .tierWayWait .. | .evictRecallDone .. | .fillComplete ..
  | .writebackComplete .. | .nvmeTimeout .. | .nvmeCommandFail .. | .rootLinkDown .. | .tierFlush ..
  | .tierFlushDone .. | .kslotLoad .. | .kslotLock .. | .imgBind .. | .cfgGo .. | .pairCopyDone ..
  | .scrubGo .. | .scrubSnoopTimeout .. | .scrubDone .. | .telemetrySample .. | .pwrOff ..
  | .internalResetRelease .. | .chipResetCold .. | .chipResetWarm .. | .inputShutdown .. | .thermalTrip ..
  | .m7DramTest .. | .stepDone .. | .regWrite .. | .registerWrite .. | .pageEvtEnWrite .. | .msgHoldWrite ..
  | .msg .. => true
  | _ => false

/-- The commands whose effect can blow a fuse: field programming, lifecycle changes, SVN commits, and register
writes that start one of these (R381). -/
def blowsFuse : Instr → Bool
  | .svnCommit .. | .lcRma .. | .lcVoid .. | .regWrite .. | .registerWrite .. | .pageEvtEnWrite ..
  | .msgHoldWrite .. | .msg .. | .fieldProgram .. => true
  | _ => false

/-- The commands that act while VAUX is down or the internal reset is held: those of the input stage (R506, R507). -/
def actsUnmanaged : Instr → Bool
  | .vinApplied | .vinGood | .resetNLow .. | .internalResetRelease .. | .inputShutdown => true
  | _ => false

/-- The commands that act on a latched module: the input stage, time, sensors and power, the ends of work that runs, the
Selvedge ports with register reads and their refusals, the cold reset, and the debug contacts (R469). -/
def actsLatched : Instr → Bool
  | .timeSync .. | .delayRsp .. | .missedExchange | .holdoverLimit | .loadTakesEffect | .gingFlipFrame
  | .tclkLossOfLock | .tblCommitDone | .xltDigestDone | .cntData | .hotPop | .fencePop | .trngFail ..
  | .fwStaged | .quoteDone | .qbufData | .releasePairExpiry .. | .relDone | .lcDone | .debugLevelTakesEffect
  | .capLoopUpdate .. | .fastLimit .. | .droopStretch .. | .stretchEnd .. | .deferEnd .. | .monitorAlarm ..
  | .monitorStepUp .. | .telemetrySample .. | .chipResetCold | .chipResetWarm | .inputLow | .inputLowClear
  | .thermalTrip .. | .chipFatal .. | .phaseLost .. | .railOutOfRegulation .. | .attach | .detach | .hello ..
  | .selvLinkUp .. | .selvLinkDown .. | .renew .. | .claim .. | .selvedgeLeaseCheck | .dualWindowClose
  | .regRead .. | .regWrite .. | .vinApplied | .vinGood | .resetNLow .. | .internalResetRelease ..
  | .inputShutdown | .idcode | .msg .. | .scan | .bypass .. => true
  | _ => false

/-- Commands of time, the gingham table, deterministic mode, power, control and the contacts that do no work on data. -/
def controlsOnly : Instr → Bool
  | .timeSync .. | .delayRsp .. | .missedExchange | .holdoverLimit | .tclkLossOfLock | .ftLoad
  | .loadTakesEffect | .gingFlip | .gingCopy | .gingFlipFrame | .gingEntData .. | .detModeWrite ..
  | .detModeTakesEffect | .drunOpen .. | .runFrame0 .. | .hello .. | .selvLinkUp .. | .selvLinkDown ..
  | .renew .. | .claim .. | .handover | .selvedgeLeaseCheck | .dualWindowClose | .faultPop | .clearLost
  | .capLoopUpdate .. | .fastLimit .. | .droopStretch .. | .stretchEnd .. | .deferEnd .. | .monitorAlarm ..
  | .monitorStepUp .. | .fillerWindow .. | .pwrIdle | .enClear | .inputLow | .inputLowClear | .chipFatal ..
  | .attach | .detach | .idcode | .bypass .. | .scan | .vinApplied | .vinGood | .resetNLow .. => true
  | _ => false

/-- Commands of the security root and of attestation that change no memory, translation or work. -/
def securesOnly : Instr → Bool
  | .trngFail .. | .fwData .. | .fwVerify | .fwStaged | .fwDiscard | .svnCommit | .lcRma | .lcDone
  | .debugLevelWrite .. | .debugLevelTakesEffect | .quote .. | .akCertificate | .dikPublicKey | .quoteDone
  | .qbufData | .releasePairExpiry .. | .relData .. | .keyRelease | .relDone | .kslotClear | .imgDone ..
  | .imgUnbind | .fieldProgram .. => true
  | _ => false

/-- `t` differs from `s` at most in registers, clocks, power, control, contacts, the fault log, bring-up, the gingham
table and the runs. -/
def OnlyControl (s t : State) : Prop :=
  t = { s with
    regs := t.regs, freeCtr := t.freeCtr, pwr := t.pwr, ctl := t.ctl, dbg := t.dbg, input := t.input, log := t.log,
    boot := t.boot, time := t.time, ging := t.ging, runs := t.runs }

/-- `t` differs from `s` at most in the security state beside what `OnlyControl` allows. -/
def OnlySecurity (s t : State) : Prop := OnlyControl { s with sec := t.sec } t

/-- Every fuse bit that `s` shows blown is blown in `t` (R381). -/
def FusesKept (s t : State) : Prop := ∀ w i, (fuse s w).testBit i = true → (fuse t w).testBit i = true

/-- The state in which a slice takes the stored request `r` for `line`: the tie is decided, the request is marked as
taken and the access is counted. -/
def taking (s : State) (r : Req) (line : Nat) (ties : List Nat) : State :=
  countAccess (setReq (wins s (lineCore line) r ties).2 { r with taken := true }) (lineCore line) (lineOff line) false

/-- The request of `pid` and `tag` is stored with an opcode of `ops`, its core answers, its page does not move, it has
crossed to its core, in deterministic mode in a PART slot, in state `u`, and it wins its tie there (R20, R57, R105, R123). -/
def Wins (s : State) (ops : List Nat) (pid tag : Nat) (ties : List Nat) (r : Req) (line : Nat) (u : State) : Prop :=
  findReq s pid tag ops = some r ∧ r.line = some line ∧ s.parts.failing.getLsbD (lineCore line) = false ∧
    moving s r.pt r.pva = false ∧ coreUp s (lineCore line) = true ∧
    (linkTime s (lineCore line) r.pt (max s.time.ft r.walked)).map (advanceFt s) = some u ∧
    (wins u (lineCore line) r ties).1 = true

/-- A request that wins its tie for a line in a stable state whose block has room in the directory cache, which is
`t` after the lookup (R112), and whose entry awaits no repair (R272). -/
def Serves (s : State) (ops : List Nat) (pid tag : Nat) (ties : List Nat) (r : Req) (line : Nat) (u t : State) : Prop :=
  Wins s ops pid tag ties r line u ∧ txnOf s line = none ∧ (lookupDc s line).isSome = true ∧
    txnOf (taking u r line ties) line = none ∧ lookupDc (taking u r line ties) line = some t ∧
    entryAwaits s line = false ∧ entryAwaits (taking u r line ties) line = false

/-- What core `core` does for partition `pt` over core links begins in `u`: at once, in deterministic mode in a PART slot
(R54, R57). -/
def Crossed (s : State) (core pt : Nat) (u : State) : Prop := (linkTime s core pt s.time.ft).map (advanceFt s) = some u

/-- What follows in `s1` for a command that came in `s`: in deterministic mode the walks that it began end (R54). -/
def walksEnd (s s1 : State) (pt : Nat) : State := if detOn s then advanceFt s1 (walkOver s1 pt) else s1

/-- A run is safe when the module never stops: after `k` steps there is a next state, and it satisfies the invariant. -/
def SafeFor (s : State) : Nat → Prop
  | 0 => Inv s
  | k + 1 => ∃ t, step s = .next t ∧ SafeFor t k

end Sys2Proof.Machine
end

