-- ==== Sys2Proof/Certificates/Slice0/Obligations.lean ====
section
/-!
DEFINITION. The statements about the model that are to be proved, each as a proposition; OBLIGATIONS.json lists them.
-/

open Sys2Proof Sys2Proof.Machine

/-- A TIME_SYNC in a valid frame on the port that holds control opens the exchange of its period, is stamped and
answered with DELAY_REQ; DELAY_RSP gives offset and path; MISS_LIMIT missing exchanges and a loss of TCLK lock take
a LOCKED unit to HOLDOVER, in which of all slewing only that of a refused exchange goes on; the hold limit takes
HOLDOVER to FREERUN; a valid load is kept with the frame boundary at which it is due, and at that boundary it
becomes the time and UNSET becomes ACQUIRE; in LOCKED it is dropped (the model's choice, log 151). -/
def Obligations.TimeUnitCommands : Prop :=
  (∀ (s : State) (f : SelvFrame) (t1 : Nat) (sub : Fin 8) (turn : Nat) (u : State),
    managed s = true →
    frameOk f = true →
    timeSource s f.port = true →
    openExchange (noteSender s f) = u →
    3 ≤ getF u (SELV.LINK_STS_VER f.port) →
    exec (.timeSync f t1 sub turn) s = .next (sendSelv { u with time :=
      { u.time with exch := some (f.port.val, t1, 2 * u.time.ft + sub.val, 2 * u.time.ft + sub.val + turn) } } f.port .delayReq)) ∧
  (∀ (s : State) (f : SelvFrame) (t1 t2 t3 t4 : Nat) (u : State),
    managed s = true →
    frameOk f = true →
    noteSender s f = u →
    timeSource s f.port = true →
    s.time.exch = some (f.port.val, t1, t2, t3) →
    exec (.delayRsp f t4) s = .next (applyOffset
      (setF (setF { u with time := { u.time with exch := none, heard := u.time.ft } }
        FT.OFFSET_OFFSET (twos32 ((((t2 : Int) - t1) - (t4 - t3)).tdiv 4)))
        FT.PATH_PATH (twos32 ((((t2 : Int) - t1) + (t4 - t3)).tdiv 4)))
      (((t2 : Int) - t1) - (t4 - t3)))) ∧
  (∀ (s : State) (u : State),
    managed s = true →
    ftState s = 2 →
    advanceFt s (missedAt s) = u →
    ftState u = 2 →
    exec .missedExchange s = .next (raise (let s1 := setF u FT.FT_STS_STATE 3
      { s1 with time := { s1.time with
        slew := if u.time.refused then u.time.slew else 0,
        slewAt := if u.time.refused then u.time.slewAt else u.time.elapsed,
        holdAt := (u.time.elapsed : Int) - 4096 * getF u FT.HOLD_ELAPSED_FRAMES } }) 0x0010 1)) ∧
  (∀ (s : State) (u : State),
    managed s = true →
    ftState s = 2 →
    s = u →
    ftState u = 2 →
    exec .tclkLossOfLock s = .next (raise (let s1 := setF u FT.FT_STS_STATE 3
      { s1 with time := { s1.time with
        slew := if u.time.refused then u.time.slew else 0,
        slewAt := if u.time.refused then u.time.slewAt else u.time.elapsed,
        holdAt := (u.time.elapsed : Int) - 4096 * getF u FT.HOLD_ELAPSED_FRAMES } }) 0x0010 1)) ∧
  (∀ (s : State),
    managed s = true →
    ftState s = 3 →
    exec .holdoverLimit s = .next (enterFreerun (advanceEl s (s.time.holdAt + getF s FT.HOLD_LIMIT_FRAMES * 4096).toNat))) ∧
  (∀ (s : State),
    alive s = true →
    (ftState s = 0 ∨ ftState s = 4) →
    getF s FT.LOAD % 4096 = 0 →
    s.time.ft < getF s FT.LOAD →
    exec .ftLoad s = .next (let s1 := setB s FT.FT_STS_LOAD_PENDING true
      { s1 with time := { s1.time with loadVal := getF s FT.LOAD, loadAt := (s.time.ft / 4096 + 1) * 4096 } })) ∧
  (∀ (s : State) (u : State),
    managed s = true →
    flag s FT.FT_STS_LOAD_PENDING = true →
    ftState s = 0 →
    setB (advanceFt s s.time.loadAt) FT.FT_STS_LOAD_PENDING false = u →
    exec .loadTakesEffect s = .next (setF { u with time :=
      { u.time with ft := u.time.loadVal + (u.time.ft - u.time.loadAt), within := 0 } } FT.FT_STS_STATE 1)) ∧
  (∀ (s : State),
    managed s = true →
    flag s FT.FT_STS_LOAD_PENDING = true →
    ftState s = 2 →
    exec .loadTakesEffect s = .next (setB (advanceFt s s.time.loadAt) FT.FT_STS_LOAD_PENDING false))

/-- A flip whose check passes is armed for FLIP_FRAME; in the last tick before that frame DIGEST takes the digest of the
armed bank (which tick is the model's choice, log 152; none before M5), and the flip, at that frame, swaps the
banks, raises event 1 and records TABLE for each open run; COPY copies the active bank into the shadow bank; a write
of ENT_DATA writes four entries of the shadow bank. -/
def Obligations.GinghamCommands : Prop :=
  (∀ (s : State),
    alive s = true →
    checkBank s (1 - gingActive s) = (0, 0, 0) →
    exec .gingFlip s = .next (let s1 := setF (setF (setF s GING.GING_STS_RESULT 0) GING.GING_STS_FAIL_SLOT 0) GING.GING_STS_FAIL_COL 0
      let s2 := setB s1 GING.GING_STS_FLIP_PENDING true
      { s2 with ging := { s2.ging with flipAt := getF s GING.FLIP_FRAME } })) ∧
  (∀ (s : State),
    alive s = true →
    flipPending s = false →
    exec .gingCopy s = .next { s with ging := { s.ging with bank := copyBank s.ging.bank (gingActive s) } }) ∧
  (∀ (s : State),
    managed s = true →
    flipPending s = true →
    exec .gingFlipFrame s = .next (let s0 := advanceFt s (s.ging.flipAt * 4096 - 4)
      let s1 := if s0.ging.digestOn then setF s0 GING.DIGEST (sha3 (bankBytes s0 (1 - gingActive s0))) else s0
      let s2 := setB (advanceFt s1 (s.ging.flipAt * 4096)) GING.GING_STS_FLIP_PENDING false
      let s3 := raise (setF s2 GING.GING_STS_ACTIVE (1 - gingActive s)) 0x0011 1
      forAll (upTo 16) (fun s pt => bumpConfigGen (recordDx 7 s pt) pt) s3)) ∧
  (∀ (s : State) (v : Nat),
    alive s = true →
    flipPending s = false →
    flag s GING.ENT_ADDR_AUTOINC = true →
    getF s GING.ENT_ADDR_INDEX % 4 = 0 →
    exec (.gingEntData v) s = .next (setF (forAll ((upTo 4).map fun k => (getF s GING.ENT_ADDR_INDEX + k, v / 256 ^ k % 256))
      (setGing (1 - gingActive s)) s) GING.ENT_ADDR_INDEX (getF s GING.ENT_ADDR_INDEX + 4)))

/-- DET_MODE is written while the machine is idle and no run is open, and takes effect at a frame boundary, where
floating cores become pinned; a run opens, with the remaps of its cores deferred, starts cold at frame F with its
directory-cache blocks written back, its translations dropped and its staging buffers cleared, runs from F + 16 and
closes; unaligned time is recorded in every open run; a frame with no missing heartbeat passes, one missed heartbeat
of a core is kept, and a second in the next frame loses the core. -/
def Obligations.DeterministicCommands : Prop :=
  (∀ (s : State) (v : Nat),
    alive s = true →
    flag s TOP.DET_MODE_LOCK = false →
    machineIdle s = true →
    anyRun s = false →
    exec (.detModeWrite v) s = .next (noteChip (fun s => setB (setB (setB s TOP.DET_MODE_REFUSED false)
      TOP.DET_MODE_EN (v.testBit 0)) TOP.DET_MODE_LOCK (v.testBit 1)) s)) ∧
  (∀ (s : State),
    alive s = true →
    flag s TOP.DET_MODE_EN ≠ flag s TOP.DET_MODE_ACTIVE →
    exec .detModeTakesEffect s = .next (
      let s1 := bumpAll (setB (toFrameStart s) TOP.DET_MODE_ACTIVE (flag s TOP.DET_MODE_EN))
      if detOn s1 && !detOn s && (holder s1).isSome then forAll (upTo 16) updateClock s1 else s1)) ∧
  (∀ (s : State) (pt : Ptn),
    alive s = true →
    detOn s = true →
    flag s FT.FT_STS_ALIGNED = true →
    runOpen s pt = false →
    coresOf s pt ≠ [] →
    s.time.ft / 4096 + 2 ≤ getF s PART.DRUN_START →
    exec (.drunOpen pt) s = .next (
      let s0 : State := { s with runs := Store.set none s.runs pt (some ⟨getF s PART.DRUN_START, 0⟩) }
      let s1 := setBitF s0 PART.DRUN_OPEN_OPEN pt true
      let s2 := bumpConfigGen (setF (setF s1 (PART.DX_CAUSE_CAUSE pt) 0) (PART.DX_COUNT_COUNT pt) 0) pt
      forAll (coresOf s2 pt) remapSts s2)) ∧
  (∀ (s : State) (pt : Ptn) (f : Nat),
    alive s = true →
    Store.get none s.runs pt = some { frame := f, phase := 0 } →
    exec (.runColdStart pt) s = .next (let s1 := advanceFt s (f * 4096)
      let s2 := flushDc { s1 with runs := Store.set none s1.runs pt (some { frame := f, phase := 1 }) } (coresOf s1 pt)
      invalidatePt (forAll (coresOf s1 pt) clearStaging s2) pt)) ∧
  (∀ (s : State) (pt : Ptn) (f : Nat),
    alive s = true →
    Store.get none s.runs pt = some { frame := f, phase := 1 } →
    exec (.runFrame0 pt) s = .next (let s1 := advanceFt s ((f + 16) * 4096)
      { s1 with runs := Store.set none s1.runs pt (some { frame := f, phase := 2 }) })) ∧
  (∀ (s : State) (pt : Ptn),
    alive s = true →
    bitF s PART.DRUN_OPEN_OPEN pt = true →
    exec (.drunClose pt) s = .next (
      let s1 := bumpConfigGen (setBitF { s with runs := Store.del s.runs pt } PART.DRUN_OPEN_OPEN pt false) pt
      forAll (coresOf s1 pt) remapSts s1)) ∧
  (∀ (s : State),
    alive s = true →
    flag (atPeriodic s 5 4096 0) FT.FT_STS_ALIGNED = false →
    exec .dxUnaligned s = .next (forAll (upTo 16) (recordDx 0) (atPeriodic s 5 4096 0))) ∧
  (∀ (s : State),
    alive s = true →
    exec (.heartbeat []) s = .next (beatStart s)) ∧
  (∀ (s : State) (core : Core) (t : State),
    alive s = true →
    beatStart s = t →
    getF t PWR.PWR_STS_STATE ≠ 3 →
    Store.get 0 t.time.missed core ≠ t.time.ft / 4096 →
    exec (.heartbeat [core]) s = .next { t with time := { t.time with missed := Store.set 0 t.time.missed core (t.time.ft / 4096 + 1) } }) ∧
  (∀ (s : State) (core : Core) (t : State),
    alive s = true →
    beatStart s = t →
    getF t PWR.PWR_STS_STATE ≠ 3 →
    coreUp t core = true →
    0 < t.time.ft / 4096 →
    Store.get 0 t.time.missed core = t.time.ft / 4096 →
    exec (.heartbeat [core]) s = .next (declareLost { t with time := { t.time with missed := Store.set 0 t.time.missed core (t.time.ft / 4096 + 1) } } core 3))

/-- TBL_CMD.COMMIT writes an accepted entry to both copies and the frame map, advances CONFIG_GEN and runs until
TBL_COMMIT_DONE reports the result; a refused entry is only reported; TBL_CMD.READ reads the stored entry; a table
digest runs until XLT_DIGEST_DONE reports it. -/
def Obligations.TableCommands : Prop :=
  (∀ (s : State) (level : Nat),
    alive s = true →
    flag s XLT.TBL_STS_BUSY = false →
    commitResult s (getF s XLT.TBL_ADDR_PT) (getF s XLT.TBL_ADDR_OFFSET * 8) level (getF s XLT.TBL_DATA) = 0 →
    exec (.tblCommit level) s = .next (let s1 := bumpConfigGen (applyCommit s (getF s XLT.TBL_ADDR_PT)
        (getF s XLT.TBL_ADDR_OFFSET * 8) level (getF s XLT.TBL_DATA)) (getF s XLT.TBL_ADDR_PT)
      { setB s1 XLT.TBL_STS_BUSY true with xlt := { s1.xlt with
        tblNext := 1, tblFrames := commitFrames s (getF s XLT.TBL_ADDR_PT) (getF s XLT.TBL_ADDR_OFFSET * 8) level (getF s XLT.TBL_DATA) } })) ∧
  (∀ (s : State) (level : Nat),
    alive s = true →
    flag s XLT.TBL_STS_BUSY = false →
    commitResult s (getF s XLT.TBL_ADDR_PT) (getF s XLT.TBL_ADDR_OFFSET * 8) level (getF s XLT.TBL_DATA) ≠ 0 →
    exec (.tblCommit level) s = .next { setB s XLT.TBL_STS_BUSY true with
      xlt := { s.xlt with tblNext := commitResult s (getF s XLT.TBL_ADDR_PT) (getF s XLT.TBL_ADDR_OFFSET * 8) level (getF s XLT.TBL_DATA) + 1, tblFrames := [] } }) ∧
  (∀ (s : State) (r : Nat),
    managed s = true →
    s.xlt.tblNext = r + 1 →
    commitWaits s = false →
    exec .tblCommitDone s = .next (setF (setB { s with xlt := { s.xlt with tblNext := 0, tblFrames := [] } } XLT.TBL_STS_BUSY false) XLT.TBL_STS_RESULT r)) ∧
  (∀ (s : State) (level : Nat),
    alive s = true →
    flag s XLT.TBL_STS_BUSY = false →
    coresOf s (getF s XLT.TBL_ADDR_PT) ≠ [] →
    level ≤ 4 →
    exec (.tblRead level) s = .next (setF (setF s XLT.TBL_STS_RESULT 0) XLT.TBL_DATA
      (tableEntry s (getF s XLT.TBL_ADDR_PT) (getF s XLT.TBL_ADDR_OFFSET * 8)))) ∧
  (∀ (s : State) (pt : Ptn),
    alive s = true →
    flag s XLT.DIGEST_STS_BUSY = false →
    exec (.xltDigest pt) s = .next { setB s XLT.DIGEST_STS_BUSY true with
      xlt := { s.xlt with digest := some (tableDigest s pt, (tableTree s pt).length) } }) ∧
  (∀ (s : State) (d n : Nat),
    managed s = true →
    s.xlt.digest = some (d, n) →
    exec .xltDigestDone s = .next (let s1 := setB { s with xlt := { s.xlt with digest := none } } XLT.DIGEST_STS_BUSY false
      setF (setF s1 XLT.DIGEST d) XLT.DIGEST_STS_RECORDS (min n (2 ^ 24 - 1))))

/-- An accepted INV_CMD.GO drops the cached translations of its range, advances CONFIG_GEN and runs until what was
translated before has finished, when INV_DONE first recalls the lines that these accesses have fetched meanwhile
(once; the model's choice, log 160), then reports it and clears the records retired by then; an accepted MOVE_CMD.GO
starts the recall of its page, and MOVE_DONE copies the page, writes the leaf, drops the old translations and raises
event 1. -/
def Obligations.InvalidationAndMoveCommands : Prop :=
  (∀ (s : State) (pt : Ptn) (kind : Nat) (rcl : Bool),
    alive s = true →
    invResult s pt kind = 0 →
    exec (.xltInvalidate pt kind rcl) s = .next (let s1 := { s with xlt := { s.xlt with inv := some (invJob s pt kind rcl) } }
      let s2 := bumpConfigGen (setB s1 XLT.INV_STS_BUSY true) pt
      recallLines (dropCached s2 pt (removes s pt kind)) 1
        (frameLines s pt (invFrames s pt kind rcl).1 (invFrames s pt kind rcl).2))) ∧
  (∀ (s : State) (j : InvJob),
    alive s = true →
    s.xlt.inv = some j →
    oldFinished s j = true →
    recalling s 1 = false →
    (invHeld s j).isEmpty ∨ j.again = true →
    exec .invDone s = .next (let clear := fun (ks : List Nat) (m : Store FrameRec) => m.filter fun e => !(ks.contains e.1 && isRet e.2)
      let x := { s.xlt with inv := none, frames := clear j.frames s.xlt.frames, tframes := clear j.tframes s.xlt.tframes }
      raise (setF (setB { s with xlt := x } XLT.INV_STS_BUSY false) XLT.INV_STS_RESULT 0) 0x0400 0)) ∧
  (∀ (s : State) (j : InvJob),
    alive s = true →
    s.xlt.inv = some j →
    oldFinished s j = true →
    recalling s 1 = false →
    (invHeld s j).isEmpty = false →
    j.again = false →
    exec .invDone s = .next (recallLines { s with xlt := { s.xlt with inv := some { j with again := true } } } 1 (invHeld s j))) ∧
  (∀ (s : State) (pt : Ptn) (l off e : Nat),
    alive s = true →
    moveResult s pt (getF s XLT.MOVE_PVA * 65536) (getF s XLT.MOVE_DST * 65536) = 0 →
    leafOf s pt (getF s XLT.MOVE_PVA * 65536) = some (l, off, e) →
    exec (.pageMove pt) s = .next (let va := getF s XLT.MOVE_PVA * 65536
      let size := 2 ^ levelShift l
      let job : MoveJob := ⟨va / size * size, size, off, l, getF s XLT.MOVE_DST * 65536⟩
      let s1 := setF s XLT.MOVE_STS_RESULT 0
      let s2 := { s1 with xlt := { s1.xlt with moves := Store.set none s1.xlt.moves pt (some job) } }
      recallLines (setBitF s2 XLT.MOVE_STS_BUSY pt true) (16 + pt) (pageLines s (leafPlaces s pt (ePpa e) l)))) ∧
  (∀ (s : State) (pt : Ptn) (j : MoveJob),
    alive s = true →
    Store.get none s.xlt.moves pt = some j →
    pageAtRest s pt j (leafPlaces s pt (ePpa (tableEntry s pt j.off)) j.lvl) = true →
    exec (.moveDone pt) s = .next (let e := tableEntry s pt j.off
      let old := leafPlaces s pt (ePpa e) j.lvl
      let s1 := forAll (old.zip (leafPlaces s pt j.dst j.lvl)) (fun s p => copyPiece s p.1.2 p.2.2) s
      let s2 := bumpConfigGen (applyCommit s1 pt j.off j.lvl (withPpa e j.dst)) pt
      let s3 := forAll old (fun s p => if isRet (frameRec s p.2) then setFrame s p.2 .none else s) s2
      let s4 := reline (dropCached s3 pt (spanOverlaps j.pva (j.pva + j.size))) pt j
      let s5 := { s4 with xlt := { s4.xlt with moves := Store.del s4.xlt.moves pt } }
      raise (setBitF s5 XLT.MOVE_STS_BUSY pt false) 0x0400 1))

/-- CNT_CMD clears one core or every counter and the hot list; a read of CNT_DATA advances INDEX where AUTOINC is 1;
HOT_POP removes the oldest entry; PXC.WAYS takes a mask that clashes with no other partition, drops the translations
in the ways it gives up and clears REFUSED. -/
def Obligations.AccessCounterCommands : Prop :=
  (∀ (s : State) (core : Core),
    alive s = true →
    exec (.cntClear core) s = .next (clearCounters s fun b => b % 16 == core)) ∧
  (∀ (s : State),
    alive s = true →
    exec .cntClearAll s = .next (let s1 := clearCounters s fun _ => true
      { s1 with xlt := { s1.xlt with hot := [], hotLost := false } })) ∧
  (∀ (s : State),
    managed s = true →
    flag s XLT.CNT_ADDR_AUTOINC = true →
    exec .cntData s = .next (wrapF s XLT.CNT_ADDR_INDEX 1)) ∧
  (∀ (s : State),
    managed s = true →
    flag s XLT.CNT_ADDR_AUTOINC = false →
    exec .cntData s = .next s) ∧
  (∀ (s : State) (x : Nat × Nat) (l : List (Nat × Nat)),
    managed s = true →
    s.xlt.hot = x :: l →
    exec .hotPop s = .next { s with xlt := { s.xlt with hot := l, hotLost := false } }) ∧
  (∀ (s : State) (pt : Ptn) (mask : Nat),
    alive s = true →
    mask < 65536 →
    ((upTo 16).any fun q => q != pt.val && (mask &&& pxcWays s q) != 0) = false →
    bitF s PART.DRUN_OPEN_OPEN pt = false →
    mask ≠ pxcWays s pt →
    exec (.pxcWaysWrite pt mask) s = .next (let gone := fun (e : CacheEnt) => e.pt == pt && !mask.testBit e.way
      let s1 := setF (setB s PXC.PXC_STS_REFUSED false) (PXC.WAYS_MASK pt) mask
      bumpConfigGen { s1 with xlt := { s1.xlt with pxc := s1.xlt.pxc.filter (fun e => !gone e), walker := s1.xlt.walker.filter (fun e => !gone e) } } pt)) ∧
  (∀ (s : State) (pt : Ptn) (mask : Nat),
    alive s = true →
    ((upTo 16).any fun q => q != pt.val && (mask % 65536 &&& pxcWays s q) != 0) = true →
    exec (.pxcWaysWrite pt mask) s = .next (setB s PXC.PXC_STS_REFUSED true))

/-- RD_SHARED, RD_OWN, UPGRADE, RD_ONCE, WR_FULL, WR_PART, WB, EVICT and ATOMIC: a stored request that wins its tie, for
a line in a stable state with room in the directory cache and an entry that awaits no repair, is taken, counted and
handled by the table of its state. -/
def Obligations.RequestsAreServed : Prop :=
  (∀ (s : State) (pid : Pid) (tag : Nat) (ties : List Pid) (r : Req) (line : Nat) (u t : State),
    alive s = true →
    Serves s [0x01] pid tag (ties.map (·.val)) r line u t →
    exec (.rdShared pid tag ties) s = .next (handleStable t line { r with taken := true })) ∧
  (∀ (s : State) (pid : Pid) (tag : Nat) (ties : List Pid) (r : Req) (line : Nat) (u t : State),
    alive s = true →
    Serves s [0x02] pid tag (ties.map (·.val)) r line u t →
    exec (.rdOwn pid tag ties) s = .next (handleStable t line { r with taken := true })) ∧
  (∀ (s : State) (pid : Pid) (tag : Nat) (ties : List Pid) (r : Req) (line : Nat) (u t : State),
    alive s = true →
    Serves s [0x03] pid tag (ties.map (·.val)) r line u t →
    exec (.upgrade pid tag ties) s = .next (handleStable t line { r with taken := true })) ∧
  (∀ (s : State) (pid : Pid) (tag : Nat) (ties : List Pid) (r : Req) (line : Nat) (u t : State),
    alive s = true →
    Serves s [0x04] pid tag (ties.map (·.val)) r line u t →
    exec (.rdOnce pid tag ties) s = .next (handleStable t line { r with taken := true })) ∧
  (∀ (s : State) (pid : Pid) (tag : Nat) (ties : List Pid) (r : Req) (line : Nat) (u t : State),
    alive s = true →
    Serves s [0x05] pid tag (ties.map (·.val)) r line u t →
    exec (.wrFull pid tag ties) s = .next (handleStable t line { r with taken := true })) ∧
  (∀ (s : State) (pid : Pid) (tag : Nat) (ties : List Pid) (r : Req) (line : Nat) (u t : State),
    alive s = true →
    Serves s [0x06] pid tag (ties.map (·.val)) r line u t →
    exec (.wrPart pid tag ties) s = .next (handleStable t line { r with taken := true })) ∧
  (∀ (s : State) (pid : Pid) (tag : Nat) (r : Req) (line : Nat) (u t : State),
    alive s = true →
    Serves s [0x07] pid tag [] r line u t →
    exec (.wb pid tag) s = .next (handleStable t line { r with taken := true })) ∧
  (∀ (s : State) (pid : Pid) (tag : Nat) (r : Req) (line : Nat) (u t : State),
    alive s = true →
    Serves s [0x08] pid tag [] r line u t →
    exec (.evict pid tag) s = .next (handleStable t line { r with taken := true })) ∧
  (∀ (s : State) (pid : Pid) (tag : Nat) (ties : List Pid) (r : Req) (line : Nat) (u t : State),
    alive s = true →
    Serves s [0x09] pid tag (ties.map (·.val)) r line u t →
    (r.op = 0x09 → atomicBad r = false) →
    exec (.atomic pid tag ties) s = .next (handleStable t line { r with taken := true }))

/-- On a line in state UNC whose data can be read, RD_SHARED leaves the requester as the only sharer, RD_OWN leaves the
line BUSY until the requester acknowledges, RD_ONCE leaves UNC. On a line held EXC by another live partner,
RD_SHARED and RD_OWN leave it BUSY with the forwarding snoop of the table sent to the owner, the entry unchanged.
RD_OWN on a line shared by another live partner leaves it BUSY until that sharer acknowledges its invalidation. -/
def Obligations.DirectoryTransitions : Prop :=
  (∀ (s : State) (pid : Pid) (tag : Nat) (ties : List Pid) (r : Req) (line : Nat) (u t : State),
    alive s = true →
    Serves s [0x01] pid tag (ties.map (·.val)) r line u t →
    r.agent = .partner →
    dirOf t line = .unc →
    lineFails t line = false →
    r.op = 0x01 →
    ∃ v, exec (.rdShared pid tag ties) s = .next v ∧ dirOf v line = .sh [r.pid]) ∧
  (∀ (s : State) (pid : Pid) (tag : Nat) (ties : List Pid) (r : Req) (line : Nat) (u t : State),
    alive s = true →
    Serves s [0x02] pid tag (ties.map (·.val)) r line u t →
    r.agent = .partner →
    dirOf t line = .unc →
    lineFails t line = false →
    r.op = 0x02 →
    ∃ v, exec (.rdOwn pid tag ties) s = .next v ∧ txnOf v line = some { req := { r with taken := true }, comp := true }) ∧
  (∀ (s : State) (pid : Pid) (tag : Nat) (ties : List Pid) (r : Req) (line : Nat) (u t : State),
    alive s = true →
    Serves s [0x04] pid tag (ties.map (·.val)) r line u t →
    r.agent = .partner →
    dirOf t line = .unc →
    lineFails t line = false →
    r.op = 0x04 →
    ∃ v, exec (.rdOnce pid tag ties) s = .next v ∧ dirOf v line = .unc) ∧
  (∀ (s : State) (pid : Pid) (tag : Nat) (ties : List Pid) (r : Req) (line : Nat) (u t : State) (o : Nat),
    alive s = true →
    Serves s [0x01] pid tag (ties.map (·.val)) r line u t →
    r.agent = .partner →
    dirOf t line = .exc o →
    pidLive t o = true →
    r.pid ≠ o →
    r.op = 0x01 →
    ∃ v, exec (.rdShared pid tag ties) s = .next v ∧ txnOf v line = some { req := { r with taken := true }, snoop := 0x21, owner := o }) ∧
  (∀ (s : State) (pid : Pid) (tag : Nat) (ties : List Pid) (r : Req) (line : Nat) (u t : State) (o : Nat),
    alive s = true →
    Serves s [0x02] pid tag (ties.map (·.val)) r line u t →
    r.agent = .partner →
    dirOf t line = .exc o →
    pidLive t o = true →
    r.pid ≠ o →
    r.op = 0x02 →
    ∃ v, exec (.rdOwn pid tag ties) s = .next v ∧ txnOf v line = some { req := { r with taken := true }, snoop := 0x22, owner := o, comp := true }) ∧
  (∀ (s : State) (pid : Pid) (tag : Nat) (ties : List Pid) (r : Req) (line : Nat) (u t : State) (p : Nat),
    alive s = true →
    Serves s [0x02] pid tag (ties.map (·.val)) r line u t →
    r.agent = .partner →
    dirOf t line = .sh [p] →
    pidLive t p = true →
    r.pid ≠ p →
    r.op = 0x02 →
    ∃ v, exec (.rdOwn pid tag ties) s = .next v ∧ txnOf v line = some { req := { r with taken := true }, invs := [p] })

/-- INV_ACK is counted; SNP_ACK and SNP_DATA answer the owner snoop, SNP_FWDED says that the owner forwarded; WB_PENDING
is noted until the crossing WB comes; COMP_ACK makes the requester the exclusive owner; PUSH_ACK and PUSH_DECLINE
are counted and leave the target as sharer or the line UNC; COMP_ACK that nothing awaits is a protocol breach. -/
def Obligations.AnswersToTheDirectory : Prop :=
  (∀ (s : State) (core : Core) (pid : Pid) (off : Nat) (t : Txn),
    alive s = true →
    txnOf s (lineAt core off) = some t →
    t.invs.contains pid.val = true →
    exec (.invAck core pid off) s = .next (countInv s (lineAt core off) t pid)) ∧
  (∀ (s : State) (core : Core) (pid : Pid) (off : Nat) (isNew : Bool) (t : Txn),
    alive s = true →
    txnOf s (lineAt core off) = some t →
    awaitsOwner t pid = true →
    t.snoop ≠ 0x21 →
    t.snoop ≠ 0x22 →
    exec (.snpAck core pid off isNew) s = .next (ownerAnswered s (lineAt core off) t isNew false none)) ∧
  (∀ (s : State) (core : Core) (pid : Pid) (off : Nat) (isNew : Bool) (data : Nat) (t : Txn),
    alive s = true →
    txnOf s (lineAt core off) = some t →
    awaitsOwner t pid = true →
    exec (.snpData core pid off isNew data) s = .next (ownerAnswered s (lineAt core off) t isNew false (some (data % 2 ^ 1024)))) ∧
  (∀ (s : State) (core : Core) (pid : Pid) (off : Nat) (data : Option Nat) (t : Txn),
    alive s = true →
    txnOf s (lineAt core off) = some t →
    awaitsOwner t pid = true →
    exec (.snpFwded core pid off data) s = .next (ownerAnswered s (lineAt core off) t false true (data.map (· % 2 ^ 1024)))) ∧
  (∀ (s : State) (core : Core) (pid : Pid) (off : Nat) (t : Txn),
    alive s = true →
    txnOf s (lineAt core off) = some t →
    awaitsOwner t pid = true →
    t.held = none →
    exec (.wbPending core pid off) s = .next (setTxn s (lineAt core off) (some { t with wbp := true }))) ∧
  (∀ (s : State) (core : Core) (pid : Pid) (off : Nat) (t : Txn),
    alive s = true →
    txnOf s (lineAt core off) = some t →
    t.comp = true →
    t.req.pid = pid.val →
    t.snoop = 0 →
    exec (.compAck core pid off) s = .next (settle (freeReq s t.req) (lineAt core off) t.queue (.exc pid))) ∧
  (∀ (s : State) (core : Core) (pid : Pid) (off : Nat),
    alive s = true →
    txnOf s (lineAt core off) = none →
    exec (.compAck core pid off) s = .next (breach s (lineAt core off) pid 0x5D)) ∧
  (∀ (s : State) (core : Core) (pid : Pid) (off : Nat) (t : Txn),
    alive s = true →
    txnOf s (lineAt core off) = some t →
    t.push = some pid.val →
    exec (.pushAck core pid off) s = .next (settle (bumpF s (DIR.PUSH_PLACED_COUNT (lineCore (lineAt core off)))) (lineAt core off) t.queue (.sh [pid.val]))) ∧
  (∀ (s : State) (core : Core) (pid : Pid) (off : Nat) (t : Txn),
    alive s = true →
    txnOf s (lineAt core off) = some t →
    t.push = some pid.val →
    exec (.pushDecline core pid off) s = .next (settle (bumpF s (DIR.PUSH_DECLINED_COUNT (lineCore (lineAt core off)))) (lineAt core off) t.queue .unc))

/-- PUBLISH on a valid, unlocked version word of its own partition that holds the expected value stores the new one and
answers OK with it; RD_VERSION answers the value; a write of RGN_CTL or RGN_VER that the register allows takes
effect and clears REFUSED, one that it does not allow sets REFUSED; a request with an opcode of no table is a
protocol breach. -/
def Obligations.VersionWords : Prop :=
  (∀ (s : State) (pid : Pid) (tag : Nat) (ties : List Pid) (r : Req) (u t : State),
    alive s = true →
    findReq s pid tag [0x0A] = some r →
    r.op = 0x0A →
    coreUp s (regionCore r.pva) = true →
    (linkTime s (regionCore r.pva) r.pt s.time.ft).map (advanceFt s) = some u →
    wins u (regionCore r.pva) r (ties.map (·.val)) = (true, t) →
    flag t (DIR.RGN_CTL_V (regionCore r.pva) (r.pva % 256)) = true →
    getF t (DIR.RGN_CTL_PT (regionCore r.pva) (r.pva % 256)) = r.pt →
    flag t (DIR.RGN_CTL_LOCK (regionCore r.pva) (r.pva % 256)) = false →
    getF t (DIR.RGN_VER (regionCore r.pva) (r.pva % 256)) = r.data % 2 ^ 64 →
    exec (.publish pid tag ties) s = .next (let v := r.data / 2 ^ 64 % 2 ^ 64
      answer (setF t (DIR.RGN_VER (regionCore r.pva) (r.pva % 256)) v) r (regionCore r.pva) 0x47 0 8 v t.time.ft)) ∧
  (∀ (s : State) (pid : Pid) (tag : Nat) (ties : List Pid) (r : Req) (u t : State),
    alive s = true →
    findReq s pid tag [0x0B] = some r →
    r.op = 0x0B →
    coreUp s (regionCore r.pva) = true →
    (linkTime s (regionCore r.pva) r.pt s.time.ft).map (advanceFt s) = some u →
    wins u (regionCore r.pva) r (ties.map (·.val)) = (true, t) →
    flag t (DIR.RGN_CTL_V (regionCore r.pva) (r.pva % 256)) = true →
    getF t (DIR.RGN_CTL_PT (regionCore r.pva) (r.pva % 256)) = r.pt →
    exec (.rdVersion pid tag ties) s = .next (answer t r (regionCore r.pva) 0x47 0 8
      (getF t (DIR.RGN_VER (regionCore r.pva) (r.pva % 256))) t.time.ft)) ∧
  (∀ (s : State) (core : Core) (v : Nat),
    alive s = true →
    coreUp s core = true →
    flag s (DIR.RGN_CTL_V core (getF s (DIR.RGN_SEL_INDEX core))) = false →
    v.testBit 0 = true →
    ownerOf s core = some (bitsOf v 2 4) →
    exec (.rgnCtlWrite core v) s = .next (let b := getF s (DIR.RGN_SEL_INDEX core)
      setF (setB (setB (setB s (DIR.RGN_STS_REFUSED core) false) (DIR.RGN_CTL_V core b) true) (DIR.RGN_CTL_LOCK core b) (v.testBit 1)) (DIR.RGN_CTL_PT core b) (bitsOf v 2 4))) ∧
  (∀ (s : State) (core : Core) (hi : Bool) (v : Nat),
    alive s = true →
    coreUp s core = true →
    flag s (DIR.RGN_CTL_V core (getF s (DIR.RGN_SEL_INDEX core))) = false →
    exec (.rgnVerWrite core hi v) s = .next (let b := getF s (DIR.RGN_SEL_INDEX core)
      setF (setB s (DIR.RGN_STS_REFUSED core) false) (DIR.RGN_VER core b) (insertBits (getF s (DIR.RGN_VER core b)) (if hi then 32 else 0) 32 v))) ∧
  (∀ (s : State) (core : Core) (hi : Bool) (v : Nat),
    alive s = true →
    coreUp s core = true →
    flag s (DIR.RGN_CTL_V core (getF s (DIR.RGN_SEL_INDEX core))) = true →
    exec (.rgnVerWrite core hi v) s = .next (setB s (DIR.RGN_STS_REFUSED core) true)) ∧
  (∀ (s : State) (core : Core) (pid : Pid) (opcode off : Nat),
    alive s = true →
    opcodeKnown (opcode % 256) = false →
    exec (.unknownOpcode core pid opcode off) s = .next (breach s (lineAt core off) pid (opcode % 256)))

/-- LEASE_RENEW of a LIVE partner restarts its lease and is acknowledged once M10 is done, before that it is answered
NOT_READY (log 128), of a fenced one FENCED, and of an unbound one PID_UNBOUND with a fault-log entry; a lease check
before admission only takes the configuration in force, and after it fences the partners whose leases are over;
FENCE, RELEASE and UNFENCE move a PID between its states and report the result; SWEEP_DONE leaves the swept PIDs
fenced and swept, raises event 2 and starts the next sweep; FENCE_POP removes one entry. -/
def Obligations.LeasesAndFencing : Prop :=
  (∀ (s : State) (pid : Pid) (seq : Nat) (port : Port),
    alive s = true →
    pidState s pid = 1 →
    s.boot.admitted = true →
    exec (.leaseRenew ⟨pid, port⟩ seq) s = .next (sendMgmt (startLease s pid) pid 0x71 16 (leaseAck s pid seq))) ∧
  (∀ (s : State) (pid : Pid) (seq : Nat) (port : Port),
    alive s = true →
    pidState s pid = 1 →
    s.boot.admitted = false →
    exec (.leaseRenew ⟨pid, port⟩ seq) s = .next (respond s { pid := pid } 16 0x48 3 8 0 s.time.ft none)) ∧
  (∀ (s : State) (pid : Pid) (seq : Nat) (port : Port),
    alive s = true →
    2 ≤ pidState s pid →
    exec (.leaseRenew ⟨pid, port⟩ seq) s = .next (respond s { pid := pid } 16 0x48 7 8 0 s.time.ft none)) ∧
  (∀ (s : State) (pid : Pid) (seq : Nat) (port : Port),
    alive s = true →
    pidState s pid = 0 →
    exec (.leaseRenew ⟨pid, port⟩ seq) s = .next (respond (faultEntry s 23 1 none (0x0600 + port) port pid) { pid := pid } 16 0x48 2 8 0 s.time.ft none)) ∧
  (∀ (s : State) (t : State),
    alive s = true →
    t = atPeriodic s 2 65536 2048 →
    t.boot.admitted = true →
    exec .partnerLeaseCheck s = .next (let cfg := (upTo 16).foldl (fun c pt => Store.set 2000 c pt
        (getF t (PART.LEASE_CFG_LEN_US pt) + getF t (PART.LEASE_CFG_REVERT pt) * 65536)) t.coh.cfg
      let u := { t with coh := { t.coh with cfg := cfg } }
      forAll ((upTo 4096).filter fun p => pidLive u p && leaseOver u p) fencePid u)) ∧
  (∀ (s : State),
    alive s = true →
    pidLive s (getF s PART.FENCE_PID_PID) = true →
    exec .fence s = .next (setF (fencePid s (getF s PART.FENCE_PID_PID)) (PART.FENCE_STS_RESULT 0) 0)) ∧
  (∀ (s : State),
    alive s = true →
    pidState s (getF s PART.FENCE_PID_PID) = 2 →
    runOpen s (pidPt s (getF s PART.FENCE_PID_PID)) = false →
    exec .release s = .next (let pid := getF s PART.FENCE_PID_PID
      startSweep (setF (setF s (PART.FENCE_STS_RESULT 0) 0) (PART.FENCE_STS_STATE pid) 3) (pidPt s pid))) ∧
  (∀ (s : State) (pt : Ptn) (ps : List Nat),
    alive s = true →
    Store.get [] s.coh.sweeps pt = ps →
    ps ≠ [] →
    exec (.sweepDone pt) s = .next (let cs := coresOf s pt
      let s0 := forAll ps (fun s p => setF s (PART.FENCE_LINES_LINES p) 0) s
      let s1 := forAll (s0.coh.dir.filter fun e => cs.contains (lineCore e.1) && (txnOf s e.1).isNone) (fun s e =>
        forAll (sweepEntry ps e.2).2 (fun s p => bumpF s (PART.FENCE_LINES_LINES p)) (setDir s e.1 (sweepEntry ps e.2).1)) s0
      let s2 := forAll ps (fun s p => if pidState s p = 3 then setF s (PART.FENCE_STS_STATE p) 4 else s) s1
      startSweep (raise { s2 with coh := { s2.coh with sweeps := Store.del s2.coh.sweeps pt } } 0x0030 2) pt)) ∧
  (∀ (s : State),
    alive s = true →
    pidState s (getF s PART.FENCE_PID_PID) = 4 →
    exec .unfence s = .next (let pid := getF s PART.FENCE_PID_PID
      freshBinding (setF (setF s (PART.FENCE_STS_RESULT 0) 0) (PART.FENCE_STS_STATE pid) 1) pid)) ∧
  (∀ (s : State),
    managed s = true →
    s.coh.fences ≠ [] →
    exec .fencePop s = .next { s with coh := { s.coh with fences := s.coh.fences.tail, fenceLost := false } })

/-- A descriptor written to an aperture whose FIFO has room is stored with the next accepted number and answered OK, one
that finds the FIFO full is answered FULL; a CMD_READ of CMDQ_COUNT answers the count; a write of 1 to FLUSH and
SEQ_CMD.FLUSH mark a flush; a marked flush takes effect when no local descriptor expands. -/
def Obligations.CommandApertures : Prop :=
  (∀ (s : State) (pid : Pid) (tag : Nat) (ties : List Pid) (r : Req),
    alive s = true →
    findReq s pid tag [0x0C] = some r →
    apOff r = 0 →
    r.pva < 2 ^ 16 →
    detOn s = false →
    apRefusal s r = none →
    (fifoOf s (apCore r) r.pt).length < 32 →
    exec (.cmdWriteDesc pid tag ties) s = .next (let c := apCore r
      let n := acceptedOf s c
      let s1 := setFifo s c r.pt (fifoOf s c r.pt ++ [{ desc := r.data % 2 ^ 512, num := n }])
      apAnswer { s1 with eng := { s1.eng with accepted := Store.set 0 s1.eng.accepted c (n + 1) } } r 0 0)) ∧
  (∀ (s : State) (pid : Pid) (tag : Nat) (ties : List Pid) (r : Req),
    alive s = true →
    findReq s pid tag [0x0C] = some r →
    apOff r = 0 →
    r.pva < 2 ^ 16 →
    detOn s = false →
    apRefusal s r = none →
    32 ≤ (fifoOf s (apCore r) r.pt).length →
    exec (.cmdWriteDesc pid tag ties) s = .next (apAnswer s r 32 0)) ∧
  (∀ (s : State) (pid : Pid) (tag : Nat) (ties : List Pid) (r : Req),
    alive s = true →
    findReq s pid tag [0x0D] = some r →
    apOff r = 0x040 →
    r.pva < 2 ^ 16 →
    detOn s = false →
    apRefusal s r = none →
    exec (.cmdRead pid tag ties) s = .next (apAnswer s r 0 (cmdqCount s (apCore r) r.pt))) ∧
  (∀ (s : State) (pid : Pid) (tag : Nat) (ties : List Pid) (r : Req),
    alive s = true →
    findReq s pid tag [0x0C] = some r →
    apOff r = 0x048 →
    r.pva < 2 ^ 16 →
    detOn s = false →
    apRefusal s r = none →
    r.data % 2 ^ 512 < 2 →
    r.data % 2 = 1 →
    exec (.cmdWriteFlush pid tag ties) s = .next (markFlush (apAnswer s r 0 0) (apCore r) false)) ∧
  (∀ (s : State) (core : Core),
    alive s = true →
    coreUp s core = true →
    (ownerOf s core).isSome = true →
    exec (.seqCmdFlush core) s = .next (markFlush s core true)) ∧
  (∀ (s : State) (core : Core) (n : Nat) (pt : Nat),
    alive s = true →
    expanding s core = false →
    flushMark s core = some n →
    ownerOf s core = some pt →
    Store.get false s.eng.markCmd core = true →
    exec (.flushTakesEffect core) s = .next (let s1 : State := { s with eng := { s.eng with mark := Store.del s.eng.mark core, markCmd := Store.del s.eng.markCmd core } }
      let l := fifoOf s1 core pt
      let gone := l.filter (·.num < n)
      let s2 := forAll gone (flushOne core pt) (setFifo s1 core pt (l.filter fun e => !(e.num < n)))
      pumpRecs (raise (addF s2 (SCORE.FLUSHED_COUNT core) gone.length) (0x0100 + core) 4)))

/-- DESC_READ takes the oldest descriptor of the FIFO, and one without a bad field becomes a share of its core, held
back when it has ORDER set and an earlier one is open; one with a bad field ends with BAD_FIELD and the offset;
ORDER_RELEASE releases it; the block of the descriptor read, and while another expands that of the descriptor in
stage 0 (log 81), is fetched, and one that passes the static check starts to expand, and its lead gives CORE_LOST to
a core of the mask that is already lost; SEGMENT gives a share of the descriptor to a core with room in its queue;
SEGMENT_REPORT reports a finished share to its lead. -/
def Obligations.DescriptorsAreRead : Prop :=
  (∀ (s : State) (core : Core) (pt : Nat) (e : FifoEnt) (rest : List FifoEnt),
    alive s = true →
    ownerOf s core = some pt →
    coreUp s core = true →
    passive s core = false →
    flushMark s core = none →
    (s.eng.shares.any fun h => h.core == core.val && h.lead == core.val && h.phase ≤ 2) = false →
    fifoOf s core pt = e :: rest →
    e.img = none →
    e.words = [] →
    badField e.desc core (runsFor s pt) = none →
    dTrng e.desc = false →
    exec (.descRead core) s = .next (let s1 := placeImages (setFifo s core pt rest)
      let h : Share := { job := s1.eng.jobs + 1, core := core, lead := core, pt := pt, desc := e.desc, num := e.num, seed := dSeed e.desc }
      let h1 := if dOrder e.desc && earlierOpen s1 core e.num then { h with phase := 0 } else releaseShare h
      learnLost { s1 with eng := { s1.eng with jobs := s1.eng.jobs + 1, shares := s1.eng.shares ++ [h1] } } core)) ∧
  (∀ (s : State) (core : Core) (pt : Nat) (e : FifoEnt) (rest : List FifoEnt),
    alive s = true →
    ownerOf s core = some pt →
    coreUp s core = true →
    passive s core = false →
    flushMark s core = none →
    (s.eng.shares.any fun h => h.core == core.val && h.lead == core.val && h.phase ≤ 2) = false →
    fifoOf s core pt = e :: rest →
    e.img = none →
    e.words ≠ [] →
    dPat e.desc ≠ 0 →
    dOrder e.desc = false →
    badField e.desc core (runsFor s pt) = none →
    dTrng e.desc = false →
    exec (.descRead core) s = .next (let s1 := placeImages (setFifo s core pt rest)
      let h : Share := { job := s1.eng.jobs + 1, core := core, lead := core, pt := pt, desc := e.desc, num := e.num, seed := dSeed e.desc, phase := 1 }
      takeBlock (learnLost { s1 with eng := { s1.eng with jobs := s1.eng.jobs + 1, shares := s1.eng.shares ++ [h] } } core) h e.words)) ∧
  (∀ (s : State) (core : Core) (pt : Nat) (e : FifoEnt) (rest : List FifoEnt) (o : Nat),
    alive s = true →
    ownerOf s core = some pt →
    coreUp s core = true →
    passive s core = false →
    flushMark s core = none →
    (s.eng.shares.any fun h => h.core == core.val && h.lead == core.val && h.phase ≤ 2) = false →
    fifoOf s core pt = e :: rest →
    e.img = none →
    badField e.desc core (runsFor s pt) = some o →
    exec (.descRead core) s = .next (pumpRecs (endEarly (placeImages (setFifo s core pt rest)) core pt e.num e.desc 32 o (seedGiven e.desc)))) ∧
  (∀ (s : State) (core : Core) (h : Share),
    alive s = true →
    (pumpRecs s).eng.shares.find? (fun h => h.core == core.val && h.lead == core.val && h.phase == 0) = some h →
    earlierOpen (pumpRecs s) core h.num = false →
    exec (.orderRelease core) s = .next (learnLost (putShare (pumpRecs s) (releaseShare h)) core)) ∧
  (∀ (s : State) (core : Core) (pt : Nat) (h : Share) (w v : Nat) (x t u : State),
    alive s = true →
    ownerOf s core = some pt →
    Crossed s core pt x →
    x.eng.shares.find? (fun h => h.core == core.val && h.lead == core.val && h.phase == 1) = some h →
    seqRead x core seqEng h.pt (dPat h.desc : Nat) 8 = (.ok w, t) →
    seqRead t core seqEng h.pt (dPat h.desc : Nat) (8 * (w % 64 + 1)) = (.ok v, u) →
    staticBreach (elems 64 (w % 64 + 1) v) = none →
    exec (.patternFetchDone core) s = .next (walksEnd s
      (learnLost (putShare u (beginExpand { h with words := elems 64 (w % 64 + 1) v })) h.core) pt)) ∧
  (∀ (s : State) (core : Core) (pt : Nat) (e : FifoEnt) (ws : List Nat) (x u : State),
    alive s = true →
    ownerOf s core = some pt →
    Crossed s core pt x →
    x.eng.shares.find? (fun h => h.core == core.val && h.lead == core.val && h.phase == 1) = none →
    ownerOf x core = some pt →
    aheadOf x core pt = some e →
    readBlock x core pt e.desc = (.ok ws, u) →
    exec (.patternFetchDone core) s = .next (walksEnd s
      (setFifo u core pt ((fifoOf u core pt).map fun y => if y.num = e.num then { y with words := ws } else y)) pt)) ∧
  (∀ (s : State) (core dest : Core) (h : Share),
    alive s = true →
    s.eng.shares.find? (fun h => h.core == core.val && h.lead == core.val && h.toSend.contains dest.val) = some h →
    coreUp s dest = true →
    (segQueue s dest).length < 32 →
    exec (.segment core dest) s = .next (let g : Share := { job := h.job, core := dest, lead := core, pt := h.pt, desc := h.desc, num := h.num, seed := h.seed }
      let s1 := putShare s { h with toSend := h.toSend.filter (· != dest.val) }
      { s1 with eng := { s1.eng with shares := s1.eng.shares ++ [g] } })) ∧
  (∀ (s : State) (core lead : Core) (num : Nat) (h l : Share),
    alive s = true →
    s.eng.shares.find? (fun h => h.core == core.val && h.lead == lead.val && h.num == num && h.phase == 3) = some h →
    shareIdle s h = true →
    dLong h.desc = true →
    core ≠ lead →
    collOf s h.core = none →
    findShare s h.job lead = some l →
    exec (.segmentReport core lead num) s = .next (let r : Report := { job := h.job, core := core, fail := h.fail, mine := h.mine, flags := h.flags, tally := h.tally, start := h.start, fin := h.fin }
      let s1 : State := { s with eng := { s.eng with reports := s.eng.reports ++ [r] } }
      settleLead { s1 with eng := { s1.eng with shares := s1.eng.shares.filter fun x => !(x.job == h.job && x.core == core.val) } } lead))

/-- TILE_EMIT runs a started share to its next tile, which is taken; the index that a stalled pattern waits for comes
into the index buffer, with the lines read ahead (log 139); a hint for a block of a tile within TIER_AHEAD tiles
goes to the tier controller. -/
def Obligations.TilesAreFormed : Prop :=
  (∀ (s : State) (core : Core) (seg : Bool) (h k : Share) (rs : List Rows) (w : Nat) (aux : List Nat),
    alive s = true →
    coreUp s core = true →
    ctxShare s core seg = some h →
    h.begun = true →
    Share.patRun patBudget h = (k, .tile rs w aux) →
    exec (.tileEmit core seg) s = .next (settleLead (takeTile (putShare s h) k rs w aux) h.lead)) ∧
  (∀ (s : State) (core : Core) (seg : Bool) (h k : Share),
    alive s = true →
    coreUp s core = true →
    ctxShare s core seg = some h →
    h.begun = true →
    Share.patRun patBudget h = (k, .fin) →
    exec (.tileEmit core seg) s = .next (settleLead (putShare (putShare s h) { k with phase := 3 }) h.lead)) ∧
  (∀ (s : State) (core : Core) (seg : Bool) (ahead : Nat) (h k : Share) (a : Int) (n : Nat) (m : Store Nat) (x t : State),
    alive s = true →
    coreUp s core = true →
    ctxShare s core seg = some h →
    Crossed s core h.pt x →
    ctxShare x core seg = some k →
    k.want = some (a, n) →
    k.ibuf = [] →
    rangeLines a.toNat n ≠ [] →
    seqLines x core seqEng k.pt a n = (.ok m, t) →
    exec (.indexArrival core ⟨seg, ahead⟩) s = .next (walksEnd s (
      let m0 := (rangeLines a.toNat n).foldl (fun b va => Store.ins b va (Store.get 0 m va)) []
      let next := ((upTo 32).map fun i => (a.toNat / 128 + i) * 128).take ((rangeLines a.toNat n).length + ahead)
      let f := fillIndex t core k.pt m0 next
      putShare f.2 { k with ibuf := f.1 }) h.pt)) ∧
  (∀ (s : State) (core : Core) (seg : Bool) (n va a : Nat) (x : Tile) (t : State),
    alive s = true →
    coreUp s core = true →
    (readyOf s core seg.toNat).find? (fun x => x.t == n && x.rows.any fun r => (rowVas r).any fun a => decide (a ≤ va ∧ va < a + r.bytes)) = some x →
    n + 1 ≤ Store.get 0 s.eng.sent (x.job * 16 + core) + getF s (SCORE.TIER_AHEAD_TILES core) →
    pagePlace s core seqEng x.pt va 0 = (.ok (.tier a), t) →
    exec (.tierHint core seg n va) s = .next (tierHint t x.pt ((a + va % 65536) / 4096)))

/-- TILE_DISPATCH gives the first context's head tile that an engine has room for to that engine, and grants a
collective tile to its contributors; TILE_EXECUTE of a tile whose pages translate and whose lines are reached
fetches the lines that the engine does not hold, computes the results where its checks detect nothing, starts to
write them and runs ahead to the next tile; a detection in attempt 1 leads to attempt 2 on the same engine, in
attempt 2 to a failed engine, in attempt 3 to a failed tile; at the limit of detections an idle engine is declared
failed; a tile whose writes are complete is done. -/
def Obligations.TilesInEngines : Prop :=
  (∀ (s : State) (core : Core) (ctx : Nat) (x : Tile) (k : Nat),
    alive s = true →
    coreUp s core = true →
    collOf s core = none →
    (readyHeads s core).findSome? (fun p => (engineFor s core p.2).map fun k => (p.1, p.2, k)) = some (ctx, x, k) →
    exec (.tileDispatch core) s = .next (let ce := engIdx core (engMap s core k)
      let s1 := setQueueAt (setReady s core ctx ((readyOf s core ctx).drop 1)) ce (queueAt s ce ++ [x])
      { s1 with eng := { s1.eng with turn := Store.set 0 s1.eng.turn core ((k + 1) % 8), sent := Store.set 0 s1.eng.sent (x.job * 16 + core) (x.t + 1) } })) ∧
  (∀ (s : State) (core : Core) (ctx : Nat) (x : Tile) (k : Nat) (q : Coll),
    alive s = true →
    coreUp s core = true →
    collStopNow s core = s →
    (readyHeads s core).findSome? (fun p => (engineFor s core p.2).map fun k => (p.1, p.2, k)) = some (ctx, x, k) →
    collOf s core = some q →
    q.job = x.job →
    (q.tiles.any fun y => y.t == x.t) = false →
    exec (.tileDispatch core) s = .next (let ce := engIdx core (engMap s core k)
      let s1 := setQueueAt (setReady s core ctx ((readyOf s core ctx).drop 1)) ce (queueAt s ce ++ [x])
      let s2 := { s1 with eng := { s1.eng with turn := Store.set 0 s1.eng.turn core ((k + 1) % 8), sent := Store.set 0 s1.eng.sent (x.job * 16 + core) (x.t + 1) } }
      sendGrants (setColl s2 core (some { q with tiles := q.tiles ++ [{ t := x.t }] })) q core x.t)) ∧
  (∀ (s : State) (core : Core) (eng : Eng) (found : Fin 12) (bad : List Nat) (ahead : Nat) (ties : Ties) (x y : Tile) (h : Share) (m : Store Place) (ls : List (Nat × Nat)) (got : Store Nat) (a b t u v w : State),
    alive s = true →
    coreUp s core = true →
    collOf s core = none →
    (queueAt s (engIdx core eng)).head? = some x →
    findShare s x.job core = some h →
    x.core = core.val →
    x.st = 0 →
    x.begun = true →
    dOp h.desc ≠ 7 →
    dOp h.desc ≠ 13 →
    h.img = none →
    found.val ≠ 10 →
    Crossed s core x.pt a →
    onShare (putTile a eng x) x.job core (fun h => { h with start := minStart h.start (some a.time.ft) }) = b →
    tilePages b eng x (rowsOf x (readStreams h.desc)) (rowsOf x (writeStreams h.desc)) = (.ok m, t) →
    reachLines t core eng x.pt ((firstOf (fun v => v) (linesMissing (joinBuf (residentOf t (engIdx core eng) x.job) x.input) (rowsOf x (readStreams h.desc)) ++ linesOf (rowsOf x (writeStreams h.desc)))).map fun v => (v, linePlace m v)) = (.ok ls, u) →
    ((ls.filter fun p => (linesMissing (joinBuf (residentOf t (engIdx core eng) x.job) x.input) (rowsOf x (readStreams h.desc))).contains p.1).any fun p => yields b ties (engIdx core eng) x.pt p.2 p.1) = false →
    fetchLines u core eng x.pt (ls.filter fun p => (linesMissing (joinBuf (residentOf t (engIdx core eng) x.job) x.input) (rowsOf x (readStreams h.desc))).contains p.1) = (.ok got, v) →
    keepLines v (engIdx core eng) h x got = (y, w) →
    y.core = core.val →
    detection y found = none →
    (tileResult (putTile w eng y) h y (joinBuf (residentOf (putTile w eng y) (engIdx core eng) y.job) y.input)).bad = false →
    exec (.tileExecute core eng ⟨found, bad, ahead, ties⟩) s = .next (walksEnd s (runAhead (
      let z := putTile w eng y
      let buf := joinBuf (residentOf z (engIdx core eng) y.job) y.input
      let o := tileResult z h y buf
      let k := tileWrites z y (keyMap ls) o
      startWrites (castTile k.2 h y buf) eng { y with out := k.1, flags := o.flags, tally := o.tally, hint := if dOp h.desc = 6 then o.hint else none }
        found bad (yields b ties (engIdx core eng) x.pt)) core eng ahead) x.pt)) ∧
  (∀ (s : State) (core : Core) (eng : Eng) (x : Tile),
    alive s = true →
    coreUp s core = true →
    (queueAt s (engIdx core eng)).head? = some x →
    x.st = 1 →
    x.attempt = 1 →
    getF s (ENG.DET_SINCE_ST_COUNT (engIdx x.core eng)) < 8 →
    exec (.tileReexecute core eng) s = .next (putTile (bumpF (recordDx 3 s x.pt) (ENG.REEXEC_SECOND (engIdx x.core eng))) eng { x with attempt := 2, st := 0 })) ∧
  (∀ (s : State) (core : Core) (eng : Eng) (x : Tile),
    alive s = true →
    coreUp s core = true →
    (queueAt s (engIdx core eng)).head? = some x →
    x.st = 1 →
    x.attempt = 2 →
    exec (.tileReexecute core eng) s = .next (engineFails (putTile (recordDx 3 s x.pt) eng { x with attempt := 3, st := 3, input := [] }) x.core eng false)) ∧
  (∀ (s : State) (core : Core) (eng : Eng) (x : Tile),
    alive s = true →
    coreUp s core = true →
    (queueAt s (engIdx core eng)).head? = some x →
    x.st = 1 →
    x.attempt = 3 →
    exec (.tileReexecute core eng) s = .next (failTile (datapathEntry s eng x) eng x 35 0)) ∧
  (∀ (s : State) (core : Core) (eng : Eng),
    alive s = true →
    coreUp s core = true →
    8 ≤ getF s (ENG.DET_SINCE_ST_COUNT (engIdx core eng)) →
    engFailed s core eng = false →
    queueAt s (engIdx core eng) = [] →
    exec (.detLimit core eng) s = .next (engineFails s core eng false)) ∧
  (∀ (s : State) (core : Core) (eng : Eng) (ties : Ties) (x : Tile) (h : Share) (t u : State),
    alive s = true →
    coreUp s core = true →
    (queueAt s (engIdx core eng)).head? = some x →
    findShare s x.job core = some h →
    x.st = 2 →
    takeFail s (engIdx core eng) = (none, t) →
    issueWrites core eng x.pt x.hint (yields t ties (engIdx core eng) x.pt) x.out t = ([], u) →
    x.lines.any (writePending (putTile u eng { x with out := [] }) (engIdx core eng)) = false →
    exec (.tileDone ⟨core, eng⟩ ties) s = .next (finishTile (putTile u eng { x with out := [] }) eng h x))

/-- ROOT_COMPUTE of a HASH whose tiles are all done reads the leaves back and stores the SHA3-512 of them and of the
length, and with a detection ends the descriptor as DATAPATH, with the detection recorded on the engine; a line of a
contributor is added into its tile of the collective once, and one that is not expected is counted and discarded. -/
def Obligations.RootAndCollectives : Prop :=
  (∀ (s : State) (core : Core) (eng : Eng) (pt num : Nat) (h : Share) (v : Nat) (a t : State),
    alive s = true →
    coreUp s core = true →
    ownerOf s core = some pt →
    (logicalOf s core eng).isSome = true →
    Crossed s core pt a →
    a.eng.shares.find? (fun h => h.core == core.val && h.lead == core.val && h.num == num && rootDue h) = some h →
    rootReady a h = true →
    h.emitted ≠ 0 →
    h.img = none →
    seqRead a core eng h.pt h.leaf0 (64 * h.emitted) = (.ok v, t) →
    exec (.rootCompute ⟨core, eng⟩ num false) s = .next (walksEnd s (
      let root := sha3 (Keccak.toBytes (64 * h.emitted) v ++ le 8 (rootTotal a h))
      settleLead (onShare t h.job core fun h => { h with root := some root }) core) pt)) ∧
  (∀ (s : State) (core : Core) (eng : Eng) (pt num : Nat) (h : Share) (a : State),
    alive s = true →
    coreUp s core = true →
    ownerOf s core = some pt →
    (logicalOf s core eng).isSome = true →
    Crossed s core pt a →
    a.eng.shares.find? (fun h => h.core == core.val && h.lead == core.val && h.num == num && rootDue h) = some h →
    rootReady a h = true →
    exec (.rootCompute ⟨core, eng⟩ num true) s = .next (walksEnd s (
      let f : TileFail := { tile := h.emitted, below := h.mine, status := 35, detail := 0, offset := 2 ^ 48 - 1 }
      let i := engIdx core eng
      let s1 := onShare (faultEntry (noteDetection a i 7 1 false false) 17 1 (some h.pt) (0x0200 + i) i h.emitted) h.job core fun h => { h with fail := some f }
      let rs := s1.eng.reports.map fun r => if r.job = h.job ∧ r.core = core.val then { r with fail := some f } else r
      settleLead { s1 with eng := { s1.eng with reports := rs } } core) pt)) ∧
  (∀ (s : State) (core : Core) (pid : Pid) (n j data : Nat) (k : Coll) (x : CollTile) (h : Share),
    alive s = true →
    coreUp s core = true →
    collOf s core = some k →
    k.tiles.find? (·.t == n) = some x →
    findShare s k.job core = some h →
    k.stop = none →
    k.pids.contains pid.val = true →
    j < collLines h.desc ((((heldTiles s core).find? fun y => y.job == k.job && y.t == n).map (·.rows)).getD []) →
    x.seen.contains (pid.val, j) = false →
    exec (.collPut core pid n j data) s = .next (let y := { collAdd h.desc j (data % 2 ^ 1024) x with seen := x.seen ++ [(pid.val, j)] }
      setColl s core (some { k with tiles := k.tiles.map fun z => if z.t = n then y else z }))) ∧
  (∀ (s : State) (core : Core) (pid : Pid) (n j data : Nat),
    alive s = true →
    coreUp s core = true →
    collOf s core = none →
    exec (.collPut core pid n j data) s = .next (bumpF s (SCORE.COLL_DROPPED_COUNT core)))

/-- A rotation step with a spare starts the test of the next engine, whose work the spare takes over; a passed test
clears the detection count and ends the stand-in, a failed one is logged and fails the engine; CHK_INJECT arms
detections on an engine in service. -/
def Obligations.SelfTestAndInjection : Prop :=
  (∀ (s : State) (core : Core) (t : State) (k : Nat),
    alive s = true →
    coreUp s core = true →
    t = atPeriodic s (16 + core) 268435456 ((4096 * core + 2048) * 4096 + 32 * 64) →
    getF t (SCORE.SPARE_STS_SPARE core) = 8 →
    flag t (SCORE.ST_CTL_ROT_EN core) = true →
    testedEngine t core = none →
    getF t (SCORE.SPARE_STS_NEXT_STEP core) = k →
    k < 8 →
    exec (.selftestRotationStep core) s = .next (let s1 := setF t (SCORE.SPARE_STS_NEXT_STEP core) ((k + 1) % 9)
      let s2 := { s1 with eng := { s1.eng with testing := Store.set 0 s1.eng.testing core (k + 1) } }
      setF (setB (setMap s2 core k 8) (SCORE.SPARE_STS_STANDIN core) true) (SCORE.SPARE_STS_STANDIN_FOR core) k)) ∧
  (∀ (s : State) (core : Core) (e : Nat),
    alive s = true →
    coreUp s core = true →
    testedEngine s core = some e →
    queueAt s (engIdx core e) = [] →
    e ≠ 8 →
    exec (.selftestDone core 0) s = .next (let s1 := setF (setB (bumpF s (ENG.ST_COUNT_RUNS (engIdx core e))) (SCORE.ST_LAST_PASS core) true) (SCORE.ST_LAST_UNIT core) e
      let s2 := endTest (setF (setB s1 (SCORE.ST_LAST_ABORTED core) false) (SCORE.ST_LAST_BLOCK core) 0) core
      endStandin (setF s2 (ENG.DET_SINCE_ST_COUNT (engIdx core e)) 0) core)) ∧
  (∀ (s : State) (core : Core) (b : Fin 7) (e : Nat),
    alive s = true →
    coreUp s core = true →
    testedEngine s core = some e →
    queueAt s (engIdx core e) = [] →
    b.val ≠ 0 →
    exec (.selftestDone core b) s = .next (let s1 := setF (setB (bumpF s (ENG.ST_COUNT_RUNS (engIdx core e))) (SCORE.ST_LAST_PASS core) false) (SCORE.ST_LAST_UNIT core) e
      let s2 := endTest (setF (setB s1 (SCORE.ST_LAST_ABORTED core) false) (SCORE.ST_LAST_BLOCK core) b) core
      engineFails (engineEntry (bumpF s2 (ENG.ST_COUNT_FAILS (engIdx core e))) core e 4 true) core e true)) ∧
  (∀ (s : State) (core : Core) (eng : Eng) (v : Nat),
    alive s = true →
    v.testBit 0 = true →
    ownerOf s core = none →
    engFailed s core eng = false →
    coreUp s core = true →
    exec (.chkInject core eng v) s = .next (let b := match bitsOf v 1 2 with | 0 => 1 | 1 => 2 | 2 => 5 | _ => 6
      let s1 := setB s (ENG.CHK_INJECT_REFUSED (engIdx core eng)) false
      { s1 with eng := { s1.eng with inject := Store.set (0, 0) s1.eng.inject (engIdx core eng) (b, max 1 (bitsOf v 3 2)) } }))

/-- A request that finds room enters the queue of the pseudo-channel where its line lies, with its service, target
class, age, half and order, and a write cancels the line's queued write-back; a data window outside deterministic
mode transfers the request of the highest rank unless it turns the direction after the window just before; a request
at the age limit is counted once; a REFRESH slot is counted, and where the stack takes commands refreshes the next
stack ID and sends the refresh-management commands that are due. -/
def Obligations.DramScheduling : Prop :=
  (∀ (s : State) (core : Core) (off : Nat) (src : Fin 6) (port : Port) (write part : Bool),
    alive s = true →
    stackLive s core = true →
    dirRoom (pcQueue s (pcKey core (pcOf (physOff s core (lineOffArg off))))) write = true →
    exec (.dramRequest core off src port write part) s = .next (let p := physOff s core (lineOffArg off)
      let k := pcKey core (pcOf p)
      let n := Store.get 0 s.dram.issued (k / 64)
      let r : DramReq := { line := memKey core (lineOffArg off), write := write, rmw := write && part, svc := (dramClass s core src port write).1, tc := (dramClass s core src port write).2, since := s.time.elapsed, half := (s.time.ft + 51) / 32, order := n, bank := bankOf p, wb := src.val == 5 }
      let s1 : State := { s with dram := { s.dram with issued := Store.set 0 s.dram.issued (k / 64) (n + 1) } }
      let s2 := if write && !(src.val == 5) then setWb s1 (k / 64) ((wbEntries s1 (k / 64)).filter fun e => e.written || e.line != memKey core (lineOffArg off)) else s1
      noteWater (setPcQueue s2 k (pcQueue s2 k ++ [r])) k)) ∧
  (∀ (s : State) (core : Core) (pc : Fin 64) (r : DramReq),
    alive s = true →
    stackLive s core = true →
    detOn s = false →
    (pcQueue s (pcKey core pc)).find? (fun r => !r.aged) = some r →
    exec (.ageExpired core pc) s = .next (let k := pcKey core pc
      let s1 := advanceEl s (r.since + getF s (DRC.AGE_LIMIT_NS core))
      bumpF (setPcQueue s1 k ((pcQueue s1 k).map fun x => if x = r then { x with aged := true } else x)) (DRC.AGE_EXPIRED_COUNT core))) ∧
  (∀ (s : State) (core : Core) (pc : Fin 64) (t : State) (r : DramReq),
    alive s = true →
    stackLive s core = true →
    t = atPeriodic s (4096 + pcKey core pc) 4 0 →
    48 ≤ t.time.ft →
    isKind (coreEntry t core (ctlSlot t.time.ft)) 4 = false →
    isKind (coreEntry t core (ctlSlot t.time.ft)) 5 = false →
    Store.get 0 t.dram.bist core = 0 →
    detOn t = false →
    firstBy (fun a b => offRank t (pcKey core pc) b < offRank t (pcKey core pc) a) ((pcQueue t (pcKey core pc)).filter (canGo t core pc t.time.ft)) = some r →
    (Store.get (0, 0) t.dram.lastWr (pcKey core pc)).1 = 0 ∨ (Store.get (0, 0) t.dram.lastWr (pcKey core pc)).1 = dirNow r ∨ (Store.get (0, 0) t.dram.lastWr (pcKey core pc)).2 + 4 ≠ t.time.elapsed →
    exec (.dataWindow core pc) s = .next (transfer t core pc r)) ∧
  (∀ (s : State) (core : Core) (t : State),
    alive s = true →
    coreUp s core = true →
    toKind s core 4 (8192 + core) = some t →
    stackLive t core = true →
    exec (.refreshSlot core) s = .next (let n := Store.get 0 t.dram.refresh core
      let u := { t with dram := { t.dram with refresh := Store.set 0 t.dram.refresh core (n + 1) } }
      let sid := n % 4
      let acts := (u.dram.acts.filter fun e => e.1 / 4096 == core.val && e.1 % 64 / 16 == sid).foldl (fun m e => relieve m e.1) u.dram.acts
      let d := { u.dram with acts := acts, sidAt := Store.set 0 u.dram.sidAt (core * 4 + sid) (u.time.elapsed + 12) }
      forAll ((upTo 64).filter fun pc => !(Store.get [] d.rfmq (pcKey core pc)).isEmpty) (sendRfm · core ·) { countWork u core 3 1024 with dram := d })) ∧
  (∀ (s : State) (core : Core) (t : State),
    alive s = true →
    coreUp s core = true →
    toKind s core 4 (8192 + core) = some t →
    stackLive t core = false →
    exec (.refreshSlot core) s = .next { t with dram := { t.dram with refresh := Store.set 0 t.dram.refresh core (Store.get 0 t.dram.refresh core + 1) } })

/-- A read that the decoder corrects is counted, captured and entered for write-back; one of a structure of the module
that it cannot correct is repaired; the oldest write-back is written with deterministic mode off; a pin with
corrections in 64 rows is erased where automatic erasure is on; a MAINT slot trains, calibrates or scrubs, whichever
is due first. -/
def Obligations.DramCorrection : Prop :=
  (∀ (s : State) (core : Core) (off : Nat) (src : Fin 6) (es : List (Nat × Nat)) (l : List (Nat × Nat)) (t : State),
    alive s = true →
    stackLive s core = true →
    t = (if es.isEmpty then s else setErrors s (memKey core (keptOff s core (lineOffArg off))) es) →
    readOutcome t (memKey core (keptOff s core (lineOffArg off))) = some l →
    l ≠ [] →
    exec (.dramReadData core off src es) s = .next (checkChannels (ceRead t (memKey core (keptOff s core (lineOffArg off))) l false) core)) ∧
  (∀ (s : State) (core : Core) (off : Nat) (es : List (Nat × Nat)) (t : State),
    alive s = true →
    stackLive s core = true →
    t = (if es.isEmpty then s else setErrors s (memKey core (keptOff s core (lineOffArg off))) es) →
    readOutcome t (memKey core (keptOff s core (lineOffArg off))) = none →
    exec (.dramReadData core off 0 es) s = .next (checkChannels (ueArea (ueRead t (memKey core (keptOff s core (lineOffArg off))) false) (memKey core (keptOff s core (lineOffArg off)))) core)) ∧
  (∀ (s : State) (core : Core) (e : WbEntry),
    alive s = true →
    stackLive s core = true →
    detOn s = false →
    (wbEntries s core).find? (fun e => !e.written) = some e →
    exec (.correctedWriteback core) s = .next (let s1 := setWb s core ((wbEntries s core).map fun x => if x = e then { x with written := true } else x)
      pushDram (rewriteLine s1 e.line) core (lineOff e.line) 5 0 true false)) ∧
  (∀ (s : State) (core : Core) (pc : Fin 64) (p : Nat),
    alive s = true →
    stackLive s core = true →
    flag s (EDAC.REMAP_CTL_ERASE_AUTO core) = true →
    flag s (EDAC.ERASE_EN core pc) = false →
    (upTo 36).find? (fun p => decide (64 ≤ (Store.get [] s.dram.pinRows (bankKey core pc p)).length)) = some p →
    exec (.pinErased core pc) s = .next (raise (setB (setB (setF s (EDAC.ERASE_PIN core pc) p) (EDAC.ERASE_EN core pc) true) (EDAC.ERASE_AUTO_SET core pc) true) (0x0320 + core) 4)) ∧
  (∀ (s : State) (core : Core) (bad : List Nat) (again : List (Nat × List (Nat × Nat))) (t u : State),
    alive s = true →
    stackLive s core = true →
    toKind s core 5 (8208 + core) = some t →
    remapSts (doRepairs t core) core = u →
    copyingEntry u core = none →
    maintDue u core 0 = false →
    maintDue u core 1 = false →
    u.dram.failed = [] →
    exec (.maintSlot core bad again) s = .next (checkChannels (scrubStep u core again) core)) ∧
  (∀ (s : State) (core : Core) (bad : List Nat) (again : List (Nat × List (Nat × Nat))) (t u : State),
    alive s = true →
    stackLive s core = true →
    toKind s core 5 (8208 + core) = some t →
    remapSts (doRepairs t core) core = u →
    copyingEntry u core = none →
    maintDue u core 0 = true →
    exec (.maintSlot core bad again) s = .next (checkChannels (trainStack u core bad) core))

/-- An accepted remap request takes its entries, or waits behind the one that copies; BIST runs on an unowned core and
reports its result with event 2, READ counting what it corrects as scrub does, PATTERN leaving the stack rewritten
(log 14); the test commands store and read a line of an unowned core on a channel that is up and raise event 6, and
are refused while a partition owns the core. -/
def Obligations.DramRepairAndTest : Prop :=
  (∀ (s : State) (core : Core) (v : Nat),
    alive s = true →
    coreUp s core = true →
    remapResult s core (RemapReq.ofWord v) = 0 →
    copyingEntry (setF s (EDAC.REMAP_RES_RESULT core) 0) core = none →
    exec (.remapRequest core v) s = .next (takeEntry (setF s (EDAC.REMAP_RES_RESULT core) 0) core (RemapReq.ofWord v))) ∧
  (∀ (s : State) (core : Core) (kind : Fin 2),
    alive s = true →
    stackLive s core = true →
    ownerOf s core = none →
    flag s (HPHY.BIST_STS_BUSY core) = false →
    exec (.bistStart core kind) s = .next (setB { s with dram := { s.dram with bist := Store.set 0 s.dram.bist core (kind + 1) } } (HPHY.BIST_STS_BUSY core) true)) ∧
  (∀ (s : State) (core : Core) (errors : List (Nat × List (Nat × Nat))),
    alive s = true →
    stackLive s core = true →
    Store.get 0 s.dram.bist core = 1 →
    exec (.bistDone core errors) s = .next (let s1 := forAll errors (fun u x => setErrors u (memKey core (keptOff u core (lineOffArg x.1))) x.2) s
      let ls := (s1.dram.faults.map (·.1)).filter fun l => lineCore l == core.val && !chanDown s1 l
      let bad := (ls.filter fun l => (decodeLine s1 l).isNone).length + (downChannels s1 core).length * 2 ^ 24
      let s2 := downReads (forAll ls scrubRead s1) core 1
      let s3 := forAll (upTo 4096) (fun s b => noteActAt s core (b / 64) (b % 64))
        { s2 with dram := { s2.dram with bist := Store.del s2.dram.bist core } }
      let s4 := setB (setF s3 (HPHY.BIST_STS_RESULT core) (if bad = 0 then 0 else 1)) (HPHY.BIST_STS_BUSY core) false
      checkChannels (raise (setF s4 (HPHY.BIST_STS_FAIL_LINES core) (min bad 65535)) (0x0310 + core) 2) core)) ∧
  (∀ (s : State) (core : Core) (errors : List (Nat × List (Nat × Nat))) (u : State),
    alive s = true →
    stackLive s core = true →
    Store.get 0 s.dram.bist core = 2 →
    wipeStack s core = u →
    exec (.bistDone core errors) s = .next (let s1 := forAll errors (fun w x => setErrors w (memKey core (keptOff w core (lineOffArg x.1))) x.2) u
      let ls := (s1.dram.faults.map (·.1)).filter fun l => lineCore l == core.val && !chanDown s1 l
      let bad := (ls.filter fun l => (decodeLine s1 l).isNone).length + (downChannels s1 core).length * 2 ^ 24
      let s2 := downReads (s1) core 4
      let s3 := forAll (upTo 4096) (fun s b => noteActAt s core (b / 64) (b % 64))
        { s2 with dram := { s2.dram with bist := Store.del s2.dram.bist core } }
      let s4 := setB (setF s3 (HPHY.BIST_STS_RESULT core) (if bad = 0 then 0 else 1)) (HPHY.BIST_STS_BUSY core) false
      checkChannels (raise (setF s4 (HPHY.BIST_STS_FAIL_LINES core) (min bad 65535)) (0x0310 + core) 2) core)) ∧
  (∀ (s : State) (core : Core) (u : State),
    alive s = true →
    stackLive s core = true →
    ownerOf s core = none →
    noteAct (setB s (EDAC.TEST_STS_REFUSED core) false) core (lineOff (testLine s core)) = u →
    chanDown u (testLine s core) = false →
    exec (.testWrite core) s = .next (let line := testLine s core
      raise (storeRaw u line (getF u (EDAC.TEST_DATA core)) (getF u (EDAC.TEST_CHK core))) (0x0320 + core) 6)) ∧
  (∀ (s : State) (core : Core) (u : State),
    alive s = true →
    stackLive s core = true →
    ownerOf s core = none →
    noteAct (setB s (EDAC.TEST_STS_REFUSED core) false) core (lineOff (testLine s core)) = u →
    chanDown u (testLine s core) = false →
    exec (.testRead core) s = .next (let line := testLine s core
      let w := storedLine u line
      let d := readOutcome u line
      let s2 := setF (setF u (EDAC.TEST_DATA core) (RS.applyData w.1 (d.getD []))) (EDAC.TEST_CHK core) (RS.applyChk w.2 (d.getD []))
      let s3 := setF s2 (EDAC.TEST_STS_RESULT core) (match d with | none => 2 | some [] => 0 | some _ => 1)
      raise (setF s3 (EDAC.TEST_STS_SYMBOLS core) (d.getD []).length) (0x0320 + core) 6)) ∧
  (∀ (s : State) (core : Core) (u : State),
    alive s = true →
    stackLive s core = true →
    ownerOf s core = none →
    noteAct (setB s (EDAC.TEST_STS_REFUSED core) false) core (lineOff (testLine s core)) = u →
    chanDown u (testLine s core) = false →
    exec (.testReadRaw core) s = .next (let line := testLine s core
      let w := storedLine u line
      raise (setF (setF u (EDAC.TEST_DATA core) w.1) (EDAC.TEST_CHK core) w.2) (0x0320 + core) 6)) ∧
  (∀ (s : State) (core : Core),
    alive s = true →
    stackLive s core = true →
    (ownerOf s core).isSome = true →
    exec (.testWrite core) s = .next (setB s (EDAC.TEST_STS_REFUSED core) true))

/-- An access whose block is resident goes on to the line of its way; an evicted block that is clean leaves its way, a
dirty one is written back first; a completed read fills the ways of its command and a completed write is reported
for each of its blocks; a command that fails or times out for the first time is logged and tried again. -/
def Obligations.TierAccesses : Prop :=
  (∀ (s : State) (pid : Pid) (tag : Nat) (r : Req) (k : Nat) (t : State),
    alive s = true →
    s.net.store.find? (fun r => r.pid == pid.val && r.tag == tag && !r.taken && r.tier.isSome && r.line.isNone) = some r →
    tierLook s r.pt (r.tier.getD 0 / 4096) (.req pid tag) = (.way k, t) →
    exec (.tierAccess pid tag) s = .next (setReq t { r with line := some (wayLine t r.pt k + lineOf (r.tier.getD 0 % 4096)) })) ∧
  (∀ (s : State) (pid : Pid) (tag : Nat) (r : Req) (k : Nat) (t : State),
    alive s = true →
    s.net.store.find? (fun r => r.pid == pid.val && r.tag == tag && !r.taken && r.tier.isSome && r.line.isNone) = some r →
    tierLook s r.pt (r.tier.getD 0 / 4096) (.req pid tag) = (.way k, t) →
    exec (.tierWayWait pid tag) s = .next (setReq t { r with line := some (wayLine t r.pt k + lineOf (r.tier.getD 0 % 4096)) })) ∧
  (∀ (s : State) (core : Core) (set way : Nat),
    alive s = true →
    (getWay s (wayArg core set way)).state = 5 →
    recalling s (wayJob (wayArg core set way)) = false →
    wayOps s (wayArg core set way) = [] →
    (getWay s (wayArg core set way)).prior ≠ 3 →
    goalOf s (wayArg core set way) = none →
    exec (.evictRecallDone core set way) s = .next (markFailed (setGoal (setWay s (wayArg core set way) {}) (wayArg core set way) none) (wayArg core set way) false)) ∧
  (∀ (s : State) (core : Core) (set way : Nat),
    alive s = true →
    (getWay s (wayArg core set way)).state = 5 →
    recalling s (wayJob (wayArg core set way)) = false →
    wayOps s (wayArg core set way) = [] →
    (getWay s (wayArg core set way)).prior = 3 →
    exec (.evictRecallDone core set way) s = .next (submitWriteback s (wayArg core set way))) ∧
  (∀ (s : State) (core : Core) (set way : Nat),
    alive s = true →
    (getWay s (wayArg core set way)).state ≠ 5 →
    exec (.evictRecallDone core set way) s = .next (pumpEmpty s (wayArg core set way))) ∧
  (∀ (s : State) (core : Core) (set way : Nat) (o : TierOp),
    alive s = true →
    s.tier.ops.find? (fun o => o.way == wayArg core set way && !o.write) = some o →
    exec (.fillComplete core set way) s = .next (pumpOps (forAll (s.tier.ops.filter (·.cmd == o.cmd)) fillDone (answered (dropCmd s o.cmd) o.drive)))) ∧
  (∀ (s : State) (core : Core) (set way : Nat) (drive : Root) (o : TierOp),
    alive s = true →
    opOf s (wayArg core set way) drive true = some o →
    exec (.writebackComplete core set way drive) s = .next (pumpOps (forAll (s.tier.ops.filter (·.cmd == o.cmd)) writeReported (answered (dropCmd s o.cmd) o.drive)))) ∧
  (∀ (s : State) (core : Core) (set way : Nat) (drive : Root) (o : TierOp),
    alive s = true →
    s.tier.ops.find? (fun o => o.way == wayArg core set way && o.drive == drive.val) = some o →
    o.again = false →
    Store.get 0 s.tier.slow drive < 2 →
    exec (.nvmeTimeout core set way drive) s = .next (let k := wayArg core set way
      let s2 := faultEntry (bumpF s (PCIE.ERRORS_TIMEOUT drive)) 25 1 (some (wayPt s k)) (0x0510 + drive) drive o.lba
      let s3 := { s2 with tier := { s2.tier with slow := Store.set 0 s2.tier.slow drive (Store.get 0 s2.tier.slow drive + 1) } }
      retryOps (dropCmd s3 o.cmd) drive (s.tier.ops.filter (·.cmd == o.cmd)))) ∧
  (∀ (s : State) (core : Core) (set way : Nat) (drive : Root) (o : TierOp),
    alive s = true →
    s.tier.ops.find? (fun o => o.way == wayArg core set way && o.drive == drive.val) = some o →
    o.again = false →
    exec (.nvmeCommandFail core set way drive) s = .next (let k := wayArg core set way
      let s2 := faultEntry (bumpF s (PCIE.ERRORS_CMD drive)) 25 1 (some (wayPt s k)) (0x0510 + drive) drive o.lba
      let s3 := { s2 with tier := { s2.tier with slow := Store.set 0 s2.tier.slow drive 0 } }
      retryOps (dropCmd s3 o.cmd) drive (s.tier.ops.filter (·.cmd == o.cmd))))

/-- A root port whose link goes down with a READY drive loses the drive; an accepted rebuild runs until the new drive
holds what the survivor holds; a flush empties every way of its partition and ends with event 3; a cache size and an
assignment of a drive that the rules allow take effect; a reset port trains its drive anew with PERST_N low, and a
drive that meets the requirements becomes READY with its size, any other REJECTED with its reason; a request of a
drive outside its private space is counted. -/
def Obligations.TierDrives : Prop :=
  (∀ (s : State) (root : Root) (u : State),
    alive s = true →
    flag s (PCIE.LINK_STS_UP root) = true →
    raise (setB s (PCIE.LINK_STS_UP root) false) (0x0510 + root) 0 = u →
    getF u (PCIE.DRV_STS_STATE root) = 2 →
    exec (.rootLinkDown root) s = .next (driveLost u root 5)) ∧
  (∀ (s : State) (port : Root),
    alive s = true →
    s.tier.rebuild = none →
    windowPaired s port = true →
    degradedBy s port = some port.val →
    driveReady s port = true →
    readDrives s (port / 2 * 2) ≠ [] →
    exec (.rebuildGo port) s = .next (let s1 := setB (setB s TIER.REBUILD_STS_REFUSED false) TIER.REBUILD_STS_BUSY true
      { setF s1 TIER.REBUILD 0 with tier := { s1.tier with rebuild := some port.val } })) ∧
  (∀ (s : State) (d : Nat),
    alive s = true →
    s.tier.rebuild = some d →
    exec .rebuildDone s = .next (let base := d / 2 * 2
      let s1 := copyTo s d (pairLbas s base)
      let t := { s1.tier with rebuild := none, lostOf := Store.del s1.tier.lostOf base }
      raise (setB { s1 with tier := t } TIER.REBUILD_STS_BUSY false) 0x0500 2)) ∧
  (∀ (s : State) (pt : Ptn),
    alive s = true →
    exec (.tierFlush pt) s = .next (forAll (waysInUse s pt) wantEmpty (setB s (TIER.PT_STS_FLUSHING pt) true))) ∧
  (∀ (s : State) (pt : Ptn) (u : State),
    alive s = true →
    forAll (waysInUse s pt) pumpEmpty s = u →
    flag u (TIER.PT_STS_FLUSHING pt) = true →
    emptying u pt = false →
    exec (.tierFlushDone pt) s = .next (raise (setB u (TIER.PT_STS_FLUSHING pt) false) 0x0500 3)) ∧
  (∀ (s : State) (pt : Ptn) (gib : Nat),
    alive s = true →
    gib ≤ 32 →
    tierEmpty s pt = true →
    cacheFits s pt gib = true →
    exec (.ptCacheWrite pt gib) s = .next (setF (setB s (TIER.PT_STS_REFUSED pt) false) (TIER.PT_CACHE_GIB pt) gib)) ∧
  (∀ (s : State) (pt : Ptn) (gib : Nat),
    alive s = true →
    tierEmpty s pt = false →
    exec (.ptCacheWrite pt gib) s = .next (setB s (TIER.PT_STS_REFUSED pt) true)) ∧
  (∀ (s : State) (root : Root) (v : Nat),
    alive s = true →
    driveOk s root v = true →
    v.testBit 4 = true →
    flag s (TIER.DRIVE_EN root) = false →
    exec (.driveAssign root v) s = .next (let pt := v % 16
      let s1 := setB (setF (setB s (TIER.PT_STS_REFUSED pt) false) (TIER.DRIVE_PT root) pt) (TIER.DRIVE_EN root) true
      bumpConfigGen (newTierKey (setB s1 (TIER.DRIVE_PAIR root) (v.testBit 5 && root.val % 2 == 0)) pt) pt)) ∧
  (∀ (s : State) (root : Root) (v : Nat),
    alive s = true →
    driveOk s root v = true →
    (v.testBit 4 = flag s (TIER.DRIVE_EN root) ∨ v.testBit 4 = false) →
    exec (.driveAssign root v) s = .next (let pt := v % 16
      let s1 := setB (setF (setB s (TIER.PT_STS_REFUSED pt) false) (TIER.DRIVE_PT root) pt) (TIER.DRIVE_EN root) (v.testBit 4)
      setB s1 (TIER.DRIVE_PAIR root) (v.testBit 5 && root.val % 2 == 0))) ∧
  (∀ (s : State) (root : Root),
    alive s = true →
    s.boot.badRoots.getLsbD root = false →
    flag s (TIER.DRIVE_EN root) = false →
    exec (.portReset root) s = .next (setPerst (setF (setF (setB s (PCIE.LINK_STS_UP root) false) (PCIE.DRV_STS_STATE root) 1) (PCIE.DRV_STS_REASON root) 0) root false)) ∧
  (∀ (s : State) (root : Root) (rate lanes : Nat) (flit : Bool) (i : DriveId) (lbas sp w : Nat) (t : State),
    alive s = true →
    getF s (PCIE.DRV_STS_STATE root) = 1 →
    min rate 6 = sp →
    0 < sp →
    (if 4 ≤ lanes then 4 else if 2 ≤ lanes then 2 else lanes) = w →
    0 < w →
    setB (setF (setF (setB (setPerst s root true) (PCIE.LINK_STS_UP root) true) (PCIE.LINK_STS_SPEED root) sp) (PCIE.LINK_STS_WIDTH root) w) (PCIE.LINK_STS_FLIT root) flit = t →
    driveRefusal i = none →
    exec (.driveReady root rate lanes flit i lbas) s = .next (let s2 := setF (setF t (PCIE.DRV_STS_STATE root) 2) (PCIE.NS root) lbas
      { s2 with tier := { s2.tier with size := Store.set 0 s2.tier.size root (min (lbas / 262144) 8192), gone := s2.tier.gone.filter (· != root.val) } })) ∧
  (∀ (s : State) (root : Root) (rate lanes : Nat) (flit : Bool) (i : DriveId) (lbas sp w reason : Nat) (t : State),
    alive s = true →
    getF s (PCIE.DRV_STS_STATE root) = 1 →
    min rate 6 = sp →
    0 < sp →
    (if 4 ≤ lanes then 4 else if 2 ≤ lanes then 2 else lanes) = w →
    0 < w →
    setB (setF (setF (setB (setPerst s root true) (PCIE.LINK_STS_UP root) true) (PCIE.LINK_STS_SPEED root) sp) (PCIE.LINK_STS_WIDTH root) w) (PCIE.LINK_STS_FLIT root) flit = t →
    driveRefusal i = some reason →
    exec (.driveReady root rate lanes flit i lbas) s = .next (raise (setF (setF t (PCIE.DRV_STS_STATE root) 3) (PCIE.DRV_STS_REASON root) reason) (0x0510 + root) 1)) ∧
  (∀ (s : State) (root : Root) (outside : Bool) (n : Nat),
    alive s = true →
    exec (.driveRequest root ⟨outside, n⟩) s = .next (let t := addF s (PCIE.AER_CORRECTABLE root) n
      if outside then bumpF t (PCIE.AER_UNCORRECTABLE root) else t))

/-- PORT_CMD.TRAIN starts a disabled port that is enabled; a signal takes DETECT to EQUALIZE; a TSEQ block in EQUALIZE
steps the lane's taps and judges it; a TS1 block in ALIGN notes the lane that the peer names; the eighth identical
TS2 block settles the configuration and the sixteenth TS3 block ends CONFIG, earlier ones are counted; the limit of
a state fails the attempt; after the hold a new attempt starts, or the port is disabled after the fourth. -/
def Obligations.LinkTraining : Prop :=
  (∀ (s : State) (port : Port),
    alive s = true →
    portState s port = 0 →
    flag s (PORT.PORT_CTL_EN port) = true →
    exec (.portTrain port) s = .next (startCold s port 0)) ∧
  (∀ (s : State) (port : Port),
    alive s = true →
    portState s port = 1 →
    exec (.detectSignal port) s = .next (enterState (advanceEl s ((getLink s port).since + 10000)) port 2)) ∧
  (∀ (s : State) (port : Port) (lane : Fin 5) (block : Nat) (good : Option Bool) (b : TsBlock),
    alive s = true →
    readTs .tseq block = b →
    b.crcOk = true →
    portState s port = 2 →
    (usableLanes s port).contains lane.val = true →
    exec (.tseq port lane block good) s = .next (let s1 := notePeer s port b
      let l := getLink s1 port
      let t := Store.get (0, 0, 0) l.taps lane
      let taps := (tapStep t.1 b.coef, tapStep t.2.1 (b.coef / 4), tapStep t.2.2 (b.coef / 16))
      checkEqualize (setLink s1 port { l with
        taps := Store.set (0, 0, 0) l.taps lane taps
        judged := withBit l.judged lane (good.isSome || l.judged.testBit lane)
        good := withBit l.good lane (if good.isSome then good == some true else l.good.testBit lane)
        eqDone := withBit l.eqDone lane (b.eqDone || l.eqDone.testBit lane) }) port)) ∧
  (∀ (s : State) (port : Port) (lane : Fin 5) (block : Nat) (b : TsBlock),
    alive s = true →
    readTs .ts1 block = b →
    b.crcOk = true →
    portState s port = 3 →
    (getLink s port).good.testBit lane = true →
    exec (.ts1 port lane block) s = .next (let s1 := notePeer s port b
      alignLanes (setLink s1 port { getLink s1 port with planes := Store.set 0 (getLink s1 port).planes lane (b.plane + 1) }) port)) ∧
  (∀ (s : State) (port : Port) (block : Nat) (b : TsBlock),
    alive s = true →
    readTs .ts2 block = b →
    b.crcOk = true →
    portState s port = 4 →
    (getLink s port).last = some b →
    (getLink s port).run = 7 →
    exec (.ts2 port block) s = .next (settleTs2 s port b)) ∧
  (∀ (s : State) (port : Port) (block : Nat) (b : TsBlock),
    alive s = true →
    readTs .ts2 block = b →
    b.crcOk = true →
    portState s port = 4 →
    (getLink s port).last ≠ some b →
    exec (.ts2 port block) s = .next (setLink s port { getLink s port with last := some b, run := 1 })) ∧
  (∀ (s : State) (port : Port) (block : Nat) (b : TsBlock),
    alive s = true →
    readTs .ts2 block = b →
    b.crcOk = true →
    b.rtr = true →
    linkActive s port = true →
    portState (beginRetrain s port) port ≠ 4 →
    exec (.ts2 port block) s = .next (beginRetrain s port)) ∧
  (∀ (s : State) (port : Port) (block : Nat),
    alive s = true →
    (readTs .ts2 block).crcOk = false →
    exec (.ts2 port block) s = .next s) ∧
  (∀ (s : State) (port : Port) (block : Nat) (b x : TsBlock),
    alive s = true →
    readTs .ts3 block = b →
    b.crcOk = true →
    portState s port = 5 →
    (getLink s port).last = some x →
    (⟨x.lanes, x.width, x.ver, x.nvc, x.afeat⟩ : LinkConf) = ⟨b.lanes, b.width, b.ver, b.nvc, b.afeat⟩ →
    (getLink s port).run = 15 →
    flag s (PORT.LINK_STS_LEADER port) = false →
    exec (.ts3 port block) s = .next (settleTs3 s port b ⟨b.lanes, b.width, b.ver, b.nvc, b.afeat⟩)) ∧
  (∀ (s : State) (port : Port) (n : Nat),
    alive s = true →
    portState s port = n →
    1 ≤ n →
    n ≤ 5 →
    exec (.trainStateLimit port) s = .next (failAttempt (advanceEl s ((getLink s port).since + stateLimit n (retraining s port))) port n)) ∧
  (∀ (s : State) (port : Port),
    alive s = true →
    portState s port = 8 →
    retraining s port = false →
    getF s (PORT.TRAIN_STS_ATTEMPT port) < 3 →
    exec (.failedHoldEnd port) s = .next (startCold (advanceEl s ((getLink s port).since + 1000000)) port (getF s (PORT.TRAIN_STS_ATTEMPT port) + 1))) ∧
  (∀ (s : State) (port : Port),
    alive s = true →
    portState s port = 8 →
    retraining s port = false →
    getF s (PORT.TRAIN_STS_ATTEMPT port) = 3 →
    exec (.failedHoldEnd port) s = .next (raise (failPort (advanceEl s ((getLink s port).since + 1000000)) port (getF s (PORT.TRAIN_STS_REASON port)) 1) (0x0600 + port) 5))

/-- A retrain request, the failure of a lane in use, more symbol errors than the limit and eight uncorrectable words
take an ACTIVE port into a retrain; LWC_CMD.GO to a narrower width makes the leader send LWC_GO and switch, and
makes the follower send LWC_REQ; LWC_REQ is answered with LWC_GO, and LWC_GO to a narrower width switches. -/
def Obligations.LinkRetraining : Prop :=
  (∀ (s : State) (port : Port),
    alive s = true →
    linkActive s port = true →
    exec (.portRetrain port) s = .next (beginRetrain s port)) ∧
  (∀ (s : State) (port : Port) (lane : Fin 5),
    alive s = true →
    linkActive s port = true →
    bitF s (PORT.LINK_STS_LANES port) lane = true →
    exec (.laneLossOfLock port lane) s = .next (beginRetrain (setBitF s (PORT.LANE_STS_FAILED port) lane true) port)) ∧
  (∀ (s : State) (port : Port) (lane : Fin 5) (n : Nat),
    alive s = true →
    getF s (PORT.LANE_SER_LIMIT_SYMBOLS port) < n →
    exec (.laneSerLimit port lane n) s = .next (failLane (addF s (PORT.LANE_SER_SYMBOLS port lane) n) port lane)) ∧
  (∀ (s : State) (port : Port) (lane : Fin 5) (n : Nat),
    alive s = true →
    n ≤ getF s (PORT.LANE_SER_LIMIT_SYMBOLS port) →
    exec (.laneSerLimit port lane n) s = .next (addF s (PORT.LANE_SER_SYMBOLS port lane) n)) ∧
  (∀ (s : State) (port : Port) (n : Nat),
    alive s = true →
    8 ≤ n →
    exec (.fecUncorrectableLimit port n) s = .next (beginRetrain (addF s (PORT.FEC_UNCORR_COUNT port) n) port)) ∧
  (∀ (s : State) (port : Port) (w : Nat),
    alive s = true →
    lwcAgreed s port = true →
    detOn s = false →
    linkActive s port = true →
    min 3 (w + 1) < getF s (PORT.LINK_STS_WIDTH port) →
    flag s (PORT.LINK_STS_LEADER port) = true →
    exec (.lwcRequest port w) s = .next (let s1 := setB s (PORT.LWC_CMD_REFUSED port) false
      sendGo (setLink s1 port { getLink s1 port with lwcAsk := min 3 (w + 1) }) port (min 3 (w + 1)))) ∧
  (∀ (s : State) (port : Port) (w : Nat),
    alive s = true →
    lwcAgreed s port = false →
    exec (.lwcRequest port w) s = .next (setB s (PORT.LWC_CMD_REFUSED port) true)) ∧
  (∀ (s : State) (port : Port) (w : Nat),
    alive s = true →
    linkActive s port = true →
    lwcAgreed s port = true →
    flag s (PORT.LINK_STS_LEADER port) = true →
    (getLink s port).lwcPend = 0 →
    exec (.lwcReq port w) s = .next (sendGo s port (min 3 (w + 1)))) ∧
  (∀ (s : State) (port : Port) (w lanes : Nat),
    alive s = true →
    linkActive s port = true →
    lwcAgreed s port = true →
    1 ≤ w →
    w < getF s (PORT.LINK_STS_WIDTH port) →
    exec (.lwcGo port w lanes) s = .next (let s1 := setF (setF s (PORT.LINK_STS_WIDTH port) w) (PORT.LINK_STS_LANES port) lanes
      let s2 := setB s1 (PORT.LINK_STS_DEGRADED port) (decide (w < 3))
      raise (setLink s2 port { getLink s2 port with lwcPend := w }) (0x0600 + port) 8))

/-- A DATA flit with the expected sequence number that does not end a frame is held, one with a wrong CRC is counted and
asked for again, one of the reserved kind takes the port into a retrain; the replay timer starts a replay of a
buffer that is not empty; the limit of replays without progress takes the port into a retrain; the limit of failed
tags stops it; a credit check sets the counts right; each packet that has starved is counted once; a check period
sends the freed-unit counts. -/
def Obligations.LinkFlits : Prop :=
  (∀ (s : State) (port : Port) (bytes : Nat) (f : RxFlit) (t u : State),
    alive s = true →
    linkCarries s port = true →
    readFlit bytes = f →
    f.crcOk = true →
    f.kind ≠ 2 →
    f.kind ≠ 3 →
    f.rsvd = false →
    f.wsw = false →
    applyAck s port f = some t →
    applyCret t port f = u →
    f.seq = (getLink u port).e →
    ((getLink u port).e + 1) % 8 ≠ 0 →
    exec (.flit port bytes) s = .next (setLink u port { getLink u port with
      held := (getLink u port).held ++ [f], e := ((getLink u port).e + 1) % 4096, waiting := false, nakAt := none })) ∧
  (∀ (s : State) (port : Port) (bytes : Nat),
    alive s = true →
    linkCarries s port = true →
    (readFlit bytes).crcOk = false →
    exec (.flit port bytes) s = .next (sendNak (bumpF s (PORT.CRC_ERR_COUNT port)) port)) ∧
  (∀ (s : State) (port : Port) (bytes : Nat),
    alive s = true →
    linkCarries s port = true →
    (readFlit bytes).crcOk = true →
    (readFlit bytes).kind = 3 →
    exec (.flit port bytes) s = .next (beginRetrain s port)) ∧
  (∀ (s : State) (port : Port),
    alive s = true →
    linkCarries s port = true →
    (getLink s port).replay ≠ [] →
    exec (.replayTimer port) s = .next (replayFrom (advanceEl s ((getLink s port).timerAt + max 500 (getF s (PORT.REPLAY_CTL_TIMER_NS port)))) port (getLink s port))) ∧
  (∀ (s : State) (port : Port),
    alive s = true →
    max 1 (getF s (PORT.REPLAY_CTL_LIMIT port)) ≤ (getLink s port).stuck →
    exec (.replayLimit port) s = .next (beginRetrain s port)) ∧
  (∀ (s : State) (port : Port),
    alive s = true →
    linkActive s port = true →
    max 1 (getF s (PORT.TAG_CTL_LIMIT port)) ≤ (getLink s port).tagRun →
    exec (.tagFailLimit port) s = .next (raise (failPort s port 11 5) (0x0600 + port) 7)) ∧
  (∀ (s : State) (port : Port) (freed : List Nat),
    alive s = true →
    linkActive s port = true →
    cchkAgreed s port = true →
    (∀ v ∈ upTo (getF s (PORT.LINK_STS_NVC port)), creditGap (getLink s port) v (freed.getD v 0) < 256) →
    exec (.creditCheck port freed) s = .next (let l := getLink s port
      let gap := fun v => creditGap l v (freed.getD v 0)
      setLink s port { l with known := (upTo (getF s (PORT.LINK_STS_NVC port))).foldl (fun k v => if gap v < 256 then Store.set 0 k v (Store.get 0 k v + gap v) else k) l.known })) ∧
  (∀ (s : State) (port : Port),
    alive s = true →
    linkActive s port = true →
    cchkAgreed s port = false →
    exec (.creditStall port) s = .next (forAll queueKinds (noteStall port) s)) ∧
  (∀ (s : State) (port : Port) (k : Nat) (x : Sending),
    starved s port k = some x →
    noteStall port s k = bumpF (setQueue s port k ({ x with stalled := true } :: (queueOf s port k).tail)) (PORT.CREDIT_STALL_COUNT port)) ∧
  (∀ (s : State) (port : Port),
    alive s = true →
    linkActive s port = true →
    cchkAgreed s port = true →
    exec (.cchkPeriod port) s = .next (let n := getF s (PORT.LINK_STS_NVC port)
      sendCtrl (atPeriodic s (128 + port) (4096 * max 1 (getF s (PORT.CCHK_PERIOD_FRAMES port))) 0) port (.creditCheck n ((upTo 8).map fun v => if v < n then Store.get 0 (getLink s port).freed v % 65536 else 0))))

/-- A packet that arrives with deterministic mode off is counted and processed at once; with the mode on the packets of
a port that are due first are processed in their slot; a packet returned ROUTE_STALE is sent once more, and one that
comes back again is discarded; the packets of a port out of service are moved or returned; a port with room launches
its MGMT packet first, or the packet of the flow that the scheduler picks. -/
def Obligations.PacketsAtPorts : Prop :=
  (∀ (s : State) (port : Port) (p : Packet) (replayed : Bool),
    alive s = true →
    portUp s port = true →
    detOn s = false →
    p.ece = false →
    (getLink s port).inbox.head? ≠ some p →
    exec (.packetArrival port p replayed) s = .next (process (countGot (wrapF s (PORT.PKT_RX port) 1) port p) port p)) ∧
  (∀ (s : State) (port : Port) (d : Nat),
    alive s = true →
    leastBy id ((s.net.arrived.filter fun x => x.1 == port.val).filterMap (dueSlot s)) = some d →
    exec (.processingSlot port) s = .next (let due := fun (x : Nat × Packet × Nat × Nat) => x.1 == port.val && dueSlot s x == some d
      let s1 := advanceFt { s with net := { s.net with arrived := s.net.arrived.filter fun x => !due x } } (d * 64)
      forAll (s.net.arrived.filter due) (fun s x => process (if x.2.2.1 = 0 then lateCount s port x.2.1 else s) port x.2.1) s1)) ∧
  (∀ (s : State) (p : Packet),
    alive s = true →
    s.net.resent.contains p = false →
    p.src = getF s ROUTE.SELF_NODE_ID →
    exec (.routeReturn 16 p) s = .next (let q := partnerAt s p.dst
      let k := match q with | some x => if p.cls = 4 then 0 else classQueue p.cls (pidPt s x) | none => 0
      sendOwn s { pkt := p, kind := k, pid := q, ready := s.time.ft, again := true })) ∧
  (∀ (s : State) (status : Nat) (p : Packet),
    alive s = true →
    s.net.resent.contains p = true →
    exec (.routeReturn status p) s = .next { s with net := { s.net with resent := s.net.resent.filter (· != p) } }) ∧
  (∀ (s : State) (port : Port),
    alive s = true →
    portUp s port = false →
    exec (.portOutOfService port) s = .next (forAll (queueKinds.flatMap (queueOf s port)) movePacket (forAll queueKinds (fun s k => setQueue s port k []) s))) ∧
  (∀ (s : State) (port : Port) (u t : State) (f k c : Nat) (x : Sending) (l : List Sending),
    alive s = true →
    flushLink s port = u →
    mayStart u port = true →
    detOn u = false →
    headOf u port 0 = none →
    isKind (slotEntry u (slotOf u) port) 2 = false →
    schedule u port = some (f, t) →
    flowHead u port f = some (k, c) →
    queueOf u port k = x :: l →
    exec (.egressLaunch port) s = .next (clearEmpty (launch (spendShape t port f c) port x) port f)) ∧
  (∀ (s : State) (port : Port) (u : State) (h : Nat × Nat) (x : Sending) (l : List Sending),
    alive s = true →
    flushLink s port = u →
    mayStart u port = true →
    detOn u = false →
    headOf u port 0 = some h →
    queueOf u port 0 = x :: l →
    exec (.egressLaunch port) s = .next (launch u port x))

/-- A flip whose shadow bank meets the rules starts to drain, one that fails is reported with event 1; when the queues
are empty, or at the drain limit, the banks change, the epoch advances, the old bank stays valid for 1 ms and the
packets that waited are routed; COPY copies the active bank; a write of TBL_DATA sets the entry of the shadow bank
and advances the index where AUTOINC is set. -/
def Obligations.RoutingTables : Prop :=
  (∀ (s : State),
    alive s = true →
    shadowOk s = true →
    anyRun s = false →
    shadowShut s = false →
    exec .routeFlip s = .next (let s2 := setB (setF s ROUTE.ROUTE_STS_RESULT 0) ROUTE.ROUTE_STS_DRAINING true
      { s2 with net := { s2.net with drainAt := s2.time.elapsed } })) ∧
  (∀ (s : State),
    alive s = true →
    shadowOk s = false →
    exec .routeFlip s = .next (raise (setF s ROUTE.ROUTE_STS_RESULT 1) 0x0700 1)) ∧
  (∀ (s : State),
    alive s = true →
    shadowShut s = false →
    getF s ROUTE.ROUTE_STS_ACTIVE = 0 →
    exec .routeCopy s = .next (let act := s.net.route.filter fun x => x.1 / 512 == 0
      { s with net := { s.net with route := act ++ act.map fun x => (x.1 % 512 + 512, x.2) } })) ∧
  (∀ (s : State),
    alive s = true →
    draining s = true →
    routedQueued s = false →
    exec .routeFlipDrained s = .next (let s1 := setF s ROUTE.ROUTE_STS_ACTIVE (1 - getF s ROUTE.ROUTE_STS_ACTIVE)
      let s2 := setF s1 ROUTE.ROUTE_STS_EPOCH (getF s ROUTE.ROUTE_STS_EPOCH + 1)
      let s3 := setB (setB s2 ROUTE.ROUTE_STS_OLD_VALID true) ROUTE.ROUTE_STS_DRAINING false
      let s4 := raise { s3 with net := { s3.net with oldEnd := s3.time.elapsed + 1000000, waiting := [] } } 0x0700 0
      forAll s.net.waiting resumeRoute s4)) ∧
  (∀ (s : State),
    alive s = true →
    draining s = true →
    exec .drainTimeout s = .next (let s1 := advanceEl s (s.net.drainAt + 1000 * max 1 (getF s ROUTE.DRAIN_LIMIT_US))
      let s2 := { s1 with net := { s1.net with egress := s1.net.egress.map fun e => (e.1, e.2.map fun x => { x with old := true }) } }
      applyFlip (raise s2 0x0700 2))) ∧
  (∀ (s : State),
    alive s = true →
    flag s ROUTE.ROUTE_STS_OLD_VALID = true →
    exec .oldBankEnd s = .next (raise (setB (advanceEl s s.net.oldEnd) ROUTE.ROUTE_STS_OLD_VALID false) 0x0700 3)) ∧
  (∀ (s : State) (v : Nat),
    alive s = true →
    shadowShut s = false →
    flag s ROUTE.TBL_ADDR_AUTOINC = false →
    exec (.routeTblData v) s = .next { s with net := { s.net with route := Store.set 0 s.net.route (tblKey s (1 - getF s ROUTE.ROUTE_STS_ACTIVE)) (v % 2 ^ 32) } })

/-- A freed credit of a PID is released where the policer, the throttle and stage C permit; ECRED unsent for 512 ns is
sent; a LIMIT within the sum of its partition, and the entry of a multicast group within its dimension, take effect;
others set REFUSED. -/
def Obligations.CreditsAndGroups : Prop :=
  (∀ (s : State) (pid : Pid) (cost : Nat) (rest : List Nat),
    alive s = true →
    Store.get [] s.net.owed pid = cost :: rest →
    getF s (SHAPE.POL_CFG_RATE (pidPt s pid)) = 0 →
    throttled s pid = false →
    ladder s < 18 →
    exec (.creditRelease pid) s = .next (releaseCredit s pid (pidPt s pid) cost 0 rest)) ∧
  (∀ (s : State) (pid : Pid),
    alive s = true →
    pidState s pid ≠ 0 →
    ecredOf s pid ≠ Store.get 0 s.net.sent pid →
    exec (.e2eCredit pid) s = .next (let s1 := advanceEl s (Store.get 0 s.net.changed pid + 512)
      sendMgmt (noteSent s1 pid) pid 0x74 8 (ecredOf s pid + getF s (SHAPE.E2E_DATA_LIMIT pid) * 65536))) ∧
  (∀ (s : State) (v : Nat),
    alive s = true →
    limitSum s (pidPt s (getF s SHAPE.E2E_ADDR_PID)) (getF s SHAPE.E2E_ADDR_PID) + v % 256 ≤ 4096 * (viewCores s (pidPt s (getF s SHAPE.E2E_ADDR_PID))).length →
    exec (.e2eLimitWrite v) s = .next (setB (setF s (SHAPE.E2E_DATA_LIMIT (getF s SHAPE.E2E_ADDR_PID)) v) SHAPE.E2E_STS_REFUSED false)) ∧
  (∀ (s : State) (v : Nat),
    alive s = true →
    pidState s (getF s SHAPE.E2E_ADDR_PID) ≠ 0 →
    4096 * (viewCores s (pidPt s (getF s SHAPE.E2E_ADDR_PID))).length < limitSum s (pidPt s (getF s SHAPE.E2E_ADDR_PID)) (getF s SHAPE.E2E_ADDR_PID) + v % 256 →
    exec (.e2eLimitWrite v) s = .next (setB s SHAPE.E2E_STS_REFUSED true)) ∧
  (∀ (s : State) (reg : Fin 4) (v g : Nat),
    alive s = true →
    getF s ROUTE.MC_SEL_GROUP = g →
    g ≠ 0 →
    ((upTo 48).all fun p => !(getF (putGroup s g reg v) (ROUTE.MC_PORTS g)).testBit p || getF s (PORT.XPORT_CTL_GROUP p) == getF (putGroup s g reg v) (ROUTE.MC_CTL_DIM g)) = true →
    exec (.mcGroupWrite reg v) s = .next (setB (putGroup s g reg v) ROUTE.MC_STS_REFUSED false))

/-- FW_DATA writes four bytes of the staging window and advances the offset where AUTOINC is 1; VERIFY runs on the
staging window as it stands when it ends and, where it passes, stages the image, otherwise gives its result; DISCARD
drops it; SVN_COMMIT blows the fused SVN up to the running image's; LC_CMD blows VOID, or with a valid token
zeroises the key store and blows KEYS_KILLED and RMA; the transition is reported; a permitted debug level is
accepted and takes effect at a frame boundary; FIELD_PROGRAM takes the next free FIELD entry in SEALED; a failed
TRNG test sets TRNG_FAIL. What the image and the token hold is opaque (log 12). -/
def Obligations.FirmwareAndLifecycle : Prop :=
  (∀ (s : State) (v : Nat),
    alive s = true →
    flag s SEC.FW_ADDR_AUTOINC = true →
    exec (.fwData v) s = .next (let o := getF s SEC.FW_ADDR_OFFSET / 4 * 4
      let w := (upTo 4).foldl (fun m k => Store.set 0 m (o + k) (v / 256 ^ k % 256)) s.sec.window
      wrapF { s with sec := { s.sec with window := w } } SEC.FW_ADDR_OFFSET 4)) ∧
  (∀ (s : State),
    alive s = true →
    flag s SEC.FW_STS_BUSY = false →
    exec .fwVerify s = .next (setB s SEC.FW_STS_BUSY true)) ∧
  (∀ (s : State),
    managed s = true →
    flag s SEC.FW_STS_BUSY = true →
    exec .fwStaged s = .next (let s1 := setF (setB s SEC.FW_STS_BUSY false) SEC.FW_STS_RESULT (fwCheck s)
      raise (if fwCheck s = 0 then
          let s2 := setF (setB s1 SEC.FW_STS_STAGED true) SEC.FW_STG (Config.fwDigest s.sec.window)
          bumpAll { s2 with sec := { s2.sec with stagedSvn := Config.fwSvn s.sec.window } }
        else s1) 0x0020 0)) ∧
  (∀ (s : State),
    alive s = true →
    flag s SEC.FW_STS_STAGED = true →
    exec .fwDiscard s = .next (bumpAll (setF (setB s SEC.FW_STS_STAGED false) SEC.FW_STG 0))) ∧
  (∀ (s : State) (n : Nat),
    alive s = true →
    lifecycle s = 1 →
    min 64 (getF s SEC.FW_STS_RUN_SVN) = n →
    getF s FUSE.SVN_SVN < n →
    exec .svnCommit s = .next (setF (blow (blow s 4 ((2 ^ n - 1) % 2 ^ 32)) 5 ((2 ^ n - 1) / 2 ^ 32)) FUSE.SVN_SVN n)) ∧
  (∀ (s : State),
    alive s = true →
    flag s SEC.SEC_STS_LC_BUSY = false →
    lifecycle s = 1 →
    exec .lcRma s = .next (if Config.rmaTokenOk s.sec.window (getF s FUSE.SERIAL) (getF s FUSE.AVK) then lcStart (noteChip (fun s => showLifecycle (blow (blow (zeroise s) 3 0x100) 3 2)) s) 0 else lcStart s 2)) ∧
  (∀ (s : State),
    alive s = true →
    Store.rising s.regs = true →
    flag s SEC.SEC_STS_LC_BUSY = false →
    lifecycle s ≠ 3 →
    exec .lcVoid s = .next (let s1 := noteChip (fun s => showLifecycle (blow s 3 4)) s
      portsOff (lcStart { s1 with sec := { s1.sec with dik := 0, ak := 0, linkKey := [], linkNext := [] } } 0))) ∧
  (∀ (s : State) (r : Nat),
    managed s = true →
    s.sec.lcNext = r + 1 →
    exec .lcDone s = .next (raise (setF (setB { s with sec := { s.sec with lcNext := 0 } } SEC.SEC_STS_LC_BUSY false) SEC.SEC_STS_LC_RESULT r) 0x0020 1)) ∧
  (∀ (s : State) (l : Nat),
    alive s = true →
    debugPermitted s l = true →
    exec (.debugLevelWrite l) s = .next { setB s SEC.DEBUG_REFUSED false with sec := { s.sec with debugNext := l + 1 } }) ∧
  (∀ (s : State) (l : Nat),
    alive s = true →
    debugPermitted s l = false →
    exec (.debugLevelWrite l) s = .next (setB s SEC.DEBUG_REFUSED true)) ∧
  (∀ (s : State) (l : Nat),
    managed s = true →
    s.sec.debugNext = l + 1 →
    0 < l →
    l < 2 →
    exec .debugLevelTakesEffect s = .next (noteChip (fun s => setF (setB s SEC.DEBUG_EVER true) SEC.DEBUG_LEVEL l) (setF (setB (toFrameStart { s with sec := { s.sec with debugNext := 0 } }) DBG.DBG_STS_SCAN false) DBG.DBG_STS_LEVEL l))) ∧
  (∀ (s : State) (entry : Nat),
    alive s = true →
    lifecycle s = 1 →
    getF s FUSE.FIELD_STS_USED < 64 →
    exec (.fieldProgram entry) s = .next (let used := getF s FUSE.FIELD_STS_USED
      let s1 := setF (blow s (0x4E + used / 2) ((entry % 65536) * 2 ^ (16 * (used % 2)))) (FUSE.BAD_DATA_ENTRY (64 + used)) entry
      setB (setF s1 FUSE.FIELD_STS_USED (used + 1)) FUSE.FIELD_STS_REFUSED false)) ∧
  (∀ (s : State) (entry : Nat),
    alive s = true →
    (lifecycle s ≠ 1 ∨ 64 ≤ getF s FUSE.FIELD_STS_USED) →
    exec (.fieldProgram entry) s = .next (setB s FUSE.FIELD_STS_REFUSED true)) ∧
  (∀ (s : State) (test : Nat),
    managed s = true →
    exec (.trngFail test) s = .next (faultEntry (raise (setB s SEC.SEC_STS_TRNG_FAIL true) 0x0020 2) 3 1 none 0x0020 0 test))

/-- LOAD, LOCK and CLEAR of a key slot report their result; a slot whose range is evicted takes its new state, a cleared
slot loses its image key, and each advances CONFIG_GEN; REL_DATA writes the record; a release whose every check
passes drops the pair, installs the key and opens the slot, any other reports its result. -/
def Obligations.KeySlots : Prop :=
  (∀ (s : State),
    alive s = true →
    slotResult s (slotSel s) 0 = 0 →
    exec .kslotLoad s = .next (startSlot (setSlotResult s (slotSel s) 0) (slotSel s) 1)) ∧
  (∀ (s : State) (r : Nat),
    alive s = true →
    slotResult s (slotSel s) 0 = r →
    r ≠ 0 →
    exec .kslotLoad s = .next (setSlotResult s (slotSel s) r)) ∧
  (∀ (s : State),
    alive s = true →
    slotResult s (slotSel s) 1 = 0 →
    exec .kslotLock s = .next (startSlot (setSlotResult s (slotSel s) 0) (slotSel s) 2)) ∧
  (∀ (s : State) (r : Nat),
    alive s = true →
    slotResult s (slotSel s) 1 = r →
    r ≠ 0 →
    exec .kslotLock s = .next (setSlotResult s (slotSel s) r)) ∧
  (∀ (s : State),
    alive s = true →
    bitF s PART.DRUN_OPEN_OPEN (slotPt s (slotSel s)) = false →
    Store.get 0 s.sec.slotNext (slotSel s) = 0 →
    slotState s (slotSel s) ≠ 0 →
    exec .kslotClear s = .next (bumpConfigGen (dropImageKey (setF (setSlotResult s (slotSel s) 0) (KEY.KSLOT_CTL_STATE (slotSel s)) 0) (slotSel s)) (slotPt s (slotSel s)))) ∧
  (∀ (s : State) (slot : Fin 16) (t : Nat),
    alive s = true →
    Store.get 0 s.sec.slotNext slot = t + 1 →
    rangeEvicted s (slotPt s slot) ((slotRange s slot).1 * 2 ^ 30) ((slotRange s slot).2 * 2 ^ 30) = true →
    exec (.kslotEvicted slot) s = .next (bumpConfigGen (setF { s with sec := { s.sec with slotNext := Store.del s.sec.slotNext slot } } (KEY.KSLOT_CTL_STATE slot) t) (slotPt s slot))) ∧
  (∀ (s : State) (v : Nat),
    alive s = true →
    flag s KEY.REL_ADDR_AUTOINC = false →
    exec (.relData v) s = .next (let o := getF s KEY.REL_ADDR_OFFSET / 4 * 4
      { s with sec := { s.sec with record := (upTo 4).foldl (fun m k => Store.set 0 m (o + k) (v / 256 ^ k % 256)) s.sec.record } })) ∧
  (∀ (s : State),
    alive s = true →
    flag s KEY.REL_STS_BUSY = false →
    exec .keyRelease s = .next { setB s KEY.REL_STS_BUSY true with sec := { s.sec with relNext := 1 } }) ∧
  (∀ (s : State) (r : Release),
    managed s = true →
    s.sec.relNext ≠ 0 →
    latched s = false →
    (holder s).isSome = true →
    recordField s 8 1 < 16 →
    Store.get none s.sec.releases (recordField s 8 1 % 16) = some r →
    recordField s 0 8 = r.gen →
    getF s (ATT.GEN (recordField s 8 1 % 16)) = r.gen →
    recordField s 9 1 < 16 →
    slotPt s (recordField s 9 1) = recordField s 8 1 % 16 →
    slotState s (recordField s 9 1) = 2 →
    Store.get 0 s.sec.slotNext (recordField s 9 1) = 0 →
    (ptState s (recordField s 8 1 % 16) == 0) = false →
    (ptState s (recordField s 8 1 % 16) == 5) = false →
    lifecycle s = 1 →
    getF s SEC.DEBUG_LEVEL < 2 →
    flag s SEC.FW_STS_STAGED = false →
    exec .relDone s = .next (let pt := recordField s 8 1 % 16
      let k := recordField s 9 1
      let s0 := setB { s with sec := { s.sec with relNext := 0 } } KEY.REL_STS_BUSY false
      match unwrapKey s r with
      | none => raise (setF s0 KEY.REL_STS_RESULT 4) 0x0022 1
      | some key =>
        let s3 := setF (dropRelease (setF s0 KEY.REL_STS_RESULT 0) pt) (KEY.KSLOT_CTL_STATE k) 3
        raise (bumpConfigGen { s3 with sec := { s3.sec with imageKey := Store.set 0 s3.sec.imageKey k (key + 1) } } pt) 0x0022 1)) ∧
  (∀ (s : State) (r : Nat),
    managed s = true →
    s.sec.relNext ≠ 0 →
    (releaseResult s).1 = r →
    r ≠ 0 →
    exec .relDone s = .next (raise (setF (setB { s with sec := { s.sec with relNext := 0 } } KEY.REL_STS_BUSY false) KEY.REL_STS_RESULT r) 0x0022 1))

/-- A quote freezes the body of the partition with the key of a fresh pair, signs it and keeps the pair; kinds 1 and 2
give the AK certificate and the DIK public key; the buffer is filled at its end and read four bytes at a time; a
kept pair expires 2^24 frames after its quote. An image slot binds, locks and recalls its region, ends VERIFIED
where the measurement equals the expected value, and is unbound. -/
def Obligations.QuotesAndImages : Prop :=
  (∀ (s : State) (pt : Ptn),
    alive s = true →
    flag s ATT.QUOTE_STS_BUSY = false →
    s.sec.ak ≠ 0 →
    trngFailed s = false →
    exec (.quote pt) s = .next (let (seed, s1) := draw s 512
      let body := quoteBody s1 pt (Config.mlkemPublic seed)
      let kept : Release := ⟨seed, sha3 body, getF s1 (ATT.GEN pt), frameOf s1⟩
      quoteStart { s1 with sec := { s1.sec with releases := Store.set none s1.sec.releases pt (some kept) } } (body ++ le 4627 (Config.mldsaSign (s1.sec.ak - 1) (Keccak.ofBytes body))))) ∧
  (∀ (s : State) (pt : Ptn),
    alive s = true →
    flag s ATT.QUOTE_STS_BUSY = false →
    s.sec.ak = 0 →
    exec (.quote pt) s = .next (setF s ATT.QUOTE_STS_RESULT 1)) ∧
  (∀ (s : State),
    alive s = true →
    flag s ATT.QUOTE_STS_BUSY = false →
    s.sec.ak ≠ 0 →
    exec .akCertificate s = .next (quoteStart s (Sys2Proof.Machine.akCertificate s))) ∧
  (∀ (s : State),
    alive s = true →
    flag s ATT.QUOTE_STS_BUSY = false →
    s.sec.dik ≠ 0 →
    exec .dikPublicKey s = .next (quoteStart s (le 2592 (Config.mldsaPublic (s.sec.dik - 1))))) ∧
  (∀ (s : State),
    managed s = true →
    flag s ATT.QUOTE_STS_BUSY = true →
    exec .quoteDone s = .next (let s1 := setF (setB s ATT.QUOTE_STS_BUSY false) ATT.QUOTE_STS_LENGTH s.sec.qnext.length
      raise { s1 with sec := { s1.sec with qbuf := s.sec.qnext, qnext := [] } } 0x0021 0)) ∧
  (∀ (s : State),
    managed s = true →
    flag s ATT.QBUF_ADDR_AUTOINC = true →
    exec .qbufData s = .next (wrapF s ATT.QBUF_ADDR_OFFSET 4)) ∧
  (∀ (s : State) (pt : Ptn) (r : Release),
    managed s = true →
    Store.get none s.sec.releases pt = some r →
    exec (.releasePairExpiry pt) s = .next (let s1 := advanceFt s ((r.frame + 2 ^ 24) * 4096)
      { s1 with sec := { s1.sec with releases := Store.set none s1.sec.releases pt none } })) ∧
  (∀ (s : State),
    alive s = true →
    bindResult s (imgSel s) = 0 →
    exec .imgBind s = .next (let k := imgSel s
      let pt := getF s (ATT.IMG_CTL_PT k)
      let s1 := setF (setF s (ATT.IMG_RES_RESULT k) 0) (ATT.IMG_RES_STATUS k) 0
      let s3 := recallRange (bumpConfigGen (setF s1 (ATT.IMG_CTL_STATE k) 1) pt) pt k (imgRange s k).1 (imgRange s k).2
      placeImages { s3 with sec := { s3.sec with imgWait := s3.sec.imgWait ++ [k] } })) ∧
  (∀ (s : State) (r : Nat),
    alive s = true →
    bindResult s (imgSel s) = r →
    r ≠ 0 →
    exec .imgBind s = .next (setF (setF s (ATT.IMG_RES_RESULT (imgSel s)) r) (ATT.IMG_RES_STATUS (imgSel s)) 0)) ∧
  (∀ (s : State) (slot : Fin 16),
    alive s = true →
    Store.get 0 s.sec.imgStatus slot = 1 →
    exec (.imgDone slot) s = .next (let s1 := { s with sec := { s.sec with imgStatus := Store.del s.sec.imgStatus slot } }
      let s2 := if getF s (ATT.IMG_MEAS slot) = getF s (ATT.IMG_EXP slot) then setF s1 (ATT.IMG_CTL_STATE slot) 2
        else setF (setF s1 (ATT.IMG_CTL_STATE slot) 3) (ATT.IMG_RES_RESULT slot) 5
      raise (bumpConfigGen s2 (getF s (ATT.IMG_CTL_PT slot))) 0x0021 1)) ∧
  (∀ (s : State) (slot : Fin 16) (st : Nat),
    alive s = true →
    Store.get 0 s.sec.imgStatus slot = st + 1 →
    st ≠ 0 →
    exec (.imgDone slot) s = .next (raise (bumpConfigGen (setF (setF (setF { s with sec := { s.sec with imgStatus := Store.del s.sec.imgStatus slot } } (ATT.IMG_CTL_STATE slot) 0) (ATT.IMG_RES_RESULT slot) 9) (ATT.IMG_RES_STATUS slot) st) (getF s (ATT.IMG_CTL_PT slot))) 0x0021 1)) ∧
  (∀ (s : State),
    alive s = true →
    bitF s PART.DRUN_OPEN_OPEN (getF s (ATT.IMG_CTL_PT (imgSel s))) = false →
    2 ≤ getF s (ATT.IMG_CTL_STATE (imgSel s)) →
    exec .imgUnbind s = .next (bumpConfigGen (setF (setF s (ATT.IMG_CTL_STATE (imgSel s)) 0) (ATT.IMG_RES_RESULT (imgSel s)) 0) (getF s (ATT.IMG_CTL_PT (imgSel s)))))

/-- Each message of an exchange that comes where it is expected has its effect: an OFFER or ROT_OFFER with an acceptable
key is answered, an ACCEPT or CONFIRM whose signature verifies, a ROT_ACCEPT and a NONCE give the keys, READY
completes the exchange with this end's own keys installed; one that is not expected fails the exchange with FORMAT.
An exchange that times out fails; the leader of an ACTIVE port begins a rotation; a counter at 2^40 stops the port
with reason KEYING. Signatures and key checks are opaque (log 5). -/
def Obligations.KeyExchanges : Prop :=
  (∀ (s : State) (port : Port) (c : Nat) (k : KeyX),
    alive s = true →
    linkCarries s port = true →
    linkS s = true →
    exchange s port = some k →
    k.cold = true →
    leads s port = false →
    k.script = [] →
    trngFailed s = false →
    exec (.offer port 4192 c) s = .next (let ek := c / 256 ^ 2624 % 256 ^ 1568
      if !peerKnown s port (c % 256 ^ 2592) then failExchange s port 1
      else if !Config.mlkemKeyOk ek then failExchange s port 3
      else
        let (r, s1) := draw s 256
        let (n, s2) := draw s1 256
        let head := join2 2592 (Config.mldsaPublic (s.sec.dik - 1)) (join2 32 n (Config.mlkemCiphertext ek r))
        let acc := join2 4192 head (Config.mldsaSign (s.sec.dik - 1) (join2 4192 c head))
        sendCtrl (setExchange s2 port { k with script := [c, acc], seed := Config.mlkemShared ek r }) port (.keyx 2 8819 acc))) ∧
  (∀ (s : State) (port : Port) (len c : Nat) (k : KeyX),
    alive s = true →
    linkCarries s port = true →
    exchange s port = some k →
    (len ≠ 4192 ∨ linkS s = false ∨ k.cold = false ∨ leads s port = true ∨ k.script ≠ []) →
    exec (.offer port len c) s = .next (failExchange s port 4)) ∧
  (∀ (s : State) (port : Port) (c offer : Nat) (k : KeyX),
    alive s = true →
    linkCarries s port = true →
    linkS s = true →
    exchange s port = some k →
    k.cold = true →
    leads s port = true →
    k.script = [offer] →
    exec (.accept port 8819 c) s = .next (if !peerKnown s port (c % 256 ^ 2592) then failExchange s port 1
      else if !Config.mldsaVerify (c % 256 ^ 2592) (join2 4192 offer (c % 256 ^ 4192)) (c / 256 ^ 4192 % 256 ^ 4627) then failExchange s port 2
      else
        let conf := Config.mldsaSign (s.sec.dik - 1) (join2 4192 offer c)
        let th := hashOf [(4192, offer), (8819, c), (4627, conf)]
        let s1 := sendCtrl { s with sec := { s.sec with linkTh := Store.set 0 s.sec.linkTh port th } } port (.keyx 3 4627 conf)
        installKeys s1 port { k with script := [offer, c, conf] } (keysS s port (Config.mlkemDecapsulate k.seed (c / 256 ^ 2624 % 256 ^ 1568)) th))) ∧
  (∀ (s : State) (port : Port) (c offer acc : Nat) (k : KeyX),
    alive s = true →
    linkCarries s port = true →
    linkS s = true →
    exchange s port = some k →
    k.cold = true →
    leads s port = false →
    k.script = [offer, acc] →
    exec (.confirm port 4627 c) s = .next (if !Config.mldsaVerify (offer % 256 ^ 2592) (join2 4192 offer acc) c then failExchange s port 2
      else
        let th := hashOf [(4192, offer), (8819, acc), (4627, c)]
        let s1 := { s with sec := { s.sec with linkTh := Store.set 0 s.sec.linkTh port th } }
        installKeys s1 port { k with script := [offer, acc, c] } (keysS s port k.seed th))) ∧
  (∀ (s : State) (port : Port) (c : Nat) (k : KeyX),
    alive s = true →
    linkCarries s port = true →
    linkS s = false →
    exchange s port = some k →
    k.derived = false →
    c / 256 ^ 32 % 2 ^ 32 = k.rot →
    exec (.nonce port 36 c) s = .next (let n := c % 256 ^ 32
      installKeys s port { k with script := [c] } (if leads s port then keysF s port k.nonce n k.rot else keysF s port n k.nonce k.rot))) ∧
  (∀ (s : State) (port : Port) (c : Nat) (k : KeyX),
    alive s = true →
    linkCarries s port = true →
    linkS s = true →
    exchange s port = some k →
    k.cold = false →
    leads s port = false →
    k.script = [] →
    trngFailed s = false →
    exec (.rotOffer port 1600 c) s = .next (let ek := c / 256 ^ 32 % 256 ^ 1568
      if !Config.mlkemKeyOk ek then failExchange s port 3
      else
        let (r, s1) := draw s 256
        let (n, s2) := draw s1 256
        let acc := join2 32 n (Config.mlkemCiphertext ek r)
        let th := rotationHash s port c acc
        let s3 := sendCtrl { s2 with sec := { s2.sec with linkTh := Store.set 0 s2.sec.linkTh port th } } port (.keyx 6 1600 acc)
        installKeys s3 port { k with script := [c, acc] } (keysS s port (Config.mlkemShared ek r) th))) ∧
  (∀ (s : State) (port : Port) (c offer : Nat) (k : KeyX),
    alive s = true →
    linkCarries s port = true →
    linkS s = true →
    exchange s port = some k →
    k.cold = false →
    leads s port = true →
    k.script = [offer] →
    exec (.rotAccept port 1600 c) s = .next (let th := rotationHash s port offer c
      installKeys { s with sec := { s.sec with linkTh := Store.set 0 s.sec.linkTh port th } } port { k with script := [offer, c] }
        (keysS s port (Config.mlkemDecapsulate k.seed (c / 256 ^ 32 % 256 ^ 1568)) th))) ∧
  (∀ (s : State) (port : Port) (c : Nat) (k : KeyX),
    alive s = true →
    linkCarries s port = true →
    exchange s port = some k →
    k.derived = true →
    k.cold = false →
    c % 2 ^ 32 = k.rot →
    exec (.ready port 4 c) s = .next (let nx := Store.get (0, 0) s.sec.linkNext port
      let s1 := setF s (KEY.KX_STS_STATE port) 2
      let s2 := { s1 with sec := { s1.sec with
        kx := Store.set none s1.sec.kx port none
        linkKey := Store.set (0, 0) s1.sec.linkKey port (nx.1, (Store.get (0, 0) s.sec.linkKey port).2)
        linkNext := Store.set (0, 0) s1.sec.linkNext port (0, nx.2)
        linkRot := Store.set 0 s1.sec.linkRot port k.rot } }
      let s3 := setF (setF s2 (PORT.FRAMES_TX port) 0) (PORT.KEY_STS_TX_PH port) (1 - getF s (PORT.KEY_STS_TX_PH port))
      bumpF s3 (KEY.KX_STS_ROTATIONS port))) ∧
  (∀ (s : State) (port : Port) (k : KeyX),
    alive s = true →
    exchange s port = some k →
    exec (.keyxTimeout port) s = .next (failExchange (advanceEl s (k.start + 100000000)) port 5)) ∧
  (∀ (s : State) (port : Port) (t : State),
    alive s = true →
    atPeriodic s (64 + port) (4096 * 2 ^ rotLog2 s) (4096 * (port * 2 ^ (rotLog2 s - 6))) = t →
    linkActive t port = true →
    leads t port = true →
    exchange t port = none →
    exec (.linkKeyRotation port) s = .next (startExchange t port false)) ∧
  (∀ (s : State) (port : Port) (t : State),
    alive s = true →
    atPeriodic s (64 + port) (4096 * 2 ^ rotLog2 s) (4096 * (port * 2 ^ (rotLog2 s - 6))) = t →
    linkActive t port = false →
    exec (.linkKeyRotation port) s = .next (bumpF t (KEY.KX_STS_SKIPPED port))) ∧
  (∀ (s : State) (port : Port),
    alive s = true →
    2 ^ 40 ≤ max (getF s (PORT.FRAMES_TX port)) (getF s (PORT.FRAMES_RX port)) →
    exec (.frameCounterLimit port) s = .next (setF (stopPort s port) (PORT.TRAIN_STS_REASON port) 10))

/-- QUIESCE starts to quiesce a partition that holds cores and has no open run, and ends once nothing of its work is
left; RESUME ends it; a configuration that passes every check gives the partition its cores and pairs and keeps its
tables; a pair whose copy is done is whole; a fail-over gives each failing region its survivor; BIND and UNBIND join
a PID to a partition and part it. Each refused command writes its result alone. -/
def Obligations.Partitions : Prop :=
  (∀ (s : State) (pt : Nat),
    alive s = true →
    selPt s = pt →
    runOpen s pt = false →
    (ptState s pt == 0) = false →
    (ptState s pt == 5) = false →
    (ptState s pt == 4) = false →
    exec .quiesce s = .next (setB (setF s (PART.PT_STS_QRESULT pt) 0) (PART.PT_STS_QUIESCING pt) true)) ∧
  (∀ (s : State) (pt : Ptn),
    alive s = true →
    flag s (PART.PT_STS_QUIESCING pt) = true →
    ptDrained s pt = true →
    exec (.quiesced pt) s = .next (noteState pt (fun s => let s1 := setB s (PART.PT_STS_QUIESCING pt) false
      raise { s1 with parts := { s1.parts with quiesced := setBit16 s1.parts.quiesced pt true } } 0x0030 4) s)) ∧
  (∀ (s : State) (pt : Nat),
    alive s = true →
    selPt s = pt →
    (getF s PWR.PWR_STS_STATE == 2) = false →
    scrubbing s pt = false →
    copyingPt s pt = false →
    (flag s (PART.PT_STS_QUIESCING pt) = true ∨ s.parts.quiesced.getLsbD pt = true) →
    exec .resume s = .next (noteState pt (fun s => let s1 := setB (setF s (PART.PT_STS_QRESULT pt) 0) (PART.PT_STS_QUIESCING pt) false
      { s1 with parts := { s1.parts with quiesced := setBit16 s1.parts.quiesced pt false } }) s)) ∧
  (∀ (s : State) (pt : Nat),
    alive s = true →
    selPt s = pt →
    cfgResult s pt = 0 →
    exec .cfgGo s = .next (let named := (upTo 16).filter (getF s PART.CFG_CORES_CORES).testBit
      let mine := coresOf s pt
      let pairs := cfgPairs s
      let copy := (pairs.filter fun x => !keptPair s x && mine.contains x.1).map (·.1)
      let s1 := forAll (mine.filter fun c => !(getF s PART.CFG_CORES_CORES).testBit c) leaveLost (setF s (PART.CFG_STS_RESULT pt) 0)
      let s2 := forAll (named.filter fun c => !mine.contains c) (joinCore · pt) s1
      let mineMask := BitVec.ofNat 16 ((mine.map fun c => 2 ^ c).sum)
      let p := { s2.parts with
        sec := pairs.foldl (fun m x => Store.set 0 m x.1 (x.2 + 1)) (s2.parts.sec.filter fun e => !(mine.contains e.1))
        home := s2.parts.home.filter fun e => !(mine.contains e.1)
        broken := s2.parts.broken &&& ~~~ mineMask
        failing := s2.parts.failing &&& ~~~ mineMask
        copying := copy.foldl (fun v c => setBit16 v c true) s2.parts.copying
        lostOne := setBit16 s2.parts.lostOne pt false }
      let s3 := carryTables { s2 with parts := p } pt (tableCores s pt)
      let s4 := if named = mine then s3 else dropCached s3 pt fun _ => true
      bumpConfigGen (setB s4 (PART.CFG_STS_COPYING pt) (!copy.isEmpty)) pt)) ∧
  (∀ (s : State) (pt r : Nat),
    alive s = true →
    selPt s = pt →
    cfgResult s pt = r →
    r ≠ 0 →
    exec .cfgGo s = .next (setF s (PART.CFG_STS_RESULT pt) r)) ∧
  (∀ (s : State) (pt : Ptn) (ps : List Nat),
    alive s = true →
    (coresOf s pt).filter s.parts.copying.getLsbD = ps →
    ps ≠ [] →
    exec (.pairCopyDone pt) s = .next (noteState pt (fun _ =>
      let one := fun (s : State) (p : Nat) =>
        match secondaryOf s p with
        | some q => if coreUp s p && coreUp s q then copyPair s p q else s
        | none => s
      let s1 := forAll ps one s
      setB { s1 with parts := { s1.parts with copying := ps.foldl (fun v p => setBit16 v p false) s1.parts.copying } } (PART.CFG_STS_COPYING pt) false) s)) ∧
  (∀ (s : State) (pt : Ptn) (p q : Nat),
    alive s = true →
    ((upTo 16).filter fun p => s.parts.failing.getLsbD p && ownerOf s p == some pt.val) = [p] →
    secondaryOf s p = some q →
    lostCore s p = true →
    coreUp s q = true →
    exec (.mirrorFailoverDone pt) s = .next (let s1 := { s with parts := { s.parts with failing := s.parts.failing &&& ~~~ BitVec.ofNat 16 (2 ^ p) } }
      let s2 := noteBusy (moveRegion s1 p q) q
      { s2 with parts := { s2.parts with home := Store.set 0 s2.parts.home p (q + 1) } })) ∧
  (∀ (s : State) (pt : Ptn) (pid : Nat),
    alive s = true →
    getF s PART.BIND_PID_PID = pid →
    (pidState s pid = 0 ∨ pidState s pid = 4) →
    flag s (ROUTE.PTAB_DATA_V pid) = true →
    coresOf s pt ≠ [] →
    limitSum s pt pid + getF s (SHAPE.E2E_DATA_LIMIT pid) ≤ 4096 * (viewCores s pt).length →
    exec (.bind pt) s = .next (freshBinding (setF (setF (setF s (PART.BIND_STS_RESULT 0) 0) (PART.FENCE_STS_STATE pid) 1) (PART.BIND_STS_PT pid) pt) pid)) ∧
  (∀ (s : State) (pid : Nat),
    alive s = true →
    getF s PART.BIND_PID_PID = pid →
    pidState s pid = 4 →
    exec .unbind s = .next (setF (setF (setF s (PART.BIND_STS_RESULT 0) 0) (PART.FENCE_STS_STATE pid) 0) (PART.BIND_STS_PT pid) 0)) ∧
  (∀ (s : State) (pid : Nat),
    alive s = true →
    getF s PART.BIND_PID_PID = pid →
    pidState s pid ≠ 4 →
    exec .unbind s = .next (setF s (PART.BIND_STS_RESULT 0) 1))

/-- A scrub of a quiesced partition with good masks draws K_T and starts; a snoop that has waited 250 us fences its PID;
a drive that has sanitized is READY with its data gone; when every recall is answered and no drive sanitizes, the
cores are zeroed, rekeyed, cleared and leave the partition, the drives leave it, K_T is destroyed, and event 3 is
raised. -/
def Obligations.MuslinScrub : Prop :=
  (∀ (s : State) (pt : Nat),
    alive s = true →
    selPt s = pt →
    ptState s pt = 4 →
    runOpen s pt = false →
    trngFailed s = false →
    scrubMaskOk s pt (getF s PART.SCRUB_CORES_CORES) (getF s PART.SCRUB_DRIVES_DRIVES) = true →
    exec .scrubGo s = .next (noteState pt (fun s => let (k, s2) := draw (setF s (PART.SCRUB_STS_RESULT pt) 0) 512
      scrubStart { s2 with sec := { s2.sec with kt := k + 1 } } pt ((upTo 16).filter (getF s PART.SCRUB_CORES_CORES).testBit)
        ((upTo 16).filter (getF s PART.SCRUB_DRIVES_DRIVES).testBit)) s)) ∧
  (∀ (s : State) (pid : Pid) (pt : Nat) (e : Nat),
    alive s = true →
    ((upTo 16).find? fun pt => (scrubOf s pt).isSome && (awaitedBy s (scrubJob pt)).contains pid.val) = some pt →
    ((((scrubOf s pt).map (·.owed)).getD []).find? fun o => o.1 == pid.val) = some (pid.val, e) →
    exec (.scrubSnoopTimeout pid) s = .next (fencePid (advanceEl s (e + 250000)) pid)) ∧
  (∀ (s : State) (root : Root),
    alive s = true →
    getF s (PCIE.DRV_STS_STATE root) = 5 →
    exec (.sanitizeDone root) s = .next (let s1 := setF s (PCIE.DRV_STS_STATE root) 2
      let s2 := { s1 with tier := { s1.tier with flash := unkey 31 root s1.tier.flash, unclean := s1.tier.unclean.filter (· != root.val) } }
      forAll (upTo 16) (fun s pt => setF s (PART.SCRUB_STS_DRIVES_LEFT pt) (withBit (getF s (PART.SCRUB_STS_DRIVES_LEFT pt)) root false)) s2)) ∧
  (∀ (s : State) (pt : Ptn) (x : Scrub),
    alive s = true →
    scrubOf s pt = some x →
    scrubOver s pt x = true →
    exec (.scrubDone pt) s = .next (let cs := x.cores.filter fun c => !lostCore s c
      let old := (tableCores s pt).filter fun c => !lostCore s c
      let s2 := forAll cs scrubCore (carryTables (forAll cs freeCore s) pt old)
      let s3 := forAll x.drives (freeDrive · pt) s2
      let s4 := setScrub { s3 with sec := { s3.sec with kt := 0 } } pt none
      let s5 := setF (setB s4 (PART.SCRUB_STS_BUSY pt) false) (PART.SCRUB_STS_STEP pt) 0
      let s6 := { s5 with parts := { s5.parts with quiesced := setBit16 s5.parts.quiesced pt (!(coresOf s5 pt).isEmpty) } }
      raise (invalidatePt (setB s6 (PART.CFG_STS_COPYING pt) (copyingPt s6 pt)) pt) 0x0030 3))

/-- A cap-loop update records throttling, sets the averages and levels, admits, reconciles the clocks and attributes the
energy; a window above the fast limit sets FAST, one within it changes nothing; a droop stretches a core and its end
schedules what was deferred; a monitor alarm steps a floating core down, a step up raises it; a filler window sets
the floor of the next; a telemetry sample puts the readings into their registers. -/
def Obligations.PowerControl : Prop :=
  (∀ (s : State) (avg : Nat) (cores : List Nat) (dram fab aux input : Nat) (s0 : State),
    managed s = true →
    recordThrottle (atPeriodic s 1 65536 0) = s0 →
    (holder s0).isSome = true →
    ∃ s3 s6 : State, exec (.capLoopUpdate avg cores dram fab aux input) s = .next (chargeEnergy cores dram fab aux input s6) ∧
      s3 = setB (setF (setF (let s1 := setF (setF s0 PWR.IN_POWER_AVG (min avg 65535)) PWR.IN_POWER_PEAK (max (getF s0 PWR.IN_POWER_PEAK) (min avg 65535))
        if getF s0 PWR.PWR_STS_THERM_LEVEL = 0 ∧ 0 < nextThermal s0 then raise s1 0x0008 1 else s1) PWR.PWR_STS_LEVEL (nextLevel s0 avg)) PWR.PWR_STS_THERM_LEVEL (nextThermal s0)) PWR.PWR_STS_FAST false ∧
      (let s4 := admission (ladder s0) (capFlag (getF s0 PWR.PWR_STS_LEVEL) (nextLevel s0 avg) s3)
       let s5 := if (holder s4).isNone then s4 else forAll (upTo 16) updateClock s4
       s6 = if getF s5 PWR.PWR_STS_STATE ≤ 1 then setPwrState s5 (if ladder s5 = 0 then 0 else 1) else s5)) ∧
  (∀ (s : State) (peak : Nat),
    managed s = true →
    fastLimitTenths s < peak →
    exec (.fastLimit peak) s = .next (raise (setB (setF s PWR.IN_POWER_PEAK (max (getF s PWR.IN_POWER_PEAK) (min peak 65535))) PWR.PWR_STS_FAST true) 0x0008 6)) ∧
  (∀ (s : State) (peak : Nat),
    managed s = true →
    peak ≤ fastLimitTenths s →
    exec (.fastLimit peak) s = .next s) ∧
  (∀ (s : State) (core : Core) (pt : Nat),
    managed s = true →
    coreUp s core = true →
    flag s (CLK.CORE_CLK_STRETCH core) = false →
    ownerOf s core = some pt →
    exec (.droopStretch core) s = .next (recordDx 5 (bumpF (setB s (CLK.CORE_CLK_STRETCH core) true) (CLK.STRETCHES_COUNT core)) pt)) ∧
  (∀ (s : State) (core : Core),
    managed s = true →
    flag s (CLK.CORE_CLK_STRETCH core) = true →
    exec (.stretchEnd core) s = .next (let s1 := setB s (CLK.CORE_CLK_STRETCH core) false
      { s1 with pwr := { s1.pwr with deferAt := Store.set 0 s1.pwr.deferAt core (s1.time.elapsed + 2001) } })) ∧
  (∀ (s : State) (core : Core) (t : State),
    managed s = true →
    flag s (CLK.CORE_CLK_DEFER core) = true →
    flag s (CLK.CORE_CLK_STRETCH core) = false →
    setB (advanceEl s (Store.get 0 s.pwr.deferAt core - 1)) (CLK.CORE_CLK_DEFER core) false = t →
    clockStale t core = true →
    exec (.deferEnd core) s = .next (let s2 := holdStep (applyClock t core) core 0
      let k := Store.get 0 t.pwr.held core
      if floating s2 core then (if k = 1 then stepDown s2 core else if k = 2 then stepUp s2 core else s2) else s2)) ∧
  (∀ (s : State) (core : Core),
    managed s = true →
    floating s core = true →
    freqBlocked s core = false →
    exec (.monitorAlarm core) s = .next (bumpF (setFreq s core (max 1600 (freqHalf s core - 25))) (CLK.TRIM_DOWN core))) ∧
  (∀ (s : State) (core : Core),
    managed s = true →
    floating s core = true →
    freqBlocked s core = true →
    exec (.monitorAlarm core) s = .next (holdStep (deferChange s core) core 1)) ∧
  (∀ (s : State) (core : Core) (t : State),
    managed s = true →
    floating s core = true →
    (holder s).isSome = true →
    toFrameStart s = t →
    freqBlocked t core = false →
    freqHalf t core < limitHalf t core →
    exec (.monitorStepUp core) s = .next (bumpF (setFreq t core (min (limitHalf t core) (freqHalf t core + 25))) (CLK.TRIM_UP core))) ∧
  (∀ (s : State) (core : Core) (issued : Nat),
    alive s = true →
    coreUp s core = true →
    (ownerOf s core).isSome = true →
    exec (.fillerWindow core issued) s = .next { s with pwr := { s.pwr with
      filler := Store.set 0 s.pwr.filler core (min issued 16)
      floor := Store.set 0 s.pwr.floor core (if flag s PWR.FILL_CTL_EN || detOn s then max (getF s PWR.FILL_CTL_FLOOR) (min issued 16 - 1) else 0) } }) ∧
  (∀ (s : State) (rails : List (Nat × Nat × Nat)) (dram die : List Nat) (supply : Nat × Nat),
    managed s = true →
    ∃ s2 s5 : State, exec (.telemetrySample rails dram die supply []) s = .next (forAll (coresUp s5) (fun s c => setF (setF s (HPHY.TEMP_NOW c) (dram.getD c 0)) (HPHY.TEMP_MAX c) (max (getF s (HPHY.TEMP_MAX c)) (dram.getD c 0 % 256))) s5) ∧
      (let s1 := forAll ((upTo 20).filterMap fun r => rails[r]?.map fun x => (r, x)) sampleRail (atPeriodic s 4 1048576 2048)
       s2 = { s1 with pwr := { s1.pwr with temps := (upTo 21).foldl (fun m i => Store.set 0 m i (die.getD i 0)) ((upTo 16).foldl (fun m i => Store.set 0 m (21 + i) (dram.getD i 0)) s1.pwr.temps) } }) ∧
      (let s3 := setF (setF s2 PWR.THERM_STS_DIE_NOW (maxOf die)) PWR.THERM_STS_DRAM_NOW (maxOf dram)
       let s4 := setF (setF s3 PWR.THERM_STS_DIE_PEAK (max (getF s3 PWR.THERM_STS_DIE_PEAK) (maxOf die % 256))) PWR.THERM_STS_DRAM_PEAK (max (getF s3 PWR.THERM_STS_DRAM_PEAK) (maxOf dram % 256))
       s5 = setF (setF (setF (setF s4 (PWR.RAIL_TEL_MV 20) supply.1) (PWR.RAIL_TEL_AMPS 20) (supply.2 / 10)) PWR.IN_SUPPLY_MV supply.1) PWR.IN_SUPPLY_CURRENT supply.2))

/-- RUN, IDLE, HIBERNATE and OFF change the power state where the present state and the partitions permit; EN_CLEAR
clears the energy counters; low input is shown and cleared, a shutdown and OFF lose keys and contents; a lost phase
is counted, one too many loses a core or latches the module; a rail out of regulation loses its core; a trip shuts
the rails and latches; a chip-domain fault latches. -/
def Obligations.PowerStates : Prop :=
  (∀ (s : State),
    alive s = true →
    getF s PWR.PWR_STS_STATE ≤ 1 →
    allQuiet s = true →
    exec .pwrIdle s = .next (forAll (upTo 16) updateClock (setPwrState (setF s PWR.PWR_STS_RESULT 0) 2))) ∧
  (∀ (s : State),
    alive s = true →
    (1 < getF s PWR.PWR_STS_STATE ∨ allQuiet s = false) →
    exec .pwrIdle s = .next (setF s PWR.PWR_STS_RESULT 1)) ∧
  (∀ (s : State),
    alive s = true →
    getF s PWR.PWR_STS_STATE = 2 →
    exec .pwrRun s = .next (let s1 := setF s PWR.PWR_STS_RESULT 0
      forAll (upTo 16) updateClock (setPwrState s1 (if ladder s1 = 0 then 0 else 1)))) ∧
  (∀ (s : State),
    alive s = true →
    getF s PWR.PWR_STS_STATE = 3 →
    exec .pwrRun s = .next (let s0 := setRails (setF s PWR.PWR_STS_RESULT 0) (sleepRails.filter fun r => decide (phasesLost (setF s PWR.PWR_STS_RESULT 0) r ≤ 2)) false
      let s1 := { s0 with pwr := { s0.pwr with selfRef := false } }
      setPwrState (trainEnabled (forAll (coresUp s1) calibrate s1)) 2)) ∧
  (∀ (s : State),
    alive s = true →
    getF s PWR.PWR_STS_STATE = 2 →
    anyLive s = false →
    anyRun s = false →
    exec .pwrHibernate s = .next (let s1 := setPwrState (setRails (portsOff (lockOpenSlots (setF s PWR.PWR_STS_RESULT 0))) sleepRails true) 3
      { s1 with pwr := { s1.pwr with selfRef := true }, sec := { s1.sec with linkKey := [], linkNext := [] } })) ∧
  (∀ (s : State),
    alive s = true →
    (getF s PWR.PWR_STS_STATE = 2 ∨ getF s PWR.PWR_STS_STATE = 3) →
    exec .pwrOff s = .next (let s1 := setF (forAll [0, 1] selvDown (setF s PWR.PWR_STS_RESULT 0)) PWR.PWR_STS_STATE 4
      { s1 with
        input := { s1.input with vaux := false, low := false, refclk := false, perst := 0 }
        mem := []
        sec := { s1.sec with ck := [], tk := [], imageKey := [], linkKey := [], linkNext := [], kt := 0, dik := 0, ak := 0, bootNonce := 0, releases := [] } })) ∧
  (∀ (s : State),
    alive s = true →
    exec .enClear s = .next { s with regs := s.regs.filter fun e => !(e.1 / 32 % 0x10000000 == 0x8094) }) ∧
  (∀ (s : State),
    managed s = true →
    exec .inputLow s = .next (raise { s with input := { s.input with low := true } } 0x0008 5)) ∧
  (∀ (s : State),
    managed s = true →
    exec .inputLowClear s = .next { s with input := { s.input with low := false } }) ∧
  (∀ (s : State),
    ∃ t : State, exec .inputShutdown s = .next t ∧ t.input.good = false ∧ t.input.vaux = false ∧ t.input.refclk = false ∧ t.input.perst = 0 ∧ t.mem = [] ∧ t.sec.ck = [] ∧ t.sec.tk = [] ∧ t.sec.imageKey = [] ∧ t.sec.linkKey = [] ∧ t.sec.ak = 0 ∧ t.sec.dik = 0 ∧ t.sec.fuses = s.sec.fuses) ∧
  (∀ (s : State) (rail : Fin 20) (phase : Nat),
    managed s = true →
    s.pwr.lost.contains (rail.val, phase) = false →
    phase < phasesReq rail + 2 →
    phasesLost s rail < 2 →
    exec (.phaseLost rail phase) s = .next (let s1 := { s with pwr := { s.pwr with lost := s.pwr.lost ++ [(rail.val, phase)] } }
      let s2 := setF s1 (PWR.RAIL_STS_PHASES_OK rail) (phasesReq rail + 2 - phasesLost s1 rail)
      raise (faultEntry s2 24 1 none 0x0008 rail phase) 0x0008 2)) ∧
  (∀ (s : State) (rail : Fin 20) (phase : Nat),
    managed s = true →
    s.pwr.lost.contains (rail.val, phase) = false →
    phase < phasesReq rail + 2 →
    phasesLost s rail = 2 →
    rail.val < 16 →
    exec (.phaseLost rail phase) s = .next (let s1 := { s with pwr := { s.pwr with lost := s.pwr.lost ++ [(rail.val, phase)] } }
      let s2 := setF s1 (PWR.RAIL_STS_PHASES_OK rail) (phasesReq rail + 2 - phasesLost s1 rail)
      declareLost (setB (raise (faultEntry s2 24 1 none 0x0008 rail phase) 0x0008 2) (PWR.RAIL_STS_SHUT rail) true) rail 1)) ∧
  (∀ (s : State) (core : Core),
    managed s = true →
    exec (.railOutOfRegulation core) s = .next (declareLost (setB s (PWR.RAIL_STS_OUT_OF_REG core) true) core 1)) ∧
  (∀ (s : State) (sensor : Nat),
    managed s = true →
    exec (.thermalTrip sensor) s = .next (let s1 := { s with pwr := { s.pwr with temps := Store.set 0 s.pwr.temps sensor (tripAt sensor), dramOff := true } }
      latch (faultEntry { shutRails s1 with mem := [] } 2 2 none 0x0008 0x0008 sensor) 2 2)) ∧
  (∀ (s : State) (page detail : Nat),
    managed s = true →
    exec (.chipFatal page detail) s = .next (latch (faultEntry s 2 1 none page page detail) 1 2))

/-- Applied input clears GOOD and good input starts VAUX with the internal reset held; RESET_N low for 10 us holds it in
a module that has cooled enough; its release, and CHIP_RESET with KIND 0, are a cold reset; CHIP_RESET with KIND 1
where nothing forbids it is a warm reset, else it is refused with the lowest reason; a probe that attaches or
detaches raises its event. RESET_N low between 1 and 10 us is free (log 35). -/
def Obligations.Resets : Prop :=
  (∀ (s : State),
    s.input.vaux = false →
    exec .vinApplied s = .next { s with input := { s.input with applied := true, good := false } }) ∧
  (∀ (s : State),
    s.input.applied = true →
    s.input.good = false →
    exec .vinGood s = .next { s with input := { s.input with good := true, vaux := true, inReset := true } }) ∧
  (∀ (s : State) (ns : Nat),
    s.input.good = true →
    coolEnough s = true →
    10000 ≤ ns →
    exec (.resetNLow ns) s = .next (let s1 := forAll [0, 1] selvDown s
      { s1 with input := { s1.input with vaux := true, inReset := true, perst := 0 } })) ∧
  (∀ (s : State) (ns : Nat),
    ns < 1000 →
    exec (.resetNLow ns) s = .next s) ∧
  (∀ (s : State) (straps : Nat),
    s.input.good = true →
    s.input.vaux = true →
    s.input.inReset = true →
    exec (.internalResetRelease straps) s = .next (coldReset s straps 0)) ∧
  (∀ (s : State),
    managed s = true →
    coolEnough s = true →
    exec .chipResetCold s = .next (coldReset (announceReset s) s.input.straps 1)) ∧
  (∀ (s : State),
    managed s = true →
    coolEnough s = false →
    exec .chipResetCold s = .next (setF (setB s TOP.RESET_STS_REFUSED true) TOP.RESET_STS_REASON 4)) ∧
  (∀ (s : State),
    managed s = true →
    warmReason s = 0 →
    exec .chipResetWarm s = .next (warmReset s)) ∧
  (∀ (s : State) (r : Nat),
    managed s = true →
    warmReason s = r →
    r ≠ 0 →
    exec .chipResetWarm s = .next (setF (setB s TOP.RESET_STS_REFUSED true) TOP.RESET_STS_REASON r)) ∧
  (∀ (s : State),
    managed s = true →
    flag s DBG.DBG_STS_ATTACHED = false →
    exec .attach s = .next (raise (setB s DBG.DBG_STS_ATTACHED true) 0x0800 0)) ∧
  (∀ (s : State),
    managed s = true →
    flag s DBG.DBG_STS_ATTACHED = true →
    exec .detach s = .next (raise (setB s DBG.DBG_STS_ATTACHED false) 0x0800 1))

/-- A step that has been written and waits for its work does that work and keeps the code it found; the write of a step
that is not the next is refused; a step whose work found nothing wrong ends DONE once what it waits for has come,
one that found a code ends FAIL with it; a drive not ready in M9 is REJECTED with reason 9. -/
def Obligations.MarionetteSteps : Prop :=
  (∀ (s : State) (eccBad : Bool),
    alive s = true →
    stepReady s 0 = true →
    exec (.m0Identify eccBad) s = .next (let x := workM0 eccBad s
      { x.2 with boot := { x.2.boot with work := x.1 + 1 } })) ∧
  (∀ (s : State) (pllOk : Bool) (bad : List (Fin 20 × Nat)),
    alive s = true →
    stepReady s 1 = true →
    exec (.m1ClocksAndRails pllOk bad) s = .next (let x := workM1 pllOk bad s
      { x.2 with boot := { x.2.boot with work := x.1 + 1 } })) ∧
  (∀ (s : State),
    alive s = true →
    stepReady s 2 = true →
    exec (.m2Time) s = .next (let x := (fun s : State => (0, s)) s
      { x.2 with boot := { x.2.boot with work := x.1 + 1 } })) ∧
  (∀ (s : State) (ok : Bool) (bad : List (Core × Eng)),
    alive s = true →
    stepReady s 3 = true →
    exec (.m3DieSelfTest ok bad) s = .next (let x := workM3 ok bad s
      { x.2 with boot := { x.2.boot with work := x.1 + 1 } })) ∧
  (∀ (s : State),
    alive s = true →
    stepReady s 4 = true →
    exec (.m4Reconcile) s = .next (let x := workM4 s
      { x.2 with boot := { x.2.boot with work := x.1 + 1 } })) ∧
  (∀ (s : State) (failing : Option Nat),
    alive s = true →
    stepReady s 5 = true →
    exec (.m5SecurityRoot failing) s = .next (let x := workM5 failing s
      { x.2 with boot := { x.2.boot with work := x.1 + 1 } })) ∧
  (∀ (s : State) (untrained : List (Core × Nat)),
    alive s = true →
    stepReady s 6 = true →
    exec (.m6DramTraining untrained) s = .next (let x := workM6 untrained s
      { x.2 with boot := { x.2.boot with work := x.1 + 1 } })) ∧
  (∀ (s : State) (bad : List (Core × Nat)),
    alive s = true →
    stepReady s 7 = true →
    exec (.m7DramTest bad) s = .next (let x := workM7 bad s
      { x.2 with boot := { x.2.boot with work := x.1 + 1 } })) ∧
  (∀ (s : State) (bad : List (Port × Fin 5)),
    alive s = true →
    stepReady s 8 = true →
    exec (.m8FabricPorts bad) s = .next (let x := workM8 bad s
      { x.2 with boot := { x.2.boot with work := x.1 + 1 } })) ∧
  (∀ (s : State) (bad : List Root),
    alive s = true →
    stepReady s 9 = true →
    exec (.m9RootPorts bad) s = .next (let x := workM9 bad s
      { x.2 with boot := { x.2.boot with work := x.1 + 1 } })) ∧
  (∀ (s : State),
    alive s = true →
    stepReady s 10 = true →
    exec (.m10Admission) s = .next (let x := (fun s : State => (0, s)) s
      { x.2 with boot := { x.2.boot with work := x.1 + 1 } })) ∧
  (∀ (s : State),
    alive s = true →
    stepReady s 11 = true →
    exec (.m11Service) s = .next (let x := (fun s : State => (0, s)) s
      { x.2 with boot := { x.2.boot with work := x.1 + 1 } })) ∧
  (∀ (s : State),
    alive s = true →
    Store.rising s.regs = true →
    stepReady s 2 = false →
    stepAllowed s 2 = false →
    exec .m2Time s = .next (setB s TOP.SEQ_STS_REFUSED true)) ∧
  (∀ (s : State) (ms : Nat),
    alive s = true →
    anyStep s = true →
    s.boot.work = 1 →
    stepMayEnd s = true →
    exec (.stepDone ms) s = .next (let s1 := setF (setF (setB (stepEffect s) TOP.SEQ_STS_FAST false) TOP.SEQ_STS_CODE 0) TOP.SEQ_STS_MS (min ms 65535)
      raise (setF s1 TOP.SEQ_STS_STATE 2) 0x0000 0)) ∧
  (∀ (s : State) (code ms : Nat),
    alive s = true →
    anyStep s = true →
    2 ≤ s.boot.work →
    (codeSteps (s.boot.work - 1)).contains (getF s TOP.SEQ_STS_STEP) = true →
    exec (.stepFail code ms) s = .next (endStep s (s.boot.work - 1) ms false)) ∧
  (∀ (s : State) (root : Root),
    alive s = true →
    stepRunning s 9 = true →
    getF s (PCIE.DRV_STS_STATE root) = 1 →
    exec (.driveReadyTimeout root) s = .next (raise (setF (setF s (PCIE.DRV_STS_STATE root) 3) (PCIE.DRV_STS_REASON root) 9) (0x0510 + root) 1))

/-- A message in a frame that is not of Selvedge, fails its check or has another length than WORDS gives is discarded; a
good frame's sender is noted; HELLO sets the highest common version and is answered; a link with a version comes up,
is resynchronised and goes down; RENEW starts the lease and is acknowledged; a CLAIM that meets every condition
installs its port with the next epoch, any other is answered with the first status that applies; HANDOVER installs
the other port where its lease is live, else sets HANDOVER_REFUSED; the lease check runs at its place; the window
closes 2 ms after the install. -/
def Obligations.ControlPorts : Prop :=
  (∀ (s : State) (f : SelvFrame) (u : State) (vmin vmax v : Nat),
    managed s = true →
    frameOk f = true →
    noteSender s f = u →
    selvUp u f.port = false →
    commonVersion vmin vmax = some v →
    exec (.hello f vmin vmax) s = .next (setF (setSelv u f.port { getSelv u f.port with out := (getSelv u f.port).out ++ [.hello 0x10 0x12 (getF u STRAP.STRAPS_MOD_ID) (getF u FUSE.SERIAL)] }) (SELV.LINK_STS_VER f.port) (v - 0xF))) ∧
  (∀ (s : State) (f : SelvFrame) (vmin vmax seq epoch tag addr n : Nat) (fixed : Bool) (data : List Nat),
    frameOk f = false →
    exec (.hello f vmin vmax) s = .next s ∧ exec (.renew f seq) s = .next s ∧ exec (.claim f epoch) s = .next s ∧
      exec (.regRead f tag addr n fixed) s = .next s ∧ exec (.regWrite f tag epoch addr n fixed data) s = .next s) ∧
  (∀ (s : State) (m : Selv),
    managed s = true →
    selvUp s m = false →
    getF s (SELV.LINK_STS_VER m) ≠ 0 →
    exec (.selvLinkUp m) s = .next (let s1 := setB s (SELV.LINK_STS_UP m) true
      resync (raise s1 (0x0048 + m) 0) m)) ∧
  (∀ (s : State) (m : Selv),
    managed s = true →
    selvUp s m = true →
    exec (.selvLinkDown m) s = .next (let s1 := setSelv s m { getSelv s m with queue := [] }
      let s2 := setF (setB s1 (SELV.LINK_STS_UP m) false) (SELV.LINK_STS_VER m) 0
      endLease (raise (bumpF s2 (SELV.LINK_DROPS_COUNT m)) (0x0048 + m) 1) m)) ∧
  (∀ (s : State) (f : SelvFrame) (u : State) (seq : Nat),
    managed s = true →
    frameOk f = true →
    noteSender s f = u →
    selvUp u f.port = true →
    leaseLive u f.port = false →
    exec (.renew f seq) s = .next (sendSelv (bumpF (setSelv u f.port { getSelv u f.port with lease := .live, start := u.time.elapsed, since := u.time.elapsed }) (SELV.RENEWS_COUNT f.port)) f.port (.renewAck (seq % 2 ^ 32) 10000 (getF u TOP.CTL_STS_HOLDER) (getF u TOP.CTL_STS_EPOCH)))) ∧
  (∀ (s : State) (f : SelvFrame) (u : State) (seq : Nat),
    managed s = true →
    frameOk f = true →
    noteSender s f = u →
    selvUp u f.port = true →
    leaseLive u f.port = true →
    exec (.renew f seq) s = .next (sendSelv (bumpF (setSelv u f.port { getSelv u f.port with lease := .live, start := u.time.elapsed }) (SELV.RENEWS_COUNT f.port)) f.port (.renewAck (seq % 2 ^ 32) 10000 (getF u TOP.CTL_STS_HOLDER) (getF u TOP.CTL_STS_EPOCH)))) ∧
  (∀ (s : State) (f : SelvFrame) (u : State) (epoch : Nat),
    managed s = true →
    frameOk f = true →
    noteSender s f = u →
    selvUp u f.port = true →
    getF u TOP.CTL_STS_HOLDER = 0 →
    leaseLive u f.port = true →
    epoch = getF u TOP.CTL_STS_EPOCH →
    exec (.claim f epoch) s = .next (install (sendSelv u f.port (.claimRsp 0 ((getF u TOP.CTL_STS_EPOCH + 1) % 65536))) f.port 0 2)) ∧
  (∀ (s : State) (f : SelvFrame) (u : State) (epoch st : Nat),
    managed s = true →
    frameOk f = true →
    noteSender s f = u →
    selvUp u f.port = true →
    claimStatus u f.port epoch = st →
    st ≠ 0 →
    exec (.claim f epoch) s = .next (sendSelv u f.port (.claimRsp st (getF u TOP.CTL_STS_EPOCH)))) ∧
  (∀ (s : State) (m : Nat),
    alive s = true →
    holder s = some m →
    leaseLive s (1 - m) = true →
    m ≠ preferred s →
    exec .handover s = .next (install (setB s TOP.CTL_STS_HANDOVER_REFUSED false) (1 - m) 3 4)) ∧
  (∀ (s : State) (m : Nat),
    alive s = true →
    holder s = some m →
    leaseLive s (1 - m) = false →
    exec .handover s = .next (setB s TOP.CTL_STS_HANDOVER_REFUSED true)) ∧
  (∀ (s : State) (t : State),
    managed s = true →
    atPeriodic s 3 65536 2048 = t →
    leaseLive t 0 = true →
    leaseLive t 1 = true →
    exec .selvedgeLeaseCheck s = .next (autoReturn t)) ∧
  (∀ (s : State) (t : State) (m : Nat),
    managed s = true →
    atPeriodic s 3 65536 2048 = t →
    holder t = some m →
    leaseLive t 0 = false →
    leaseLive t 1 = false →
    (getSelv t 0).lease ≠ .live →
    (getSelv t 1).lease ≠ .live →
    exec .selvedgeLeaseCheck s = .next (noHolderCheck (autoReturn (dropHolder t m)))) ∧
  (∀ (s : State),
    managed s = true →
    flag s TOP.CTL_STS_WINDOW = true →
    exec .dualWindowClose s = .next (setB (advanceEl s s.ctl.windowEnd) TOP.CTL_STS_WINDOW false))

/-- A well-formed REG_READ answers each word; a message whose words are not those of its count is answered with status
8; a REG_WRITE of one word that its port may make is performed and answered with status 0, one that it may not is
answered with its status; a write does what its register does; PAGE_EVT, PAGE_EVT_EN and PAGE_CTL of an open page
are written; POP takes the lowest entry of the fault log and CLEAR_LOST clears LOST; IDCODE, BYPASS, MSG and SCAN
load their data registers. The data of a SCAN is free (log 1). -/
def Obligations.RegisterCommands : Prop :=
  (∀ (s : State) (f : SelvFrame) (u : State) (tag addr n : Nat) (fixed : Bool),
    managed s = true →
    frameOk f = true →
    noteSender s f = u →
    selvUp u f.port = true →
    f.words = 2 →
    shapeStatus addr n fixed = 0 →
    exec (.regRead f tag addr n fixed) s = .next (regAnswer (readBurst f.port (holder u == some f.port.val) fixed n addr u).2 f.port tag 0 n (readBurst f.port (holder u == some f.port.val) fixed n addr u).1)) ∧
  (∀ (s : State) (f : SelvFrame) (u : State) (tag addr n st : Nat) (fixed : Bool),
    managed s = true →
    frameOk f = true →
    noteSender s f = u →
    selvUp u f.port = true →
    f.words = 2 →
    shapeStatus addr n fixed = st →
    st ≠ 0 →
    exec (.regRead f tag addr n fixed) s = .next (regAnswer u f.port tag st 0 [])) ∧
  (∀ (s : State) (f : SelvFrame) (u : State) (tag addr n : Nat) (fixed : Bool),
    managed s = true →
    frameOk f = true →
    noteSender s f = u →
    selvUp u f.port = true →
    f.words ≠ 2 →
    exec (.regRead f tag addr n fixed) s = .next (regAnswer u f.port tag 8 0 [])) ∧
  (∀ (s : State) (f : SelvFrame) (u : State) (tag epoch addr v : Nat) (fixed : Bool),
    managed s = true →
    frameOk f = true →
    noteSender s f = u →
    selvUp u f.port = true →
    f.words = 3 →
    shapeStatus addr 1 fixed = 0 →
    writeStatus u f.port (epoch % 65536) addr (v % 2 ^ 32) = 0 →
    oldWrite u f.port (epoch % 65536) = false →
    startsReset u addr (v % 2 ^ 32) = false →
    exec (.regWrite f tag epoch addr 1 fixed [v]) s = .next (regAnswer (writeReg u addr (v % 2 ^ 32)) f.port tag 0 1 [])) ∧
  (∀ (s : State) (f : SelvFrame) (u : State) (tag epoch addr v st : Nat) (fixed : Bool),
    managed s = true →
    frameOk f = true →
    noteSender s f = u →
    selvUp u f.port = true →
    f.words = 3 →
    shapeStatus addr 1 fixed = 0 →
    writeStatus u f.port (epoch % 65536) addr (v % 2 ^ 32) = st →
    st ≠ 0 →
    exec (.regWrite f tag epoch addr 1 fixed [v]) s = .next (regAnswer (countRefused (noteRefusedReset u addr (v % 2 ^ 32) st) f.port st) f.port tag st 0 [])) ∧
  (∀ (s : State) (f : SelvFrame) (u : State) (tag epoch addr n : Nat) (fixed : Bool) (data : List Nat),
    managed s = true →
    frameOk f = true →
    noteSender s f = u →
    selvUp u f.port = true →
    (data.length ≠ n ∨ f.words ≠ n + 2) →
    exec (.regWrite f tag epoch addr n fixed data) s = .next (regAnswer u f.port tag 8 0 [])) ∧
  (∀ (s : State) (addr v p o : Nat) (b : Block) (n : Nat) (d : RegDesc),
    alive s = true →
    addr / 4096 % 65536 = p →
    addr % 4096 / 4 * 4 = o →
    pageBlock p = some (b, n) →
    pageOpen s p = true →
    regAt s p o = some d →
    v < 2 ^ 32 →
    ((actionBits b o).filter v.testBit).length ≤ 1 →
    exec (.registerWrite addr v) s = .next (actReg (flagWrite s p o v d) p b n o v d)) ∧
  (∀ (s : State) (page v same : Nat),
    alive s = true →
    page < 65536 →
    pageOpen s page = true →
    v < 2 ^ 32 →
    v / 2 ^ pageNevt page = 0 →
    pageNevt page ≠ 0 →
    exec (.pageEvtClear page v same) s = .next (clearEvt s page v same)) ∧
  (∀ (s : State) (page v : Nat) (b : Block) (n : Nat) (d : RegDesc),
    alive s = true →
    page < 65536 →
    pageBlock page = some (b, n) →
    pageOpen s page = true →
    headerViews page 0x018 = some d →
    v < 2 ^ 32 →
    actionBits b 0x018 = [] →
    exec (.pageEvtEnWrite page v) s = .next (writeEvtEn (flagWrite s page 0x018 v d) page v)) ∧
  (∀ (s : State) (page v : Nat) (b : Block) (n : Nat) (d : RegDesc),
    alive s = true →
    page < 65536 →
    pageBlock page = some (b, n) →
    pageOpen s page = true →
    headerViews page 0x00C = some d →
    v < 2 ^ 32 →
    actionBits b 0x00C = [] →
    exec (.msgHoldWrite page v) s = .next (writeHold (flagWrite s page 0x00C v d) page v)) ∧
  (∀ (s : State) (e : FaultEntry) (l : List FaultEntry),
    alive s = true →
    s.log = e :: l →
    exec .faultPop s = .next { s with log := l }) ∧
  (∀ (s : State),
    alive s = true →
    exec .clearLost s = .next (setB s FAULT.LOG_STS_LOST false)) ∧
  (∀ (s : State),
    tapOn s = true →
    exec .idcode s = .next (tapLoad s 0x01 (idcodeNow s))) ∧
  (∀ (s : State) (code : Nat),
    tapOn s = true →
    code % 256 ≠ 0x01 →
    code % 256 ≠ 0x10 →
    code % 256 ≠ 0x20 →
    exec (.bypass code) s = .next (tapLoad s 0xFF 0)) ∧
  (∀ (s : State) (word w : Nat) (l : List Nat),
    tapOn s = true →
    s.dbg.outWords = w :: l →
    exec (.msg word false) s = .next (tapLoad { s with dbg := { s.dbg with outWords := l } } 0x10 (w % 2 ^ 32 + 2 ^ 32))) ∧
  (∀ (s : State) (word : Nat),
    tapOn s = true →
    s.dbg.outWords = [] →
    s.dbg.inWords = [] →
    exec (.msg word true) s = .next (let s1 := tapLoad s 0x10 0
      { s1 with dbg := { s1.dbg with inWords := [word % 2 ^ 32] } })) ∧
  (∀ (s : State),
    tapOn s = true →
    getF s SEC.DEBUG_LEVEL = 2 →
    exec .scan s = .next (let (v, s1) := freeNat s 32
      setB (tapLoad s1 0x20 v) DBG.DBG_STS_SCAN true))

/-- With command c at the front of the queue, a step is exec of c on the state with the rest of the queue; on an empty
queue a step is the tick of the module's clock (the model's choice, log 9). -/
def Obligations.StepRunsTheFrontCommand : Prop :=
  (∀ (s : State) (c : Instr) (l : List Instr),
    s.pending = c :: l →
    step s = exec c { s with pending := l }) ∧
  (∀ (s : State),
    s.pending = [] →
    step s = .next (whenAlive (tick s) pumpRecs))

/-- In every state that meets the invariant a step answers a next state, whose queue is the old queue without its front:
no command stops the module, and none changes the queue. -/
def Obligations.StepAnswersAndTakesOneCommand : Prop :=
  (∀ (s : State),
    Inv s →
    ∃ t : State, step s = .next t ∧ t.pending = s.pending.tail)

/-- The state after reset meets the invariant; its queue and its fault log are empty, no port holds control and the
epoch is 0, no PID is bound, no partition owns a core, the marionette shows no step, and the debug level is D0. The
part and its fuses are the model's choice (log 34). -/
def Obligations.ResetState : Prop :=
  (Inv State.reset ∧ State.reset.pending = [] ∧ State.reset.log = [] ∧ holder State.reset = none ∧
    getF State.reset TOP.CTL_STS_EPOCH = 0 ∧ getF State.reset TOP.SEQ_STS_STEP = 15 ∧ getF State.reset SEC.DEBUG_LEVEL = 0 ∧
    (∀ pid : Pid, pidState State.reset pid = 0) ∧ (∀ c : Core, ownerOf State.reset c = none))

/-- From every state in which memory is in its canonical form, each register is listed once, the fault log is within its
areas and the event queues within their length, every step gives a state in which they are. -/
def Obligations.StepKeepsTheInvariant : Prop :=
  (∀ (s : State) (t : State),
    Inv s →
    step s = .next t →
    Inv t)

/-- From every state that meets the invariant, and so from reset, after any number of steps the module has not stopped
and meets the invariant. -/
def Obligations.EveryRunIsSafe : Prop :=
  (∀ (s : State) (n : Nat),
    Inv s →
    SafeFor s n)

/-- Whatever a step does in a state that meets the invariant, every fuse bit that was blown still is; a command other
than field programming, lifecycle changes, SVN commits and register writes leaves every fuse as it was. -/
def Obligations.BlownFusesStayBlown : Prop :=
  (∀ (s : State) (t : State),
    Inv s →
    step s = .next t →
    FusesKept s t) ∧
  (∀ (s : State) (c : Instr) (t : State),
    Inv s →
    blowsFuse c = false →
    exec c s = .next t →
    t.sec.fuses = s.sec.fuses)

/-- Every command outside the list of those that can reach the stacks' memory leaves each byte of it as it was, in every
state that meets the invariant. -/
def Obligations.CommandsThatStoreNothing : Prop :=
  (∀ (s : State) (c : Instr) (t : State) (a : Nat),
    Inv s →
    storesMemory c = false →
    exec c s = .next t →
    t.mem = s.mem ∧ memByte t a = memByte s a)

/-- While VAUX is down or the internal reset is held, every command but those of the input stage changes nothing; while
the module is latched, every command changes nothing but those of time, sensors, power and control, register
accesses, the resets and the contacts. -/
def Obligations.StoppedModuleIgnoresCommands : Prop :=
  (∀ (s : State) (c : Instr),
    managed s = false →
    actsUnmanaged c = false →
    exec c s = .next s) ∧
  (∀ (s : State) (c : Instr),
    latched s = true →
    actsLatched c = false →
    exec c s = .next s)

/-- Commands of time, the gingham table, deterministic mode, power, control and the contacts change nothing of memory,
translation, coherence, engines, DRAM, tier, links, network, partitions and keys; commands of the security root
change nothing of these but the security state. -/
def Obligations.FramesOfControlCommands : Prop :=
  (∀ (s : State) (c : Instr) (t : State),
    controlsOnly c = true →
    exec c s = .next t →
    OnlyControl s t) ∧
  (∀ (s : State) (c : Instr) (t : State),
    securesOnly c = true →
    exec c s = .next t →
    OnlySecurity s t)

/-- A register field reads as the value written, cut to its width, and every other field as before; bytes written to
memory read as the little-endian bytes of the number, every other byte as before, and memory keeps its canonical
form. -/
def Obligations.StoredValuesReadBack : Prop :=
  (∀ (s : State) (f g : Fld) (v : Nat),
    Store.rising s.regs = true →
    getF (setF s f v) f = v % 2 ^ f.width ∧ (g.key ≠ f.key → getF (setF s f v) g = getF s g) ∧ Store.rising (setF s f v).regs = true) ∧
  (∀ (s : State) (a n v b : Nat),
    Memory.wf s.mem = true →
    Memory.wf (memPut s.mem a n v) = true ∧
      memByte { s with mem := memPut s.mem a n v } b = if a ≤ b ∧ b < a + n then BitVec.ofNat 8 (v / 256 ^ (b - a)) else memByte s b)

/-- A PPA that lies in DRAM for a partition names a mappable offset of the core that serves one of that partition's own
cores; one that lies in tier space lies in a drive assigned to that partition; and without a fail-over two addresses
of the interleaved view that name the same byte are the same address. -/
def Obligations.PlacesStayInThePartition : Prop :=
  (∀ (s : State) (pt ppa c off : Nat),
    placeOf s pt ppa = some (.dram c off) →
    off < mappable ∧ ∃ d : Nat, ownerOf s d = some pt ∧ c = serving s d) ∧
  (∀ (s : State) (pt ppa a : Nat),
    placeOf s pt ppa = some (.tier a) →
    a / 2 ^ 30 / 8192 < 16 ∧ flag s (TIER.DRIVE_EN (a / 2 ^ 30 / 8192)) = true ∧ getF s (TIER.DRIVE_PT (a / 2 ^ 30 / 8192)) = pt) ∧
  (∀ (s : State) (pt p q c off : Nat),
    s.parts.home = [] →
    p < 2 ^ 40 →
    q < 2 ^ 40 →
    placeOf s pt (2 ^ 46 + p) = some (.dram c off) →
    placeOf s pt (2 ^ 46 + q) = some (.dram c off) →
    p = q)

/-- After the port stage has dealt with a request, every request in the ingress store was there before or comes from a
PID that is LIVE, from that PID's own node, and before M11 is done (log 128) it is one that has been answered and
holds its entry until the answer leaves. -/
def Obligations.FencedRequestsAreNotStored : Prop :=
  (∀ (s : State) (port : Nat) (p : Packet) (r : Req),
    r ∈ (allow s port p).net.store →
    r ∈ s.net.store ∨ (pidLive s p.srcPid = true ∧ p.src = nodeOf s p.srcPid ∧ (s.boot.service = true ∨ r.taken = true)))

/-- A fault takes a free general entry; with none free a non-critical fault adds 1 to its class's overflow counter and
sets LOST, and the next entry made carries LOST; a critical fault takes a free reserved entry; with none free either
it adds 1 to its counter and latches the module with cause CRIT_OVERFLOW and its class. -/
def Obligations.FaultPlacement : Prop :=
  (∀ (s : State) (cls code : Nat) (pt : Option Nat) (page unit info : Nat),
    generalUsed s < 496 →
    (faultEntry s cls code pt page unit info).log = s.log ++ [⟨getF s FAULT.SEQ_NEXT_SEQ, cls, false, s.boot.faultsLost, code, pt, page, unit, s.time.ft, info⟩] ∧ (faultEntry s cls code pt page unit info).boot.faultsLost = false) ∧
  (∀ (s : State) (cls code : Nat) (pt : Option Nat) (page unit info : Nat),
    Store.rising s.regs = true →
    496 ≤ generalUsed s →
    critical cls = false →
    (faultEntry s cls code pt page unit info).log = s.log ∧ getF (faultEntry s cls code pt page unit info) (FAULT.OVF_COUNT_COUNT cls) = min (getF s (FAULT.OVF_COUNT_COUNT cls) + 1) (2 ^ 32 - 1) ∧
      flag (faultEntry s cls code pt page unit info) FAULT.LOG_STS_LOST = true ∧ (faultEntry s cls code pt page unit info).boot.faultsLost = true) ∧
  (∀ (s : State) (cls code : Nat) (pt : Option Nat) (page unit info : Nat),
    496 ≤ generalUsed s →
    critical cls = true →
    reservedUsed s < 16 →
    (faultEntry s cls code pt page unit info).log = s.log ++ [⟨getF s FAULT.SEQ_NEXT_SEQ, cls, true, s.boot.faultsLost, code, pt, page, unit, s.time.ft, info⟩] ∧ (faultEntry s cls code pt page unit info).boot.faultsLost = false) ∧
  (∀ (s : State) (cls code : Nat) (pt : Option Nat) (page unit info : Nat),
    Store.rising s.regs = true →
    496 ≤ generalUsed s →
    critical cls = true →
    16 ≤ reservedUsed s →
    latched s = false →
    (faultEntry s cls code pt page unit info).log = s.log ∧ getF (faultEntry s cls code pt page unit info) (FAULT.OVF_COUNT_COUNT cls) = min (getF s (FAULT.OVF_COUNT_COUNT cls) + 1) (2 ^ 32 - 1) ∧
      latched (faultEntry s cls code pt page unit info) = true ∧ fatalPin (faultEntry s cls code pt page unit info) = s.input.vaux ∧ getF (faultEntry s cls code pt page unit info) FAULT.FATAL_CAUSE_CAUSE = 3 ∧ getF (faultEntry s cls code pt page unit info) FAULT.FATAL_CAUSE_CLASS = cls)

/-- An event on a bit that is 0 sets it, and forms a message where the bit is enabled; on a bit that is 1 it does
nothing. A write to PAGE_EVT_EN that enables a bit that is 1 forms a message, one that gains none forms none. An
event in the same cycle as the write that clears its bit leaves it 1 and forms a message. A fall of MSG_HOLD with an
enabled bit set forms a message. While MSG_HOLD is 1 none is formed. -/
def Obligations.EventMessages : Prop :=
  (∀ (s : State) (p i : Nat),
    pagePresent s p = true →
    bitF s (HDR.EVT p) i = false →
    raise s p i = if bitF s (HDR.EVT_EN p) i then formEvt (setBitF s (HDR.EVT p) i true) p else setBitF s (HDR.EVT p) i true) ∧
  (∀ (s : State) (p i : Nat),
    bitF s (HDR.EVT p) i = true →
    raise s p i = s) ∧
  (∀ (s : State) (p v i : Nat),
    bitF s (HDR.EVT p) i = true →
    bitF s (HDR.EVT_EN p) i = false →
    bitF (setF s (HDR.EVT_EN p) v) (HDR.EVT_EN p) i = true →
    Store.rising s.regs = true →
    writeEvtEn s p v = formEvt (setF s (HDR.EVT_EN p) v) p) ∧
  (∀ (s : State) (p v : Nat),
    (∀ i, (evtLive (setF s (HDR.EVT_EN p) v) p).testBit i = true → (evtLive s p).testBit i = true) →
    writeEvtEn s p v = setF s (HDR.EVT_EN p) v) ∧
  (∀ (s : State) (p v same i : Nat),
    Store.rising s.regs = true →
    i < pageNevt p →
    v.testBit i = true →
    same.testBit i = true →
    bitF s (HDR.EVT p) i = true →
    bitF s (HDR.EVT_EN p) i = true →
    ∃ u : State, bitF u (HDR.EVT p) i = true ∧ bitF (clearEvt s p v same) (HDR.EVT p) i = true ∧ clearEvt s p v same = formEvt u p) ∧
  (∀ (s : State) (p v : Nat),
    flag s (HDR.MSG_HOLD p) = true →
    flag (setF s (HDR.MSG_HOLD p) v) (HDR.MSG_HOLD p) = false →
    evtLive (setF s (HDR.MSG_HOLD p) v) p ≠ 0 →
    writeHold s p v = formEvt (setF s (HDR.MSG_HOLD p) v) p) ∧
  (∀ (s : State) (p : Nat),
    flag s (HDR.MSG_HOLD p) = true →
    formEvt s p = s) ∧
  (∀ (s : State) (p : Nat),
    flag s (HDR.MSG_HOLD p) = false →
    formEvt s p = forAll (routePorts s p) (queueEvt (evtMsg s p false)) s)

/-- A message of a page that already waits in the port's queue gives the waiting one its contents and adds none; into a
full queue it is not put, and the sequence number advances; else it joins the end. A message sent leaves the front
of the queue with the port's number, which advances by 1. EVT_PENDING shows whether a message of the page waits in
any queue. -/
def Obligations.EventQueue : Prop :=
  (∀ (s : State) (x : EvtMsg) (m : Nat),
    (getSelv s m).queue.any (fun y => y.page == x.page) = true →
    (getSelv (queueEvt x s m) m).seq = (getSelv s m).seq ∧ (getSelv (queueEvt x s m) m).queue.length = (getSelv s m).queue.length ∧
      (∀ y ∈ (getSelv (queueEvt x s m) m).queue, (y.page ≠ x.page ∧ y ∈ (getSelv s m).queue) ∨ (y.page = x.page ∧ y.evt = x.evt ∧ y.en = x.en ∧ y.time = x.time))) ∧
  (∀ (s : State) (x : EvtMsg) (m : Nat),
    (getSelv s m).queue.any (fun y => y.page == x.page) = false →
    64 ≤ (getSelv s m).queue.length →
    (getSelv (queueEvt x s m) m).queue = (getSelv s m).queue ∧ (getSelv (queueEvt x s m) m).seq = ((getSelv s m).seq + 1) % 65536) ∧
  (∀ (s : State) (x : EvtMsg) (m : Nat),
    (getSelv s m).queue.any (fun y => y.page == x.page) = false →
    (getSelv s m).queue.length < 64 →
    (getSelv (queueEvt x s m) m).queue = (getSelv s m).queue ++ [x] ∧ (getSelv (queueEvt x s m) m).seq = (getSelv s m).seq) ∧
  (∀ (s : State) (x : EvtMsg) (l : List EvtMsg) (m : Nat),
    (getSelv s m).queue = x :: l →
    selvUp s m = true →
    (getSelv (sendEvt s m) m).queue = l ∧ (getSelv (sendEvt s m) m).seq = ((getSelv s m).seq + 1) % 65536 ∧
      (getSelv (sendEvt s m) m).out = (getSelv s m).out ++ [.event (getSelv s m).seq x.page x.resync x.evt x.en x.time]) ∧
  (∀ (s : State) (p : Nat),
    evtPending s p = true ↔ ∃ m : Selv, ∃ y ∈ (getSelv s m).queue, y.page = p)

/-- A write is applied only from the holding port with the epoch in force, or in the dual-command window from the
previous holder's port with the previous epoch, and on a latched module only a cold CHIP_RESET; a stale epoch of the
holder, and a previous epoch after the window or to a register that the window does not cover, is refused with
STALE_EPOCH; any other port with NOT_HOLDER. -/
def Obligations.WhoMayWrite : Prop :=
  (∀ (s : State) (m epoch addr v : Nat),
    writeStatus s m epoch addr v = 0 →
    ((holder s = some m ∧ epoch = getF s TOP.CTL_STS_EPOCH) ∨ oldWrite s m epoch = true) ∧ (latched s = true → addr = 0x0000040 ∧ v.testBit 1 = false)) ∧
  (∀ (s : State) (m epoch addr v : Nat),
    holder s = some m →
    epoch ≠ getF s TOP.CTL_STS_EPOCH →
    oldWrite s m epoch = false →
    writeStatus s m epoch addr v = 2) ∧
  (∀ (s : State) (m epoch addr v : Nat),
    oldWrite s m epoch = true →
    epoch ≠ getF s TOP.CTL_STS_EPOCH →
    noOldWrite addr = true →
    writeStatus s m epoch addr v = 2) ∧
  (∀ (s : State) (m epoch addr v : Nat),
    windowOpen s = false →
    s.ctl.prevHolder = m + 1 →
    epoch = s.ctl.prevEpoch →
    epoch ≠ getF s TOP.CTL_STS_EPOCH →
    writeStatus s m epoch addr v = 2) ∧
  (∀ (s : State) (m epoch addr v : Nat),
    holder s ≠ some m →
    s.ctl.prevHolder ≠ m + 1 →
    writeStatus s m epoch addr v = 1)

/-- A read message of a port that does not hold control changes no register and no other state of the module: at most
the latch of R14 of that port, the port's own answer and the address it sends to are new. -/
def Obligations.OtherPortsReadWithoutEffect : Prop :=
  (∀ (s : State) (f : SelvFrame) (tag addr n : Nat) (fixed : Bool) (t : State),
    holder s ≠ some f.port.val →
    exec (.regRead f tag addr n fixed) s = .next t →
    t = { s with ctl := { s.ctl with latch := t.ctl.latch, selv := t.ctl.selv } })

/-- Whatever words come in at the debug contacts while the debug level is not D2, the module changes only the port's own
state, its access count, its SCAN flag, the read latch and the count of free values: no other register and no
memory, translation, work or key. -/
def Obligations.BelowD2TheProbeWritesNothing : Prop :=
  (∀ (s : State) (word : Nat) (valid : Bool) (t : State) (f : Fld),
    Store.rising s.regs = true →
    getF s SEC.DEBUG_LEVEL ≠ 2 →
    exec (.msg word valid) s = .next t →
    t = { s with dbg := t.dbg, regs := t.regs, freeCtr := t.freeCtr, ctl := { s.ctl with latch := t.ctl.latch } } ∧
      (f.key ≠ DBG.DBG_STS_SCAN.key → f.key ≠ DBG.DBG_ACCESS_COUNT.key → getF t f = getF s f)) ∧
  (∀ (s : State),
    getF s SEC.DEBUG_LEVEL ≠ 2 →
    exec .scan s = .next s)

/-- A write that sets two action bits of one of the command registers of R516 changes nothing but IGNORED of its page; a
write of FAULT_CMD with both bits set does both. -/
def Obligations.SeveralActionsAreIgnored : Prop :=
  (∀ (s : State) (p v i j : Nat) (b : Block) (n o : Nat) (acts : List Nat),
    alive s = true →
    p < 65536 →
    o < 4096 →
    o % 4 = 0 →
    pageBlock p = some (b, n) →
    pageOpen s p = true →
    (b, o, acts) ∈ [(Block.ging, 0x040, [0, 1]), (Block.part, 0x400, [4, 5]), (Block.part, 0x514, [0, 1, 2]), (Block.part, 0x608, [0, 1]),
        (Block.part, 0x644, [4, 5]), (Block.xlt, 0x090, [0, 1]), (Block.xlt, 0x168, [4, 5]), (Block.sec, 0x058, [0, 1, 2]),
        (Block.att, 0x0C4, [6, 7]), (Block.key, 0x0C4, [6, 7, 8]), (Block.edac, 0x0A4, [0, 1, 2])] →
    i ∈ acts →
    j ∈ acts →
    i ≠ j →
    v < 2 ^ 32 →
    v.testBit i = true →
    v.testBit j = true →
    exec (.registerWrite (p * 4096 + o) v) s = .next (setB s (HDR.IGNORED p) true)) ∧
  (∀ (s : State),
    alive s = true →
    pageOpen s 0x0040 = true →
    exec (.registerWrite 0x40048 3) s = .next (setB { s with log := s.log.drop 1 } FAULT.LOG_STS_LOST false))

/-- A cold reset leaves no holder and epoch 0, an empty fault log and memory, and every fuse; a warm reset of a state
that meets the invariant leaves no holder. -/
def Obligations.ResetsEndControl : Prop :=
  (∀ (s : State) (straps cause : Nat),
    holder (coldReset s straps cause) = none ∧ getF (coldReset s straps cause) TOP.CTL_STS_EPOCH = 0 ∧
    (coldReset s straps cause).log = [] ∧ (coldReset s straps cause).mem = [] ∧
    (coldReset s straps cause).sec.fuses = s.sec.fuses ∧ (coldReset s straps cause).pending = s.pending) ∧
  (∀ (s : State),
    Inv s →
    holder (warmReset s) = none)
end

