-- ==== Sys2Proof/Laws/Store.lean ====
section
/-!
SUPPORT. The laws of the sparse store: a read after a write, and the canonical form that every write keeps.
-/

namespace Sys2Proof.Machine

variable {α : Type}

theorem Store.above_mono {a b : Nat} (hab : a ≤ b) : ∀ {m : Store α}, Store.above b m = true → Store.above a m = true
  | [], _ => rfl
  | (k, _) :: m, h => by
    simp only [Store.above, Bool.and_eq_true, decide_eq_true_eq] at h ⊢
    exact ⟨by omega, Store.above_mono hab h.2⟩

theorem Store.above_ins {a k : Nat} {w : α} (hk : a < k) :
    ∀ {m : Store α}, Store.above a m = true → Store.above a (Store.ins m k w) = true
  | [], _ => by simp [Store.ins, Store.above, hk]
  | (j, v) :: m, h => by
    simp only [Store.above, Bool.and_eq_true, decide_eq_true_eq] at h
    unfold Store.ins
    split
    · simp [Store.above, hk, h.2]
    · split
      · simp [Store.above, hk, h.1, h.2]
      · simp [Store.above, h.1, Store.above_ins hk h.2]

theorem Store.above_del {a k : Nat} : ∀ {m : Store α}, Store.above a m = true → Store.above a (Store.del m k) = true
  | [], _ => rfl
  | (j, v) :: m, h => by
    simp only [Store.above, Bool.and_eq_true, decide_eq_true_eq] at h
    unfold Store.del
    split
    · exact h.2
    · split
      · simp [Store.above, h.1, h.2]
      · simp [Store.above, h.1, Store.above_del h.2]

theorem Store.rising_ins {k : Nat} {w : α} :
    ∀ {m : Store α}, Store.rising m = true → Store.rising (Store.ins m k w) = true
  | [], _ => rfl
  | (j, v) :: m, h => by
    simp only [Store.rising, Bool.and_eq_true] at h
    unfold Store.ins
    split
    · rename_i e; subst e; simp [Store.rising, h.1, h.2]
    · split
      · rename_i hlt
        simp [Store.rising, Store.above, hlt, h.1, h.2, Store.above_mono (Nat.le_of_lt hlt) h.1]
      · have hj : j < k := by omega
        simp [Store.rising, Store.above_ins hj h.1, Store.rising_ins h.2]

theorem Store.rising_del {k : Nat} : ∀ {m : Store α}, Store.rising m = true → Store.rising (Store.del m k) = true
  | [], _ => rfl
  | (j, v) :: m, h => by
    simp only [Store.rising, Bool.and_eq_true] at h
    unfold Store.del
    split
    · exact h.2
    · split
      · simp [Store.rising, h.1, h.2]
      · simp [Store.rising, Store.above_del h.1, Store.rising_del h.2]

theorem Store.rising_set [DecidableEq α] {d : α} {m : Store α} {k : Nat} {w : α} (h : Store.rising m = true) :
    Store.rising (Store.set d m k w) = true := by
  unfold Store.set
  split
  · exact Store.rising_del h
  · exact Store.rising_ins h

theorem Store.above_filter {a : Nat} {p : Nat × α → Bool} :
    ∀ {m : Store α}, Store.above a m = true → Store.above a (m.filter p) = true
  | [], _ => rfl
  | (j, v) :: m, h => by
    simp only [Store.above, Bool.and_eq_true, decide_eq_true_eq] at h
    rw [List.filter_cons]
    split
    · simp [Store.above, h.1, Store.above_filter h.2]
    · exact Store.above_filter h.2

theorem Store.rising_filter {p : Nat × α → Bool} :
    ∀ {m : Store α}, Store.rising m = true → Store.rising (m.filter p) = true
  | [], _ => rfl
  | (j, v) :: m, h => by
    simp only [Store.rising, Bool.and_eq_true] at h
    rw [List.filter_cons]
    split
    · simp [Store.rising, Store.above_filter h.1, Store.rising_filter h.2]
    · exact Store.rising_filter h.2

theorem Store.rising_drop {p : Nat → Bool} {m : Store α} (h : Store.rising m = true) :
    Store.rising (Store.drop p m) = true := Store.rising_filter h

variable [DecidableEq α] {d : α}

theorem Store.wf_ins {k : Nat} {w : α} (hw : w ≠ d) :
    ∀ {m : Store α}, Store.wf d m = true → Store.wf d (Store.ins m k w) = true
  | [], _ => by simp [Store.ins, Store.wf, Store.above, hw]
  | (j, v) :: m, h => by
    simp only [Store.wf, Bool.and_eq_true, decide_eq_true_eq] at h
    obtain ⟨⟨hv, ha⟩, hm⟩ := h
    unfold Store.ins
    split
    · rename_i e; subst e; simp [Store.wf, hw, ha, hm]
    · split
      · rename_i hlt
        simp [Store.wf, Store.above, hw, hv, hlt, ha, hm, Store.above_mono (Nat.le_of_lt hlt) ha]
      · have hj : j < k := by omega
        simp [Store.wf, hv, Store.above_ins hj ha, Store.wf_ins hw hm]

theorem Store.wf_del {k : Nat} : ∀ {m : Store α}, Store.wf d m = true → Store.wf d (Store.del m k) = true
  | [], _ => rfl
  | (j, v) :: m, h => by
    simp only [Store.wf, Bool.and_eq_true, decide_eq_true_eq] at h
    obtain ⟨⟨hv, ha⟩, hm⟩ := h
    unfold Store.del
    split
    · exact hm
    · split
      · simp [Store.wf, hv, ha, hm]
      · simp [Store.wf, hv, Store.above_del ha, Store.wf_del hm]

/-- A write keeps the canonical form. -/
theorem Store.wf_set {m : Store α} {k : Nat} {w : α} (h : Store.wf d m = true) :
    Store.wf d (Store.set d m k w) = true := by
  unfold Store.set
  split
  · exact Store.wf_del h
  · rename_i hw; exact Store.wf_ins hw h

theorem Store.wf_filter {p : Nat × α → Bool} :
    ∀ {m : Store α}, Store.wf d m = true → Store.wf d (m.filter p) = true
  | [], _ => rfl
  | (j, v) :: m, h => by
    simp only [Store.wf, Bool.and_eq_true, decide_eq_true_eq] at h
    rw [List.filter_cons]
    split
    · simp [Store.wf, h.1.1, Store.above_filter h.1.2, Store.wf_filter h.2]
    · exact Store.wf_filter h.2

theorem Store.wf_drop {p : Nat → Bool} {m : Store α} (h : Store.wf d m = true) :
    Store.wf d (Store.drop p m) = true := Store.wf_filter h

omit [DecidableEq α] in
theorem Store.get_above {a : Nat} : ∀ {m : Store α}, Store.above a m = true → Store.get d m a = d
  | [], _ => rfl
  | (j, v) :: m, h => by
    simp only [Store.above, Bool.and_eq_true, decide_eq_true_eq] at h
    have h1 : a ≠ j := by omega
    simp [Store.get, h1, h.1]

omit [DecidableEq α] in
theorem Store.get_ins_self {k : Nat} {w : α} : ∀ {m : Store α}, Store.get d (Store.ins m k w) k = w
  | [] => by simp [Store.ins, Store.get]
  | (j, v) :: m => by
    unfold Store.ins
    split
    · simp [Store.get]
    · split
      · simp [Store.get]
      · rename_i h1 h2
        simp [Store.get, h1, h2, Store.get_ins_self]

omit [DecidableEq α] in
theorem Store.get_ins_of_ne {k a : Nat} {w : α} (h : a ≠ k) :
    ∀ {m : Store α}, Store.rising m = true → Store.get d (Store.ins m k w) a = Store.get d m a
  | [], _ => by simp [Store.ins, Store.get, h]
  | (j, v) :: m, hr => by
    simp only [Store.rising, Bool.and_eq_true] at hr
    unfold Store.ins
    split
    · rename_i e; subst e; simp only [Store.get, h, if_false]
    · split
      · rename_i hkj hlt
        simp only [Store.get, h, if_false]
        by_cases hak : a < k
        · have h1 : a ≠ j := by omega
          have h2 : a < j := by omega
          simp [hak, h1, h2]
        · simp [hak]
      · simp only [Store.get, Store.get_ins_of_ne h hr.2]

omit [DecidableEq α] in
theorem Store.get_del_self {k : Nat} : ∀ {m : Store α}, Store.rising m = true → Store.get d (Store.del m k) k = d
  | [], _ => rfl
  | (j, v) :: m, hr => by
    simp only [Store.rising, Bool.and_eq_true] at hr
    unfold Store.del
    split
    · rename_i e; subst e; exact Store.get_above hr.1
    · split
      · rename_i h1 h2; simp [Store.get, h1, h2]
      · rename_i h1 h2; simp [Store.get, h1, h2, Store.get_del_self hr.2]

omit [DecidableEq α] in
theorem Store.get_del_of_ne {k a : Nat} (h : a ≠ k) :
    ∀ {m : Store α}, Store.rising m = true → Store.get d (Store.del m k) a = Store.get d m a
  | [], _ => rfl
  | (j, v) :: m, hr => by
    simp only [Store.rising, Bool.and_eq_true] at hr
    unfold Store.del
    split
    · rename_i e; subst e
      by_cases hak : a < k
      · rw [Store.get_above (Store.above_mono (Nat.le_of_lt hak) hr.1)]; simp [Store.get, h, hak]
      · simp [Store.get, h, hak]
    · split
      · rfl
      · simp only [Store.get, Store.get_del_of_ne h hr.2]

/-- A read of the key that was written gives the value written. -/
theorem Store.get_set_self {m : Store α} {k : Nat} {w : α} (hr : Store.rising m = true) :
    Store.get d (Store.set d m k w) k = w := by
  unfold Store.set
  split
  · rename_i e; rw [Store.get_del_self hr, e]
  · exact Store.get_ins_self

/-- A write leaves every other key alone. -/
theorem Store.get_set_of_ne {d' : α} {m : Store α} {k a : Nat} {w : α} (h : a ≠ k) (hr : Store.rising m = true) :
    Store.get d (Store.set d' m k w) a = Store.get d m a := by
  unfold Store.set
  split
  · exact Store.get_del_of_ne h hr
  · exact Store.get_ins_of_ne h hr

theorem Store.rising_of_wf : ∀ {m : Store α}, Store.wf d m = true → Store.rising m = true
  | [], _ => rfl
  | (j, v) :: m, h => by
    simp only [Store.wf, Bool.and_eq_true, decide_eq_true_eq] at h
    simp [Store.rising, h.1.2, Store.rising_of_wf h.2]

end Sys2Proof.Machine
end

