-- ==== Sys2Proof/Laws/Frame.lean ====
section
/-!
SUPPORT. The frame that carries every rule about the whole machine: one predicate on states, kept by every operation. It
says that the queue of commands is `q`, that memory satisfies `M` and the fuses satisfy `F`, and the rest of the invariant.
An operation that does not write memory keeps the frame for every `M`, one that does for `Memory.wf`; one that blows no
fuse keeps it for every `F`.
-/

namespace Sys2Proof.Machine

/-- The frame. -/
structure Fr (q : List Instr) (M : Store Byte → Prop) (F : Store Nat → Prop) (s : State) : Prop where
  pending : s.pending = q
  mem     : M s.mem
  fuses   : F s.sec.fuses
  regs    : Store.rising s.regs = true
  log     : logWithin s
  selv    : queuesWithin s.ctl.selv

/-- Memory in its canonical form, as a predicate of the frame. -/
abbrev MemOk : Store Byte → Prop := fun m => Memory.wf m = true

/-- A predicate on the fuse words that blowing a fuse keeps. -/
def Blown (F : Store Nat → Prop) : Prop :=
  ∀ m w b, F m → F (Store.set 0 m w (Store.get 0 m w ||| b))

variable {q : List Instr} {M : Store Byte → Prop} {F : Store Nat → Prop} {s t : State} {α β : Type}

/-- A state that agrees on what the frame speaks of. -/
theorem Fr.rest (h : Fr q M F s) (h1 : t.pending = s.pending) (h2 : t.regs = s.regs) (h3 : t.mem = s.mem)
    (h4 : t.log = s.log) (h5 : t.ctl.selv = s.ctl.selv) (h6 : t.sec.fuses = s.sec.fuses) : Fr q M F t := by
  refine ⟨?_, ?_, ?_, ?_, ?_, ?_⟩
  · rw [h1]; exact h.pending
  · rw [h3]; exact h.mem
  · rw [h6]; exact h.fuses
  · rw [h2]; exact h.regs
  · have := h.log; simpa [logWithin, generalUsed, reservedUsed, h4] using this
  · rw [h5]; exact h.selv

/-- A record update that leaves alone what the frame speaks of. -/
theorem Fr.upd {a_freeCtr a_xlt a_coh a_eng a_dram a_tier a_links a_net a_parts a_sec a_pwr a_ctl a_dbg a_input a_boot a_time a_ging a_runs : _} (h : Fr q M F s)
    (hc : a_ctl.selv = s.ctl.selv) (hs : a_sec.fuses = s.sec.fuses) : Fr q M F
      ⟨s.pending, s.regs, s.mem, a_freeCtr, a_xlt, a_coh, a_eng, a_dram, a_tier, a_links, a_net, a_parts,
      a_sec, a_pwr, a_ctl, a_dbg, a_input, s.log, a_boot, a_time, a_ging, a_runs⟩ :=
  h.rest rfl rfl rfl rfl hc hs

/-- A record update that leaves alone what the frame speaks of but memory. -/
theorem Fr.updMem {m : Store Byte} {M' : Store Byte → Prop} {a_freeCtr a_xlt a_coh a_eng a_dram a_tier a_links a_net a_parts a_sec a_pwr a_ctl a_dbg a_input a_boot a_time a_ging a_runs : _} (hm : M' m) (h : Fr q M F s)
    (hc : a_ctl.selv = s.ctl.selv) (hs : a_sec.fuses = s.sec.fuses) : Fr q M' F
      ⟨s.pending, s.regs, m, a_freeCtr, a_xlt, a_coh, a_eng, a_dram, a_tier, a_links, a_net, a_parts,
      a_sec, a_pwr, a_ctl, a_dbg, a_input, s.log, a_boot, a_time, a_ging, a_runs⟩ :=
  ⟨h.pending, hm, hs ▸ h.fuses, h.regs, h.log, hc ▸ h.selv⟩

theorem Fr.ite {c : Prop} [Decidable c] {a b : State} (ha : Fr q M F a) (hb : Fr q M F b) :
    Fr q M F (if c then a else b) := by split <;> assumption

theorem Fr.ite_snd {c : Prop} [Decidable c] {a b : α × State} (ha : Fr q M F a.2) (hb : Fr q M F b.2) :
    Fr q M F (if c then a else b).2 := by split <;> assumption

theorem Fr.ite_fst {c : Prop} [Decidable c] {a b : State × α} (ha : Fr q M F a.1) (hb : Fr q M F b.1) :
    Fr q M F (if c then a else b).1 := by split <;> assumption

theorem Fr.of_snd {p : α × State} {a : α} (e : p = (a, t)) (h : Fr q M F p.2) : Fr q M F t := by
  subst e; exact h

theorem Fr.of_fst {p : State × α} {a : α} (e : p = (t, a)) (h : Fr q M F p.1) : Fr q M F t := by
  subst e; exact h

theorem Fr.foldl {f : State → α → State} (hf : ∀ s x, Fr q M F s → Fr q M F (f s x)) :
    ∀ (l : List α) {s : State}, Fr q M F s → Fr q M F (l.foldl f s)
  | [], _, h => h
  | x :: l, s, h => Fr.foldl hf l (hf s x h)

theorem Fr.foldl_snd {f : β × State → α → β × State} (hf : ∀ p x, Fr q M F p.2 → Fr q M F (f p x).2) :
    ∀ (l : List α) {p : β × State}, Fr q M F p.2 → Fr q M F (l.foldl f p).2
  | [], _, h => h
  | x :: l, p, h => Fr.foldl_snd hf l (hf p x h)

theorem Fr.foldl_fst {f : State × β → α → State × β} (hf : ∀ p x, Fr q M F p.1 → Fr q M F (f p x).1) :
    ∀ (l : List α) {p : State × β}, Fr q M F p.1 → Fr q M F (l.foldl f p).1
  | [], _, h => h
  | x :: l, p, h => Fr.foldl_fst hf l (hf p x h)

theorem Fr.foldl_proj {π : β → State} {f : β → α → β} (hf : ∀ p x, Fr q M F (π p) → Fr q M F (π (f p x))) :
    ∀ (l : List α) {p : β}, Fr q M F (π p) → Fr q M F (π (l.foldl f p))
  | [], _, h => h
  | x :: l, p, h => Fr.foldl_proj hf l (hf p x h)

end Sys2Proof.Machine
end

