-- ==== Sys2Proof/Laws/Ops.lean ====
section
/-!
SUPPORT. What every operation of Machine/Ops.lean leaves alone: each keeps the frame of Laws/Frame.lean.
-/

namespace Sys2Proof.Machine

variable {q : List Instr} {M : Store Byte → Prop} {F : Store Nat → Prop}

theorem queuesWithin_get {m : Store SelvPort} (h : queuesWithin m) (k : Nat) :
    (Store.get {} m k).queue.length ≤ 64 := by
  induction m with
  | nil => simp [Store.get]
  | cons e m ih =>
    unfold Store.get
    split
    · exact h e (by simp)
    · split
      · simp
      · exact ih fun x hx => h x (by simp [hx])

theorem mem_ins {α : Type} {e : Nat × α} {k : Nat} {w : α} :
    ∀ {m : Store α}, e ∈ Store.ins m k w → e = (k, w) ∨ e ∈ m
  | [], h => by simpa [Store.ins] using h
  | (j, v) :: m, h => by
    unfold Store.ins at h
    split at h
    · rcases List.mem_cons.1 h with h | h <;> simp [h]
    · split at h
      · rcases List.mem_cons.1 h with h | h
        · exact .inl h
        · exact .inr h
      · rcases List.mem_cons.1 h with h | h
        · simp [h]
        · rcases mem_ins h with h | h <;> simp [h]

theorem mem_del {α : Type} {e : Nat × α} {k : Nat} : ∀ {m : Store α}, e ∈ Store.del m k → e ∈ m
  | [], h => h
  | (j, v) :: m, h => by
    unfold Store.del at h
    split at h
    · simp [h]
    · split at h
      · exact h
      · rcases List.mem_cons.1 h with h | h
        · simp [h]
        · simp [mem_del h]

/-- The event queue of a port keeps to its length. -/
theorem Fr.queue {s : State} (h : Fr q M F s) (m : Nat) : (getSelv s m).queue.length ≤ 64 := queuesWithin_get h.selv m


theorem setF_fr {s : State} (h : Fr q M F s) (f : Fld) (v : Nat) : Fr q M F (setF s f v) :=
  ⟨h.pending, h.mem, h.fuses, Store.rising_set h.regs, h.log, h.selv⟩

theorem setB_fr {s : State} (h : Fr q M F s) (x1 : _) (x2 : _) : Fr q M F (setB s x1 x2) := by
  unfold setB
  repeat' (first
    | with_reducible assumption
    | with_reducible apply setF_fr)

theorem addF_fr {s : State} (h : Fr q M F s) (x1 : _) (x2 : _) : Fr q M F (addF s x1 x2) := by
  unfold addF
  repeat' (first
    | with_reducible assumption
    | with_reducible apply setF_fr)

theorem bumpF_fr {s : State} (h : Fr q M F s) (x1 : _) : Fr q M F (bumpF s x1) := by
  unfold bumpF
  repeat' (first
    | with_reducible assumption
    | with_reducible apply addF_fr)

theorem wrapF_fr {s : State} (h : Fr q M F s) (x1 : _) (x2 : _) : Fr q M F (wrapF s x1 x2) := by
  unfold wrapF
  repeat' (first
    | with_reducible assumption
    | with_reducible apply setF_fr)

theorem setBitF_fr {s : State} (h : Fr q M F s) (x1 : _) (x2 : _) (x3 : _) : Fr q M F (setBitF s x1 x2 x3) := by
  unfold setBitF
  repeat' (first
    | with_reducible assumption
    | with_reducible apply setF_fr)

theorem forAll_fr {α : Type} {s : State} {l : List α} {f : State → α → State} (h : Fr q M F s)
    (hf : ∀ s x, Fr q M F s → Fr q M F (f s x)) : Fr q M F (forAll l f s) := Fr.foldl hf l h

theorem freeNat_fr {s : State} (h : Fr q M F s) (w : Nat) : Fr q M F (freeNat s w).2 :=
  Fr.rest h rfl rfl rfl rfl rfl rfl

theorem bumpConfigGen_fr {s : State} (h : Fr q M F s) (x1 : _) : Fr q M F (bumpConfigGen s x1) := by
  unfold bumpConfigGen
  repeat' (first
    | with_reducible assumption
    | with_reducible apply wrapF_fr)

theorem whenAlive_fr {s : State} {f : State → State} (h : Fr q M F s) (hf : ∀ s, Fr q M F s → Fr q M F (f s)) :
    Fr q M F (whenAlive s f) := by
  unfold whenAlive; split
  · exact hf s h
  · exact h

theorem whenManaged_fr {s : State} {f : State → State} (h : Fr q M F s) (hf : ∀ s, Fr q M F s → Fr q M F (f s)) :
    Fr q M F (whenManaged s f) := by
  unfold whenManaged; split
  · exact hf s h
  · exact h

theorem countReason_fr {s : State} (h : Fr q M F s) (x0 : _) (x1 : _) (x3 : _) : Fr q M F (countReason x0 x1 s x3) := by
  unfold countReason
  dsimp only
  repeat' (first
    | with_reducible assumption
    | with_reducible apply wrapF_fr
    | with_reducible apply Fr.ite
    | dsimp only
    | with_reducible apply Fr.upd)

theorem countStretch_fr {s : State} (h : Fr q M F s) (x0 : _) (x2 : _) : Fr q M F (countStretch x0 s x2) := by
  unfold countStretch
  repeat' (first
    | with_reducible assumption
    | with_reducible apply wrapF_fr
    | with_reducible apply Fr.ite)

theorem countWork_fr {s : State} (h : Fr q M F s) (x1 : _) (x2 : _) (x3 : _) : Fr q M F (countWork s x1 x2 x3) := by
  unfold countWork
  dsimp only
  repeat' (first
    | with_reducible assumption
    | dsimp only
    | with_reducible apply Fr.upd)

theorem advanceBy_fr {s : State} (h : Fr q M F s) (x1 : _) (x2 : _) : Fr q M F (advanceBy s x1 x2) := by
  unfold advanceBy
  dsimp only
  repeat' (first
    | with_reducible assumption
    | with_reducible apply forAll_fr
    | with_reducible apply countReason_fr
    | with_reducible apply countStretch_fr
    | intro _ _ _
    | dsimp only
    | with_reducible apply Fr.upd)

theorem advanceFt_fr {s : State} (h : Fr q M F s) (x1 : _) : Fr q M F (advanceFt s x1) := by
  unfold advanceFt
  repeat' (first
    | with_reducible assumption
    | with_reducible apply advanceBy_fr
    | with_reducible apply Fr.ite)

theorem advanceEl_fr {s : State} (h : Fr q M F s) (x1 : _) : Fr q M F (advanceEl s x1) := by
  unfold advanceEl
  repeat' (first
    | with_reducible assumption
    | with_reducible apply advanceBy_fr
    | with_reducible apply Fr.ite)

theorem toFrameStart_fr {s : State} (h : Fr q M F s) : Fr q M F (toFrameStart s) := by
  unfold toFrameStart
  repeat' (first
    | with_reducible assumption
    | with_reducible apply advanceFt_fr)

theorem atPeriodic_fr {s : State} (h : Fr q M F s) (x1 : _) (x2 : _) (x3 : _) : Fr q M F (atPeriodic s x1 x2 x3) := by
  unfold atPeriodic
  dsimp only
  repeat' (first
    | with_reducible assumption
    | with_reducible apply advanceFt_fr
    | dsimp only
    | with_reducible apply Fr.upd)

theorem setSelv_fr {s : State} {p : SelvPort} (h : Fr q M F s) (m : Nat) (hp : p.queue.length ≤ 64) :
    Fr q M F (setSelv s m p) := by
  refine ⟨h.pending, h.mem, h.fuses, h.regs, h.log, ?_⟩
  intro e he
  have he : e ∈ Store.set {} s.ctl.selv m p := he
  unfold Store.set at he
  split at he
  · exact h.selv e (mem_del he)
  · rcases mem_ins he with rfl | he
    · exact hp
    · exact h.selv e he

theorem noteSender_fr {s : State} (h : Fr q M F s) (f : SelvFrame) : Fr q M F (noteSender s f) :=
  setSelv_fr h f.port (h.queue f.port)

theorem onFrame_fr {s : State} {g : State → State} (h : Fr q M F s) (hg : ∀ s, Fr q M F s → Fr q M F (g s))
    (f : SelvFrame) : Fr q M F (onFrame f g s) := by
  unfold onFrame
  exact Fr.ite (hg _ (noteSender_fr h f)) h

theorem sendSelv_fr {s : State} (h : Fr q M F s) (m : Nat) (x : SelvMsg) : Fr q M F (sendSelv s m x) := by
  unfold sendSelv; split
  · exact setSelv_fr h m (h.queue m)
  · exact h

theorem queueEvt_fr {s : State} (x : EvtMsg) (h : Fr q M F s) (m : Nat) : Fr q M F (queueEvt x s m) := by
  unfold queueEvt
  dsimp only
  split
  · exact setSelv_fr h m (by simpa using h.queue m)
  · split
    · exact setSelv_fr h m (by simpa using (by omega))
    · exact setSelv_fr h m (h.queue m)

theorem formEvt_fr {s : State} (h : Fr q M F s) (x1 : _) : Fr q M F (formEvt s x1) := by
  unfold formEvt
  repeat' (first
    | with_reducible assumption
    | with_reducible apply forAll_fr
    | with_reducible apply queueEvt_fr
    | with_reducible apply Fr.ite
    | intro _ _ _)

theorem raise_fr {s : State} (h : Fr q M F s) (x1 : _) (x2 : _) : Fr q M F (raise s x1 x2) := by
  unfold raise
  dsimp only
  repeat' (first
    | with_reducible assumption
    | with_reducible apply setBitF_fr
    | with_reducible apply formEvt_fr
    | with_reducible apply Fr.ite)

theorem resync_fr {s : State} (h : Fr q M F s) (x1 : _) : Fr q M F (resync s x1) := by
  unfold resync
  repeat' (first
    | with_reducible assumption
    | with_reducible apply forAll_fr
    | with_reducible apply queueEvt_fr
    | with_reducible apply Fr.ite
    | intro _ _ _)

theorem sendEvt_fr {s : State} (h : Fr q M F s) (m : Nat) : Fr q M F (sendEvt s m) := by
  unfold sendEvt
  dsimp only
  split
  · exact h
  · rename_i x l e
    split
    · refine setSelv_fr h m ?_
      have := h.queue m
      rw [e] at this
      exact Nat.le_of_succ_le (by simpa using this)
    · exact h

theorem ignored_fr {s : State} (h : Fr q M F s) (x1 : _) : Fr q M F (ignored s x1) := by
  unfold ignored
  repeat' (first
    | with_reducible assumption
    | with_reducible apply setB_fr)

theorem latch_fr {s : State} (h : Fr q M F s) (x1 : _) (x2 : _) : Fr q M F (latch s x1 x2) := by
  unfold latch
  dsimp only
  repeat' (first
    | with_reducible assumption
    | with_reducible apply setB_fr
    | with_reducible apply setF_fr
    | with_reducible apply raise_fr
    | with_reducible apply Fr.ite
    | dsimp only
    | with_reducible apply Fr.upd)

theorem logEntry_fr {s : State} (h : Fr q M F s) (rsv : Bool) (cls code : Nat) (pt : Option Nat) (page unit info : Nat)
    (hr : if rsv then reservedUsed s < 16 else generalUsed s < 496) :
    Fr q M F (logEntry s rsv cls code pt page unit info) := by
  have hl : logWithin { s with log := s.log ++ [⟨getF s FAULT.SEQ_NEXT_SEQ, cls, rsv, s.boot.faultsLost, code, pt, page,
      unit, s.time.ft, info⟩] } := by
    have := h.log
    unfold logWithin generalUsed reservedUsed at this ⊢
    unfold generalUsed reservedUsed at hr
    cases rsv <;> simp [List.filter_append] at hr ⊢ <;> omega
  have h1 : Fr q M F { s with log := s.log ++ [⟨getF s FAULT.SEQ_NEXT_SEQ, cls, rsv, s.boot.faultsLost, code, pt, page,
      unit, s.time.ft, info⟩], boot := { s.boot with faultsLost := false } } :=
    ⟨h.pending, h.mem, h.fuses, h.regs, hl, h.selv⟩
  unfold logEntry
  dsimp only
  repeat' (first
    | exact h1
    | with_reducible apply wrapF_fr
    | with_reducible apply raise_fr
    | with_reducible apply Fr.ite)

theorem faultEntry_fr {s : State} (h : Fr q M F s) (cls code : Nat) (pt : Option Nat) (page unit info : Nat) :
    Fr q M F (faultEntry s cls code pt page unit info) := by
  unfold faultEntry
  dsimp only
  split
  · rename_i hg
    exact logEntry_fr h _ _ _ _ _ _ _ (by simpa using hg)
  · split
    · split
      · rename_i hg
        exact logEntry_fr h _ _ _ _ _ _ _ (by simpa using hg)
      · exact latch_fr (bumpF_fr h _) _ _
    · exact raise_fr (Fr.upd (setB_fr (bumpF_fr h _) _ _) rfl rfl) _ _

end Sys2Proof.Machine
end

