-- ==== Sys2Proof/Laws/Gingham.lean ====
section
/-!
SUPPORT. What every operation of Machine/Gingham.lean leaves alone: each keeps the frame of Laws/Frame.lean.
-/

namespace Sys2Proof.Machine

variable {q : List Instr} {M : Store Byte → Prop} {F : Store Nat → Prop}

theorem setGing_fr {s : State} (h : Fr q M F s) (x0 : _) (x2 : _) : Fr q M F (setGing x0 s x2) := by
  unfold setGing
  dsimp only
  repeat' (first
    | with_reducible assumption
    | dsimp only
    | with_reducible apply Fr.upd)

theorem doGingFlip_fr {s : State} (h : Fr q M F s) : Fr q M F (doGingFlip s) := by
  unfold doGingFlip
  dsimp only
  repeat' (first
    | with_reducible assumption
    | with_reducible apply setF_fr
    | with_reducible apply setB_fr
    | with_reducible apply raise_fr
    | with_reducible apply Fr.ite
    | dsimp only
    | with_reducible apply Fr.upd)

theorem execGingFlip_fr {s t : State} (h : Fr q M F s) (e : execGingFlip s = .next t) : Fr q M F t := by
  unfold execGingFlip at e
  injection e with e
  subst e
  repeat' (first
    | with_reducible assumption
    | with_reducible apply whenAlive_fr
    | with_reducible apply doGingFlip_fr)

theorem doGingCopy_fr {s : State} (h : Fr q M F s) : Fr q M F (doGingCopy s) := by
  unfold doGingCopy
  dsimp only
  repeat' (first
    | with_reducible assumption
    | with_reducible apply ignored_fr
    | with_reducible apply Fr.ite
    | dsimp only
    | with_reducible apply Fr.upd)

theorem execGingCopy_fr {s t : State} (h : Fr q M F s) (e : execGingCopy s = .next t) : Fr q M F t := by
  unfold execGingCopy at e
  injection e with e
  subst e
  repeat' (first
    | with_reducible assumption
    | with_reducible apply whenAlive_fr
    | with_reducible apply doGingCopy_fr)

theorem gingDigest_fr {s : State} (h : Fr q M F s) (x1 : _) : Fr q M F (gingDigest s x1) := by
  unfold gingDigest
  repeat' (first
    | with_reducible assumption
    | with_reducible apply setF_fr)

theorem digestStart_fr {s : State} (h : Fr q M F s) : Fr q M F (digestStart s) := by
  unfold digestStart
  dsimp only
  repeat' (first
    | with_reducible assumption
    | with_reducible apply gingDigest_fr
    | with_reducible apply Fr.ite
    | dsimp only
    | with_reducible apply Fr.upd)

theorem flipDigest_fr {s : State} (h : Fr q M F s) : Fr q M F (flipDigest s) := by
  unfold flipDigest
  dsimp only
  repeat' (first
    | with_reducible assumption
    | with_reducible apply advanceFt_fr
    | with_reducible apply gingDigest_fr
    | with_reducible apply Fr.ite)

theorem recordDx_fr {s : State} (h : Fr q M F s) (x0 : _) (x2 : _) : Fr q M F (recordDx x0 s x2) := by
  unfold recordDx
  repeat' (first
    | with_reducible assumption
    | with_reducible apply bumpF_fr
    | with_reducible apply setBitF_fr
    | with_reducible apply Fr.ite)

theorem execGingFlipFrame_fr {s t : State} (h : Fr q M F s) (e : execGingFlipFrame s = .next t) : Fr q M F t := by
  unfold execGingFlipFrame at e
  injection e with e
  subst e
  dsimp only
  repeat' (first
    | with_reducible assumption
    | with_reducible apply whenManaged_fr
    | with_reducible apply advanceFt_fr
    | with_reducible apply flipDigest_fr
    | with_reducible apply setF_fr
    | with_reducible apply setB_fr
    | with_reducible apply raise_fr
    | with_reducible apply forAll_fr
    | with_reducible apply bumpConfigGen_fr
    | with_reducible apply recordDx_fr
    | with_reducible apply Fr.ite
    | intro _ _ _
    | intro _ _)

theorem doEntData_fr {s : State} (h : Fr q M F s) (x1 : _) : Fr q M F (doEntData s x1) := by
  unfold doEntData
  dsimp only
  repeat' (first
    | with_reducible assumption
    | with_reducible apply ignored_fr
    | with_reducible apply forAll_fr
    | with_reducible apply setGing_fr
    | with_reducible apply setF_fr
    | with_reducible apply Fr.ite
    | intro _ _ _)

theorem execGingEntData_fr {s t : State} (h : Fr q M F s) {x0 : _} (e : execGingEntData x0 s = .next t) : Fr q M F t := by
  unfold execGingEntData at e
  injection e with e
  subst e
  repeat' (first
    | with_reducible assumption
    | with_reducible apply whenAlive_fr
    | with_reducible apply doEntData_fr
    | intro _ _)

theorem clearColumn_fr {s : State} (h : Fr q M F s) (x1 : _) : Fr q M F (clearColumn s x1) := by
  unfold clearColumn
  repeat' (first
    | with_reducible assumption
    | with_reducible apply forAll_fr
    | with_reducible apply setGing_fr
    | intro _ _ _)

end Sys2Proof.Machine
end

