-- ==== Sys2Proof/Laws/Memory.lean ====
section
/-!
SUPPORT. What every operation of Machine/Memory.lean leaves alone: each keeps the frame of Laws/Frame.lean.
-/

namespace Sys2Proof.Machine

variable {q : List Instr} {M : Store Byte → Prop} {F : Store Nat → Prop}

theorem setByte_ok {m : Store Byte} (h : MemOk m) (a : Nat) (b : Byte) : MemOk (setByte m a b) := Store.wf_set h

theorem memFold_ok {α : Type} {f : Store Byte → α → Store Byte} (hf : ∀ m x, MemOk m → MemOk (f m x)) :
    ∀ (l : List α) {m : Store Byte}, MemOk m → MemOk (l.foldl f m)
  | [], _, h => h
  | x :: l, m, h => memFold_ok hf l (hf m x h)

theorem memPut_ok {m : Store Byte} (h : MemOk m) (a n v : Nat) : MemOk (memPut m a n v) :=
  memFold_ok (fun _ _ h => setByte_ok h _ _) _ h

theorem memFilter_ok {m : Store Byte} (h : MemOk m) (p : Nat × Byte → Bool) : MemOk (m.filter p) := Store.wf_filter h

theorem drop_ok {m : Store Byte} (h : MemOk m) (p : Nat → Bool) : MemOk (Store.drop p m) := Store.wf_drop h


theorem memWrite_fr {s : State} (h : Fr q MemOk F s) (core off n v : Nat) : Fr q MemOk F (memWrite s core off n v) := by
  have h1 := memPut_ok h.mem (memKey core off) n v
  unfold memWrite
  dsimp only
  split
  · split
    · exact Fr.updMem (memPut_ok h1 _ _ _) h rfl rfl
    · exact Fr.updMem h1 h rfl rfl
  · exact Fr.updMem h1 h rfl rfl

theorem writeLine_fr {s : State} (h : Fr q MemOk F s) (x1 : _) (x2 : _) (x3 : _) : Fr q MemOk F (writeLine s x1 x2 x3) := by
  unfold writeLine
  repeat' (first
    | with_reducible assumption
    | with_reducible apply memWrite_fr
    | with_reducible apply Fr.ite
    | with_reducible apply Fr.foldl
    | intro _ _ _)

theorem copyRange_fr {s : State} (h : Fr q MemOk F s) (x1 : _) (x2 : _) (x3 : _) : Fr q MemOk F (copyRange s x1 x2 x3) := by
  unfold copyRange
  exact Fr.updMem (memFold_ok (fun _ _ h => setByte_ok h _ _) _ (Store.wf_filter h.mem)) h rfl rfl

theorem zeroRange_fr {s : State} (h : Fr q MemOk F s) (x1 : _) (x2 : _) : Fr q MemOk F (zeroRange s x1 x2) := by
  unfold zeroRange
  repeat' (first
    | with_reducible assumption
    | dsimp only
    | with_reducible apply Fr.updMem
    | with_reducible apply drop_ok
    | with_reducible apply Fr.mem (M := MemOk))

end Sys2Proof.Machine
end

