-- ==== Sys2Proof/Laws/Xlt.lean ====
section
/-!
SUPPORT. What every operation of Machine/Xlt.lean leaves alone: each keeps the frame of Laws/Frame.lean.
-/

namespace Sys2Proof.Machine

variable {q : List Instr} {M : Store Byte → Prop} {F : Store Nat → Prop}

theorem writeEntry_fr {s : State} (h : Fr q MemOk F s) (x1 : _) (x2 : _) (x3 : _) : Fr q MemOk F (writeEntry s x1 x2 x3) := by
  unfold writeEntry
  repeat' (first
    | with_reducible assumption
    | intro _ _ _
    | dsimp only
    | with_reducible apply Fr.updMem
    | with_reducible apply memPut_ok
    | with_reducible apply memFold_ok
    | with_reducible apply Fr.mem (M := MemOk))

theorem setFrame_fr {s : State} (h : Fr q M F s) (x1 : _) (x2 : _) : Fr q M F (setFrame s x1 x2) := by
  unfold setFrame
  dsimp only
  repeat' (first
    | with_reducible assumption
    | split
    | dsimp only
    | with_reducible apply Fr.upd)

theorem fillWalker_fr {s : State} (h : Fr q M F s) (x1 : _) (x2 : _) : Fr q M F (fillWalker s x1 x2) := by
  unfold fillWalker
  dsimp only
  repeat' (first
    | with_reducible assumption
    | with_reducible apply Fr.ite
    | dsimp only
    | with_reducible apply Fr.upd)

theorem takeWalk_fr {s : State} (h : Fr q M F s) (x1 : _) : Fr q M F (takeWalk s x1) := by
  unfold takeWalk
  dsimp only
  repeat' (first
    | with_reducible assumption
    | split
    | dsimp only
    | with_reducible apply Fr.upd)

theorem portWalk_fr {s : State} (h : Fr q M F s) (x1 : _) (x2 : _) : Fr q M F (portWalk s x1 x2).2 := by
  unfold portWalk
  dsimp only
  repeat' (first
    | with_reducible assumption
    | with_reducible apply wrapF_fr
    | with_reducible apply takeWalk_fr
    | with_reducible apply fillWalker_fr
    | split
    | dsimp only
    | with_reducible apply Fr.upd)

theorem engineWalk_fr {s : State} (h : Fr q M F s) (x1 : _) (x2 : _) (x3 : _) (x4 : _) : Fr q M F (engineWalk s x1 x2 x3 x4).2 := by
  unfold engineWalk
  dsimp only
  repeat' (first
    | with_reducible assumption
    | with_reducible apply takeWalk_fr
    | with_reducible apply fillWalker_fr
    | split
    | dsimp only
    | with_reducible apply Fr.upd)

theorem portTranslate_fr {s : State} (h : Fr q M F s) (x1 : _) (x2 : _) (x3 : _) : Fr q M F (portTranslate s x1 x2 x3).2 := by
  unfold portTranslate
  dsimp only
  repeat' (first
    | with_reducible assumption
    | with_reducible apply portWalk_fr
    | with_reducible apply Fr.ite_snd)

theorem engineTranslate_fr {s : State} (h : Fr q M F s) (x1 : _) (x2 : _) (x3 : _) (x4 : _) (x5 : _) : Fr q M F (engineTranslate s x1 x2 x3 x4 x5).2 := by
  unfold engineTranslate
  dsimp only
  repeat' (first
    | with_reducible assumption
    | with_reducible apply engineWalk_fr
    | with_reducible apply Fr.ite_snd)

theorem xltFault_fr {s : State} (h : Fr q M F s) (x1 : _) (x2 : _) (x3 : _) (x4 : _) (x5 : _) : Fr q M F (xltFault s x1 x2 x3 x4 x5) := by
  unfold xltFault
  dsimp only
  repeat' (first
    | with_reducible assumption
    | with_reducible apply bumpF_fr
    | with_reducible apply setF_fr
    | with_reducible apply setB_fr
    | with_reducible apply Fr.ite)

theorem pushHot_fr {s : State} (h : Fr q M F s) (x1 : _) (x2 : _) : Fr q M F (pushHot s x1 x2) := by
  unfold pushHot
  dsimp only
  repeat' (first
    | with_reducible assumption
    | with_reducible apply raise_fr
    | with_reducible apply Fr.ite
    | dsimp only
    | with_reducible apply Fr.upd)

theorem countAccess_fr {s : State} (h : Fr q M F s) (x1 : _) (x2 : _) (x3 : _) : Fr q M F (countAccess s x1 x2 x3) := by
  unfold countAccess
  dsimp only
  repeat' (first
    | with_reducible assumption
    | with_reducible apply bumpF_fr
    | with_reducible apply pushHot_fr
    | with_reducible apply setB_fr
    | with_reducible apply Fr.ite)

theorem clearCounters_fr {s : State} (h : Fr q M F s) (x1 : _) : Fr q M F (clearCounters s x1) := by
  have hr := Store.rising_drop (p := fun k => k / 32 % 0x10000000 == 0x400164 && x1 (k / 32 / 0x10000000)) h.regs
  exact ⟨h.pending, h.mem, h.fuses, hr, h.log, h.selv⟩

theorem doCntClear_fr {s : State} (h : Fr q M F s) (x1 : _) : Fr q M F (doCntClear s x1) := by
  unfold doCntClear
  repeat' (first
    | with_reducible assumption
    | with_reducible apply clearCounters_fr)

theorem execCntClear_fr {s t : State} (h : Fr q M F s) {x0 : _} (e : execCntClear x0 s = .next t) : Fr q M F t := by
  unfold execCntClear at e
  injection e with e
  subst e
  repeat' (first
    | with_reducible assumption
    | with_reducible apply whenAlive_fr
    | with_reducible apply doCntClear_fr
    | intro _ _)

theorem doCntClearAll_fr {s : State} (h : Fr q M F s) : Fr q M F (doCntClearAll s) := by
  unfold doCntClearAll
  dsimp only
  repeat' (first
    | with_reducible assumption
    | with_reducible apply clearCounters_fr
    | dsimp only
    | with_reducible apply Fr.upd)

theorem execCntClearAll_fr {s t : State} (h : Fr q M F s) (e : execCntClearAll s = .next t) : Fr q M F t := by
  unfold execCntClearAll at e
  injection e with e
  subst e
  repeat' (first
    | with_reducible assumption
    | with_reducible apply whenAlive_fr
    | with_reducible apply doCntClearAll_fr)

theorem readCntData_fr {s : State} (h : Fr q M F s) : Fr q M F (readCntData s) := by
  unfold readCntData
  repeat' (first
    | with_reducible assumption
    | with_reducible apply wrapF_fr
    | with_reducible apply Fr.ite)

theorem execCntData_fr {s t : State} (h : Fr q M F s) (e : execCntData s = .next t) : Fr q M F t := by
  unfold execCntData at e
  injection e with e
  subst e
  repeat' (first
    | with_reducible assumption
    | with_reducible apply whenManaged_fr
    | with_reducible apply readCntData_fr)

theorem readHotPop_fr {s : State} (h : Fr q M F s) : Fr q M F (readHotPop s) := by
  unfold readHotPop
  dsimp only
  repeat' (first
    | with_reducible assumption
    | with_reducible apply Fr.ite
    | dsimp only
    | with_reducible apply Fr.upd)

theorem execHotPop_fr {s t : State} (h : Fr q M F s) (e : execHotPop s = .next t) : Fr q M F t := by
  unfold execHotPop at e
  injection e with e
  subst e
  repeat' (first
    | with_reducible assumption
    | with_reducible apply whenManaged_fr
    | with_reducible apply readHotPop_fr)

theorem doWaysWrite_fr {s : State} (h : Fr q M F s) (x1 : _) (x2 : _) : Fr q M F (doWaysWrite s x1 x2) := by
  unfold doWaysWrite
  dsimp only
  repeat' (first
    | with_reducible assumption
    | with_reducible apply setB_fr
    | with_reducible apply setF_fr
    | with_reducible apply bumpConfigGen_fr
    | with_reducible apply Fr.ite
    | dsimp only
    | with_reducible apply Fr.upd)

theorem execPxcWaysWrite_fr {s t : State} (h : Fr q M F s) {x0 : _} {x1 : _} (e : execPxcWaysWrite x0 x1 s = .next t) : Fr q M F t := by
  unfold execPxcWaysWrite at e
  injection e with e
  subst e
  repeat' (first
    | with_reducible assumption
    | with_reducible apply whenAlive_fr
    | with_reducible apply doWaysWrite_fr
    | intro _ _)

theorem refreshFrames_fr {s : State} (h : Fr q M F s) : Fr q M F (refreshFrames s) := by
  unfold refreshFrames
  dsimp only
  repeat' (first
    | with_reducible assumption
    | dsimp only
    | with_reducible apply Fr.upd)

theorem retire_fr {s : State} (h : Fr q M F s) (x1 : _) (x2 : _) (x3 : _) : Fr q M F (retire s x1 x2 x3) := by
  unfold retire
  dsimp only
  repeat' (first
    | with_reducible assumption
    | dsimp only
    | with_reducible apply Fr.upd)

theorem applyCommit_fr {s : State} (h : Fr q MemOk F s) (x1 : _) (x2 : _) (x3 : _) (x4 : _) : Fr q MemOk F (applyCommit s x1 x2 x3 x4) := by
  unfold applyCommit
  dsimp only
  repeat' (first
    | with_reducible assumption
    | with_reducible apply refreshFrames_fr
    | with_reducible apply retire_fr
    | with_reducible apply writeEntry_fr
    | with_reducible apply forAll_fr
    | with_reducible apply setFrame_fr
    | intro _ _ _
    | split
    | dsimp only
    | with_reducible apply Fr.upd)

theorem doTblCommit_fr {s : State} (h : Fr q MemOk F s) (x1 : _) : Fr q MemOk F (doTblCommit s x1) := by
  unfold doTblCommit
  dsimp only
  repeat' (first
    | with_reducible assumption
    | with_reducible apply ignored_fr
    | with_reducible apply bumpConfigGen_fr
    | with_reducible apply applyCommit_fr
    | with_reducible apply setB_fr
    | with_reducible apply Fr.ite
    | split
    | dsimp only
    | with_reducible apply Fr.upd)

theorem execTblCommit_fr {s t : State} (h : Fr q MemOk F s) {x0 : _} (e : execTblCommit x0 s = .next t) : Fr q MemOk F t := by
  unfold execTblCommit at e
  injection e with e
  subst e
  repeat' (first
    | with_reducible assumption
    | with_reducible apply whenAlive_fr
    | with_reducible apply doTblCommit_fr
    | intro _ _)

theorem execTblCommitDone_fr {s t : State} (h : Fr q M F s) (e : execTblCommitDone s = .next t) : Fr q M F t := by
  unfold execTblCommitDone at e
  injection e with e
  subst e
  dsimp only
  repeat' (first
    | with_reducible assumption
    | with_reducible apply whenManaged_fr
    | with_reducible apply setF_fr
    | with_reducible apply setB_fr
    | with_reducible apply Fr.ite
    | intro _ _
    | split
    | dsimp only
    | with_reducible apply Fr.upd)

theorem doTblRead_fr {s : State} (h : Fr q M F s) (x1 : _) : Fr q M F (doTblRead s x1) := by
  unfold doTblRead
  dsimp only
  repeat' (first
    | with_reducible assumption
    | with_reducible apply ignored_fr
    | with_reducible apply setF_fr
    | with_reducible apply Fr.ite)

theorem execTblRead_fr {s t : State} (h : Fr q M F s) {x0 : _} (e : execTblRead x0 s = .next t) : Fr q M F t := by
  unfold execTblRead at e
  injection e with e
  subst e
  repeat' (first
    | with_reducible assumption
    | with_reducible apply whenAlive_fr
    | with_reducible apply doTblRead_fr
    | intro _ _)

theorem doXltDigest_fr {s : State} (h : Fr q M F s) (x1 : _) : Fr q M F (doXltDigest s x1) := by
  unfold doXltDigest
  dsimp only
  repeat' (first
    | with_reducible assumption
    | with_reducible apply setB_fr
    | with_reducible apply Fr.ite
    | dsimp only
    | with_reducible apply Fr.upd)

theorem execXltDigest_fr {s t : State} (h : Fr q M F s) {x0 : _} (e : execXltDigest x0 s = .next t) : Fr q M F t := by
  unfold execXltDigest at e
  injection e with e
  subst e
  repeat' (first
    | with_reducible assumption
    | with_reducible apply whenAlive_fr
    | with_reducible apply doXltDigest_fr
    | intro _ _)

theorem execXltDigestDone_fr {s t : State} (h : Fr q M F s) (e : execXltDigestDone s = .next t) : Fr q M F t := by
  unfold execXltDigestDone at e
  injection e with e
  subst e
  dsimp only
  repeat' (first
    | with_reducible assumption
    | with_reducible apply whenManaged_fr
    | with_reducible apply setB_fr
    | with_reducible apply setF_fr
    | intro _ _
    | split
    | dsimp only
    | with_reducible apply Fr.upd)

theorem dropCached_fr {s : State} (h : Fr q M F s) (x1 : _) (x2 : _) : Fr q M F (dropCached s x1 x2) := by
  unfold dropCached
  dsimp only
  repeat' (first
    | with_reducible assumption
    | dsimp only
    | with_reducible apply Fr.upd)

theorem invalidatePt_fr {s : State} (h : Fr q M F s) (x1 : _) : Fr q M F (invalidatePt s x1) := by
  unfold invalidatePt
  repeat' (first
    | with_reducible assumption
    | with_reducible apply bumpConfigGen_fr
    | with_reducible apply dropCached_fr)

end Sys2Proof.Machine
end

