-- ==== Sys2Proof/Laws/Net.lean ====
section
/-!
SUPPORT. What every operation of Machine/Net.lean leaves alone: each keeps the frame of Laws/Frame.lean.
-/

namespace Sys2Proof.Machine

variable {q : List Instr} {M : Store Byte → Prop} {F : Store Nat → Prop}

theorem setQueue_fr {s : State} (h : Fr q M F s) (x1 : _) (x2 : _) (x3 : _) : Fr q M F (setQueue s x1 x2 x3) := by
  unfold setQueue
  dsimp only
  repeat' (first
    | with_reducible assumption
    | dsimp only
    | with_reducible apply Fr.upd)

theorem dropReq_fr {s : State} (h : Fr q M F s) (x1 : _) : Fr q M F (dropReq s x1) := by
  unfold dropReq
  dsimp only
  repeat' (first
    | with_reducible assumption
    | dsimp only
    | with_reducible apply Fr.upd)

theorem freeReq_fr {s : State} (h : Fr q M F s) (x1 : _) : Fr q M F (freeReq s x1) := by
  unfold freeReq
  dsimp only
  repeat' (first
    | with_reducible assumption
    | with_reducible apply dropReq_fr
    | with_reducible apply Fr.ite
    | split
    | dsimp only
    | with_reducible apply Fr.upd)

theorem freeEntry_fr {s : State} (h : Fr q M F s) (x1 : _) (x2 : _) : Fr q M F (freeEntry s x1 x2) := by
  unfold freeEntry
  repeat' (first
    | with_reducible assumption
    | with_reducible apply freeReq_fr)

theorem sendingGone_fr {s : State} (h : Fr q M F s) (x1 : _) : Fr q M F (sendingGone s x1) := by
  unfold sendingGone
  repeat' (first
    | with_reducible assumption
    | with_reducible apply freeEntry_fr
    | split)

theorem enqueue_fr {s : State} (h : Fr q M F s) (x1 : _) (x2 : _) : Fr q M F (enqueue s x1 x2) := by
  unfold enqueue
  repeat' (first
    | with_reducible assumption
    | with_reducible apply setQueue_fr)

theorem countReturn_fr {s : State} (h : Fr q M F s) (x1 : _) : Fr q M F (countReturn s x1) := by
  unfold countReturn
  repeat' (first
    | with_reducible assumption
    | with_reducible apply bumpF_fr
    | with_reducible apply Fr.ite)

theorem sendOwn_fr {s : State} (h : Fr q M F s) (x1 : _) : Fr q M F (sendOwn s x1) := by
  unfold sendOwn
  dsimp only
  repeat' (first
    | with_reducible assumption
    | with_reducible apply sendingGone_fr
    | with_reducible apply enqueue_fr
    | with_reducible apply bumpF_fr
    | with_reducible apply countReturn_fr
    | with_reducible apply Fr.ite
    | split
    | dsimp only
    | with_reducible apply Fr.upd)

theorem sendPid_fr {s : State} (h : Fr q M F s) (x1 : _) (x2 : _) (x3 : _) (x4 : _) (x5 : _) : Fr q M F (sendPid s x1 x2 x3 x4 x5) := by
  unfold sendPid
  repeat' (first
    | with_reducible assumption
    | with_reducible apply sendOwn_fr)

theorem respond_fr {s : State} (h : Fr q M F s) (x1 : _) (x2 : _) (x3 : _) (x4 : _) (x5 : _) (x6 : _) (x7 : _) (x8 : _) : Fr q M F (respond s x1 x2 x3 x4 x5 x6 x7 x8) := by
  unfold respond
  repeat' (first
    | with_reducible assumption
    | with_reducible apply sendOwn_fr)

theorem setReq_fr {s : State} (h : Fr q M F s) (x1 : _) : Fr q M F (setReq s x1) := by
  unfold setReq
  dsimp only
  repeat' (first
    | with_reducible assumption
    | dsimp only
    | with_reducible apply Fr.upd)

theorem answer_fr {s : State} (h : Fr q M F s) (x1 : _) (x2 : _) (x3 : _) (x4 : _) (x5 : _) (x6 : _) (x7 : _) : Fr q M F (answer s x1 x2 x3 x4 x5 x6 x7) := by
  unfold answer
  repeat' (first
    | with_reducible assumption
    | with_reducible apply respond_fr
    | with_reducible apply freeReq_fr
    | with_reducible apply setReq_fr
    | with_reducible apply Fr.ite
    | split)

theorem refuse_fr {s : State} (h : Fr q M F s) (x1 : _) (x2 : _) (x3 : _) (x4 : _) : Fr q M F (refuse s x1 x2 x3 x4) := by
  unfold refuse
  repeat' (first
    | with_reducible assumption
    | with_reducible apply answer_fr
    | with_reducible apply Fr.ite)

theorem sendMgmt_fr {s : State} (h : Fr q M F s) (x1 : _) (x2 : _) (x3 : _) (x4 : _) : Fr q M F (sendMgmt s x1 x2 x3 x4) := by
  unfold sendMgmt
  repeat' (first
    | with_reducible assumption
    | with_reducible apply sendPid_fr)

end Sys2Proof.Machine
end

