-- ==== Sys2Proof/Laws/DramBase.lean ====
section
/-!
SUPPORT. What every operation of Machine/DramBase.lean leaves alone: each keeps the frame of Laws/Frame.lean.
-/

namespace Sys2Proof.Machine

variable {q : List Instr} {M : Store Byte → Prop} {F : Store Nat → Prop}

theorem chanError_fr {s : State} (h : Fr q M F s) (x1 : _) (x2 : _) : Fr q M F (chanError s x1 x2) := by
  unfold chanError
  dsimp only
  repeat' (first
    | with_reducible assumption
    | split
    | dsimp only
    | with_reducible apply Fr.upd)

theorem addRepair_fr {s : State} (h : Fr q M F s) (x1 : _) : Fr q M F (addRepair s x1) := by
  unfold addRepair
  dsimp only
  repeat' (first
    | with_reducible assumption
    | with_reducible apply Fr.ite
    | dsimp only
    | with_reducible apply Fr.upd)

theorem ueRead_fr {s : State} (h : Fr q M F s) (x1 : _) (x2 : _) : Fr q M F (ueRead s x1 x2) := by
  unfold ueRead
  dsimp only
  repeat' (first
    | with_reducible assumption
    | with_reducible apply raise_fr
    | with_reducible apply bumpF_fr
    | with_reducible apply setB_fr
    | with_reducible apply setF_fr
    | with_reducible apply faultEntry_fr
    | with_reducible apply chanError_fr
    | with_reducible apply addRepair_fr
    | with_reducible apply Fr.ite)

theorem freshLine_fr {s : State} (h : Fr q M F s) (x1 : _) : Fr q M F (freshLine s x1) := by
  unfold freshLine
  dsimp only
  repeat' (first
    | with_reducible assumption
    | dsimp only
    | with_reducible apply Fr.upd)

theorem copyLines_fr {s : State} (h : Fr q MemOk F s) (src dst n : Nat) : Fr q MemOk F (copyLines s src dst n) := by
  unfold copyLines
  refine forAll_fr (Fr.upd (copyRange_fr h src dst n) rfl rfl) fun t e ht => ?_
  exact Fr.ite (Fr.upd ht rfl rfl) (Fr.updMem (memPut_ok ht.mem _ _ _) ht rfl rfl)

theorem rewriteLine_fr {s : State} (h : Fr q MemOk F s) (x1 : _) : Fr q MemOk F (rewriteLine s x1) := by
  unfold rewriteLine
  repeat' (first
    | with_reducible assumption
    | with_reducible apply freshLine_fr
    | split
    | dsimp only
    | with_reducible apply Fr.updMem
    | with_reducible apply memPut_ok
    | with_reducible apply Fr.mem (M := MemOk))

theorem storeLine_fr {s : State} (h : Fr q MemOk F s) (x1 : _) (x2 : _) (x3 : _) : Fr q MemOk F (storeLine s x1 x2 x3) := by
  unfold storeLine
  dsimp only
  repeat' (first
    | with_reducible assumption
    | with_reducible apply rewriteLine_fr
    | with_reducible apply freshLine_fr
    | with_reducible apply writeLine_fr
    | with_reducible apply Fr.ite
    | split)

theorem remapSts_fr {s : State} (h : Fr q M F s) (x1 : _) : Fr q M F (remapSts s x1) := by
  unfold remapSts
  dsimp only
  repeat' (first
    | with_reducible assumption
    | with_reducible apply setF_fr
    | with_reducible apply setB_fr
    | with_reducible apply raise_fr
    | with_reducible apply Fr.ite)

end Sys2Proof.Machine
end

