-- ==== Sys2Proof/Laws/TierBase.lean ====
section
/-!
SUPPORT. What every operation of Machine/TierBase.lean leaves alone: each keeps the frame of Laws/Frame.lean.
-/

namespace Sys2Proof.Machine

variable {q : List Instr} {M : Store Byte → Prop} {F : Store Nat → Prop}

theorem putTags_fr {s : State} (h : Fr q MemOk F s) (x1 : _) : Fr q MemOk F (putTags s x1) := by
  unfold putTags
  dsimp only
  repeat' (first
    | with_reducible assumption
    | dsimp only
    | with_reducible apply Fr.updMem
    | with_reducible apply memPut_ok
    | with_reducible apply Fr.mem (M := MemOk))

theorem setWay_fr {s : State} (h : Fr q MemOk F s) (x1 : _) (x2 : _) : Fr q MemOk F (setWay s x1 x2) := by
  unfold setWay
  dsimp only
  repeat' (first
    | with_reducible assumption
    | with_reducible apply putTags_fr
    | dsimp only
    | with_reducible apply Fr.upd)

theorem strand_fr {s : State} (h : Fr q MemOk F s) (x1 : _) (x2 : _) : Fr q MemOk F (strand s x1 x2) := by
  unfold strand
  dsimp only
  repeat' (first
    | with_reducible assumption
    | with_reducible apply setWay_fr
    | with_reducible apply raise_fr
    | with_reducible apply Fr.ite)

theorem dirtyWay_fr {s : State} (h : Fr q MemOk F s) (x1 : _) (x2 : _) : Fr q MemOk F (dirtyWay s x1 x2) := by
  unfold dirtyWay
  dsimp only
  repeat' (first
    | with_reducible assumption
    | with_reducible apply setWay_fr
    | with_reducible apply strand_fr
    | with_reducible apply Fr.ite
    | split)

theorem plruTouch_fr {s : State} (h : Fr q MemOk F s) (x1 : _) : Fr q MemOk F (plruTouch s x1) := by
  unfold plruTouch
  dsimp only
  repeat' (first
    | with_reducible assumption
    | with_reducible apply putTags_fr
    | dsimp only
    | with_reducible apply Fr.upd)

theorem accessWay_fr {s : State} (h : Fr q MemOk F s) (x1 : _) : Fr q MemOk F (accessWay s x1) := by
  unfold accessWay
  dsimp only
  repeat' (first
    | with_reducible assumption
    | with_reducible apply plruTouch_fr
    | with_reducible apply setWay_fr)

end Sys2Proof.Machine
end

