-- ==== Sys2Proof/Laws/Coherence.lean ====
section
/-!
SUPPORT. What every operation of Machine/Coherence.lean leaves alone: each keeps the frame of Laws/Frame.lean.
-/

namespace Sys2Proof.Machine

variable {q : List Instr} {M : Store Byte → Prop} {F : Store Nat → Prop}

theorem noteBusy_fr {s : State} (h : Fr q M F s) (x1 : _) : Fr q M F (noteBusy s x1) := by
  unfold noteBusy
  dsimp only
  repeat' (first
    | with_reducible assumption
    | with_reducible apply setF_fr
    | with_reducible apply Fr.ite)

theorem setTxn_fr {s : State} (h : Fr q M F s) (x1 : _) (x2 : _) : Fr q M F (setTxn s x1 x2) := by
  unfold setTxn
  dsimp only
  repeat' (first
    | with_reducible assumption
    | with_reducible apply noteBusy_fr
    | dsimp only
    | with_reducible apply Fr.upd)

theorem spillEntry_fr {s : State} (h : Fr q MemOk F s) (x1 : _) : Fr q MemOk F (spillEntry s x1) := by
  unfold spillEntry
  repeat' (first
    | with_reducible assumption
    | with_reducible apply memWrite_fr)

theorem spillBlock_fr {s : State} (h : Fr q MemOk F s) (x1 : _) : Fr q MemOk F (spillBlock s x1) := by
  unfold spillBlock
  repeat' (first
    | with_reducible assumption
    | with_reducible apply forAll_fr
    | with_reducible apply spillEntry_fr
    | intro _ _ _)

theorem flushDc_fr {s : State} (h : Fr q MemOk F s) (x1 : _) : Fr q MemOk F (flushDc s x1) := by
  unfold flushDc
  dsimp only
  repeat' (first
    | with_reducible assumption
    | with_reducible apply forAll_fr
    | with_reducible apply spillBlock_fr
    | intro _ _ _
    | dsimp only
    | with_reducible apply Fr.upd)

theorem setDc_fr {s : State} (h : Fr q M F s) (x1 : _) (x2 : _) : Fr q M F (setDc s x1 x2) := by
  unfold setDc
  dsimp only
  repeat' (first
    | with_reducible assumption
    | dsimp only
    | with_reducible apply Fr.upd)

theorem lookupDc_fr {s t : State} {x1 : _} (e : lookupDc s x1 = some t) (h : Fr q MemOk F s) : Fr q MemOk F t := by
  unfold lookupDc at e
  dsimp only at e
  repeat' (split at e)
  all_goals (first | (injection e with e; subst e) | cases e)
  repeat' (first
    | with_reducible assumption
    | with_reducible apply wrapF_fr
    | with_reducible apply setDc_fr
    | with_reducible apply spillBlock_fr)

theorem setDir_fr {s : State} (h : Fr q MemOk F s) (x1 : _) (x2 : _) : Fr q MemOk F (setDir s x1 x2) := by
  unfold setDir
  dsimp only
  repeat' (first
    | with_reducible assumption
    | with_reducible apply setDc_fr
    | with_reducible apply spillEntry_fr
    | with_reducible apply Fr.ite
    | dsimp only
    | with_reducible apply Fr.upd)

theorem addSharer_fr {s : State} (h : Fr q M F s) (x1 : _) (x2 : _) (x3 : _) : Fr q M F (addSharer s x1 x2 x3).2 := by
  unfold addSharer
  repeat' (first
    | with_reducible assumption
    | with_reducible apply bumpF_fr
    | with_reducible apply Fr.ite_snd
    | split)

theorem breach_fr {s : State} (h : Fr q M F s) (x1 : _) (x2 : _) (x3 : _) : Fr q M F (breach s x1 x2 x3) := by
  unfold breach
  dsimp only
  repeat' (first
    | with_reducible assumption
    | with_reducible apply bumpF_fr
    | with_reducible apply setF_fr
    | with_reducible apply raise_fr
    | with_reducible apply setB_fr
    | with_reducible apply Fr.ite)

theorem sendSnoop_fr {s : State} (h : Fr q M F s) (x1 : _) (x2 : _) (x3 : _) (x4 : _) (x5 : _) : Fr q M F (sendSnoop s x1 x2 x3 x4 x5) := by
  unfold sendSnoop
  dsimp only
  repeat' (first
    | with_reducible assumption
    | with_reducible apply wrapF_fr
    | with_reducible apply sendPid_fr)

theorem failReq_fr {s : State} (h : Fr q M F s) (x1 : _) (x2 : _) (x3 : _) : Fr q M F (failReq s x1 x2 x3) := by
  unfold failReq
  dsimp only
  repeat' (first
    | with_reducible assumption
    | with_reducible apply refuse_fr
    | split
    | dsimp only
    | with_reducible apply Fr.upd)

theorem dirtyTier_fr {s : State} (h : Fr q MemOk F s) (x1 : _) : Fr q MemOk F (dirtyTier s x1) := by
  unfold dirtyTier
  repeat' (first
    | with_reducible assumption
    | with_reducible apply dirtyWay_fr
    | split)

theorem takeData_fr {s : State} (h : Fr q MemOk F s) (x1 : _) (x2 : _) : Fr q MemOk F (takeData s x1 x2) := by
  unfold takeData
  repeat' (first
    | with_reducible assumption
    | with_reducible apply ueRead_fr
    | with_reducible apply storeLine_fr
    | with_reducible apply dirtyTier_fr
    | with_reducible apply Fr.ite)

theorem serveWrite_fr {s : State} (h : Fr q MemOk F s) (x1 : _) (x2 : _) : Fr q MemOk F (serveWrite s x1 x2).1 := by
  unfold serveWrite
  dsimp only
  repeat' (first
    | with_reducible assumption
    | with_reducible apply failReq_fr
    | with_reducible apply ueRead_fr
    | with_reducible apply storeLine_fr
    | with_reducible apply dirtyTier_fr
    | with_reducible apply answer_fr
    | with_reducible apply sendSnoop_fr
    | with_reducible apply Fr.ite
    | with_reducible apply Fr.ite_fst
    | split)

theorem complete_fr {s : State} (h : Fr q MemOk F s) (x1 : _) (x2 : _) (x3 : _) (x4 : _) : Fr q MemOk F (complete s x1 x2 x3 x4).1 := by
  unfold complete
  dsimp only
  repeat' (first
    | with_reducible assumption
    | with_reducible apply serveWrite_fr
    | with_reducible apply answer_fr
    | with_reducible apply dirtyTier_fr
    | with_reducible apply failReq_fr
    | with_reducible apply ueRead_fr
    | with_reducible apply addSharer_fr
    | with_reducible apply Fr.ite_fst
    | split)

theorem serveNow_fr {s : State} (h : Fr q MemOk F s) (x1 : _) (x2 : _) (x3 : _) (x4 : _) : Fr q MemOk F (serveNow s x1 x2 x3 x4).1 := by
  unfold serveNow
  dsimp only
  repeat' (first
    | with_reducible assumption
    | with_reducible apply complete_fr)

theorem beginReq_fr {s : State} (h : Fr q MemOk F s) (x1 : _) (x2 : _) (x3 : _) : Fr q MemOk F (beginReq s x1 x2 x3).1 := by
  unfold beginReq
  dsimp only
  repeat' (first
    | with_reducible assumption
    | with_reducible apply takeData_fr
    | with_reducible apply answer_fr
    | with_reducible apply failReq_fr
    | with_reducible apply serveNow_fr
    | with_reducible apply sendSnoop_fr
    | with_reducible apply forAll_fr
    | with_reducible apply Fr.ite
    | with_reducible apply Fr.ite_fst
    | intro _ _ _
    | split)

theorem handleStable_fr {s : State} (h : Fr q MemOk F s) (x1 : _) (x2 : _) : Fr q MemOk F (handleStable s x1 x2) := by
  unfold handleStable
  dsimp only
  repeat' (first
    | with_reducible assumption
    | with_reducible apply beginReq_fr
    | with_reducible apply setDir_fr
    | with_reducible apply setTxn_fr
    | split)

theorem runQueue_fr {s : State} (h : Fr q MemOk F s) (line : Nat) (l : List Req) :
    Fr q MemOk F (runQueue line l s) := by
  induction l generalizing s with
  | nil => exact h
  | cons x l ih =>
    unfold runQueue
    dsimp only
    repeat' (first
      | with_reducible assumption
      | apply lookupDc_fr (by with_reducible assumption)
      | with_reducible apply handleStable_fr
      | with_reducible apply setTxn_fr
      | with_reducible apply ih
      | split)

theorem settle_fr {s : State} (h : Fr q MemOk F s) (x1 : _) (x2 : _) (x3 : _) : Fr q MemOk F (settle s x1 x2 x3) := by
  unfold settle
  repeat' (first
    | with_reducible assumption
    | with_reducible apply runQueue_fr
    | with_reducible apply setTxn_fr
    | with_reducible apply setDir_fr)

theorem resume_fr {s : State} (h : Fr q MemOk F s) (x1 : _) (x2 : _) (x3 : _) : Fr q MemOk F (resume s x1 x2 x3) := by
  unfold resume
  dsimp only
  repeat' (first
    | with_reducible assumption
    | with_reducible apply settle_fr
    | with_reducible apply complete_fr
    | with_reducible apply setTxn_fr
    | with_reducible apply Fr.ite
    | split)

theorem crossWb_fr {s : State} (h : Fr q MemOk F s) (x1 : _) (x2 : _) (x3 : _) : Fr q MemOk F (crossWb s x1 x2 x3) := by
  unfold crossWb
  dsimp only
  repeat' (first
    | with_reducible assumption
    | with_reducible apply takeData_fr
    | with_reducible apply answer_fr
    | with_reducible apply resume_fr
    | with_reducible apply Fr.ite)

theorem wins_fr {s : State} (h : Fr q M F s) (x1 : _) (x2 : _) (x3 : _) : Fr q M F (wins s x1 x2 x3).2 := by
  unfold wins
  dsimp only
  repeat' (first
    | with_reducible assumption
    | with_reducible apply Fr.ite_snd
    | dsimp only
    | with_reducible apply Fr.upd)

theorem takeReq_fr {s : State} (h : Fr q MemOk F s) (x1 : _) (x2 : _) : Fr q MemOk F (takeReq s x1 x2) := by
  unfold takeReq
  repeat' (first
    | with_reducible assumption
    | with_reducible apply crossWb_fr
    | with_reducible apply setTxn_fr
    | with_reducible apply freeReq_fr
    | with_reducible apply breach_fr
    | apply lookupDc_fr (by with_reducible assumption)
    | with_reducible apply handleStable_fr
    | with_reducible apply failReq_fr
    | with_reducible apply Fr.ite
    | split)

theorem serialize_fr {s : State} (h : Fr q MemOk F s) (x0 : _) (x1 : _) (x2 : _) (x3 : _) : Fr q MemOk F (serialize x0 x1 x2 x3 s) := by
  unfold serialize
  dsimp only
  repeat' (first
    | with_reducible assumption
    | with_reducible apply refuse_fr
    | with_reducible apply wins_fr
    | with_reducible apply advanceFt_fr
    | with_reducible apply freeReq_fr
    | with_reducible apply breach_fr
    | with_reducible apply takeReq_fr
    | with_reducible apply countAccess_fr
    | with_reducible apply setReq_fr
    | with_reducible apply Fr.ite
    | split)

theorem execRdShared_fr {s t : State} (h : Fr q MemOk F s) {x0 : _} {x1 : _} {x2 : _} (e : execRdShared x0 x1 x2 s = .next t) : Fr q MemOk F t := by
  unfold execRdShared at e
  injection e with e
  subst e
  repeat' (first
    | with_reducible assumption
    | with_reducible apply whenAlive_fr
    | with_reducible apply serialize_fr
    | intro _ _)

theorem execRdOwn_fr {s t : State} (h : Fr q MemOk F s) {x0 : _} {x1 : _} {x2 : _} (e : execRdOwn x0 x1 x2 s = .next t) : Fr q MemOk F t := by
  unfold execRdOwn at e
  injection e with e
  subst e
  repeat' (first
    | with_reducible assumption
    | with_reducible apply whenAlive_fr
    | with_reducible apply serialize_fr
    | intro _ _)

theorem execUpgrade_fr {s t : State} (h : Fr q MemOk F s) {x0 : _} {x1 : _} {x2 : _} (e : execUpgrade x0 x1 x2 s = .next t) : Fr q MemOk F t := by
  unfold execUpgrade at e
  injection e with e
  subst e
  repeat' (first
    | with_reducible assumption
    | with_reducible apply whenAlive_fr
    | with_reducible apply serialize_fr
    | intro _ _)

theorem execRdOnce_fr {s t : State} (h : Fr q MemOk F s) {x0 : _} {x1 : _} {x2 : _} (e : execRdOnce x0 x1 x2 s = .next t) : Fr q MemOk F t := by
  unfold execRdOnce at e
  injection e with e
  subst e
  repeat' (first
    | with_reducible assumption
    | with_reducible apply whenAlive_fr
    | with_reducible apply serialize_fr
    | intro _ _)

theorem execWrFull_fr {s t : State} (h : Fr q MemOk F s) {x0 : _} {x1 : _} {x2 : _} (e : execWrFull x0 x1 x2 s = .next t) : Fr q MemOk F t := by
  unfold execWrFull at e
  injection e with e
  subst e
  repeat' (first
    | with_reducible assumption
    | with_reducible apply whenAlive_fr
    | with_reducible apply serialize_fr
    | intro _ _)

theorem execWrPart_fr {s t : State} (h : Fr q MemOk F s) {x0 : _} {x1 : _} {x2 : _} (e : execWrPart x0 x1 x2 s = .next t) : Fr q MemOk F t := by
  unfold execWrPart at e
  injection e with e
  subst e
  repeat' (first
    | with_reducible assumption
    | with_reducible apply whenAlive_fr
    | with_reducible apply serialize_fr
    | intro _ _)

theorem execWb_fr {s t : State} (h : Fr q MemOk F s) {x0 : _} {x1 : _} (e : execWb x0 x1 s = .next t) : Fr q MemOk F t := by
  unfold execWb at e
  injection e with e
  subst e
  repeat' (first
    | with_reducible assumption
    | with_reducible apply whenAlive_fr
    | with_reducible apply serialize_fr
    | intro _ _)

theorem execEvict_fr {s t : State} (h : Fr q MemOk F s) {x0 : _} {x1 : _} (e : execEvict x0 x1 s = .next t) : Fr q MemOk F t := by
  unfold execEvict at e
  injection e with e
  subst e
  repeat' (first
    | with_reducible assumption
    | with_reducible apply whenAlive_fr
    | with_reducible apply serialize_fr
    | intro _ _)

theorem execAtomic_fr {s t : State} (h : Fr q MemOk F s) {x0 : _} {x1 : _} {x2 : _} (e : execAtomic x0 x1 x2 s = .next t) : Fr q MemOk F t := by
  unfold execAtomic at e
  injection e with e
  subst e
  repeat' (first
    | with_reducible assumption
    | with_reducible apply whenAlive_fr
    | with_reducible apply serialize_fr
    | intro _ _)

theorem agentReq_fr {s : State} (h : Fr q MemOk F s) (x1 : _) (x2 : _) : Fr q MemOk F (agentReq s x1 x2) := by
  unfold agentReq
  repeat' (first
    | with_reducible assumption
    | with_reducible apply takeReq_fr)

theorem recallLines_fr {s : State} (h : Fr q MemOk F s) (x1 : _) (x2 : _) : Fr q MemOk F (recallLines s x1 x2) := by
  unfold recallLines
  repeat' (first
    | with_reducible assumption
    | with_reducible apply forAll_fr
    | with_reducible apply agentReq_fr
    | intro _ _ _)

theorem countInv_fr {s : State} (h : Fr q MemOk F s) (x1 : _) (x2 : _) (x3 : _) : Fr q MemOk F (countInv s x1 x2 x3) := by
  unfold countInv
  dsimp only
  repeat' (first
    | with_reducible assumption
    | with_reducible apply resume_fr
    | with_reducible apply setTxn_fr
    | with_reducible apply Fr.ite)

theorem ownerAnswered_fr {s : State} (h : Fr q MemOk F s) (x1 : _) (x2 : _) (x3 : _) (x4 : _) (x5 : _) : Fr q MemOk F (ownerAnswered s x1 x2 x3 x4 x5) := by
  unfold ownerAnswered
  dsimp only
  repeat' (first
    | with_reducible assumption
    | with_reducible apply takeData_fr
    | with_reducible apply freeReq_fr
    | with_reducible apply addSharer_fr
    | with_reducible apply settle_fr
    | with_reducible apply resume_fr
    | with_reducible apply dirtyTier_fr
    | with_reducible apply setTxn_fr
    | with_reducible apply Fr.ite
    | split)

theorem doInvAck_fr {s : State} (h : Fr q MemOk F s) (x1 : _) (x2 : _) : Fr q MemOk F (doInvAck s x1 x2) := by
  unfold doInvAck
  repeat' (first
    | with_reducible assumption
    | with_reducible apply countInv_fr
    | with_reducible apply Fr.ite
    | split)

theorem execInvAck_fr {s t : State} (h : Fr q MemOk F s) {x0 : _} {x1 : _} {x2 : _} (e : execInvAck x0 x1 x2 s = .next t) : Fr q MemOk F t := by
  unfold execInvAck at e
  injection e with e
  subst e
  repeat' (first
    | with_reducible assumption
    | with_reducible apply whenAlive_fr
    | with_reducible apply doInvAck_fr
    | intro _ _)

theorem doSnpAck_fr {s : State} (h : Fr q MemOk F s) (x1 : _) (x2 : _) (x3 : _) : Fr q MemOk F (doSnpAck s x1 x2 x3) := by
  unfold doSnpAck
  dsimp only
  repeat' (first
    | with_reducible assumption
    | with_reducible apply breach_fr
    | with_reducible apply ownerAnswered_fr
    | with_reducible apply countInv_fr
    | with_reducible apply Fr.ite
    | split)

theorem execSnpAck_fr {s t : State} (h : Fr q MemOk F s) {x0 : _} {x1 : _} {x2 : _} {x3 : _} (e : execSnpAck x0 x1 x2 x3 s = .next t) : Fr q MemOk F t := by
  unfold execSnpAck at e
  injection e with e
  subst e
  repeat' (first
    | with_reducible assumption
    | with_reducible apply whenAlive_fr
    | with_reducible apply doSnpAck_fr
    | intro _ _)

theorem doSnpData_fr {s : State} (h : Fr q MemOk F s) (x1 : _) (x2 : _) (x3 : _) (x4 : _) : Fr q MemOk F (doSnpData s x1 x2 x3 x4) := by
  unfold doSnpData
  repeat' (first
    | with_reducible assumption
    | with_reducible apply ownerAnswered_fr
    | with_reducible apply countInv_fr
    | with_reducible apply takeData_fr
    | with_reducible apply Fr.ite
    | split)

theorem execSnpData_fr {s t : State} (h : Fr q MemOk F s) {x0 : _} {x1 : _} {x2 : _} {x3 : _} {x4 : _} (e : execSnpData x0 x1 x2 x3 x4 s = .next t) : Fr q MemOk F t := by
  unfold execSnpData at e
  injection e with e
  subst e
  repeat' (first
    | with_reducible assumption
    | with_reducible apply whenAlive_fr
    | with_reducible apply doSnpData_fr
    | intro _ _)

theorem doSnpFwded_fr {s : State} (h : Fr q MemOk F s) (x1 : _) (x2 : _) (x3 : _) : Fr q MemOk F (doSnpFwded s x1 x2 x3) := by
  unfold doSnpFwded
  repeat' (first
    | with_reducible assumption
    | with_reducible apply ownerAnswered_fr
    | with_reducible apply Fr.ite
    | split)

theorem execSnpFwded_fr {s t : State} (h : Fr q MemOk F s) {x0 : _} {x1 : _} {x2 : _} {x3 : _} (e : execSnpFwded x0 x1 x2 x3 s = .next t) : Fr q MemOk F t := by
  unfold execSnpFwded at e
  injection e with e
  subst e
  repeat' (first
    | with_reducible assumption
    | with_reducible apply whenAlive_fr
    | with_reducible apply doSnpFwded_fr
    | intro _ _)

theorem doWbPending_fr {s : State} (h : Fr q MemOk F s) (x1 : _) (x2 : _) : Fr q MemOk F (doWbPending s x1 x2) := by
  unfold doWbPending
  repeat' (first
    | with_reducible assumption
    | with_reducible apply crossWb_fr
    | with_reducible apply setTxn_fr
    | with_reducible apply countInv_fr
    | with_reducible apply Fr.ite
    | split)

theorem execWbPending_fr {s t : State} (h : Fr q MemOk F s) {x0 : _} {x1 : _} {x2 : _} (e : execWbPending x0 x1 x2 s = .next t) : Fr q MemOk F t := by
  unfold execWbPending at e
  injection e with e
  subst e
  repeat' (first
    | with_reducible assumption
    | with_reducible apply whenAlive_fr
    | with_reducible apply doWbPending_fr
    | intro _ _)

theorem doCompAck_fr {s : State} (h : Fr q MemOk F s) (x1 : _) (x2 : _) : Fr q MemOk F (doCompAck s x1 x2) := by
  unfold doCompAck
  dsimp only
  repeat' (first
    | with_reducible assumption
    | with_reducible apply freeReq_fr
    | with_reducible apply settle_fr
    | with_reducible apply setTxn_fr
    | with_reducible apply breach_fr
    | with_reducible apply Fr.ite
    | split)

theorem execCompAck_fr {s t : State} (h : Fr q MemOk F s) {x0 : _} {x1 : _} {x2 : _} (e : execCompAck x0 x1 x2 s = .next t) : Fr q MemOk F t := by
  unfold execCompAck at e
  injection e with e
  subst e
  repeat' (first
    | with_reducible assumption
    | with_reducible apply whenAlive_fr
    | with_reducible apply doCompAck_fr
    | intro _ _)

theorem doPushAnswer_fr {s : State} (h : Fr q MemOk F s) (x1 : _) (x2 : _) (x3 : _) : Fr q MemOk F (doPushAnswer s x1 x2 x3) := by
  unfold doPushAnswer
  dsimp only
  repeat' (first
    | with_reducible assumption
    | with_reducible apply settle_fr
    | with_reducible apply bumpF_fr
    | with_reducible apply breach_fr
    | with_reducible apply Fr.ite
    | split)

theorem execPushAck_fr {s t : State} (h : Fr q MemOk F s) {x0 : _} {x1 : _} {x2 : _} (e : execPushAck x0 x1 x2 s = .next t) : Fr q MemOk F t := by
  unfold execPushAck at e
  injection e with e
  subst e
  repeat' (first
    | with_reducible assumption
    | with_reducible apply whenAlive_fr
    | with_reducible apply doPushAnswer_fr
    | intro _ _)

theorem execPushDecline_fr {s t : State} (h : Fr q MemOk F s) {x0 : _} {x1 : _} {x2 : _} (e : execPushDecline x0 x1 x2 s = .next t) : Fr q MemOk F t := by
  unfold execPushDecline at e
  injection e with e
  subst e
  repeat' (first
    | with_reducible assumption
    | with_reducible apply whenAlive_fr
    | with_reducible apply doPushAnswer_fr
    | intro _ _)

theorem execUnknownOpcode_fr {s t : State} (h : Fr q M F s) {x0 : _} {x1 : _} {x2 : _} {x3 : _} (e : execUnknownOpcode x0 x1 x2 x3 s = .next t) : Fr q M F t := by
  unfold execUnknownOpcode at e
  injection e with e
  subst e
  repeat' (first
    | with_reducible assumption
    | with_reducible apply whenAlive_fr
    | with_reducible apply breach_fr
    | with_reducible apply Fr.ite
    | intro _ _)

theorem serveVersion_fr {s : State} (h : Fr q M F s) (x1 : _) : Fr q M F (serveVersion s x1) := by
  unfold serveVersion
  dsimp only
  repeat' (first
    | with_reducible assumption
    | with_reducible apply answer_fr
    | with_reducible apply setF_fr
    | with_reducible apply Fr.ite)

theorem serializeVersion_fr {s : State} (h : Fr q M F s) (x0 : _) (x1 : _) (x2 : _) (x3 : _) : Fr q M F (serializeVersion x0 x1 x2 x3 s) := by
  unfold serializeVersion
  dsimp only
  repeat' (first
    | with_reducible assumption
    | with_reducible apply refuse_fr
    | with_reducible apply wins_fr
    | with_reducible apply advanceFt_fr
    | with_reducible apply serveVersion_fr
    | with_reducible apply Fr.ite
    | split)

theorem execPublish_fr {s t : State} (h : Fr q M F s) {x0 : _} {x1 : _} {x2 : _} (e : execPublish x0 x1 x2 s = .next t) : Fr q M F t := by
  unfold execPublish at e
  injection e with e
  subst e
  repeat' (first
    | with_reducible assumption
    | with_reducible apply whenAlive_fr
    | with_reducible apply serializeVersion_fr
    | intro _ _)

theorem execRdVersion_fr {s t : State} (h : Fr q M F s) {x0 : _} {x1 : _} {x2 : _} (e : execRdVersion x0 x1 x2 s = .next t) : Fr q M F t := by
  unfold execRdVersion at e
  injection e with e
  subst e
  repeat' (first
    | with_reducible assumption
    | with_reducible apply whenAlive_fr
    | with_reducible apply serializeVersion_fr
    | intro _ _)

theorem doRgnCtl_fr {s : State} (h : Fr q M F s) (x1 : _) (x2 : _) : Fr q M F (doRgnCtl s x1 x2) := by
  unfold doRgnCtl
  dsimp only
  repeat' (first
    | with_reducible assumption
    | with_reducible apply setB_fr
    | with_reducible apply setF_fr
    | with_reducible apply Fr.ite)

theorem execRgnCtlWrite_fr {s t : State} (h : Fr q M F s) {x0 : _} {x1 : _} (e : execRgnCtlWrite x0 x1 s = .next t) : Fr q M F t := by
  unfold execRgnCtlWrite at e
  injection e with e
  subst e
  repeat' (first
    | with_reducible assumption
    | with_reducible apply whenAlive_fr
    | with_reducible apply doRgnCtl_fr
    | with_reducible apply Fr.ite
    | intro _ _)

theorem doRgnVer_fr {s : State} (h : Fr q M F s) (x1 : _) (x2 : _) (x3 : _) : Fr q M F (doRgnVer s x1 x2 x3) := by
  unfold doRgnVer
  dsimp only
  repeat' (first
    | with_reducible assumption
    | with_reducible apply setB_fr
    | with_reducible apply setF_fr
    | with_reducible apply Fr.ite)

theorem execRgnVerWrite_fr {s t : State} (h : Fr q M F s) {x0 : _} {x1 : _} {x2 : _} (e : execRgnVerWrite x0 x1 x2 s = .next t) : Fr q M F t := by
  unfold execRgnVerWrite at e
  injection e with e
  subst e
  repeat' (first
    | with_reducible assumption
    | with_reducible apply whenAlive_fr
    | with_reducible apply doRgnVer_fr
    | with_reducible apply Fr.ite
    | intro _ _)

theorem clearRegions_fr {s : State} (h : Fr q M F s) (x1 : _) : Fr q M F (clearRegions s x1) := by
  unfold clearRegions
  repeat' (first
    | with_reducible assumption
    | with_reducible apply forAll_fr
    | with_reducible apply setF_fr
    | intro _ _ _)

theorem startLease_fr {s : State} (h : Fr q M F s) (x1 : _) : Fr q M F (startLease s x1) := by
  unfold startLease
  dsimp only
  repeat' (first
    | with_reducible assumption
    | dsimp only
    | with_reducible apply Fr.upd)

theorem doLeaseRenew_fr {s : State} (h : Fr q M F s) (x1 : _) (x2 : _) (x3 : _) : Fr q M F (doLeaseRenew s x1 x2 x3) := by
  unfold doLeaseRenew
  repeat' (first
    | with_reducible assumption
    | with_reducible apply respond_fr
    | with_reducible apply faultEntry_fr
    | with_reducible apply sendMgmt_fr
    | with_reducible apply startLease_fr
    | with_reducible apply Fr.ite
    | split)

theorem execLeaseRenew_fr {s t : State} (h : Fr q M F s) {x0 : _} {x1 : _} (e : execLeaseRenew x0 x1 s = .next t) : Fr q M F t := by
  unfold execLeaseRenew at e
  injection e with e
  subst e
  repeat' (first
    | with_reducible assumption
    | with_reducible apply whenAlive_fr
    | with_reducible apply doLeaseRenew_fr
    | intro _ _)

theorem startSweep_fr {s : State} (h : Fr q M F s) (x1 : _) : Fr q M F (startSweep s x1) := by
  unfold startSweep
  dsimp only
  repeat' (first
    | with_reducible assumption
    | with_reducible apply Fr.ite
    | dsimp only
    | with_reducible apply Fr.upd)

theorem fenceTxn_fr {s : State} (h : Fr q MemOk F s) (x0 : _) (x2 : _) : Fr q MemOk F (fenceTxn x0 s x2) := by
  unfold fenceTxn
  dsimp only
  repeat' (first
    | with_reducible assumption
    | with_reducible apply setTxn_fr
    | with_reducible apply countInv_fr
    | with_reducible apply resume_fr
    | with_reducible apply settle_fr
    | with_reducible apply failReq_fr
    | with_reducible apply doPushAnswer_fr
    | with_reducible apply Fr.ite
    | split)

theorem pushFence_fr {s : State} (h : Fr q M F s) (x1 : _) : Fr q M F (pushFence s x1) := by
  unfold pushFence
  dsimp only
  repeat' (first
    | with_reducible assumption
    | with_reducible apply raise_fr
    | with_reducible apply Fr.ite
    | dsimp only
    | with_reducible apply Fr.upd)

theorem stopColls_fr {s : State} (h : Fr q M F s) (x1 : _) : Fr q M F (stopColls s x1) := by
  unfold stopColls
  dsimp only
  repeat' (first
    | with_reducible assumption
    | dsimp only
    | with_reducible apply Fr.upd)

theorem fencePid_fr {s : State} (h : Fr q MemOk F s) (x1 : _) : Fr q MemOk F (fencePid s x1) := by
  unfold fencePid
  dsimp only
  repeat' (first
    | with_reducible assumption
    | with_reducible apply stopColls_fr
    | with_reducible apply setB_fr
    | with_reducible apply setF_fr
    | with_reducible apply faultEntry_fr
    | with_reducible apply pushFence_fr
    | with_reducible apply forAll_fr
    | with_reducible apply fenceTxn_fr
    | with_reducible apply startSweep_fr
    | with_reducible apply Fr.ite
    | intro _ _ _
    | split
    | dsimp only
    | with_reducible apply Fr.upd)

theorem doPartnerLeaseCheck_fr {s : State} (h : Fr q MemOk F s) : Fr q MemOk F (doPartnerLeaseCheck s) := by
  unfold doPartnerLeaseCheck
  dsimp only
  repeat' (first
    | with_reducible assumption
    | with_reducible apply atPeriodic_fr
    | with_reducible apply forAll_fr
    | with_reducible apply fencePid_fr
    | with_reducible apply Fr.ite
    | intro _ _ _
    | dsimp only
    | with_reducible apply Fr.upd)

theorem execPartnerLeaseCheck_fr {s t : State} (h : Fr q MemOk F s) (e : execPartnerLeaseCheck s = .next t) : Fr q MemOk F t := by
  unfold execPartnerLeaseCheck at e
  injection e with e
  subst e
  repeat' (first
    | with_reducible assumption
    | with_reducible apply whenAlive_fr
    | with_reducible apply doPartnerLeaseCheck_fr)

theorem doFence_fr {s : State} (h : Fr q MemOk F s) : Fr q MemOk F (doFence s) := by
  unfold doFence
  dsimp only
  repeat' (first
    | with_reducible assumption
    | with_reducible apply setF_fr
    | with_reducible apply fencePid_fr
    | with_reducible apply Fr.ite)

theorem execFence_fr {s t : State} (h : Fr q MemOk F s) (e : execFence s = .next t) : Fr q MemOk F t := by
  unfold execFence at e
  injection e with e
  subst e
  repeat' (first
    | with_reducible assumption
    | with_reducible apply whenAlive_fr
    | with_reducible apply doFence_fr)

theorem doRelease_fr {s : State} (h : Fr q M F s) : Fr q M F (doRelease s) := by
  unfold doRelease
  dsimp only
  repeat' (first
    | with_reducible assumption
    | with_reducible apply setF_fr
    | with_reducible apply startSweep_fr
    | with_reducible apply Fr.ite)

theorem execRelease_fr {s t : State} (h : Fr q M F s) (e : execRelease s = .next t) : Fr q M F t := by
  unfold execRelease at e
  injection e with e
  subst e
  repeat' (first
    | with_reducible assumption
    | with_reducible apply whenAlive_fr
    | with_reducible apply doRelease_fr)

theorem freshBinding_fr {s : State} (h : Fr q M F s) (x1 : _) : Fr q M F (freshBinding s x1) := by
  unfold freshBinding
  dsimp only
  repeat' (first
    | with_reducible assumption
    | with_reducible apply setF_fr
    | with_reducible apply startLease_fr
    | dsimp only
    | with_reducible apply Fr.upd)

theorem doUnfence_fr {s : State} (h : Fr q M F s) : Fr q M F (doUnfence s) := by
  unfold doUnfence
  dsimp only
  repeat' (first
    | with_reducible assumption
    | with_reducible apply setF_fr
    | with_reducible apply freshBinding_fr
    | with_reducible apply Fr.ite)

theorem execUnfence_fr {s t : State} (h : Fr q M F s) (e : execUnfence s = .next t) : Fr q M F t := by
  unfold execUnfence at e
  injection e with e
  subst e
  repeat' (first
    | with_reducible assumption
    | with_reducible apply whenAlive_fr
    | with_reducible apply doUnfence_fr)

theorem doSweepDone_fr {s : State} (h : Fr q MemOk F s) (x1 : _) : Fr q MemOk F (doSweepDone s x1) := by
  unfold doSweepDone
  dsimp only
  repeat' (first
    | with_reducible assumption
    | with_reducible apply forAll_fr
    | with_reducible apply setF_fr
    | with_reducible apply bumpF_fr
    | with_reducible apply setDir_fr
    | with_reducible apply startSweep_fr
    | with_reducible apply raise_fr
    | with_reducible apply Fr.ite
    | intro _ _ _
    | split
    | dsimp only
    | with_reducible apply Fr.upd)

theorem execSweepDone_fr {s t : State} (h : Fr q MemOk F s) {x0 : _} (e : execSweepDone x0 s = .next t) : Fr q MemOk F t := by
  unfold execSweepDone at e
  injection e with e
  subst e
  repeat' (first
    | with_reducible assumption
    | with_reducible apply whenAlive_fr
    | with_reducible apply doSweepDone_fr
    | intro _ _)

theorem readFencePop_fr {s : State} (h : Fr q M F s) : Fr q M F (readFencePop s) := by
  unfold readFencePop
  dsimp only
  repeat' (first
    | with_reducible assumption
    | with_reducible apply Fr.ite
    | dsimp only
    | with_reducible apply Fr.upd)

theorem execFencePop_fr {s t : State} (h : Fr q M F s) (e : execFencePop s = .next t) : Fr q M F t := by
  unfold execFencePop at e
  injection e with e
  subst e
  repeat' (first
    | with_reducible assumption
    | with_reducible apply whenManaged_fr
    | with_reducible apply readFencePop_fr)

end Sys2Proof.Machine
end

