-- ==== Sys2Proof/Laws/Security.lean ====
section
/-!
SUPPORT. What every operation of Machine/Security.lean leaves alone: each keeps the frame of Laws/Frame.lean.
-/

namespace Sys2Proof.Machine

variable {q : List Instr} {M : Store Byte → Prop} {F : Store Nat → Prop}

theorem blow_fr (hF : Blown F) {s : State} (h : Fr q M F s) (w b : Nat) : Fr q M F (blow s w b) :=
  ⟨h.pending, h.mem, hF _ _ _ h.fuses, h.regs, h.log, h.selv⟩

theorem showLifecycle_fr {s : State} (h : Fr q M F s) : Fr q M F (showLifecycle s) := by
  unfold showLifecycle
  repeat' (first
    | with_reducible assumption
    | with_reducible apply setB_fr
    | with_reducible apply setF_fr)

theorem loadFuses_fr {s : State} (h : Fr q M F s) : Fr q M F (loadFuses s) := by
  unfold loadFuses
  dsimp only
  repeat' (first
    | with_reducible assumption
    | with_reducible apply setF_fr
    | with_reducible apply showLifecycle_fr
    | with_reducible apply forAll_fr
    | intro _ _ _)

theorem doFieldProgram_fr (hF : Blown F) {s : State} (h : Fr q M F s) (x1 : _) : Fr q M F (doFieldProgram s x1) := by
  unfold doFieldProgram
  dsimp only
  repeat' (first
    | with_reducible assumption
    | with_reducible apply blow_fr hF
    | with_reducible apply setF_fr
    | with_reducible apply setB_fr
    | with_reducible apply Fr.ite)

theorem execFieldProgram_fr (hF : Blown F) {s t : State} (h : Fr q M F s) {x0 : _} (e : execFieldProgram x0 s = .next t) : Fr q M F t := by
  unfold execFieldProgram at e
  injection e with e
  subst e
  repeat' (first
    | with_reducible assumption
    | with_reducible apply whenAlive_fr
    | with_reducible apply doFieldProgram_fr hF
    | intro _ _)

theorem draw_fr {s : State} (h : Fr q M F s) (x1 : _) : Fr q M F (draw s x1).2 := by
  unfold draw
  dsimp only
  repeat' (first
    | with_reducible assumption
    | dsimp only
    | with_reducible apply Fr.upd)

theorem newCoreKey_fr {s : State} (h : Fr q M F s) (x1 : _) : Fr q M F (newCoreKey s x1) := by
  unfold newCoreKey
  dsimp only
  repeat' (first
    | with_reducible assumption
    | with_reducible apply draw_fr
    | split
    | dsimp only
    | with_reducible apply Fr.upd)

theorem tierKey_fr {s : State} (h : Fr q M F s) (x1 : _) : Fr q M F (tierKey s x1) := by
  unfold tierKey
  dsimp only
  repeat' (first
    | with_reducible assumption
    | with_reducible apply draw_fr
    | split
    | dsimp only
    | with_reducible apply Fr.upd)

theorem newTierKey_fr {s : State} (h : Fr q M F s) (x1 : _) : Fr q M F (newTierKey s x1) := by
  unfold newTierKey
  repeat' (first
    | with_reducible assumption
    | with_reducible apply tierKey_fr
    | with_reducible apply Fr.ite)

theorem followTgen_fr {s : State} (h : Fr q M F s) (x1 : _) : Fr q M F (followTgen s x1) := by
  unfold followTgen
  repeat' (first
    | with_reducible assumption
    | with_reducible apply tierKey_fr
    | with_reducible apply Fr.ite)

theorem deriveIdentity_fr {s : State} (h : Fr q M F s) : Fr q M F (deriveIdentity s) := by
  unfold deriveIdentity
  dsimp only
  repeat' (first
    | with_reducible assumption
    | with_reducible apply Fr.ite
    | dsimp only
    | with_reducible apply Fr.upd)

theorem doTrngFail_fr {s : State} (h : Fr q M F s) (x1 : _) : Fr q M F (doTrngFail s x1) := by
  unfold doTrngFail
  repeat' (first
    | with_reducible assumption
    | with_reducible apply faultEntry_fr
    | with_reducible apply raise_fr
    | with_reducible apply setB_fr)

theorem execTrngFail_fr {s t : State} (h : Fr q M F s) {x0 : _} (e : execTrngFail x0 s = .next t) : Fr q M F t := by
  unfold execTrngFail at e
  injection e with e
  subst e
  repeat' (first
    | with_reducible assumption
    | with_reducible apply whenManaged_fr
    | with_reducible apply doTrngFail_fr
    | intro _ _)

theorem bumpAll_fr {s : State} (h : Fr q M F s) : Fr q M F (bumpAll s) := by
  unfold bumpAll
  repeat' (first
    | with_reducible assumption
    | with_reducible apply forAll_fr
    | with_reducible apply bumpConfigGen_fr
    | intro _ _ _)

theorem noteChip_fr {s : State} {f : State → State} (h : Fr q M F s) (hf : ∀ s, Fr q M F s → Fr q M F (f s)) :
    Fr q M F (noteChip f s) := by
  unfold noteChip
  exact Fr.ite (hf s h) (bumpAll_fr (hf s h))

theorem doFwData_fr {s : State} (h : Fr q M F s) (x1 : _) : Fr q M F (doFwData s x1) := by
  unfold doFwData
  dsimp only
  repeat' (first
    | with_reducible assumption
    | with_reducible apply wrapF_fr
    | with_reducible apply Fr.ite
    | dsimp only
    | with_reducible apply Fr.upd)

theorem execFwData_fr {s t : State} (h : Fr q M F s) {x0 : _} (e : execFwData x0 s = .next t) : Fr q M F t := by
  unfold execFwData at e
  injection e with e
  subst e
  repeat' (first
    | with_reducible assumption
    | with_reducible apply whenAlive_fr
    | with_reducible apply doFwData_fr
    | intro _ _)

theorem doFwVerify_fr {s : State} (h : Fr q M F s) : Fr q M F (doFwVerify s) := by
  unfold doFwVerify
  repeat' (first
    | with_reducible assumption
    | with_reducible apply setB_fr
    | with_reducible apply Fr.ite)

theorem execFwVerify_fr {s t : State} (h : Fr q M F s) (e : execFwVerify s = .next t) : Fr q M F t := by
  unfold execFwVerify at e
  injection e with e
  subst e
  repeat' (first
    | with_reducible assumption
    | with_reducible apply whenAlive_fr
    | with_reducible apply doFwVerify_fr)

theorem execFwStaged_fr {s t : State} (h : Fr q M F s) (e : execFwStaged s = .next t) : Fr q M F t := by
  unfold execFwStaged at e
  injection e with e
  subst e
  dsimp only
  repeat' (first
    | with_reducible assumption
    | with_reducible apply whenManaged_fr
    | with_reducible apply setF_fr
    | with_reducible apply setB_fr
    | with_reducible apply bumpAll_fr
    | with_reducible apply raise_fr
    | with_reducible apply Fr.ite
    | intro _ _
    | dsimp only
    | with_reducible apply Fr.upd)

theorem doFwDiscard_fr {s : State} (h : Fr q M F s) : Fr q M F (doFwDiscard s) := by
  unfold doFwDiscard
  repeat' (first
    | with_reducible assumption
    | with_reducible apply bumpAll_fr
    | with_reducible apply setF_fr
    | with_reducible apply setB_fr
    | with_reducible apply Fr.ite)

theorem execFwDiscard_fr {s t : State} (h : Fr q M F s) (e : execFwDiscard s = .next t) : Fr q M F t := by
  unfold execFwDiscard at e
  injection e with e
  subst e
  repeat' (first
    | with_reducible assumption
    | with_reducible apply whenAlive_fr
    | with_reducible apply doFwDiscard_fr)

theorem doSvnCommit_fr (hF : Blown F) {s : State} (h : Fr q M F s) : Fr q M F (doSvnCommit s) := by
  unfold doSvnCommit
  dsimp only
  repeat' (first
    | with_reducible assumption
    | with_reducible apply setF_fr
    | with_reducible apply blow_fr hF
    | with_reducible apply Fr.ite)

theorem execSvnCommit_fr (hF : Blown F) {s t : State} (h : Fr q M F s) (e : execSvnCommit s = .next t) : Fr q M F t := by
  unfold execSvnCommit at e
  injection e with e
  subst e
  repeat' (first
    | with_reducible assumption
    | with_reducible apply whenAlive_fr
    | with_reducible apply doSvnCommit_fr hF
    | intro _ _)

theorem adoptFirmware_fr {s : State} (h : Fr q M F s) : Fr q M F (adoptFirmware s) := by
  unfold adoptFirmware
  dsimp only
  repeat' (first
    | with_reducible assumption
    | with_reducible apply setF_fr
    | with_reducible apply setB_fr
    | with_reducible apply Fr.ite
    | dsimp only
    | with_reducible apply Fr.upd)

theorem zeroise_fr {s : State} (h : Fr q M F s) : Fr q M F (zeroise s) := by
  unfold zeroise
  dsimp only
  repeat' (first
    | with_reducible assumption
    | dsimp only
    | with_reducible apply Fr.upd)

theorem lcStart_fr {s : State} (h : Fr q M F s) (x1 : _) : Fr q M F (lcStart s x1) := by
  unfold lcStart
  dsimp only
  repeat' (first
    | with_reducible assumption
    | with_reducible apply setB_fr
    | dsimp only
    | with_reducible apply Fr.upd
    | rfl)

theorem doLcRma_fr (hF : Blown F) {s : State} (h : Fr q M F s) : Fr q M F (doLcRma s) := by
  unfold doLcRma
  repeat' (first
    | with_reducible assumption
    | with_reducible apply lcStart_fr
    | with_reducible apply noteChip_fr
    | with_reducible apply showLifecycle_fr
    | with_reducible apply blow_fr hF
    | with_reducible apply zeroise_fr
    | with_reducible apply Fr.ite
    | intro _ _)

theorem execLcRma_fr (hF : Blown F) {s t : State} (h : Fr q M F s) (e : execLcRma s = .next t) : Fr q M F t := by
  unfold execLcRma at e
  injection e with e
  subst e
  repeat' (first
    | with_reducible assumption
    | with_reducible apply whenAlive_fr
    | with_reducible apply doLcRma_fr hF
    | intro _ _)

theorem doLcVoid_fr (hF : Blown F) {s : State} (h : Fr q M F s) : Fr q M F (doLcVoid s) := by
  unfold doLcVoid
  dsimp only
  repeat' (first
    | with_reducible assumption
    | with_reducible apply lcStart_fr
    | with_reducible apply noteChip_fr
    | with_reducible apply showLifecycle_fr
    | with_reducible apply blow_fr hF
    | with_reducible apply Fr.ite
    | intro _ _
    | dsimp only
    | with_reducible apply Fr.upd)

theorem execLcDone_fr {s t : State} (h : Fr q M F s) (e : execLcDone s = .next t) : Fr q M F t := by
  unfold execLcDone at e
  injection e with e
  subst e
  dsimp only
  repeat' (first
    | with_reducible assumption
    | with_reducible apply whenManaged_fr
    | with_reducible apply setB_fr
    | with_reducible apply raise_fr
    | with_reducible apply setF_fr
    | intro _ _
    | split
    | dsimp only
    | with_reducible apply Fr.upd)

theorem doDebugWrite_fr {s : State} (h : Fr q M F s) (x1 : _) : Fr q M F (doDebugWrite s x1) := by
  unfold doDebugWrite
  dsimp only
  repeat' (first
    | with_reducible assumption
    | with_reducible apply setB_fr
    | with_reducible apply Fr.ite
    | dsimp only
    | with_reducible apply Fr.upd
    | rfl)

theorem execDebugLevelWrite_fr {s t : State} (h : Fr q M F s) {x0 : _} (e : execDebugLevelWrite x0 s = .next t) : Fr q M F t := by
  unfold execDebugLevelWrite at e
  injection e with e
  subst e
  repeat' (first
    | with_reducible assumption
    | with_reducible apply whenAlive_fr
    | with_reducible apply doDebugWrite_fr
    | intro _ _)

theorem execDebugLevelTakesEffect_fr {s t : State} (h : Fr q M F s) (e : execDebugLevelTakesEffect s = .next t) : Fr q M F t := by
  unfold execDebugLevelTakesEffect at e
  injection e with e
  subst e
  dsimp only
  repeat' (first
    | with_reducible assumption
    | with_reducible apply whenManaged_fr
    | with_reducible apply toFrameStart_fr
    | with_reducible apply setF_fr
    | with_reducible apply setB_fr
    | with_reducible apply noteChip_fr
    | with_reducible apply Fr.ite
    | intro _ _
    | split
    | dsimp only
    | with_reducible apply Fr.upd)

end Sys2Proof.Machine
end

