-- ==== Sys2Proof/Laws/Tier.lean ====
section
/-!
SUPPORT. What every operation of Machine/Tier.lean leaves alone: each keeps the frame of Laws/Frame.lean.
-/

namespace Sys2Proof.Machine

variable {q : List Instr} {M : Store Byte → Prop} {F : Store Nat → Prop}

theorem takeOp_fr {s : State} (h : Fr q M F s) (x1 : _) : Fr q M F (takeOp s x1) := by
  unfold takeOp
  dsimp only
  repeat' (first
    | with_reducible assumption
    | with_reducible apply setF_fr
    | with_reducible apply recordDx_fr
    | with_reducible apply Fr.ite
    | split
    | dsimp only
    | with_reducible apply Fr.upd)

theorem takeTurns_fr {s : State} (h : Fr q M F s) (x0 : _) (x1 : _) : Fr q M F (takeTurns x0 x1 s) := by
  induction x0 generalizing s x1 with
  | zero =>
    unfold takeTurns
    repeat' (first
      | with_reducible assumption
      | dsimp only
      | with_reducible apply Fr.upd)
  | succ n ih =>
    unfold takeTurns
    dsimp only
    repeat' (first
      | with_reducible assumption
      | with_reducible apply ih
      | with_reducible apply takeOp_fr
      | split
      | dsimp only
      | with_reducible apply Fr.upd)

theorem pumpOps_fr {s : State} (h : Fr q M F s) : Fr q M F (pumpOps s) := by
  unfold pumpOps
  repeat' (first
    | with_reducible assumption
    | with_reducible apply takeTurns_fr)

theorem submit_fr {s : State} (h : Fr q M F s) (x1 : _) (x2 : _) (x3 : _) (x4 : _) (x5 : _) : Fr q M F (submit s x1 x2 x3 x4 x5) := by
  unfold submit
  dsimp only
  repeat' (first
    | with_reducible assumption
    | with_reducible apply pumpOps_fr
    | split
    | dsimp only
    | with_reducible apply Fr.upd)

theorem promote_fr {s : State} (h : Fr q M F s) (x1 : _) : Fr q M F (promote s x1) := by
  unfold promote
  dsimp only
  repeat' (first
    | with_reducible assumption
    | dsimp only
    | with_reducible apply Fr.upd)

theorem flashWrite_fr {s : State} (h : Fr q M F s) (x1 : _) (x2 : _) (x3 : _) (x4 : _) : Fr q M F (flashWrite s x1 x2 x3 x4) := by
  unfold flashWrite
  dsimp only
  repeat' (first
    | with_reducible assumption
    | split
    | dsimp only
    | with_reducible apply Fr.upd)

theorem setGoal_fr {s : State} (h : Fr q M F s) (x1 : _) (x2 : _) : Fr q M F (setGoal s x1 x2) := by
  unfold setGoal
  dsimp only
  repeat' (first
    | with_reducible assumption
    | dsimp only
    | with_reducible apply Fr.upd)

theorem markFailed_fr {s : State} (h : Fr q M F s) (x1 : _) (x2 : _) : Fr q M F (markFailed s x1 x2) := by
  unfold markFailed
  dsimp only
  repeat' (first
    | with_reducible assumption
    | split
    | dsimp only
    | with_reducible apply Fr.upd)

theorem unplace_fr {s : State} (h : Fr q M F s) (x1 : _) : Fr q M F (unplace s x1) := by
  unfold unplace
  dsimp only
  repeat' (first
    | with_reducible assumption
    | dsimp only
    | with_reducible apply Fr.upd)

theorem addWaiter_fr {s : State} (h : Fr q M F s) (x1 : _) (x2 : _) : Fr q M F (addWaiter s x1 x2) := by
  unfold addWaiter
  dsimp only
  repeat' (first
    | with_reducible assumption
    | with_reducible apply Fr.ite
    | dsimp only
    | with_reducible apply Fr.upd)

theorem dropWaiters_fr {s : State} (h : Fr q M F s) (x1 : _) : Fr q M F (dropWaiters s x1) := by
  unfold dropWaiters
  dsimp only
  repeat' (first
    | with_reducible assumption
    | dsimp only
    | with_reducible apply Fr.upd)

theorem failWaiter_fr {s : State} (h : Fr q M F s) (x0 : _) (x1 : _) (x3 : _) : Fr q M F (failWaiter x0 x1 s x3) := by
  unfold failWaiter
  dsimp only
  repeat' (first
    | with_reducible assumption
    | with_reducible apply refuse_fr
    | split
    | dsimp only
    | with_reducible apply Fr.upd)

theorem fillFails_fr {s : State} (h : Fr q M F s) (x1 : _) : Fr q M F (fillFails s x1) := by
  unfold fillFails
  repeat' (first
    | with_reducible assumption
    | with_reducible apply forAll_fr
    | with_reducible apply failWaiter_fr
    | with_reducible apply dropWaiters_fr
    | intro _ _ _)

theorem dropGoal_fr {s : State} (h : Fr q M F s) (x1 : _) : Fr q M F (dropGoal s x1) := by
  unfold dropGoal
  repeat' (first
    | with_reducible assumption
    | with_reducible apply dropWaiters_fr
    | with_reducible apply setGoal_fr
    | split)

theorem placeReq_fr {s : State} (h : Fr q MemOk F s) (x1 : _) (x2 : _) : Fr q MemOk F (placeReq s x1 x2) := by
  unfold placeReq
  dsimp only
  repeat' (first
    | with_reducible assumption
    | with_reducible apply setReq_fr
    | with_reducible apply accessWay_fr)

theorem serveWaiters_fr {s : State} (h : Fr q MemOk F s) (x1 : _) (x2 : _) : Fr q MemOk F (serveWaiters s x1 x2) := by
  unfold serveWaiters
  dsimp only
  repeat' (first
    | with_reducible assumption
    | with_reducible apply forAll_fr
    | with_reducible apply placeReq_fr
    | intro _ _ _
    | split
    | dsimp only
    | with_reducible apply Fr.upd)

theorem startEvict_fr {s : State} (h : Fr q MemOk F s) (x1 : _) (x2 : _) : Fr q MemOk F (startEvict s x1 x2) := by
  unfold startEvict
  dsimp only
  repeat' (first
    | with_reducible assumption
    | with_reducible apply setGoal_fr
    | with_reducible apply setWay_fr
    | with_reducible apply unplace_fr
    | with_reducible apply recallLines_fr)

theorem startFill_fr {s : State} (h : Fr q MemOk F s) (x1 : _) (x2 : _) (x3 : _) : Fr q MemOk F (startFill s x1 x2 x3) := by
  unfold startFill
  repeat' (first
    | with_reducible assumption
    | with_reducible apply fillFails_fr
    | with_reducible apply submit_fr
    | with_reducible apply setWay_fr
    | split)

theorem finishEvict_fr {s : State} (h : Fr q MemOk F s) (x1 : _) : Fr q MemOk F (finishEvict s x1) := by
  unfold finishEvict
  dsimp only
  repeat' (first
    | with_reducible assumption
    | with_reducible apply markFailed_fr
    | with_reducible apply setGoal_fr
    | with_reducible apply setWay_fr
    | with_reducible apply startFill_fr
    | split)

theorem backToDirty_fr {s : State} (h : Fr q MemOk F s) (x1 : _) : Fr q MemOk F (backToDirty s x1) := by
  unfold backToDirty
  dsimp only
  repeat' (first
    | with_reducible assumption
    | with_reducible apply markFailed_fr
    | with_reducible apply setWay_fr
    | with_reducible apply dropGoal_fr
    | with_reducible apply strand_fr
    | with_reducible apply Fr.ite)

theorem homeless_fr {s : State} (h : Fr q MemOk F s) (x1 : _) : Fr q MemOk F (homeless s x1) := by
  unfold homeless
  dsimp only
  repeat' (first
    | with_reducible assumption
    | with_reducible apply finishEvict_fr
    | with_reducible apply setWay_fr
    | with_reducible apply Fr.ite)

theorem writebackWith_fr {s : State} (h : Fr q MemOk F s) (x1 : _) (x2 : _) : Fr q MemOk F (writebackWith s x1 x2) := by
  unfold writebackWith
  dsimp only
  repeat' (first
    | with_reducible assumption
    | with_reducible apply backToDirty_fr
    | with_reducible apply ueRead_fr
    | with_reducible apply homeless_fr
    | with_reducible apply forAll_fr
    | with_reducible apply submit_fr
    | with_reducible apply markFailed_fr
    | with_reducible apply Fr.ite
    | intro _ _ _
    | split)

theorem submitWriteback_fr {s : State} (h : Fr q MemOk F s) (x1 : _) : Fr q MemOk F (submitWriteback s x1) := by
  unfold submitWriteback
  repeat' (first
    | with_reducible assumption
    | with_reducible apply writebackWith_fr)

theorem startClean_fr {s : State} (h : Fr q MemOk F s) (x1 : _) : Fr q MemOk F (startClean s x1) := by
  unfold startClean
  dsimp only
  repeat' (first
    | with_reducible assumption
    | with_reducible apply submitWriteback_fr
    | with_reducible apply setWay_fr
    | with_reducible apply Fr.ite)

theorem pumpEmpty_fr {s : State} (h : Fr q MemOk F s) (x1 : _) : Fr q MemOk F (pumpEmpty s x1) := by
  unfold pumpEmpty
  dsimp only
  repeat' (first
    | with_reducible assumption
    | with_reducible apply setGoal_fr
    | with_reducible apply startEvict_fr
    | with_reducible apply Fr.ite)

theorem wantEmpty_fr {s : State} (h : Fr q MemOk F s) (x1 : _) : Fr q MemOk F (wantEmpty s x1) := by
  unfold wantEmpty
  repeat' (first
    | with_reducible assumption
    | with_reducible apply setGoal_fr
    | with_reducible apply pumpEmpty_fr
    | with_reducible apply startEvict_fr
    | with_reducible apply Fr.ite
    | split)

theorem loseWay_fr {s : State} (h : Fr q MemOk F s) (x1 : _) : Fr q MemOk F (loseWay s x1) := by
  unfold loseWay
  dsimp only
  repeat' (first
    | with_reducible assumption
    | with_reducible apply unplace_fr
    | with_reducible apply forAll_fr
    | with_reducible apply fencePid_fr
    | with_reducible apply setDir_fr
    | with_reducible apply markFailed_fr
    | with_reducible apply setWay_fr
    | with_reducible apply setGoal_fr
    | with_reducible apply fillFails_fr
    | intro _ _ _
    | dsimp only
    | with_reducible apply Fr.upd)

theorem tagsLost_fr {s : State} (h : Fr q MemOk F s) (x1 : _) (x2 : _) : Fr q MemOk F (tagsLost s x1 x2) := by
  unfold tagsLost
  dsimp only
  repeat' (first
    | with_reducible assumption
    | with_reducible apply forAll_fr
    | with_reducible apply loseWay_fr
    | with_reducible apply freshLine_fr
    | with_reducible apply raise_fr
    | with_reducible apply bumpF_fr
    | with_reducible apply faultEntry_fr
    | intro _ _ _)

theorem checkTags_fr {s : State} (h : Fr q MemOk F s) (x1 : _) (x2 : _) : Fr q MemOk F (checkTags s x1 x2) := by
  unfold checkTags
  dsimp only
  repeat' (first
    | with_reducible assumption
    | with_reducible apply tagsLost_fr
    | with_reducible apply addRepair_fr
    | with_reducible apply ueRead_fr
    | with_reducible apply Fr.ite)

theorem readTags_fr {s : State} (h : Fr q MemOk F s) (x1 : _) (x2 : _) (x3 : _) : Fr q MemOk F (readTags s x1 x2 x3) := by
  unfold readTags
  dsimp only
  repeat' (first
    | with_reducible assumption
    | with_reducible apply checkTags_fr
    | split
    | dsimp only
    | with_reducible apply Fr.upd)

theorem startMiss_fr {s : State} (h : Fr q MemOk F s) (x1 : _) (x2 : _) (x3 : _) : Fr q MemOk F (startMiss s x1 x2 x3).2 := by
  unfold startMiss
  dsimp only
  repeat' (first
    | with_reducible assumption
    | with_reducible apply addWaiter_fr
    | with_reducible apply startEvict_fr
    | with_reducible apply startFill_fr
    | with_reducible apply Fr.ite
    | with_reducible apply Fr.ite_snd
    | split)

theorem mergeFill_fr {s : State} (h : Fr q M F s) (x1 : _) (x2 : _) (x3 : _) : Fr q M F (mergeFill s x1 x2 x3) := by
  unfold mergeFill
  repeat' (first
    | with_reducible assumption
    | with_reducible apply addWaiter_fr
    | with_reducible apply bumpF_fr
    | with_reducible apply Fr.ite)

theorem tierFind_fr {s : State} (h : Fr q MemOk F s) (x1 : _) (x2 : _) (x3 : _) : Fr q MemOk F (tierFind s x1 x2 x3).2 := by
  unfold tierFind
  dsimp only
  repeat' (first
    | with_reducible assumption
    | with_reducible apply readTags_fr
    | with_reducible apply promote_fr
    | with_reducible apply mergeFill_fr
    | with_reducible apply startMiss_fr
    | with_reducible apply Fr.ite_snd
    | split
    | dsimp only
    | with_reducible apply Fr.upd)

theorem tierLook_fr {s : State} (h : Fr q MemOk F s) (x1 : _) (x2 : _) (x3 : _) : Fr q MemOk F (tierLook s x1 x2 x3).2 := by
  unfold tierLook
  repeat' (first
    | with_reducible assumption
    | with_reducible apply tierFind_fr
    | with_reducible apply accessWay_fr
    | with_reducible apply wrapF_fr
    | split
    | refine Fr.of_snd (by with_reducible assumption) ?_)

theorem doTierAccess_fr {s : State} (h : Fr q MemOk F s) (x1 : _) (x2 : _) : Fr q MemOk F (doTierAccess s x1 x2) := by
  unfold doTierAccess
  dsimp only
  repeat' (first
    | with_reducible assumption
    | with_reducible apply tierLook_fr
    | with_reducible apply setReq_fr
    | with_reducible apply refuse_fr
    | split
    | refine Fr.of_snd (by with_reducible assumption) ?_)

theorem execTierAccess_fr {s t : State} (h : Fr q MemOk F s) {x0 : _} {x1 : _} (e : execTierAccess x0 x1 s = .next t) : Fr q MemOk F t := by
  unfold execTierAccess at e
  injection e with e
  subst e
  repeat' (first
    | with_reducible assumption
    | with_reducible apply whenAlive_fr
    | with_reducible apply doTierAccess_fr
    | intro _ _)

theorem execTierWayWait_fr {s t : State} (h : Fr q MemOk F s) {x0 : _} {x1 : _} (e : execTierWayWait x0 x1 s = .next t) : Fr q MemOk F t := by
  unfold execTierWayWait at e
  injection e with e
  subst e
  repeat' (first
    | with_reducible assumption
    | with_reducible apply whenAlive_fr
    | with_reducible apply doTierAccess_fr
    | intro _ _)

theorem tierHint_fr {s : State} (h : Fr q MemOk F s) (x1 : _) (x2 : _) : Fr q MemOk F (tierHint s x1 x2) := by
  unfold tierHint
  dsimp only
  repeat' (first
    | with_reducible assumption
    | with_reducible apply bumpF_fr
    | with_reducible apply startMiss_fr
    | with_reducible apply Fr.ite
    | split
    | refine Fr.of_snd (by with_reducible assumption) ?_)

theorem doEvictRecallDone_fr {s : State} (h : Fr q MemOk F s) (x1 : _) : Fr q MemOk F (doEvictRecallDone s x1) := by
  unfold doEvictRecallDone
  repeat' (first
    | with_reducible assumption
    | with_reducible apply pumpEmpty_fr
    | with_reducible apply submitWriteback_fr
    | with_reducible apply finishEvict_fr
    | with_reducible apply Fr.ite)

theorem execEvictRecallDone_fr {s t : State} (h : Fr q MemOk F s) {x0 : _} {x1 : _} {x2 : _} (e : execEvictRecallDone x0 x1 x2 s = .next t) : Fr q MemOk F t := by
  unfold execEvictRecallDone at e
  injection e with e
  subst e
  repeat' (first
    | with_reducible assumption
    | with_reducible apply whenAlive_fr
    | with_reducible apply doEvictRecallDone_fr
    | intro _ _)

theorem dropCmd_fr {s : State} (h : Fr q M F s) (x1 : _) : Fr q M F (dropCmd s x1) := by
  unfold dropCmd
  dsimp only
  repeat' (first
    | with_reducible assumption
    | dsimp only
    | with_reducible apply Fr.upd)

theorem answered_fr {s : State} (h : Fr q M F s) (x1 : _) : Fr q M F (answered s x1) := by
  unfold answered
  dsimp only
  repeat' (first
    | with_reducible assumption
    | dsimp only
    | with_reducible apply Fr.upd)

theorem fillDone_fr {s : State} (h : Fr q MemOk F s) (x1 : _) : Fr q MemOk F (fillDone s x1) := by
  unfold fillDone
  dsimp only
  repeat' (first
    | with_reducible assumption
    | with_reducible apply forAll_fr
    | with_reducible apply setDir_fr
    | with_reducible apply storeLine_fr
    | with_reducible apply wrapF_fr
    | with_reducible apply pumpEmpty_fr
    | with_reducible apply serveWaiters_fr
    | with_reducible apply setWay_fr
    | intro _ _ _)

theorem doFillComplete_fr {s : State} (h : Fr q MemOk F s) (x1 : _) : Fr q MemOk F (doFillComplete s x1) := by
  unfold doFillComplete
  dsimp only
  repeat' (first
    | with_reducible assumption
    | with_reducible apply pumpOps_fr
    | with_reducible apply forAll_fr
    | with_reducible apply fillDone_fr
    | with_reducible apply answered_fr
    | with_reducible apply dropCmd_fr
    | intro _ _ _
    | split)

theorem execFillComplete_fr {s t : State} (h : Fr q MemOk F s) {x0 : _} {x1 : _} {x2 : _} (e : execFillComplete x0 x1 x2 s = .next t) : Fr q MemOk F t := by
  unfold execFillComplete at e
  injection e with e
  subst e
  repeat' (first
    | with_reducible assumption
    | with_reducible apply whenAlive_fr
    | with_reducible apply doFillComplete_fr
    | intro _ _)

theorem writebackDone_fr {s : State} (h : Fr q MemOk F s) (x1 : _) : Fr q MemOk F (writebackDone s x1) := by
  unfold writebackDone
  dsimp only
  repeat' (first
    | with_reducible assumption
    | with_reducible apply wrapF_fr
    | with_reducible apply finishEvict_fr
    | with_reducible apply pumpEmpty_fr
    | with_reducible apply setWay_fr
    | with_reducible apply Fr.ite)

theorem writeReported_fr {s : State} (h : Fr q MemOk F s) (x1 : _) : Fr q MemOk F (writeReported s x1) := by
  unfold writeReported
  dsimp only
  repeat' (first
    | with_reducible assumption
    | with_reducible apply wrapF_fr
    | with_reducible apply flashWrite_fr
    | with_reducible apply writebackDone_fr
    | with_reducible apply Fr.ite)

theorem doWritebackComplete_fr {s : State} (h : Fr q MemOk F s) (x1 : _) (x2 : _) : Fr q MemOk F (doWritebackComplete s x1 x2) := by
  unfold doWritebackComplete
  dsimp only
  repeat' (first
    | with_reducible assumption
    | with_reducible apply pumpOps_fr
    | with_reducible apply forAll_fr
    | with_reducible apply writeReported_fr
    | with_reducible apply answered_fr
    | with_reducible apply dropCmd_fr
    | intro _ _ _
    | split)

theorem execWritebackComplete_fr {s t : State} (h : Fr q MemOk F s) {x0 : _} {x1 : _} {x2 : _} {x3 : _} (e : execWritebackComplete x0 x1 x2 x3 s = .next t) : Fr q MemOk F t := by
  unfold execWritebackComplete at e
  injection e with e
  subst e
  repeat' (first
    | with_reducible assumption
    | with_reducible apply whenAlive_fr
    | with_reducible apply doWritebackComplete_fr
    | intro _ _)

theorem opLost_fr {s : State} (h : Fr q MemOk F s) (x1 : _) : Fr q MemOk F (opLost s x1) := by
  unfold opLost
  dsimp only
  repeat' (first
    | with_reducible assumption
    | with_reducible apply writebackDone_fr
    | with_reducible apply backToDirty_fr
    | with_reducible apply submit_fr
    | with_reducible apply fillFails_fr
    | with_reducible apply setGoal_fr
    | with_reducible apply setWay_fr
    | with_reducible apply Fr.ite
    | split)

theorem releaseWindow_fr {s : State} (h : Fr q MemOk F s) (x1 : _) : Fr q MemOk F (releaseWindow s x1) := by
  unfold releaseWindow
  dsimp only
  repeat' (first
    | with_reducible assumption
    | with_reducible apply forAll_fr
    | with_reducible apply setWay_fr
    | intro _ _ _
    | dsimp only
    | with_reducible apply Fr.upd)

theorem strandWindow_fr {s : State} (h : Fr q MemOk F s) (x1 : _) : Fr q MemOk F (strandWindow s x1) := by
  unfold strandWindow
  repeat' (first
    | with_reducible assumption
    | with_reducible apply forAll_fr
    | with_reducible apply strand_fr
    | intro _ _ _)

theorem driveLost_fr {s : State} (h : Fr q MemOk F s) (x1 : _) (x2 : _) : Fr q MemOk F (driveLost s x1 x2) := by
  unfold driveLost
  dsimp only
  repeat' (first
    | with_reducible assumption
    | with_reducible apply setF_fr
    | with_reducible apply raise_fr
    | with_reducible apply faultEntry_fr
    | with_reducible apply setB_fr
    | with_reducible apply pumpOps_fr
    | with_reducible apply forAll_fr
    | with_reducible apply opLost_fr
    | with_reducible apply strandWindow_fr
    | with_reducible apply Fr.ite
    | intro _ _ _
    | split
    | dsimp only
    | with_reducible apply Fr.upd)

theorem retryOps_fr {s : State} (h : Fr q M F s) (x1 : _) (x2 : _) : Fr q M F (retryOps s x1 x2) := by
  unfold retryOps
  dsimp only
  repeat' (first
    | with_reducible assumption
    | with_reducible apply pumpOps_fr
    | dsimp only
    | with_reducible apply Fr.upd)

theorem secondFailure_fr {s : State} (h : Fr q MemOk F s) (x1 : _) (x2 : _) : Fr q MemOk F (secondFailure s x1 x2) := by
  unfold secondFailure
  dsimp only
  repeat' (first
    | with_reducible assumption
    | with_reducible apply driveLost_fr
    | with_reducible apply forAll_fr
    | with_reducible apply backToDirty_fr
    | with_reducible apply fillFails_fr
    | with_reducible apply setGoal_fr
    | with_reducible apply setWay_fr
    | with_reducible apply Fr.ite
    | intro _ _ _
    | split
    | dsimp only
    | with_reducible apply Fr.upd)

theorem doCommandFail_fr {s : State} (h : Fr q MemOk F s) (x1 : _) (x2 : _) (x3 : _) : Fr q MemOk F (doCommandFail s x1 x2 x3) := by
  unfold doCommandFail
  dsimp only
  repeat' (first
    | with_reducible assumption
    | with_reducible apply bumpF_fr
    | with_reducible apply faultEntry_fr
    | with_reducible apply driveLost_fr
    | with_reducible apply dropCmd_fr
    | with_reducible apply pumpOps_fr
    | with_reducible apply secondFailure_fr
    | with_reducible apply retryOps_fr
    | with_reducible apply Fr.ite
    | split
    | dsimp only
    | with_reducible apply Fr.upd)

theorem execNvmeTimeout_fr {s t : State} (h : Fr q MemOk F s) {x0 : _} {x1 : _} {x2 : _} {x3 : _} (e : execNvmeTimeout x0 x1 x2 x3 s = .next t) : Fr q MemOk F t := by
  unfold execNvmeTimeout at e
  injection e with e
  subst e
  repeat' (first
    | with_reducible assumption
    | with_reducible apply whenAlive_fr
    | with_reducible apply doCommandFail_fr
    | intro _ _)

theorem execNvmeCommandFail_fr {s t : State} (h : Fr q MemOk F s) {x0 : _} {x1 : _} {x2 : _} {x3 : _} (e : execNvmeCommandFail x0 x1 x2 x3 s = .next t) : Fr q MemOk F t := by
  unfold execNvmeCommandFail at e
  injection e with e
  subst e
  repeat' (first
    | with_reducible assumption
    | with_reducible apply whenAlive_fr
    | with_reducible apply doCommandFail_fr
    | intro _ _)

theorem driveFails_fr {s : State} (h : Fr q MemOk F s) (x1 : _) (x2 : _) : Fr q MemOk F (driveFails s x1 x2) := by
  unfold driveFails
  dsimp only
  repeat' (first
    | with_reducible assumption
    | with_reducible apply driveLost_fr
    | split
    | dsimp only
    | with_reducible apply Fr.upd)

theorem doRootDown_fr {s : State} (h : Fr q MemOk F s) (x1 : _) : Fr q MemOk F (doRootDown s x1) := by
  unfold doRootDown
  repeat' (first
    | with_reducible assumption
    | with_reducible apply driveFails_fr
    | with_reducible apply raise_fr
    | with_reducible apply setB_fr
    | with_reducible apply Fr.ite)

theorem execRootLinkDown_fr {s t : State} (h : Fr q MemOk F s) {x0 : _} (e : execRootLinkDown x0 s = .next t) : Fr q MemOk F t := by
  unfold execRootLinkDown at e
  injection e with e
  subst e
  repeat' (first
    | with_reducible assumption
    | with_reducible apply whenAlive_fr
    | with_reducible apply doRootDown_fr
    | intro _ _)

theorem doRebuild_fr {s : State} (h : Fr q M F s) (x1 : _) : Fr q M F (doRebuild s x1) := by
  unfold doRebuild
  dsimp only
  repeat' (first
    | with_reducible assumption
    | with_reducible apply setB_fr
    | with_reducible apply setF_fr
    | with_reducible apply Fr.ite
    | dsimp only
    | with_reducible apply Fr.upd)

theorem execRebuildGo_fr {s t : State} (h : Fr q M F s) {x0 : _} (e : execRebuildGo x0 s = .next t) : Fr q M F t := by
  unfold execRebuildGo at e
  injection e with e
  subst e
  repeat' (first
    | with_reducible assumption
    | with_reducible apply whenAlive_fr
    | with_reducible apply doRebuild_fr
    | intro _ _)

theorem copyTo_fr {s : State} (h : Fr q M F s) (x1 : _) (x2 : _) : Fr q M F (copyTo s x1 x2) := by
  unfold copyTo
  dsimp only
  repeat' (first
    | with_reducible assumption
    | with_reducible apply wrapF_fr
    | with_reducible apply setF_fr
    | dsimp only
    | with_reducible apply Fr.upd)

theorem rebuildSeen_fr {s : State} (h : Fr q M F s) : Fr q M F (rebuildSeen s) := by
  unfold rebuildSeen
  dsimp only
  repeat' (first
    | with_reducible assumption
    | with_reducible apply freeNat_fr
    | with_reducible apply copyTo_fr
    | split)

theorem doRebuildDone_fr {s : State} (h : Fr q M F s) : Fr q M F (doRebuildDone s) := by
  unfold doRebuildDone
  dsimp only
  repeat' (first
    | with_reducible assumption
    | with_reducible apply copyTo_fr
    | with_reducible apply raise_fr
    | with_reducible apply setB_fr
    | split
    | dsimp only
    | with_reducible apply Fr.upd)

theorem execRebuildDone_fr {s t : State} (h : Fr q M F s) (e : execRebuildDone s = .next t) : Fr q M F t := by
  unfold execRebuildDone at e
  injection e with e
  subst e
  repeat' (first
    | with_reducible assumption
    | with_reducible apply whenAlive_fr
    | with_reducible apply doRebuildDone_fr)

theorem doTierFlush_fr {s : State} (h : Fr q MemOk F s) (x1 : _) : Fr q MemOk F (doTierFlush s x1) := by
  unfold doTierFlush
  repeat' (first
    | with_reducible assumption
    | with_reducible apply forAll_fr
    | with_reducible apply wantEmpty_fr
    | with_reducible apply setB_fr
    | intro _ _ _)

theorem execTierFlush_fr {s t : State} (h : Fr q MemOk F s) {x0 : _} (e : execTierFlush x0 s = .next t) : Fr q MemOk F t := by
  unfold execTierFlush at e
  injection e with e
  subst e
  repeat' (first
    | with_reducible assumption
    | with_reducible apply whenAlive_fr
    | with_reducible apply doTierFlush_fr
    | intro _ _)

theorem doTierFlushDone_fr {s : State} (h : Fr q MemOk F s) (x1 : _) : Fr q MemOk F (doTierFlushDone s x1) := by
  unfold doTierFlushDone
  dsimp only
  repeat' (first
    | with_reducible assumption
    | with_reducible apply forAll_fr
    | with_reducible apply pumpEmpty_fr
    | with_reducible apply raise_fr
    | with_reducible apply setB_fr
    | with_reducible apply Fr.ite
    | intro _ _ _)

theorem execTierFlushDone_fr {s t : State} (h : Fr q MemOk F s) {x0 : _} (e : execTierFlushDone x0 s = .next t) : Fr q MemOk F t := by
  unfold execTierFlushDone at e
  injection e with e
  subst e
  repeat' (first
    | with_reducible assumption
    | with_reducible apply whenAlive_fr
    | with_reducible apply doTierFlushDone_fr
    | intro _ _)

theorem evictRange_fr {s : State} (h : Fr q MemOk F s) (x1 : _) (x2 : _) (x3 : _) : Fr q MemOk F (evictRange s x1 x2 x3) := by
  unfold evictRange
  repeat' (first
    | with_reducible assumption
    | with_reducible apply forAll_fr
    | with_reducible apply wantEmpty_fr
    | intro _ _ _)

theorem tierWarm_fr {s : State} (h : Fr q MemOk F s) : Fr q MemOk F (tierWarm s) := by
  unfold tierWarm
  dsimp only
  repeat' (first
    | with_reducible assumption
    | with_reducible apply forAll_fr
    | with_reducible apply setWay_fr
    | intro _ _ _
    | dsimp only
    | with_reducible apply Fr.upd)

theorem doCacheWrite_fr {s : State} (h : Fr q M F s) (x1 : _) (x2 : _) : Fr q M F (doCacheWrite s x1 x2) := by
  unfold doCacheWrite
  repeat' (first
    | with_reducible assumption
    | with_reducible apply setB_fr
    | with_reducible apply setF_fr
    | with_reducible apply Fr.ite)

theorem execPtCacheWrite_fr {s t : State} (h : Fr q M F s) {x0 : _} {x1 : _} (e : execPtCacheWrite x0 x1 s = .next t) : Fr q M F t := by
  unfold execPtCacheWrite at e
  injection e with e
  subst e
  repeat' (first
    | with_reducible assumption
    | with_reducible apply whenAlive_fr
    | with_reducible apply doCacheWrite_fr
    | intro _ _)

theorem doDriveAssign_fr {s : State} (h : Fr q M F s) (x1 : _) (x2 : _) : Fr q M F (doDriveAssign s x1 x2) := by
  unfold doDriveAssign
  dsimp only
  repeat' (first
    | with_reducible assumption
    | with_reducible apply setB_fr
    | with_reducible apply setF_fr
    | with_reducible apply bumpConfigGen_fr
    | with_reducible apply newTierKey_fr
    | with_reducible apply Fr.ite)

theorem execDriveAssign_fr {s t : State} (h : Fr q M F s) {x0 : _} {x1 : _} (e : execDriveAssign x0 x1 s = .next t) : Fr q M F t := by
  unfold execDriveAssign at e
  injection e with e
  subst e
  repeat' (first
    | with_reducible assumption
    | with_reducible apply whenAlive_fr
    | with_reducible apply doDriveAssign_fr
    | intro _ _)

theorem setPerst_fr {s : State} (h : Fr q M F s) (x1 : _) (x2 : _) : Fr q M F (setPerst s x1 x2) := by
  unfold setPerst
  dsimp only
  repeat' (first
    | with_reducible assumption
    | split
    | dsimp only
    | with_reducible apply Fr.upd)

theorem doPortReset_fr {s : State} (h : Fr q M F s) (x1 : _) : Fr q M F (doPortReset s x1) := by
  unfold doPortReset
  dsimp only
  repeat' (first
    | with_reducible assumption
    | with_reducible apply setPerst_fr
    | with_reducible apply setF_fr
    | with_reducible apply setB_fr
    | with_reducible apply Fr.ite)

theorem execPortReset_fr {s t : State} (h : Fr q M F s) {x0 : _} (e : execPortReset x0 s = .next t) : Fr q M F t := by
  unfold execPortReset at e
  injection e with e
  subst e
  repeat' (first
    | with_reducible assumption
    | with_reducible apply whenAlive_fr
    | with_reducible apply doPortReset_fr
    | intro _ _)

theorem doDriveReady_fr {s : State} (h : Fr q M F s) (x1 : _) (x2 : _) (x3 : _) (x4 : _) (x5 : _) (x6 : _) : Fr q M F (doDriveReady s x1 x2 x3 x4 x5 x6) := by
  unfold doDriveReady
  dsimp only
  repeat' (first
    | with_reducible assumption
    | with_reducible apply setB_fr
    | with_reducible apply setF_fr
    | with_reducible apply setPerst_fr
    | with_reducible apply raise_fr
    | with_reducible apply Fr.ite
    | split
    | dsimp only
    | with_reducible apply Fr.upd)

theorem execDriveReady_fr {s t : State} (h : Fr q M F s) {x0 : _} {x1 : _} {x2 : _} {x3 : _} {x4 : _} {x5 : _} (e : execDriveReady x0 x1 x2 x3 x4 x5 s = .next t) : Fr q M F t := by
  unfold execDriveReady at e
  injection e with e
  subst e
  repeat' (first
    | with_reducible assumption
    | with_reducible apply whenAlive_fr
    | with_reducible apply doDriveReady_fr
    | intro _ _)

theorem execDriveRequest_fr {s t : State} (h : Fr q M F s) {x0 : _} {x1 : _} (e : execDriveRequest x0 x1 s = .next t) : Fr q M F t := by
  unfold execDriveRequest at e
  injection e with e
  subst e
  dsimp only
  repeat' (first
    | with_reducible assumption
    | with_reducible apply whenAlive_fr
    | with_reducible apply addF_fr
    | with_reducible apply bumpF_fr
    | with_reducible apply Fr.ite
    | intro _ _)

end Sys2Proof.Machine
end

