-- ==== Sys2Proof/Laws/CoreLost.lean ====
section
/-!
SUPPORT. What every operation of Machine/CoreLost.lean leaves alone: each keeps the frame of Laws/Frame.lean.
-/

namespace Sys2Proof.Machine

variable {q : List Instr} {M : Store Byte → Prop} {F : Store Nat → Prop}

theorem refuseLost_fr {s : State} (h : Fr q M F s) (x1 : _) : Fr q M F (refuseLost s x1) := by
  unfold refuseLost
  dsimp only
  repeat' (first
    | with_reducible assumption
    | with_reducible apply forAll_fr
    | with_reducible apply refuse_fr
    | intro _ _ _)

theorem failEngines_fr {s : State} (h : Fr q M F s) (x1 : _) : Fr q M F (failEngines s x1) := by
  unfold failEngines
  dsimp only
  repeat' (first
    | with_reducible assumption
    | dsimp only
    | with_reducible apply Fr.upd)

theorem loseRegion_fr {s : State} (h : Fr q M F s) (x1 : _) : Fr q M F (loseRegion s x1) := by
  unfold loseRegion
  dsimp only
  repeat' (first
    | with_reducible assumption
    | with_reducible apply failEngines_fr
    | with_reducible apply refuseLost_fr
    | dsimp only
    | with_reducible apply Fr.upd)

theorem loseImages_fr {s : State} (h : Fr q M F s) (x1 : _) : Fr q M F (loseImages s x1) := by
  unfold loseImages
  dsimp only
  repeat' (first
    | with_reducible assumption
    | dsimp only
    | with_reducible apply Fr.upd)

theorem discardWork_fr {s : State} (h : Fr q M F s) (x1 : _) : Fr q M F (discardWork s x1) := by
  unfold discardWork
  dsimp only
  repeat' (first
    | with_reducible assumption
    | dsimp only
    | with_reducible apply Fr.upd)

theorem reportLost_fr {s : State} (h : Fr q M F s) (x1 : _) : Fr q M F (reportLost s x1) := by
  unfold reportLost
  dsimp only
  repeat' (first
    | with_reducible assumption
    | dsimp only
    | with_reducible apply Fr.upd)

theorem declareLost_fr {s : State} (h : Fr q M F s) (x1 : _) (x2 : _) : Fr q M F (declareLost s x1 x2) := by
  unfold declareLost
  dsimp only
  repeat' (first
    | with_reducible assumption
    | with_reducible apply raise_fr
    | with_reducible apply setBitF_fr
    | with_reducible apply faultEntry_fr
    | with_reducible apply forAll_fr
    | with_reducible apply sendMgmt_fr
    | with_reducible apply bumpConfigGen_fr
    | with_reducible apply recordDx_fr
    | with_reducible apply discardWork_fr
    | with_reducible apply reportLost_fr
    | with_reducible apply loseImages_fr
    | with_reducible apply loseRegion_fr
    | with_reducible apply Fr.ite
    | intro _ _ _
    | split
    | dsimp only
    | with_reducible apply Fr.upd)

theorem moveRegion_fr {s : State} (h : Fr q M F s) (x1 : _) (x2 : _) : Fr q M F (moveRegion s x1 x2) := by
  unfold moveRegion
  dsimp only
  repeat' (first
    | with_reducible assumption
    | dsimp only
    | with_reducible apply Fr.upd)

theorem failover_fr {s : State} (h : Fr q M F s) (x1 : _) : Fr q M F (failover s x1) := by
  unfold failover
  dsimp only
  repeat' (first
    | with_reducible assumption
    | with_reducible apply noteBusy_fr
    | with_reducible apply moveRegion_fr
    | with_reducible apply loseRegion_fr
    | with_reducible apply Fr.ite
    | split
    | dsimp only
    | with_reducible apply Fr.upd)

theorem doMirrorFailoverDone_fr {s : State} (h : Fr q M F s) (x1 : _) : Fr q M F (doMirrorFailoverDone s x1) := by
  unfold doMirrorFailoverDone
  repeat' (first
    | with_reducible assumption
    | with_reducible apply forAll_fr
    | with_reducible apply failover_fr
    | intro _ _ _)

theorem execMirrorFailoverDone_fr {s t : State} (h : Fr q M F s) {x0 : _} (e : execMirrorFailoverDone x0 s = .next t) : Fr q M F t := by
  unfold execMirrorFailoverDone at e
  injection e with e
  subst e
  repeat' (first
    | with_reducible assumption
    | with_reducible apply whenAlive_fr
    | with_reducible apply doMirrorFailoverDone_fr
    | intro _ _)

theorem checkChannels_fr {s : State} (h : Fr q M F s) (x1 : _) : Fr q M F (checkChannels s x1) := by
  unfold checkChannels
  repeat' (first
    | with_reducible assumption
    | with_reducible apply declareLost_fr
    | with_reducible apply Fr.ite)

end Sys2Proof.Machine
end

