-- ==== Sys2Proof/Laws/LinkBase.lean ====
section
/-!
SUPPORT. What every operation of Machine/LinkBase.lean leaves alone: each keeps the frame of Laws/Frame.lean.
-/

namespace Sys2Proof.Machine

variable {q : List Instr} {M : Store Byte → Prop} {F : Store Nat → Prop}

theorem setLink_fr {s : State} (h : Fr q M F s) (x1 : _) (x2 : _) : Fr q M F (setLink s x1 x2) := by
  unfold setLink
  repeat' (first
    | with_reducible assumption
    | dsimp only
    | with_reducible apply Fr.upd)

theorem freeUnits_fr {s : State} (h : Fr q M F s) (x1 : _) (x2 : _) : Fr q M F (freeUnits s x1 x2) := by
  unfold freeUnits
  dsimp only
  repeat' (first
    | with_reducible assumption
    | with_reducible apply setLink_fr)

theorem startFrame_fr {s : State} (h : Fr q M F s) (x1 : _) (x2 : _) : Fr q M F (startFrame s x1 x2) := by
  unfold startFrame
  dsimp only
  repeat' (first
    | with_reducible assumption
    | with_reducible apply setLink_fr
    | with_reducible apply setF_fr
    | with_reducible apply Fr.ite)

theorem sendBytes_fr {s : State} (h : Fr q M F s) (x0 : _) (x1 : _) (x2 : _) (x3 : _) : Fr q M F (sendBytes x0 x1 x2 x3 s) := by
  induction x1 generalizing s x2 x3 with
  | zero =>
    unfold sendBytes
    repeat' (first
      | with_reducible assumption
      | with_reducible apply setLink_fr)
  | succ n ih =>
    unfold sendBytes
    dsimp only
    repeat' (first
      | with_reducible assumption
      | with_reducible apply ih
      | with_reducible apply setLink_fr
      | with_reducible apply startFrame_fr
      | with_reducible apply Fr.ite
      | split)

theorem ctrlFrames_fr {s : State} (h : Fr q M F s) (x0 : _) (x1 : _) (x2 : _) : Fr q M F (ctrlFrames x0 x1 x2 s) := by
  induction x1 generalizing s x2 with
  | zero =>
    unfold ctrlFrames
    repeat' with_reducible assumption
  | succ n ih =>
    unfold ctrlFrames
    repeat' (first
      | with_reducible assumption
      | with_reducible apply ih
      | with_reducible apply startFrame_fr
      | with_reducible apply Fr.ite)

theorem flushCtrl_fr {s : State} (h : Fr q M F s) (x0 : _) (x1 : _) : Fr q M F (flushCtrl x0 x1 s) := by
  induction x1 generalizing s with
  | zero =>
    unfold flushCtrl
    repeat' with_reducible assumption
  | succ n ih =>
    unfold flushCtrl
    dsimp only
    repeat' (first
      | with_reducible assumption
      | with_reducible apply ih
      | with_reducible apply setLink_fr
      | with_reducible apply ctrlFrames_fr
      | with_reducible apply Fr.ite
      | split)

theorem flushLink_fr {s : State} (h : Fr q M F s) (x1 : _) : Fr q M F (flushLink s x1) := by
  unfold flushLink
  dsimp only
  repeat' (first
    | with_reducible assumption
    | with_reducible apply flushCtrl_fr
    | with_reducible apply sendBytes_fr
    | with_reducible apply Fr.ite)

theorem sendCtrl_fr {s : State} (h : Fr q M F s) (x1 : _) (x2 : _) : Fr q M F (sendCtrl s x1 x2) := by
  unfold sendCtrl
  dsimp only
  repeat' (first
    | with_reducible assumption
    | with_reducible apply flushCtrl_fr
    | with_reducible apply setLink_fr)

theorem linkSend_fr {s : State} (h : Fr q M F s) (x1 : _) (x2 : _) : Fr q M F (linkSend s x1 x2) := by
  unfold linkSend
  dsimp only
  repeat' (first
    | with_reducible assumption
    | with_reducible apply sendBytes_fr
    | with_reducible apply setLink_fr)

end Sys2Proof.Machine
end

