-- ==== Sys2Proof/Laws/EngineBase.lean ====
section
/-!
SUPPORT. What every operation of Machine/EngineBase.lean leaves alone: each keeps the frame of Laws/Frame.lean.
-/

namespace Sys2Proof.Machine

variable {q : List Instr} {M : Store Byte → Prop} {F : Store Nat → Prop}

theorem pagePlace_fr {s : State} (h : Fr q M F s) (x1 : _) (x2 : _) (x3 : _) (x4 : _) (x5 : _) : Fr q M F (pagePlace s x1 x2 x3 x4 x5).2 := by
  unfold pagePlace
  dsimp only
  repeat' (first
    | with_reducible assumption
    | with_reducible apply engineTranslate_fr
    | with_reducible apply Fr.ite
    | split
    | dsimp only
    | with_reducible apply Fr.upd)

theorem translateAll_fr {s : State} (h : Fr q M F s) (x0 : _) (x1 : _) (x2 : _) (x3 : _) (x4 : _) (x5 : _) : Fr q M F (translateAll x0 x1 x2 x3 x4 x5 s).2 := by
  induction x4 generalizing s x5 with
  | nil =>
    unfold translateAll
    repeat' with_reducible assumption
  | cons x l ih =>
    unfold translateAll
    repeat' (first
      | with_reducible assumption
      | with_reducible apply ih
      | with_reducible apply pagePlace_fr
      | split
      | dsimp only
      | refine Fr.of_snd (by with_reducible assumption) ?_)

theorem reachBlocks_fr {s : State} (h : Fr q MemOk F s) (x0 : _) (x1 : _) (x2 : _) : Fr q MemOk F (reachBlocks x0 x1 x2 s).2 := by
  induction x2 generalizing s with
  | nil =>
    unfold reachBlocks
    repeat' with_reducible assumption
  | cons x l ih =>
    unfold reachBlocks
    repeat' (first
      | with_reducible assumption
      | with_reducible apply ih
      | with_reducible apply tierFind_fr
      | split
      | dsimp only
      | refine Fr.of_snd (by with_reducible assumption) ?_)

theorem takeFail_fr {s : State} (h : Fr q M F s) (x1 : _) : Fr q M F (takeFail s x1).2 := by
  unfold takeFail
  dsimp only
  repeat' (first
    | with_reducible assumption
    | split
    | dsimp only
    | with_reducible apply Fr.upd)

theorem askOwners_fr {s : State} (h : Fr q MemOk F s) (x1 : _) (x2 : _) (x3 : _) : Fr q MemOk F (askOwners s x1 x2 x3) := by
  unfold askOwners
  repeat' (first
    | with_reducible assumption
    | with_reducible apply forAll_fr
    | with_reducible apply agentReq_fr
    | with_reducible apply Fr.ite
    | intro _ _ _
    | split)

theorem countEngine_fr {s : State} (h : Fr q MemOk F s) (x1 : _) (x2 : _) : Fr q MemOk F (countEngine s x1 x2) := by
  unfold countEngine
  dsimp only
  repeat' (first
    | with_reducible assumption
    | with_reducible apply accessWay_fr
    | with_reducible apply wrapF_fr
    | with_reducible apply countAccess_fr
    | with_reducible apply Fr.ite
    | split)

theorem readLines_fr {s : State} (h : Fr q MemOk F s) (core eng pt : Nat) (l : List (Nat × Nat)) (m : Store Nat) :
    Fr q MemOk F (readLines core eng pt l m s).2 := by
  induction l generalizing m s with
  | nil => exact h
  | cons x l ih =>
    unfold readLines
    refine Fr.ite_snd h ?_
    have h1 := takeFail_fr (agentReq_fr (countEngine_fr h core x.2) x.2 (engReq (core * 16 + eng) pt x.1 0x04 0 0 none))
      (core * 16 + eng)
    dsimp only
    split
    · rename_i e; rw [e] at h1; exact h1
    · rename_i e; rw [e] at h1; exact ih h1 _

theorem reachLines_fr {s : State} (h : Fr q MemOk F s) (x1 : _) (x2 : _) (x3 : _) (x4 : _) : Fr q MemOk F (reachLines s x1 x2 x3 x4).2 := by
  unfold reachLines
  dsimp only
  repeat' (first
    | with_reducible assumption
    | with_reducible apply takeFail_fr
    | with_reducible apply reachBlocks_fr
    | with_reducible apply Fr.ite_snd
    | split
    | dsimp only
    | refine Fr.of_snd (by with_reducible assumption) ?_)

theorem fetchLines_fr {s : State} (h : Fr q MemOk F s) (x1 : _) (x2 : _) (x3 : _) (x4 : _) : Fr q MemOk F (fetchLines s x1 x2 x3 x4).2 := by
  unfold fetchLines
  dsimp only
  repeat' (first
    | with_reducible assumption
    | with_reducible apply askOwners_fr
    | with_reducible apply readLines_fr
    | with_reducible apply Fr.ite_snd)

theorem seqLines_fr {s : State} (h : Fr q MemOk F s) (x1 : _) (x2 : _) (x3 : _) (x4 : _) (x5 : _) : Fr q MemOk F (seqLines s x1 x2 x3 x4 x5).2 := by
  unfold seqLines
  dsimp only
  repeat' (first
    | with_reducible assumption
    | with_reducible apply xltFault_fr
    | with_reducible apply translateAll_fr
    | with_reducible apply reachLines_fr
    | with_reducible apply fetchLines_fr
    | with_reducible apply Fr.ite_snd
    | split
    | dsimp only
    | refine Fr.of_snd (by with_reducible assumption) ?_)

theorem seqRead_fr {s : State} (h : Fr q MemOk F s) (x1 : _) (x2 : _) (x3 : _) (x4 : _) (x5 : _) : Fr q MemOk F (seqRead s x1 x2 x3 x4 x5).2 := by
  unfold seqRead
  repeat' (first
    | with_reducible assumption
    | with_reducible apply seqLines_fr
    | split
    | dsimp only
    | refine Fr.of_snd (by with_reducible assumption) ?_)

theorem mergeWrite_fr {a : Store (Nat × Nat × Nat) × State} (h : Fr q M F a.2) (key va data mask : Nat) :
    Fr q M F (mergeWrite a key va data mask).2 := by
  unfold mergeWrite
  dsimp only
  exact Fr.ite_snd h (freeNat_fr h 1024)

theorem streamWrites_fr {a : Store (Nat × Nat × Nat) × State} (h : Fr q M F a.2) (keys : Store Nat) (r : Rows)
    (data : Nat) : Fr q M F (streamWrites keys a r data).2 := by
  have step {β : Type} {f : (Store (Nat × Nat × Nat) × State) × Nat → β → (Store (Nat × Nat × Nat) × State) × Nat}
      (hf : ∀ p x, Fr q M F p.1.2 → Fr q M F (f p x).1.2) :
      ∀ (l : List β) {p : (Store (Nat × Nat × Nat) × State) × Nat}, Fr q M F p.1.2 → Fr q M F (l.foldl f p).1.2 := by
    intro l
    induction l with
    | nil => exact fun h => h
    | cons x l ih => exact fun h => ih (hf _ x h)
  unfold streamWrites
  dsimp only
  refine step (fun p x h => ?_) _ h
  exact step (fun p x h => mergeWrite_fr h _ _ _ _) _ h

theorem issueWrites_fr {s : State} (h : Fr q MemOk F s) (x0 : _) (x1 : _) (x2 : _) (x3 : _) (x4 : _) (x5 : _) : Fr q MemOk F (issueWrites x0 x1 x2 x3 x4 x5 s).2 := by
  induction x5 generalizing s with
  | nil =>
    unfold issueWrites
    repeat' with_reducible assumption
  | cons x l ih =>
    unfold issueWrites
    dsimp only
    repeat' (first
      | with_reducible assumption
      | with_reducible apply ih
      | with_reducible apply agentReq_fr
      | with_reducible apply countEngine_fr
      | with_reducible apply Fr.ite_snd)

theorem putShare_fr {s : State} (h : Fr q M F s) (x1 : _) : Fr q M F (putShare s x1) := by
  unfold putShare
  dsimp only
  repeat' (first
    | with_reducible assumption
    | dsimp only
    | with_reducible apply Fr.upd)

theorem onShare_fr {s : State} (h : Fr q M F s) (x1 : _) (x2 : _) (x3 : _) : Fr q M F (onShare s x1 x2 x3) := by
  unfold onShare
  repeat' (first
    | with_reducible assumption
    | with_reducible apply putShare_fr
    | split)

theorem setReady_fr {s : State} (h : Fr q M F s) (x1 : _) (x2 : _) (x3 : _) : Fr q M F (setReady s x1 x2 x3) := by
  unfold setReady
  dsimp only
  repeat' (first
    | with_reducible assumption
    | dsimp only
    | with_reducible apply Fr.upd)

theorem setQueueAt_fr {s : State} (h : Fr q M F s) (x1 : _) (x2 : _) : Fr q M F (setQueueAt s x1 x2) := by
  unfold setQueueAt
  dsimp only
  repeat' (first
    | with_reducible assumption
    | dsimp only
    | with_reducible apply Fr.upd)

theorem setColl_fr {s : State} (h : Fr q M F s) (x1 : _) (x2 : _) : Fr q M F (setColl s x1 x2) := by
  unfold setColl
  dsimp only
  repeat' (first
    | with_reducible assumption
    | with_reducible apply setB_fr
    | with_reducible apply setF_fr
    | dsimp only
    | with_reducible apply Fr.upd)

theorem dropAbove_fr {s : State} (h : Fr q M F s) (x1 : _) (x2 : _) (x3 : _) : Fr q M F (dropAbove s x1 x2 x3) := by
  unfold dropAbove
  dsimp only
  repeat' (first
    | with_reducible assumption
    | with_reducible apply forAll_fr
    | with_reducible apply setReady_fr
    | with_reducible apply setQueueAt_fr
    | intro _ _ _)

theorem failShare_fr {s : State} (h : Fr q M F s) (x1 : _) (x2 : _) (x3 : _) : Fr q M F (failShare s x1 x2 x3) := by
  unfold failShare
  dsimp only
  repeat' (first
    | with_reducible assumption
    | with_reducible apply dropAbove_fr
    | with_reducible apply putShare_fr
    | with_reducible apply Fr.ite
    | split)

theorem slotted_fr {s : State} {f : State → State} (h : Fr q M F s) (hf : ∀ s, Fr q M F s → Fr q M F (f s)) (core pt : Nat) :
    Fr q M F (slotted s core pt f) := by
  unfold slotted
  split
  · exact h
  · exact Fr.ite (advanceFt_fr (hf _ (advanceFt_fr h _)) _) (hf _ (advanceFt_fr h _))

theorem countDone_fr {s : State} (h : Fr q M F s) (x1 : _) : Fr q M F (countDone s x1) := by
  unfold countDone
  repeat' (first
    | with_reducible assumption
    | with_reducible apply wrapF_fr)

theorem sendRecord_fr {s : State} (h : Fr q M F s) (x1 : _) (x2 : _) (x3 : _) (x4 : _) (x5 : _) (x6 : _) : Fr q M F (sendRecord s x1 x2 x3 x4 x5 x6) := by
  unfold sendRecord
  dsimp only
  repeat' (first
    | with_reducible assumption
    | with_reducible apply countDone_fr
    | with_reducible apply bumpF_fr
    | with_reducible apply Fr.ite
    | split
    | dsimp only
    | with_reducible apply Fr.upd)

theorem endEarly_fr {s : State} (h : Fr q M F s) (x1 : _) (x2 : _) (x3 : _) (x4 : _) (x5 : _) (x6 : _) (x7 : _) : Fr q M F (endEarly s x1 x2 x3 x4 x5 x6 x7) := by
  unfold endEarly
  repeat' (first
    | with_reducible assumption
    | with_reducible apply sendRecord_fr)

theorem stepRec_fr {s : State} (h : Fr q MemOk F s) (x1 : _) : Fr q MemOk F (stepRec s x1).2 := by
  unfold stepRec
  dsimp only
  repeat' (first
    | with_reducible assumption
    | with_reducible apply bumpF_fr
    | with_reducible apply takeFail_fr
    | with_reducible apply pagePlace_fr
    | with_reducible apply xltFault_fr
    | with_reducible apply reachLines_fr
    | with_reducible apply issueWrites_fr
    | with_reducible apply Fr.ite_snd
    | split
    | dsimp only
    | refine Fr.of_snd (by with_reducible assumption) ?_)

theorem pumpCore_fr {s : State} (h : Fr q MemOk F s) (x0 : _) (x1 : _) : Fr q MemOk F (pumpCore x0 x1 s) := by
  induction x1 generalizing s with
  | zero =>
    unfold pumpCore
    repeat' with_reducible assumption
  | succ n ih =>
    unfold pumpCore
    dsimp only
    repeat' (first
      | with_reducible assumption
      | with_reducible apply ih
      | with_reducible apply stepRec_fr
      | with_reducible apply countDone_fr
      | with_reducible apply Fr.ite
      | split
      | dsimp only
      | refine Fr.of_snd (by with_reducible assumption) ?_
      | with_reducible apply Fr.upd)

theorem pumpRecs_fr {s : State} (h : Fr q MemOk F s) : Fr q MemOk F (pumpRecs s) := by
  unfold pumpRecs
  repeat' (first
    | with_reducible assumption
    | with_reducible apply forAll_fr
    | with_reducible apply pumpCore_fr
    | intro _ _ _)

end Sys2Proof.Machine
end

