-- ==== Sys2Proof/Laws/Transport.lean ====
section
/-!
SUPPORT. What every operation of Machine/Transport.lean leaves alone: each keeps the frame of Laws/Frame.lean.
-/

namespace Sys2Proof.Machine

variable {q : List Instr} {M : Store Byte → Prop} {F : Store Nat → Prop}

theorem reject_fr {s : State} (h : Fr q M F s) (x1 : _) (x2 : _) (x3 : _) : Fr q M F (reject s x1 x2 x3) := by
  unfold reject
  repeat' (first
    | with_reducible assumption
    | with_reducible apply respond_fr
    | with_reducible apply Fr.ite)

theorem storeReq_fr {s : State} (h : Fr q M F s) (x1 : _) : Fr q M F (storeReq s x1) := by
  unfold storeReq
  dsimp only
  repeat' (first
    | with_reducible assumption
    | dsimp only
    | with_reducible apply Fr.upd)

theorem turnAway_fr {s : State} (h : Fr q M F s) (x1 : _) (x2 : _) (x3 : _) : Fr q M F (turnAway s x1 x2 x3) := by
  unfold turnAway
  repeat' (first
    | with_reducible assumption
    | with_reducible apply refuse_fr
    | with_reducible apply storeReq_fr)

theorem admitLine_fr {s : State} (h : Fr q M F s) (x1 : _) : Fr q M F (admitLine s x1) := by
  unfold admitLine
  dsimp only
  repeat' (first
    | with_reducible assumption
    | with_reducible apply portTranslate_fr
    | with_reducible apply turnAway_fr
    | with_reducible apply xltFault_fr
    | with_reducible apply storeReq_fr
    | with_reducible apply Fr.ite
    | split
    | refine Fr.of_snd (by with_reducible assumption) ?_)

theorem allow_fr {s : State} (h : Fr q M F s) (x1 : _) (x2 : _) : Fr q M F (allow s x1 x2) := by
  unfold allow
  dsimp only
  repeat' (first
    | with_reducible assumption
    | with_reducible apply reject_fr
    | with_reducible apply faultEntry_fr
    | with_reducible apply turnAway_fr
    | with_reducible apply bumpF_fr
    | with_reducible apply storeReq_fr
    | with_reducible apply admitLine_fr
    | with_reducible apply Fr.ite)

theorem returnPkt_fr {s : State} (h : Fr q M F s) (x1 : _) (x2 : _) : Fr q M F (returnPkt s x1 x2) := by
  unfold returnPkt
  repeat' (first
    | with_reducible assumption
    | with_reducible apply bumpF_fr
    | with_reducible apply sendOwn_fr
    | with_reducible apply countReturn_fr
    | with_reducible apply Fr.ite)

theorem forward_fr {s : State} (h : Fr q M F s) (x1 : _) (x2 : _) : Fr q M F (forward s x1 x2) := by
  unfold forward
  dsimp only
  repeat' (first
    | with_reducible assumption
    | with_reducible apply returnPkt_fr
    | with_reducible apply enqueue_fr
    | with_reducible apply wrapF_fr
    | with_reducible apply Fr.ite
    | split)

theorem process_fr {s : State} (h : Fr q M F s) (x1 : _) (x2 : _) : Fr q M F (process s x1 x2) := by
  unfold process
  dsimp only
  repeat' (first
    | with_reducible assumption
    | with_reducible apply bumpF_fr
    | with_reducible apply freeUnits_fr
    | with_reducible apply allow_fr
    | with_reducible apply forward_fr
    | with_reducible apply Fr.ite
    | dsimp only
    | with_reducible apply Fr.upd)

theorem holdArrival_fr {s : State} (h : Fr q M F s) (x1 : _) (x2 : _) (x3 : _) : Fr q M F (holdArrival s x1 x2 x3) := by
  unfold holdArrival
  dsimp only
  repeat' (first
    | with_reducible assumption
    | dsimp only
    | with_reducible apply Fr.upd)

theorem lateCount_fr {s : State} (h : Fr q M F s) (x1 : _) (x2 : _) : Fr q M F (lateCount s x1 x2) := by
  unfold lateCount
  dsimp only
  repeat' (first
    | with_reducible assumption
    | with_reducible apply bumpF_fr
    | with_reducible apply recordDx_fr
    | split)

theorem arrive_fr {s : State} (h : Fr q M F s) (x1 : _) (x2 : _) (x3 : _) : Fr q M F (arrive s x1 x2 x3) := by
  unfold arrive
  dsimp only
  repeat' (first
    | with_reducible assumption
    | with_reducible apply process_fr
    | with_reducible apply holdArrival_fr
    | with_reducible apply lateCount_fr
    | with_reducible apply Fr.ite
    | split)

theorem countGot_fr {s : State} (h : Fr q M F s) (x1 : _) (x2 : _) : Fr q M F (countGot s x1 x2) := by
  unfold countGot
  dsimp only
  repeat' (first
    | with_reducible assumption
    | dsimp only
    | with_reducible apply Fr.upd)

theorem doArrival_fr {s : State} (h : Fr q M F s) (x1 : _) (x2 : _) (x3 : _) : Fr q M F (doArrival s x1 x2 x3) := by
  unfold doArrival
  dsimp only
  repeat' (first
    | with_reducible assumption
    | with_reducible apply countGot_fr
    | with_reducible apply wrapF_fr
    | with_reducible apply bumpF_fr
    | with_reducible apply setLink_fr
    | with_reducible apply arrive_fr
    | with_reducible apply Fr.ite)

theorem execPacketArrival_fr {s t : State} (h : Fr q M F s) {x0 : _} {x1 : _} {x2 : _} (e : execPacketArrival x0 x1 x2 s = .next t) : Fr q M F t := by
  unfold execPacketArrival at e
  injection e with e
  subst e
  repeat' (first
    | with_reducible assumption
    | with_reducible apply whenAlive_fr
    | with_reducible apply doArrival_fr
    | intro _ _)

theorem doProcessingSlot_fr {s : State} (h : Fr q M F s) (x1 : _) : Fr q M F (doProcessingSlot s x1) := by
  unfold doProcessingSlot
  dsimp only
  repeat' (first
    | with_reducible assumption
    | with_reducible apply advanceFt_fr
    | with_reducible apply forAll_fr
    | with_reducible apply process_fr
    | with_reducible apply lateCount_fr
    | with_reducible apply Fr.ite
    | intro _ _ _
    | split
    | dsimp only
    | with_reducible apply Fr.upd)

theorem execProcessingSlot_fr {s t : State} (h : Fr q M F s) {x0 : _} (e : execProcessingSlot x0 s = .next t) : Fr q M F t := by
  unfold execProcessingSlot at e
  injection e with e
  subst e
  repeat' (first
    | with_reducible assumption
    | with_reducible apply whenAlive_fr
    | with_reducible apply doProcessingSlot_fr
    | intro _ _)

theorem execRouteReturn_fr {s t : State} (h : Fr q M F s) {x0 : _} {x1 : _} (e : execRouteReturn x0 x1 s = .next t) : Fr q M F t := by
  unfold execRouteReturn at e
  injection e with e
  subst e
  dsimp only
  repeat' (first
    | with_reducible assumption
    | with_reducible apply whenAlive_fr
    | with_reducible apply sendOwn_fr
    | with_reducible apply Fr.ite
    | intro _ _
    | dsimp only
    | with_reducible apply Fr.upd)

theorem movePacket_fr {s : State} (h : Fr q M F s) (x1 : _) : Fr q M F (movePacket s x1) := by
  unfold movePacket
  dsimp only
  repeat' (first
    | with_reducible assumption
    | with_reducible apply enqueue_fr
    | with_reducible apply returnPkt_fr
    | with_reducible apply bumpF_fr
    | with_reducible apply sendingGone_fr
    | with_reducible apply countReturn_fr
    | with_reducible apply Fr.ite
    | split)

theorem doPortOut_fr {s : State} (h : Fr q M F s) (x1 : _) : Fr q M F (doPortOut s x1) := by
  unfold doPortOut
  dsimp only
  repeat' (first
    | with_reducible assumption
    | with_reducible apply forAll_fr
    | with_reducible apply movePacket_fr
    | with_reducible apply setQueue_fr
    | with_reducible apply Fr.ite
    | intro _ _ _)

theorem execPortOutOfService_fr {s t : State} (h : Fr q M F s) {x0 : _} (e : execPortOutOfService x0 s = .next t) : Fr q M F t := by
  unfold execPortOutOfService at e
  injection e with e
  subst e
  repeat' (first
    | with_reducible assumption
    | with_reducible apply whenAlive_fr
    | with_reducible apply doPortOut_fr
    | intro _ _)

theorem doRouteFlip_fr {s : State} (h : Fr q M F s) : Fr q M F (doRouteFlip s) := by
  unfold doRouteFlip
  dsimp only
  repeat' (first
    | with_reducible assumption
    | with_reducible apply setF_fr
    | with_reducible apply setB_fr
    | with_reducible apply raise_fr
    | with_reducible apply Fr.ite
    | split
    | dsimp only
    | with_reducible apply Fr.upd)

theorem execRouteFlip_fr {s t : State} (h : Fr q M F s) (e : execRouteFlip s = .next t) : Fr q M F t := by
  unfold execRouteFlip at e
  injection e with e
  subst e
  repeat' (first
    | with_reducible assumption
    | with_reducible apply whenAlive_fr
    | with_reducible apply doRouteFlip_fr)

theorem doRouteCopy_fr {s : State} (h : Fr q M F s) : Fr q M F (doRouteCopy s) := by
  unfold doRouteCopy
  dsimp only
  repeat' (first
    | with_reducible assumption
    | with_reducible apply Fr.ite
    | split
    | dsimp only
    | with_reducible apply Fr.upd)

theorem execRouteCopy_fr {s t : State} (h : Fr q M F s) (e : execRouteCopy s = .next t) : Fr q M F t := by
  unfold execRouteCopy at e
  injection e with e
  subst e
  repeat' (first
    | with_reducible assumption
    | with_reducible apply whenAlive_fr
    | with_reducible apply doRouteCopy_fr)

theorem resumeRoute_fr {s : State} (h : Fr q M F s) (x1 : _) : Fr q M F (resumeRoute s x1) := by
  unfold resumeRoute
  dsimp only
  repeat' (first
    | with_reducible assumption
    | with_reducible apply sendOwn_fr
    | with_reducible apply forward_fr
    | with_reducible apply freeUnits_fr
    | with_reducible apply Fr.ite)

theorem applyFlip_fr {s : State} (h : Fr q M F s) : Fr q M F (applyFlip s) := by
  unfold applyFlip
  dsimp only
  repeat' (first
    | with_reducible assumption
    | with_reducible apply setF_fr
    | with_reducible apply setB_fr
    | with_reducible apply raise_fr
    | with_reducible apply forAll_fr
    | with_reducible apply resumeRoute_fr
    | intro _ _ _
    | dsimp only
    | with_reducible apply Fr.upd)

theorem execRouteFlipDrained_fr {s t : State} (h : Fr q M F s) (e : execRouteFlipDrained s = .next t) : Fr q M F t := by
  unfold execRouteFlipDrained at e
  injection e with e
  subst e
  repeat' (first
    | with_reducible assumption
    | with_reducible apply whenAlive_fr
    | with_reducible apply applyFlip_fr
    | with_reducible apply Fr.ite
    | intro _ _)

theorem execDrainTimeout_fr {s t : State} (h : Fr q M F s) (e : execDrainTimeout s = .next t) : Fr q M F t := by
  unfold execDrainTimeout at e
  injection e with e
  subst e
  dsimp only
  repeat' (first
    | with_reducible assumption
    | with_reducible apply whenAlive_fr
    | with_reducible apply advanceEl_fr
    | with_reducible apply applyFlip_fr
    | with_reducible apply raise_fr
    | with_reducible apply Fr.ite
    | intro _ _
    | dsimp only
    | with_reducible apply Fr.upd)

theorem execOldBankEnd_fr {s t : State} (h : Fr q M F s) (e : execOldBankEnd s = .next t) : Fr q M F t := by
  unfold execOldBankEnd at e
  injection e with e
  subst e
  repeat' (first
    | with_reducible assumption
    | with_reducible apply whenAlive_fr
    | with_reducible apply raise_fr
    | with_reducible apply setB_fr
    | with_reducible apply advanceEl_fr
    | with_reducible apply Fr.ite
    | intro _ _)

theorem tblStep_fr {s : State} (h : Fr q M F s) : Fr q M F (tblStep s) := by
  unfold tblStep
  repeat' (first
    | with_reducible assumption
    | with_reducible apply wrapF_fr
    | with_reducible apply Fr.ite)

theorem doTblData_fr {s : State} (h : Fr q M F s) (x1 : _) : Fr q M F (doTblData s x1) := by
  unfold doTblData
  dsimp only
  repeat' (first
    | with_reducible assumption
    | with_reducible apply tblStep_fr
    | with_reducible apply Fr.ite
    | dsimp only
    | with_reducible apply Fr.upd)

theorem execRouteTblData_fr {s t : State} (h : Fr q M F s) {x0 : _} (e : execRouteTblData x0 s = .next t) : Fr q M F t := by
  unfold execRouteTblData at e
  injection e with e
  subst e
  repeat' (first
    | with_reducible assumption
    | with_reducible apply whenAlive_fr
    | with_reducible apply doTblData_fr
    | intro _ _)

theorem releaseCredit_fr {s : State} (h : Fr q M F s) (x1 : _) (x2 : _) (x3 : _) (x4 : _) (x5 : _) : Fr q M F (releaseCredit s x1 x2 x3 x4 x5) := by
  unfold releaseCredit
  dsimp only
  repeat' (first
    | with_reducible assumption
    | with_reducible apply wrapF_fr
    | dsimp only
    | with_reducible apply Fr.upd)

theorem doCreditRelease_fr {s : State} (h : Fr q M F s) (x1 : _) : Fr q M F (doCreditRelease s x1) := by
  unfold doCreditRelease
  dsimp only
  repeat' (first
    | with_reducible assumption
    | with_reducible apply bumpF_fr
    | with_reducible apply releaseCredit_fr
    | with_reducible apply Fr.ite
    | split
    | dsimp only
    | with_reducible apply Fr.upd)

theorem execCreditRelease_fr {s t : State} (h : Fr q M F s) {x0 : _} (e : execCreditRelease x0 s = .next t) : Fr q M F t := by
  unfold execCreditRelease at e
  injection e with e
  subst e
  repeat' (first
    | with_reducible assumption
    | with_reducible apply whenAlive_fr
    | with_reducible apply doCreditRelease_fr
    | intro _ _)

theorem noteSent_fr {s : State} (h : Fr q M F s) (x1 : _) : Fr q M F (noteSent s x1) := by
  unfold noteSent
  dsimp only
  repeat' (first
    | with_reducible assumption
    | dsimp only
    | with_reducible apply Fr.upd)

theorem execE2eCredit_fr {s t : State} (h : Fr q M F s) {x0 : _} (e : execE2eCredit x0 s = .next t) : Fr q M F t := by
  unfold execE2eCredit at e
  injection e with e
  subst e
  dsimp only
  repeat' (first
    | with_reducible assumption
    | with_reducible apply whenAlive_fr
    | with_reducible apply advanceEl_fr
    | with_reducible apply sendMgmt_fr
    | with_reducible apply noteSent_fr
    | with_reducible apply Fr.ite
    | intro _ _)

theorem doLimitWrite_fr {s : State} (h : Fr q M F s) (x1 : _) : Fr q M F (doLimitWrite s x1) := by
  unfold doLimitWrite
  dsimp only
  repeat' (first
    | with_reducible assumption
    | with_reducible apply setB_fr
    | with_reducible apply setF_fr
    | with_reducible apply Fr.ite)

theorem execE2eLimitWrite_fr {s t : State} (h : Fr q M F s) {x0 : _} (e : execE2eLimitWrite x0 s = .next t) : Fr q M F t := by
  unfold execE2eLimitWrite at e
  injection e with e
  subst e
  repeat' (first
    | with_reducible assumption
    | with_reducible apply whenAlive_fr
    | with_reducible apply doLimitWrite_fr
    | intro _ _)

theorem putGroup_fr {s : State} (h : Fr q M F s) (x1 : _) (x2 : _) (x3 : _) : Fr q M F (putGroup s x1 x2 x3) := by
  unfold putGroup
  repeat' (first
    | with_reducible assumption
    | with_reducible apply setF_fr
    | split)

theorem doGroupWrite_fr {s : State} (h : Fr q M F s) (x1 : _) (x2 : _) : Fr q M F (doGroupWrite s x1 x2) := by
  unfold doGroupWrite
  dsimp only
  repeat' (first
    | with_reducible assumption
    | with_reducible apply putGroup_fr
    | with_reducible apply setB_fr
    | with_reducible apply Fr.ite)

theorem execMcGroupWrite_fr {s t : State} (h : Fr q M F s) {x0 : _} {x1 : _} (e : execMcGroupWrite x0 x1 s = .next t) : Fr q M F t := by
  unfold execMcGroupWrite at e
  injection e with e
  subst e
  repeat' (first
    | with_reducible assumption
    | with_reducible apply whenAlive_fr
    | with_reducible apply doGroupWrite_fr
    | intro _ _)

theorem setDrr_fr {s : State} (h : Fr q M F s) (x1 : _) (x2 : _) (x3 : _) : Fr q M F (setDrr s x1 x2 x3) := by
  unfold setDrr
  dsimp only
  repeat' (first
    | with_reducible assumption
    | dsimp only
    | with_reducible apply Fr.upd)

theorem countSent_fr {s : State} (h : Fr q M F s) (x1 : _) (x2 : _) : Fr q M F (countSent s x1 x2) := by
  unfold countSent
  dsimp only
  repeat' (first
    | with_reducible assumption
    | dsimp only
    | with_reducible apply Fr.upd)

theorem launch_fr {s : State} (h : Fr q M F s) (x1 : _) (x2 : _) : Fr q M F (launch s x1 x2) := by
  unfold launch
  dsimp only
  repeat' (first
    | with_reducible assumption
    | with_reducible apply setQueue_fr
    | with_reducible apply wrapF_fr
    | with_reducible apply bumpF_fr
    | with_reducible apply noteSent_fr
    | with_reducible apply linkSend_fr
    | with_reducible apply sendingGone_fr
    | with_reducible apply countSent_fr
    | split
    | dsimp only
    | with_reducible apply Fr.upd)

theorem spendShape_fr {s : State} (h : Fr q M F s) (x1 : _) (x2 : _) (x3 : _) : Fr q M F (spendShape s x1 x2 x3) := by
  unfold spendShape
  dsimp only
  repeat' (first
    | with_reducible assumption
    | with_reducible apply Fr.ite
    | dsimp only
    | with_reducible apply Fr.upd)

theorem clearEmpty_fr {s : State} (h : Fr q M F s) (x1 : _) (x2 : _) : Fr q M F (clearEmpty s x1 x2) := by
  unfold clearEmpty
  dsimp only
  repeat' (first
    | with_reducible assumption
    | with_reducible apply Fr.ite
    | split
    | dsimp only
    | with_reducible apply Fr.upd)

theorem schedule_fr {s t : State} {port f : Nat} (e : schedule s port = some (f, t)) (h : Fr q M F s) : Fr q M F t := by
  unfold schedule at e
  dsimp only at e
  repeat' (split at e)
  all_goals (first | (injection e with e; injection e with _ e; subst e) | cases e)
  all_goals (repeat' (first | with_reducible assumption | with_reducible apply setDrr_fr))

theorem launchOff_fr {s : State} (h : Fr q M F s) (port : Nat) : Fr q M F (launchOff s port) := by
  unfold launchOff
  repeat' (first
    | with_reducible assumption
    | with_reducible apply launch_fr
    | with_reducible apply clearEmpty_fr
    | with_reducible apply spendShape_fr
    | with_reducible apply Fr.ite
    | apply schedule_fr (by with_reducible assumption)
    | split)

theorem holdPacket_fr {s : State} (h : Fr q M F s) (x0 : _) (x1 : _) (x3 : _) : Fr q M F (holdPacket x0 x1 s x3) := by
  unfold holdPacket
  dsimp only
  repeat' (first
    | with_reducible assumption
    | with_reducible apply setQueue_fr
    | with_reducible apply bumpF_fr
    | with_reducible apply recordDx_fr
    | with_reducible apply Fr.ite)

theorem launchBy_fr {s : State} (h : Fr q M F s) (x1 : _) (x2 : _) (x3 : _) : Fr q M F (launchBy s x1 x2 x3) := by
  unfold launchBy
  dsimp only
  repeat' (first
    | with_reducible assumption
    | with_reducible apply launch_fr
    | with_reducible apply Fr.ite
    | dsimp only
    | with_reducible apply Fr.upd)

theorem launchOn_fr {s : State} (h : Fr q M F s) (x1 : _) : Fr q M F (launchOn s x1) := by
  unfold launchOn
  dsimp only
  repeat' (first
    | with_reducible assumption
    | with_reducible apply advanceFt_fr
    | with_reducible apply launchBy_fr
    | with_reducible apply forAll_fr
    | with_reducible apply holdPacket_fr
    | with_reducible apply Fr.ite
    | intro _ _ _
    | split)

theorem execEgressLaunch_fr {s t : State} (h : Fr q M F s) {x0 : _} (e : execEgressLaunch x0 s = .next t) : Fr q M F t := by
  unfold execEgressLaunch at e
  injection e with e
  subst e
  dsimp only
  repeat' (first
    | with_reducible assumption
    | with_reducible apply whenAlive_fr
    | with_reducible apply flushLink_fr
    | with_reducible apply launchOn_fr
    | with_reducible apply launchOff_fr
    | with_reducible apply Fr.ite
    | intro _ _)

end Sys2Proof.Machine
end

