-- ==== Sys2Proof/Laws/Sequencer.lean ====
section
/-!
SUPPORT. What every operation of Machine/Sequencer.lean leaves alone: each keeps the frame of Laws/Frame.lean.
-/

namespace Sys2Proof.Machine

variable {q : List Instr} {M : Store Byte → Prop} {F : Store Nat → Prop}

theorem setFifo_fr {s : State} (h : Fr q M F s) (x1 : _) (x2 : _) (x3 : _) : Fr q M F (setFifo s x1 x2 x3) := by
  unfold setFifo
  dsimp only
  repeat' (first
    | with_reducible assumption
    | dsimp only
    | with_reducible apply Fr.upd)

theorem imgEnds_fr {s : State} (h : Fr q M F s) (x1 : _) (x2 : _) : Fr q M F (imgEnds s x1 x2) := by
  unfold imgEnds
  dsimp only
  repeat' (first
    | with_reducible assumption
    | dsimp only
    | with_reducible apply Fr.upd)

theorem placeImages_fr {s : State} (h : Fr q M F s) : Fr q M F (placeImages s) := by
  unfold placeImages
  dsimp only
  repeat' (first
    | with_reducible assumption
    | with_reducible apply forAll_fr
    | with_reducible apply setFifo_fr
    | with_reducible apply Fr.ite
    | intro _ _ _
    | split
    | dsimp only
    | with_reducible apply Fr.upd)

theorem flushOne_fr {s : State} (h : Fr q M F s) (x0 : _) (x1 : _) (x3 : _) : Fr q M F (flushOne x0 x1 s x3) := by
  unfold flushOne
  repeat' (first
    | with_reducible assumption
    | with_reducible apply imgEnds_fr
    | with_reducible apply countDone_fr
    | with_reducible apply endEarly_fr
    | split)

theorem flushNow_fr {s : State} (h : Fr q M F s) (x1 : _) : Fr q M F (flushNow s x1) := by
  unfold flushNow
  dsimp only
  repeat' (first
    | with_reducible assumption
    | with_reducible apply addF_fr
    | with_reducible apply forAll_fr
    | with_reducible apply flushOne_fr
    | with_reducible apply setFifo_fr
    | with_reducible apply raise_fr
    | with_reducible apply Fr.ite
    | intro _ _ _
    | split
    | dsimp only
    | with_reducible apply Fr.upd)

theorem markFlush_fr {s : State} (h : Fr q M F s) (x1 : _) (x2 : _) : Fr q M F (markFlush s x1 x2) := by
  unfold markFlush
  dsimp only
  repeat' (first
    | with_reducible assumption
    | with_reducible apply flushNow_fr
    | with_reducible apply Fr.ite
    | dsimp only
    | with_reducible apply Fr.upd)

theorem apAnswer_fr {s : State} (h : Fr q M F s) (x1 : _) (x2 : _) (x3 : _) : Fr q M F (apAnswer s x1 x2 x3) := by
  unfold apAnswer
  repeat' (first
    | with_reducible assumption
    | with_reducible apply answer_fr)

theorem takeDesc_fr {s : State} (h : Fr q M F s) (x1 : _) : Fr q M F (takeDesc s x1) := by
  unfold takeDesc
  dsimp only
  repeat' (first
    | with_reducible assumption
    | with_reducible apply apAnswer_fr
    | with_reducible apply setFifo_fr
    | with_reducible apply Fr.ite
    | split
    | dsimp only
    | with_reducible apply Fr.upd)

theorem takeRead_fr {s : State} (h : Fr q M F s) (x1 : _) : Fr q M F (takeRead s x1) := by
  unfold takeRead
  repeat' (first
    | with_reducible assumption
    | with_reducible apply apAnswer_fr
    | with_reducible apply Fr.ite
    | split)

theorem takeFlush_fr {s : State} (h : Fr q M F s) (x1 : _) : Fr q M F (takeFlush s x1) := by
  unfold takeFlush
  repeat' (first
    | with_reducible assumption
    | with_reducible apply apAnswer_fr
    | with_reducible apply markFlush_fr
    | with_reducible apply Fr.ite
    | split)

theorem aperture_fr {s : State} {f : State → Req → State} (h : Fr q M F s)
    (hf : ∀ s r, Fr q M F s → Fr q M F (f s r)) (pid tag op : Nat) (sel : Req → Bool) (ties : List Nat) :
    Fr q M F (aperture s pid tag op sel ties f) := by
  unfold aperture
  dsimp only
  repeat' (first
    | with_reducible assumption
    | with_reducible apply hf
    | with_reducible apply advanceFt_fr
    | with_reducible apply Fr.ite
    | split)

theorem execCmdWriteDesc_fr {s t : State} (h : Fr q M F s) {x0 : _} {x1 : _} {x2 : _} (e : execCmdWriteDesc x0 x1 x2 s = .next t) : Fr q M F t := by
  unfold execCmdWriteDesc at e
  injection e with e
  subst e
  repeat' (first
    | with_reducible assumption
    | with_reducible apply whenAlive_fr
    | with_reducible apply aperture_fr
    | with_reducible apply takeDesc_fr
    | intro _ _ _
    | intro _ _)

theorem execCmdRead_fr {s t : State} (h : Fr q M F s) {x0 : _} {x1 : _} {x2 : _} (e : execCmdRead x0 x1 x2 s = .next t) : Fr q M F t := by
  unfold execCmdRead at e
  injection e with e
  subst e
  repeat' (first
    | with_reducible assumption
    | with_reducible apply whenAlive_fr
    | with_reducible apply aperture_fr
    | with_reducible apply takeRead_fr
    | intro _ _ _
    | intro _ _)

theorem execCmdWriteFlush_fr {s t : State} (h : Fr q M F s) {x0 : _} {x1 : _} {x2 : _} (e : execCmdWriteFlush x0 x1 x2 s = .next t) : Fr q M F t := by
  unfold execCmdWriteFlush at e
  injection e with e
  subst e
  repeat' (first
    | with_reducible assumption
    | with_reducible apply whenAlive_fr
    | with_reducible apply aperture_fr
    | with_reducible apply takeFlush_fr
    | intro _ _ _
    | intro _ _)

theorem doSeqFlush_fr {s : State} (h : Fr q M F s) (x1 : _) : Fr q M F (doSeqFlush s x1) := by
  unfold doSeqFlush
  repeat' (first
    | with_reducible assumption
    | with_reducible apply markFlush_fr
    | with_reducible apply Fr.ite)

theorem execSeqCmdFlush_fr {s t : State} (h : Fr q M F s) {x0 : _} (e : execSeqCmdFlush x0 s = .next t) : Fr q M F t := by
  unfold execSeqCmdFlush at e
  injection e with e
  subst e
  repeat' (first
    | with_reducible assumption
    | with_reducible apply whenAlive_fr
    | with_reducible apply doSeqFlush_fr
    | intro _ _)

theorem execFlushTakesEffect_fr {s t : State} (h : Fr q MemOk F s) {x0 : _} (e : execFlushTakesEffect x0 s = .next t) : Fr q MemOk F t := by
  unfold execFlushTakesEffect at e
  injection e with e
  subst e
  repeat' (first
    | with_reducible assumption
    | with_reducible apply whenAlive_fr
    | with_reducible apply pumpRecs_fr
    | with_reducible apply flushNow_fr
    | with_reducible apply Fr.ite
    | intro _ _)

theorem closeJob_fr {s : State} (h : Fr q M F s) (x1 : _) : Fr q M F (closeJob s x1) := by
  unfold closeJob
  dsimp only
  repeat' (first
    | with_reducible assumption
    | dsimp only
    | with_reducible apply Fr.upd)

theorem closeColl_fr {s : State} (h : Fr q M F s) (x1 : _) : Fr q M F (closeColl s x1) := by
  unfold closeColl
  repeat' (first
    | with_reducible assumption
    | with_reducible apply setColl_fr
    | with_reducible apply Fr.ite)

theorem finishShort_fr {s : State} (h : Fr q M F s) (x1 : _) : Fr q M F (finishShort s x1) := by
  unfold finishShort
  dsimp only
  repeat' (first
    | with_reducible assumption
    | with_reducible apply closeJob_fr
    | with_reducible apply closeColl_fr
    | with_reducible apply imgEnds_fr
    | with_reducible apply setF_fr
    | with_reducible apply countDone_fr
    | with_reducible apply sendRecord_fr
    | with_reducible apply Fr.ite
    | split)

theorem finishLong_fr {s : State} (h : Fr q M F s) (x1 : _) : Fr q M F (finishLong s x1) := by
  unfold finishLong
  dsimp only
  repeat' (first
    | with_reducible assumption
    | with_reducible apply sendRecord_fr
    | with_reducible apply closeJob_fr)

theorem settleLead_fr {s : State} (h : Fr q MemOk F s) (x1 : _) : Fr q MemOk F (settleLead s x1) := by
  unfold settleLead
  dsimp only
  repeat' (first
    | with_reducible assumption
    | with_reducible apply finishLong_fr
    | with_reducible apply finishShort_fr
    | with_reducible apply pumpRecs_fr
    | with_reducible apply forAll_fr
    | with_reducible apply Fr.ite
    | intro _ _ _
    | split)

theorem doReport_fr {s : State} (h : Fr q MemOk F s) (x1 : _) (x2 : _) (x3 : _) : Fr q MemOk F (doReport s x1 x2 x3) := by
  unfold doReport
  dsimp only
  repeat' (first
    | with_reducible assumption
    | with_reducible apply settleLead_fr
    | with_reducible apply closeColl_fr
    | with_reducible apply putShare_fr
    | with_reducible apply Fr.ite
    | split
    | dsimp only
    | with_reducible apply Fr.upd)

theorem execSegmentReport_fr {s t : State} (h : Fr q MemOk F s) {x0 : _} {x1 : _} {x2 : _} (e : execSegmentReport x0 x1 x2 s = .next t) : Fr q MemOk F t := by
  unfold execSegmentReport at e
  injection e with e
  subst e
  repeat' (first
    | with_reducible assumption
    | with_reducible apply whenAlive_fr
    | with_reducible apply doReport_fr
    | intro _ _)

theorem learnLost_fr {s : State} (h : Fr q M F s) (x1 : _) : Fr q M F (learnLost s x1) := by
  unfold learnLost
  dsimp only
  repeat' (first
    | with_reducible assumption
    | dsimp only
    | with_reducible apply Fr.upd)

theorem dropEarly_fr {s : State} (h : Fr q MemOk F s) (x1 : _) (x2 : _) (x3 : _) : Fr q MemOk F (dropEarly s x1 x2 x3) := by
  unfold dropEarly
  repeat' (first
    | with_reducible assumption
    | with_reducible apply pumpRecs_fr
    | with_reducible apply endEarly_fr
    | with_reducible apply closeJob_fr)

theorem takeBlock_fr {s : State} (h : Fr q MemOk F s) (x1 : _) (x2 : _) : Fr q MemOk F (takeBlock s x1 x2) := by
  unfold takeBlock
  repeat' (first
    | with_reducible assumption
    | with_reducible apply dropEarly_fr
    | with_reducible apply learnLost_fr
    | with_reducible apply putShare_fr
    | split)

theorem takeUp_fr {s : State} (h : Fr q MemOk F s) (x1 : _) (x2 : _) (x3 : _) (x4 : _) : Fr q MemOk F (takeUp s x1 x2 x3 x4) := by
  unfold takeUp
  dsimp only
  repeat' (first
    | with_reducible assumption
    | with_reducible apply learnLost_fr
    | with_reducible apply takeBlock_fr
    | with_reducible apply Fr.ite
    | split
    | dsimp only
    | with_reducible apply Fr.upd)

theorem doDescRead_fr {s : State} (h : Fr q MemOk F s) (x1 : _) : Fr q MemOk F (doDescRead s x1) := by
  unfold doDescRead
  dsimp only
  repeat' (first
    | with_reducible assumption
    | with_reducible apply placeImages_fr
    | with_reducible apply setFifo_fr
    | with_reducible apply pumpRecs_fr
    | with_reducible apply endEarly_fr
    | with_reducible apply takeUp_fr
    | with_reducible apply draw_fr
    | with_reducible apply Fr.ite
    | split)

theorem execDescRead_fr {s t : State} (h : Fr q MemOk F s) {x0 : _} (e : execDescRead x0 s = .next t) : Fr q MemOk F t := by
  unfold execDescRead at e
  injection e with e
  subst e
  repeat' (first
    | with_reducible assumption
    | with_reducible apply whenAlive_fr
    | with_reducible apply doDescRead_fr
    | intro _ _)

theorem doOrderRelease_fr {s : State} (h : Fr q MemOk F s) (x1 : _) : Fr q MemOk F (doOrderRelease s x1) := by
  unfold doOrderRelease
  dsimp only
  repeat' (first
    | with_reducible assumption
    | with_reducible apply pumpRecs_fr
    | with_reducible apply learnLost_fr
    | with_reducible apply putShare_fr
    | with_reducible apply Fr.ite
    | split)

theorem execOrderRelease_fr {s t : State} (h : Fr q MemOk F s) {x0 : _} (e : execOrderRelease x0 s = .next t) : Fr q MemOk F t := by
  unfold execOrderRelease at e
  injection e with e
  subst e
  repeat' (first
    | with_reducible assumption
    | with_reducible apply whenAlive_fr
    | with_reducible apply doOrderRelease_fr
    | intro _ _)

theorem readBlock_fr {s : State} (h : Fr q MemOk F s) (x1 : _) (x2 : _) (x3 : _) : Fr q MemOk F (readBlock s x1 x2 x3).2 := by
  unfold readBlock
  repeat' (first
    | with_reducible assumption
    | with_reducible apply seqRead_fr
    | split
    | dsimp only
    | refine Fr.of_snd (by with_reducible assumption) ?_)

theorem fetchAhead_fr {s : State} (h : Fr q MemOk F s) (x1 : _) : Fr q MemOk F (fetchAhead s x1) := by
  unfold fetchAhead
  repeat' (first
    | with_reducible assumption
    | with_reducible apply readBlock_fr
    | with_reducible apply setFifo_fr
    | split
    | refine Fr.of_snd (by with_reducible assumption) ?_)

theorem doPatternFetch_fr {s : State} (h : Fr q MemOk F s) (x1 : _) : Fr q MemOk F (doPatternFetch s x1) := by
  unfold doPatternFetch
  repeat' (first
    | with_reducible assumption
    | with_reducible apply fetchAhead_fr
    | with_reducible apply readBlock_fr
    | with_reducible apply dropEarly_fr
    | with_reducible apply takeBlock_fr
    | split
    | refine Fr.of_snd (by with_reducible assumption) ?_)

theorem execPatternFetchDone_fr {s t : State} (h : Fr q MemOk F s) {x0 : _} (e : execPatternFetchDone x0 s = .next t) : Fr q MemOk F t := by
  unfold execPatternFetchDone at e
  injection e with e
  subst e
  repeat' (first
    | with_reducible assumption
    | with_reducible apply whenAlive_fr
    | with_reducible apply slotted_fr
    | with_reducible apply doPatternFetch_fr
    | intro _ _
    | split)

theorem doSegment_fr {s : State} (h : Fr q M F s) (x1 : _) (x2 : _) : Fr q M F (doSegment s x1 x2) := by
  unfold doSegment
  dsimp only
  repeat' (first
    | with_reducible assumption
    | with_reducible apply putShare_fr
    | with_reducible apply Fr.ite
    | split
    | dsimp only
    | with_reducible apply Fr.upd)

theorem execSegment_fr {s t : State} (h : Fr q M F s) {x0 : _} {x1 : _} (e : execSegment x0 x1 s = .next t) : Fr q M F t := by
  unfold execSegment at e
  injection e with e
  subst e
  repeat' (first
    | with_reducible assumption
    | with_reducible apply whenAlive_fr
    | with_reducible apply doSegment_fr
    | intro _ _)

theorem stopShare_fr {s : State} (h : Fr q M F s) (x1 : _) (x2 : _) (x3 : _) (x4 : _) : Fr q M F (stopShare s x1 x2 x3 x4) := by
  unfold stopShare
  dsimp only
  repeat' (first
    | with_reducible assumption
    | with_reducible apply putShare_fr
    | with_reducible apply failShare_fr)

theorem beginColl_fr {s : State} (h : Fr q MemOk F s) (x1 : _) : Fr q MemOk F (beginColl s x1).2 := by
  unfold beginColl
  dsimp only
  repeat' (first
    | with_reducible assumption
    | with_reducible apply seqRead_fr
    | with_reducible apply setColl_fr
    | with_reducible apply Fr.ite_snd
    | split
    | dsimp only
    | refine Fr.of_snd (by with_reducible assumption) ?_)

theorem checkShare_fr {s : State} (h : Fr q MemOk F s) (x1 : _) : Fr q MemOk F (checkShare s x1).2 := by
  unfold checkShare
  dsimp only
  repeat' (first
    | with_reducible assumption
    | with_reducible apply xltFault_fr
    | with_reducible apply beginColl_fr
    | with_reducible apply Fr.ite
    | with_reducible apply Fr.ite_snd
    | split)

theorem beginShare_fr {s : State} (h : Fr q MemOk F s) (x1 : _) : Fr q MemOk F (beginShare s x1).2 := by
  unfold beginShare
  dsimp only
  repeat' (first
    | with_reducible assumption
    | with_reducible apply readBlock_fr
    | with_reducible apply checkShare_fr
    | with_reducible apply Fr.ite_snd
    | split
    | dsimp only
    | refine Fr.of_snd (by with_reducible assumption) ?_)

theorem takeTile_fr {s : State} (h : Fr q M F s) (x1 : _) (x2 : _) (x3 : _) (x4 : _) : Fr q M F (takeTile s x1 x2 x3 x4) := by
  unfold takeTile
  dsimp only
  repeat' (first
    | with_reducible assumption
    | with_reducible apply stopShare_fr
    | with_reducible apply putShare_fr
    | with_reducible apply setReady_fr
    | with_reducible apply Fr.ite)

theorem doTileEmit_fr {s : State} (h : Fr q MemOk F s) (x1 : _) (x2 : _) : Fr q MemOk F (doTileEmit s x1 x2) := by
  unfold doTileEmit
  dsimp only
  repeat' (first
    | with_reducible assumption
    | with_reducible apply putShare_fr
    | with_reducible apply beginShare_fr
    | with_reducible apply settleLead_fr
    | with_reducible apply failShare_fr
    | with_reducible apply stopShare_fr
    | with_reducible apply takeTile_fr
    | with_reducible apply Fr.ite_snd
    | split)

theorem execTileEmit_fr {s t : State} (h : Fr q MemOk F s) {x0 : _} {x1 : _} (e : execTileEmit x0 x1 s = .next t) : Fr q MemOk F t := by
  unfold execTileEmit at e
  injection e with e
  subst e
  dsimp only
  repeat' (first
    | with_reducible assumption
    | with_reducible apply whenAlive_fr
    | with_reducible apply slotted_fr
    | with_reducible apply doTileEmit_fr
    | with_reducible apply Fr.ite
    | intro _ _
    | split)

theorem fillLine_fr {s : State} (h : Fr q MemOk F s) (c pt : Nat) (m : Store Nat) (va : Nat) :
    Fr q MemOk F (fillLine s c pt m va).2.2 := by
  have h1 := seqLines_fr h c seqEng pt (va : Nat) 128
  unfold fillLine
  split
  · exact h
  · split
    · rename_i e; rw [e] at h1; exact h1
    · exact h

theorem fillIndex_fr {s : State} (h : Fr q MemOk F s) (c pt : Nat) (m : Store Nat) (l : List Nat) :
    Fr q MemOk F (fillIndex s c pt m l).2 := by
  unfold fillIndex
  refine Fr.foldl_proj (π := fun a : Bool × Store Nat × State => a.2.2) (fun a va ha => ?_) l h
  split
  · exact fillLine_fr ha c pt _ va
  · exact ha

theorem doIndexArrival_fr {s : State} (h : Fr q MemOk F s) (x1 : _) (x2 : _) (x3 : _) : Fr q MemOk F (doIndexArrival s x1 x2 x3) := by
  unfold doIndexArrival
  dsimp only
  repeat' (first
    | with_reducible assumption
    | with_reducible apply seqLines_fr
    | with_reducible apply settleLead_fr
    | with_reducible apply stopShare_fr
    | with_reducible apply fillIndex_fr
    | with_reducible apply putShare_fr
    | with_reducible apply Fr.ite
    | split
    | refine Fr.of_snd (by with_reducible assumption) ?_)

theorem execIndexArrival_fr {s t : State} (h : Fr q MemOk F s) {x0 : _} {x1 : _} (e : execIndexArrival x0 x1 s = .next t) : Fr q MemOk F t := by
  unfold execIndexArrival at e
  injection e with e
  subst e
  repeat' (first
    | with_reducible assumption
    | with_reducible apply whenAlive_fr
    | with_reducible apply slotted_fr
    | with_reducible apply doIndexArrival_fr
    | with_reducible apply Fr.ite
    | intro _ _
    | split)

theorem doTierHintCmd_fr {s : State} (h : Fr q MemOk F s) (x1 : _) (x2 : _) (x3 : _) (x4 : _) : Fr q MemOk F (doTierHintCmd s x1 x2 x3 x4) := by
  unfold doTierHintCmd
  repeat' (first
    | with_reducible assumption
    | with_reducible apply pagePlace_fr
    | with_reducible apply tierHint_fr
    | with_reducible apply Fr.ite
    | split
    | refine Fr.of_snd (by with_reducible assumption) ?_)

theorem execTierHint_fr {s t : State} (h : Fr q MemOk F s) {x0 : _} {x1 : _} {x2 : _} {x3 : _} (e : execTierHint x0 x1 x2 x3 s = .next t) : Fr q MemOk F t := by
  unfold execTierHint at e
  injection e with e
  subst e
  repeat' (first
    | with_reducible assumption
    | with_reducible apply whenAlive_fr
    | with_reducible apply doTierHintCmd_fr
    | with_reducible apply Fr.ite
    | intro _ _)

end Sys2Proof.Machine
end

