-- ==== Sys2Proof/Laws/Engines.lean ====
section
/-!
SUPPORT. What every operation of Machine/Engines.lean leaves alone: each keeps the frame of Laws/Frame.lean.
-/

namespace Sys2Proof.Machine

variable {q : List Instr} {M : Store Byte → Prop} {F : Store Nat → Prop}

theorem setMap_fr {s : State} (h : Fr q M F s) (x1 : _) (x2 : _) (x3 : _) : Fr q M F (setMap s x1 x2 x3) := by
  unfold setMap
  repeat' (first
    | with_reducible assumption
    | with_reducible apply setF_fr)

theorem endTest_fr {s : State} (h : Fr q M F s) (x1 : _) : Fr q M F (endTest s x1) := by
  unfold endTest
  dsimp only
  repeat' (first
    | with_reducible assumption
    | dsimp only
    | with_reducible apply Fr.upd)

theorem pruneColl_fr {s : State} (h : Fr q M F s) (x1 : _) : Fr q M F (pruneColl s x1) := by
  unfold pruneColl
  dsimp only
  repeat' (first
    | with_reducible assumption
    | with_reducible apply setColl_fr
    | split)

theorem dropTile_fr {s : State} (h : Fr q M F s) (x1 : _) (x2 : _) : Fr q M F (dropTile s x1 x2) := by
  unfold dropTile
  repeat' (first
    | with_reducible assumption
    | with_reducible apply setQueueAt_fr)

theorem putTile_fr {s : State} (h : Fr q M F s) (x1 : _) (x2 : _) : Fr q M F (putTile s x1 x2) := by
  unfold putTile
  repeat' (first
    | with_reducible assumption
    | with_reducible apply setQueueAt_fr)

theorem shareFails_fr {s : State} (h : Fr q M F s) (x1 : _) (x2 : _) (x3 : _) (x4 : _) : Fr q M F (shareFails s x1 x2 x3 x4) := by
  unfold shareFails
  repeat' (first
    | with_reducible assumption
    | with_reducible apply pruneColl_fr
    | with_reducible apply failShare_fr)

theorem failTile_fr {s : State} (h : Fr q MemOk F s) (x1 : _) (x2 : _) (x3 : _) (x4 : _) : Fr q MemOk F (failTile s x1 x2 x3 x4) := by
  unfold failTile
  repeat' (first
    | with_reducible assumption
    | with_reducible apply settleLead_fr
    | with_reducible apply shareFails_fr
    | with_reducible apply dropTile_fr)

theorem datapathEntry_fr {s : State} (h : Fr q M F s) (x1 : _) (x2 : _) : Fr q M F (datapathEntry s x1 x2) := by
  unfold datapathEntry
  repeat' (first
    | with_reducible assumption
    | with_reducible apply faultEntry_fr)

theorem collStopNow_fr {s : State} (h : Fr q MemOk F s) (x1 : _) : Fr q MemOk F (collStopNow s x1) := by
  unfold collStopNow
  dsimp only
  repeat' (first
    | with_reducible assumption
    | with_reducible apply settleLead_fr
    | with_reducible apply shareFails_fr
    | split)

theorem sendGrants_fr {s : State} (h : Fr q M F s) (x1 : _) (x2 : _) (x3 : _) : Fr q M F (sendGrants s x1 x2 x3) := by
  unfold sendGrants
  repeat' (first
    | with_reducible assumption
    | with_reducible apply forAll_fr
    | with_reducible apply sendPid_fr
    | intro _ _ _)

theorem reserveSlots_fr {s : State} (h : Fr q M F s) (x1 : _) (x2 : _) : Fr q M F (reserveSlots s x1 x2) := by
  unfold reserveSlots
  repeat' (first
    | with_reducible assumption
    | with_reducible apply sendGrants_fr
    | with_reducible apply setColl_fr
    | with_reducible apply Fr.ite
    | split)

theorem doTileDispatch_fr {s : State} (h : Fr q MemOk F s) (x1 : _) : Fr q MemOk F (doTileDispatch s x1) := by
  unfold doTileDispatch
  dsimp only
  repeat' (first
    | with_reducible assumption
    | with_reducible apply collStopNow_fr
    | with_reducible apply setQueueAt_fr
    | with_reducible apply setReady_fr
    | with_reducible apply reserveSlots_fr
    | split
    | dsimp only
    | with_reducible apply Fr.upd)

theorem execTileDispatch_fr {s t : State} (h : Fr q MemOk F s) {x0 : _} (e : execTileDispatch x0 s = .next t) : Fr q MemOk F t := by
  unfold execTileDispatch at e
  injection e with e
  subst e
  repeat' (first
    | with_reducible assumption
    | with_reducible apply whenAlive_fr
    | with_reducible apply doTileDispatch_fr
    | with_reducible apply Fr.ite
    | intro _ _)

theorem engineEntry_fr {s : State} (h : Fr q M F s) (x1 : _) (x2 : _) (x3 : _) (x4 : _) : Fr q M F (engineEntry s x1 x2 x3 x4) := by
  unfold engineEntry
  dsimp only
  repeat' (first
    | with_reducible assumption
    | with_reducible apply faultEntry_fr
    | with_reducible apply raise_fr
    | with_reducible apply recordDx_fr
    | with_reducible apply Fr.ite
    | split)

theorem moveTiles_fr {s : State} (h : Fr q M F s) (x1 : _) (x2 : _) (x3 : _) (x4 : _) : Fr q M F (moveTiles s x1 x2 x3 x4) := by
  unfold moveTiles
  dsimp only
  repeat' (first
    | with_reducible assumption
    | with_reducible apply setQueueAt_fr)

theorem returnTiles_fr {s : State} (h : Fr q M F s) (x1 : _) (x2 : _) : Fr q M F (returnTiles s x1 x2) := by
  unfold returnTiles
  dsimp only
  repeat' (first
    | with_reducible assumption
    | with_reducible apply setQueueAt_fr
    | with_reducible apply forAll_fr
    | with_reducible apply setReady_fr
    | intro _ _ _)

theorem abortTest_fr {s : State} (h : Fr q M F s) (x1 : _) : Fr q M F (abortTest s x1) := by
  unfold abortTest
  dsimp only
  repeat' (first
    | with_reducible assumption
    | with_reducible apply setF_fr
    | with_reducible apply setB_fr
    | with_reducible apply endTest_fr
    | split)

theorem endStandin_fr {s : State} (h : Fr q M F s) (x1 : _) : Fr q M F (endStandin s x1) := by
  unfold endStandin
  dsimp only
  repeat' (first
    | with_reducible assumption
    | with_reducible apply setB_fr
    | with_reducible apply setMap_fr)

theorem noSpare_fr {s : State} (h : Fr q M F s) (x1 : _) : Fr q M F (noSpare s x1) := by
  unfold noSpare
  repeat' (first
    | with_reducible assumption
    | with_reducible apply setB_fr
    | with_reducible apply setF_fr)

theorem engineFails_fr {s : State} (h : Fr q M F s) (x1 : _) (x2 : _) (x3 : _) : Fr q M F (engineFails s x1 x2 x3) := by
  unfold engineFails
  dsimp only
  repeat' (first
    | with_reducible assumption
    | with_reducible apply endStandin_fr
    | with_reducible apply abortTest_fr
    | with_reducible apply engineEntry_fr
    | with_reducible apply noSpare_fr
    | with_reducible apply moveTiles_fr
    | with_reducible apply setMap_fr
    | with_reducible apply declareLost_fr
    | with_reducible apply setB_fr
    | with_reducible apply returnTiles_fr
    | with_reducible apply bumpConfigGen_fr
    | with_reducible apply Fr.ite
    | split
    | dsimp only
    | with_reducible apply Fr.upd)

theorem noteDetection_fr {s : State} (h : Fr q M F s) (x1 : _) (x2 : _) (x3 : _) (x4 : _) (x5 : _) : Fr q M F (noteDetection s x1 x2 x3 x4 x5) := by
  unfold noteDetection
  dsimp only
  repeat' (first
    | with_reducible assumption
    | with_reducible apply bumpF_fr
    | with_reducible apply setF_fr
    | with_reducible apply setB_fr
    | with_reducible apply raise_fr
    | with_reducible apply Fr.ite)

theorem detect_fr {s : State} (h : Fr q M F s) (x1 : _) (x2 : _) (x3 : _) (x4 : _) (x5 : _) : Fr q M F (detect s x1 x2 x3 x4 x5) := by
  unfold detect
  dsimp only
  repeat' (first
    | with_reducible assumption
    | with_reducible apply noteDetection_fr
    | with_reducible apply bumpF_fr)

theorem multicast_fr {s : State} (h : Fr q M F s) (x1 : _) (x2 : _) (x3 : _) (x4 : _) (x5 : _) : Fr q M F (multicast s x1 x2 x3 x4 x5) := by
  unfold multicast
  repeat' (first
    | with_reducible assumption
    | with_reducible apply forAll_fr
    | with_reducible apply enqueue_fr
    | intro _ _ _)

theorem tilePages_fr {s : State} (h : Fr q M F s) (x1 : _) (x2 : _) (x3 : _) (x4 : _) : Fr q M F (tilePages s x1 x2 x3 x4).2 := by
  unfold tilePages
  repeat' (first
    | with_reducible assumption
    | with_reducible apply translateAll_fr
    | with_reducible apply xltFault_fr
    | split
    | dsimp only
    | refine Fr.of_snd (by with_reducible assumption) ?_)

theorem setResident_fr {s : State} (h : Fr q M F s) (x1 : _) (x2 : _) (x3 : _) (x4 : _) : Fr q M F (setResident s x1 x2 x3 x4) := by
  unfold setResident
  dsimp only
  repeat' (first
    | with_reducible assumption
    | split
    | dsimp only
    | with_reducible apply Fr.upd)

theorem keepLines_fr {s : State} (h : Fr q M F s) (x1 : _) (x2 : _) (x3 : _) (x4 : _) : Fr q M F (keepLines s x1 x2 x3 x4).2 := by
  unfold keepLines
  dsimp only
  repeat' (first
    | with_reducible assumption
    | with_reducible apply setResident_fr
    | with_reducible apply Fr.ite)

theorem dropBad_fr {s : State} (h : Fr q M F s) (x1 : _) (x2 : _) (x3 : _) (x4 : _) (x5 : _) : Fr q M F (dropBad s x1 x2 x3 x4 x5).2 := by
  unfold dropBad
  dsimp only
  repeat' (first
    | with_reducible assumption
    | with_reducible apply setResident_fr
    | with_reducible apply Fr.ite_snd)

theorem castTile_fr {s : State} (h : Fr q M F s) (x1 : _) (x2 : _) (x3 : _) : Fr q M F (castTile s x1 x2 x3) := by
  unfold castTile
  repeat' (first
    | with_reducible assumption
    | with_reducible apply forAll_fr
    | with_reducible apply multicast_fr
    | with_reducible apply Fr.ite
    | intro _ _ _)

theorem tileWrites_fr {s : State} (h : Fr q M F s) (x1 : _) (x2 : _) (x3 : _) : Fr q M F (tileWrites s x1 x2 x3).2 := by
  unfold tileWrites
  dsimp only
  repeat' (first
    | with_reducible assumption
    | with_reducible apply streamWrites_fr
    | with_reducible apply Fr.foldl_snd
    | intro _ _ _
    | split)

theorem startWrites_fr {s : State} (h : Fr q MemOk F s) (x1 : _) (x2 : _) (x3 : _) (x4 : _) (x5 : _) : Fr q MemOk F (startWrites s x1 x2 x3 x4 x5) := by
  unfold startWrites
  dsimp only
  repeat' (first
    | with_reducible assumption
    | with_reducible apply detect_fr
    | with_reducible apply freeNat_fr
    | with_reducible apply datapathEntry_fr
    | with_reducible apply shareFails_fr
    | with_reducible apply issueWrites_fr
    | with_reducible apply putTile_fr
    | with_reducible apply Fr.ite
    | with_reducible apply Fr.foldl_snd
    | intro _ _ _)

theorem tileDetected_fr {s : State} (h : Fr q MemOk F s) (x1 : _) (x2 : _) (x3 : _) (x4 : _) (x5 : _) : Fr q MemOk F (tileDetected s x1 x2 x3 x4 x5) := by
  unfold tileDetected
  dsimp only
  repeat' (first
    | with_reducible assumption
    | with_reducible apply detect_fr
    | with_reducible apply failTile_fr
    | with_reducible apply datapathEntry_fr
    | with_reducible apply putTile_fr
    | with_reducible apply Fr.ite)

theorem moveBlock_fr {s : State} (h : Fr q MemOk F s) (x1 : _) (x2 : _) (x3 : _) (x4 : _) (x5 : _) : Fr q MemOk F (moveBlock s x1 x2 x3 x4 x5).2 := by
  unfold moveBlock
  dsimp only
  repeat' (first
    | with_reducible assumption
    | with_reducible apply tierLook_fr
    | with_reducible apply startClean_fr
    | with_reducible apply wantEmpty_fr
    | with_reducible apply Fr.ite_snd
    | split
    | dsimp only
    | refine Fr.of_snd (by with_reducible assumption) ?_)

theorem moveTile_fr {s : State} (h : Fr q MemOk F s) (e : Nat) (g : Share) (x : Tile) (m : Store Place) :
    Fr q MemOk F (moveTile s e g x m) := by
  have h0 := takeFail_fr h (engIdx x.core e)
  unfold moveTile
  dsimp only
  split
  · rename_i hq; rw [hq] at h0; exact failTile_fr h0 _ _ _ _
  · rename_i s1 hq
    rw [hq] at h0
    have h0 : Fr q MemOk F s1 := h0
    have step : ∀ (p : List (Nat × Nat) × Tally × Bool × State) (b : Nat × Nat), Fr q MemOk F p.2.2.2 →
        Fr q MemOk F (match moveBlock p.2.2.2 (engIdx x.core e) x.pt (dFlags g.desc % 4) b.1 b.2 with
          | (some (st, f, w), s2) => (p.1 ++ [(b.1, st)], { p.2.1 with a := p.2.1.a + f, b := p.2.1.b + w }, p.2.2.1, s2)
          | (none, s2) => (p.1 ++ [b], p.2.1, false, s2) : List (Nat × Nat) × Tally × Bool × State).2.2.2 := by
      intro p b hp
      have h1 := moveBlock_fr hp (engIdx x.core e) x.pt (dFlags g.desc % 4) b.1 b.2
      split
      · rename_i hb; rw [hb] at h1; exact h1
      · rename_i hb; rw [hb] at h1; exact h1
    refine Fr.ite (failTile_fr ?_ _ _ _ _) (putTile_fr ?_ _ _) <;>
      exact Fr.foldl_proj (π := fun a : List (Nat × Nat) × Tally × Bool × State => a.2.2.2) step _ h0

theorem startTile_fr {s : State} (h : Fr q M F s) (x1 : _) (x2 : _) : Fr q M F (startTile s x1 x2).2 := by
  unfold startTile
  dsimp only
  repeat' (first
    | with_reducible assumption
    | with_reducible apply bumpF_fr
    | with_reducible apply onShare_fr
    | with_reducible apply putTile_fr
    | with_reducible apply Fr.ite_snd
    | dsimp only
    | with_reducible apply Fr.upd)

theorem runTile_fr {s : State} (h : Fr q MemOk F s) (x1 : _) (x2 : _) (x3 : _) (x4 : _) (x5 : _) (x6 : _) (x7 : _) : Fr q MemOk F (runTile s x1 x2 x3 x4 x5 x6 x7) := by
  unfold runTile
  dsimp only
  repeat' (first
    | with_reducible assumption
    | with_reducible apply dropBad_fr
    | with_reducible apply tileDetected_fr
    | with_reducible apply failTile_fr
    | with_reducible apply onShare_fr
    | with_reducible apply tileWrites_fr
    | with_reducible apply startWrites_fr
    | with_reducible apply castTile_fr
    | with_reducible apply Fr.ite
    | with_reducible apply Fr.ite_snd
    | split)

theorem runAhead_fr {s : State} (h : Fr q MemOk F s) (x1 : _) (x2 : _) (x3 : _) : Fr q MemOk F (runAhead s x1 x2 x3) := by
  unfold runAhead
  dsimp only
  repeat' (first
    | with_reducible assumption
    | with_reducible apply tilePages_fr
    | with_reducible apply reachLines_fr
    | with_reducible apply fetchLines_fr
    | with_reducible apply putTile_fr
    | with_reducible apply Fr.ite
    | split
    | refine Fr.of_snd (by with_reducible assumption) ?_)

theorem fetchTile_fr {s : State} (h : Fr q MemOk F s) (x1 : _) (x2 : _) (x3 : _) (x4 : _) (x5 : _) (x6 : _) (x7 : _) : Fr q MemOk F (fetchTile s x1 x2 x3 x4 x5 x6 x7) := by
  unfold fetchTile
  dsimp only
  repeat' (first
    | with_reducible assumption
    | with_reducible apply tilePages_fr
    | with_reducible apply failTile_fr
    | with_reducible apply tileDetected_fr
    | with_reducible apply moveTile_fr
    | with_reducible apply reachLines_fr
    | with_reducible apply fetchLines_fr
    | with_reducible apply keepLines_fr
    | with_reducible apply runAhead_fr
    | with_reducible apply runTile_fr
    | with_reducible apply putTile_fr
    | with_reducible apply Fr.ite
    | split
    | refine Fr.of_snd (by with_reducible assumption) ?_)

theorem dropEngTlb_fr {s : State} (h : Fr q M F s) (x1 : _) (x2 : _) : Fr q M F (dropEngTlb s x1 x2) := by
  unfold dropEngTlb
  dsimp only
  repeat' (first
    | with_reducible assumption
    | with_reducible apply Fr.ite
    | dsimp only
    | with_reducible apply Fr.upd)

theorem doTileExecute_fr {s : State} (h : Fr q MemOk F s) (x1 : _) (x2 : _) (x3 : _) (x4 : _) (x5 : _) (x6 : _) : Fr q MemOk F (doTileExecute s x1 x2 x3 x4 x5 x6) := by
  unfold doTileExecute
  dsimp only
  repeat' (first
    | with_reducible assumption
    | with_reducible apply dropEngTlb_fr
    | with_reducible apply collStopNow_fr
    | with_reducible apply dropTile_fr
    | with_reducible apply slotted_fr
    | with_reducible apply startTile_fr
    | with_reducible apply fetchTile_fr
    | with_reducible apply Fr.ite
    | intro _ _
    | split)

theorem execTileExecute_fr {s t : State} (h : Fr q MemOk F s) {x0 : _} {x1 : _} {x2 : _} (e : execTileExecute x0 x1 x2 s = .next t) : Fr q MemOk F t := by
  unfold execTileExecute at e
  injection e with e
  subst e
  repeat' (first
    | with_reducible assumption
    | with_reducible apply whenAlive_fr
    | with_reducible apply doTileExecute_fr
    | with_reducible apply Fr.ite
    | intro _ _)

theorem nextAttempt_fr {s : State} (h : Fr q MemOk F s) (x1 : _) (x2 : _) : Fr q MemOk F (nextAttempt s x1 x2) := by
  unfold nextAttempt
  dsimp only
  repeat' (first
    | with_reducible assumption
    | with_reducible apply failTile_fr
    | with_reducible apply datapathEntry_fr
    | with_reducible apply recordDx_fr
    | with_reducible apply engineFails_fr
    | with_reducible apply putTile_fr
    | with_reducible apply bumpF_fr
    | with_reducible apply Fr.ite)

theorem doTileReexecute_fr {s : State} (h : Fr q MemOk F s) (x1 : _) (x2 : _) : Fr q MemOk F (doTileReexecute s x1 x2) := by
  unfold doTileReexecute
  repeat' (first
    | with_reducible assumption
    | with_reducible apply nextAttempt_fr
    | with_reducible apply Fr.ite
    | split)

theorem execTileReexecute_fr {s t : State} (h : Fr q MemOk F s) {x0 : _} {x1 : _} (e : execTileReexecute x0 x1 s = .next t) : Fr q MemOk F t := by
  unfold execTileReexecute at e
  injection e with e
  subst e
  repeat' (first
    | with_reducible assumption
    | with_reducible apply whenAlive_fr
    | with_reducible apply doTileReexecute_fr
    | with_reducible apply Fr.ite
    | intro _ _)

theorem doDetLimit_fr {s : State} (h : Fr q MemOk F s) (x1 : _) (x2 : _) : Fr q MemOk F (doDetLimit s x1 x2) := by
  unfold doDetLimit
  repeat' (first
    | with_reducible assumption
    | with_reducible apply nextAttempt_fr
    | with_reducible apply engineFails_fr
    | with_reducible apply Fr.ite
    | split)

theorem execDetLimit_fr {s t : State} (h : Fr q MemOk F s) {x0 : _} {x1 : _} (e : execDetLimit x0 x1 s = .next t) : Fr q MemOk F t := by
  unfold execDetLimit at e
  injection e with e
  subst e
  repeat' (first
    | with_reducible assumption
    | with_reducible apply whenAlive_fr
    | with_reducible apply doDetLimit_fr
    | with_reducible apply Fr.ite
    | intro _ _)

theorem finishTile_fr {s : State} (h : Fr q MemOk F s) (x1 : _) (x2 : _) (x3 : _) : Fr q MemOk F (finishTile s x1 x2 x3) := by
  unfold finishTile
  dsimp only
  repeat' (first
    | with_reducible assumption
    | with_reducible apply forAll_fr
    | with_reducible apply multicast_fr
    | with_reducible apply onShare_fr
    | with_reducible apply wrapF_fr
    | with_reducible apply freeNat_fr
    | with_reducible apply settleLead_fr
    | with_reducible apply pruneColl_fr
    | with_reducible apply dropTile_fr
    | with_reducible apply Fr.ite
    | intro _ _ _)

theorem doTileDone_fr {s : State} (h : Fr q MemOk F s) (x1 : _) (x2 : _) (x3 : _) : Fr q MemOk F (doTileDone s x1 x2 x3) := by
  unfold doTileDone
  dsimp only
  repeat' (first
    | with_reducible assumption
    | with_reducible apply dropTile_fr
    | with_reducible apply takeFail_fr
    | with_reducible apply settleLead_fr
    | with_reducible apply failTile_fr
    | with_reducible apply issueWrites_fr
    | with_reducible apply putTile_fr
    | with_reducible apply finishTile_fr
    | with_reducible apply Fr.ite
    | split
    | refine Fr.of_snd (by with_reducible assumption) ?_)

theorem execTileDone_fr {s t : State} (h : Fr q MemOk F s) {x0 : _} {x1 : _} (e : execTileDone x0 x1 s = .next t) : Fr q MemOk F t := by
  unfold execTileDone at e
  injection e with e
  subst e
  repeat' (first
    | with_reducible assumption
    | with_reducible apply whenAlive_fr
    | with_reducible apply doTileDone_fr
    | with_reducible apply Fr.ite
    | intro _ _)

theorem doRootCompute_fr {s : State} (h : Fr q MemOk F s) (x1 : _) (x2 : _) (x3 : _) (x4 : _) : Fr q MemOk F (doRootCompute s x1 x2 x3 x4) := by
  unfold doRootCompute
  dsimp only
  repeat' (first
    | with_reducible assumption
    | with_reducible apply onShare_fr
    | with_reducible apply settleLead_fr
    | with_reducible apply faultEntry_fr
    | with_reducible apply noteDetection_fr
    | with_reducible apply seqRead_fr
    | with_reducible apply Fr.ite
    | split
    | dsimp only
    | refine Fr.of_snd (by with_reducible assumption) ?_
    | with_reducible apply Fr.upd)

theorem execRootCompute_fr {s t : State} (h : Fr q MemOk F s) {x0 : _} {x1 : _} {x2 : _} (e : execRootCompute x0 x1 x2 s = .next t) : Fr q MemOk F t := by
  unfold execRootCompute at e
  injection e with e
  subst e
  repeat' (first
    | with_reducible assumption
    | with_reducible apply whenAlive_fr
    | with_reducible apply slotted_fr
    | with_reducible apply doRootCompute_fr
    | with_reducible apply Fr.ite
    | intro _ _
    | split)

theorem doCollPut_fr {s : State} (h : Fr q M F s) (x1 : _) (x2 : _) (x3 : _) (x4 : _) (x5 : _) : Fr q M F (doCollPut s x1 x2 x3 x4 x5) := by
  unfold doCollPut
  dsimp only
  repeat' (first
    | with_reducible assumption
    | with_reducible apply bumpF_fr
    | with_reducible apply setColl_fr
    | with_reducible apply Fr.ite
    | split)

theorem execCollPut_fr {s t : State} (h : Fr q M F s) {x0 : _} {x1 : _} {x2 : _} {x3 : _} {x4 : _} (e : execCollPut x0 x1 x2 x3 x4 s = .next t) : Fr q M F t := by
  unfold execCollPut at e
  injection e with e
  subst e
  repeat' (first
    | with_reducible assumption
    | with_reducible apply whenAlive_fr
    | with_reducible apply doCollPut_fr
    | with_reducible apply Fr.ite
    | intro _ _)

theorem doRotationStep_fr {s : State} (h : Fr q M F s) (x1 : _) : Fr q M F (doRotationStep s x1) := by
  unfold doRotationStep
  dsimp only
  repeat' (first
    | with_reducible assumption
    | with_reducible apply atPeriodic_fr
    | with_reducible apply setF_fr
    | with_reducible apply setB_fr
    | with_reducible apply setMap_fr
    | with_reducible apply Fr.ite
    | dsimp only
    | with_reducible apply Fr.upd)

theorem execSelftestRotationStep_fr {s t : State} (h : Fr q M F s) {x0 : _} (e : execSelftestRotationStep x0 s = .next t) : Fr q M F t := by
  unfold execSelftestRotationStep at e
  injection e with e
  subst e
  repeat' (first
    | with_reducible assumption
    | with_reducible apply whenAlive_fr
    | with_reducible apply doRotationStep_fr
    | with_reducible apply Fr.ite
    | intro _ _)

theorem doSelftestDone_fr {s : State} (h : Fr q M F s) (x1 : _) (x2 : _) : Fr q M F (doSelftestDone s x1 x2) := by
  unfold doSelftestDone
  dsimp only
  repeat' (first
    | with_reducible assumption
    | with_reducible apply setF_fr
    | with_reducible apply setB_fr
    | with_reducible apply bumpF_fr
    | with_reducible apply endTest_fr
    | with_reducible apply endStandin_fr
    | with_reducible apply engineEntry_fr
    | with_reducible apply engineFails_fr
    | with_reducible apply Fr.ite
    | split)

theorem execSelftestDone_fr {s t : State} (h : Fr q M F s) {x0 : _} {x1 : _} (e : execSelftestDone x0 x1 s = .next t) : Fr q M F t := by
  unfold execSelftestDone at e
  injection e with e
  subst e
  repeat' (first
    | with_reducible assumption
    | with_reducible apply whenAlive_fr
    | with_reducible apply doSelftestDone_fr
    | with_reducible apply Fr.ite
    | intro _ _)

theorem doChkInject_fr {s : State} (h : Fr q M F s) (x1 : _) (x2 : _) (x3 : _) : Fr q M F (doChkInject s x1 x2 x3) := by
  unfold doChkInject
  dsimp only
  repeat' (first
    | with_reducible assumption
    | with_reducible apply setB_fr
    | with_reducible apply Fr.ite
    | split
    | dsimp only
    | with_reducible apply Fr.upd)

theorem execChkInject_fr {s t : State} (h : Fr q M F s) {x0 : _} {x1 : _} {x2 : _} (e : execChkInject x0 x1 x2 s = .next t) : Fr q M F t := by
  unfold execChkInject at e
  injection e with e
  subst e
  repeat' (first
    | with_reducible assumption
    | with_reducible apply whenAlive_fr
    | with_reducible apply doChkInject_fr
    | with_reducible apply Fr.ite
    | intro _ _)

end Sys2Proof.Machine
end

