-- ==== Sys2Proof/Laws/XltCmd.lean ====
section
/-!
SUPPORT. What every operation of Machine/XltCmd.lean leaves alone: each keeps the frame of Laws/Frame.lean.
-/

namespace Sys2Proof.Machine

variable {q : List Instr} {M : Store Byte → Prop} {F : Store Nat → Prop}

theorem doXltInvalidate_fr {s : State} (h : Fr q MemOk F s) (x1 : _) (x2 : _) (x3 : _) : Fr q MemOk F (doXltInvalidate s x1 x2 x3) := by
  unfold doXltInvalidate
  dsimp only
  repeat' (first
    | with_reducible assumption
    | with_reducible apply setF_fr
    | with_reducible apply bumpConfigGen_fr
    | with_reducible apply setB_fr
    | with_reducible apply recallLines_fr
    | with_reducible apply dropCached_fr
    | with_reducible apply Fr.ite
    | dsimp only
    | with_reducible apply Fr.upd)

theorem execXltInvalidate_fr {s t : State} (h : Fr q MemOk F s) {x0 : _} {x1 : _} {x2 : _} (e : execXltInvalidate x0 x1 x2 s = .next t) : Fr q MemOk F t := by
  unfold execXltInvalidate at e
  injection e with e
  subst e
  repeat' (first
    | with_reducible assumption
    | with_reducible apply whenAlive_fr
    | with_reducible apply doXltInvalidate_fr
    | intro _ _)

theorem doInvDone_fr {s : State} (h : Fr q MemOk F s) : Fr q MemOk F (doInvDone s) := by
  unfold doInvDone
  dsimp only
  repeat' (first
    | with_reducible assumption
    | with_reducible apply recallLines_fr
    | with_reducible apply raise_fr
    | with_reducible apply setF_fr
    | with_reducible apply setB_fr
    | with_reducible apply Fr.ite
    | split
    | dsimp only
    | with_reducible apply Fr.upd)

theorem execInvDone_fr {s t : State} (h : Fr q MemOk F s) (e : execInvDone s = .next t) : Fr q MemOk F t := by
  unfold execInvDone at e
  injection e with e
  subst e
  repeat' (first
    | with_reducible assumption
    | with_reducible apply whenAlive_fr
    | with_reducible apply doInvDone_fr)

theorem doPageMove_fr {s : State} (h : Fr q MemOk F s) (x1 : _) : Fr q MemOk F (doPageMove s x1) := by
  unfold doPageMove
  dsimp only
  repeat' (first
    | with_reducible assumption
    | with_reducible apply setF_fr
    | with_reducible apply recallLines_fr
    | with_reducible apply setBitF_fr
    | with_reducible apply Fr.ite
    | split
    | dsimp only
    | with_reducible apply Fr.upd)

theorem execPageMove_fr {s t : State} (h : Fr q MemOk F s) {x0 : _} (e : execPageMove x0 s = .next t) : Fr q MemOk F t := by
  unfold execPageMove at e
  injection e with e
  subst e
  repeat' (first
    | with_reducible assumption
    | with_reducible apply whenAlive_fr
    | with_reducible apply doPageMove_fr
    | intro _ _)

theorem copyPiece_fr {s : State} (h : Fr q MemOk F s) (x1 : _) (x2 : _) : Fr q MemOk F (copyPiece s x1 x2) := by
  unfold copyPiece
  dsimp only
  repeat' (first
    | with_reducible assumption
    | with_reducible apply copyLines_fr
    | with_reducible apply Fr.ite
    | split)

theorem reline_fr {s : State} (h : Fr q M F s) (x1 : _) (x2 : _) : Fr q M F (reline s x1 x2) := by
  unfold reline
  dsimp only
  repeat' (first
    | with_reducible assumption
    | dsimp only
    | with_reducible apply Fr.upd)

theorem doMoveDone_fr {s : State} (h : Fr q MemOk F s) (x1 : _) : Fr q MemOk F (doMoveDone s x1) := by
  unfold doMoveDone
  dsimp only
  repeat' (first
    | with_reducible assumption
    | with_reducible apply forAll_fr
    | with_reducible apply copyPiece_fr
    | with_reducible apply bumpConfigGen_fr
    | with_reducible apply applyCommit_fr
    | with_reducible apply setFrame_fr
    | with_reducible apply reline_fr
    | with_reducible apply dropCached_fr
    | with_reducible apply raise_fr
    | with_reducible apply setBitF_fr
    | with_reducible apply Fr.ite
    | intro _ _ _
    | split
    | dsimp only
    | with_reducible apply Fr.upd)

theorem execMoveDone_fr {s t : State} (h : Fr q MemOk F s) {x0 : _} (e : execMoveDone x0 s = .next t) : Fr q MemOk F t := by
  unfold execMoveDone at e
  injection e with e
  subst e
  repeat' (first
    | with_reducible assumption
    | with_reducible apply whenAlive_fr
    | with_reducible apply doMoveDone_fr
    | intro _ _)

end Sys2Proof.Machine
end

