-- ==== Sys2Proof/Laws/Partition.lean ====
section
/-!
SUPPORT. What every operation of Machine/Partition.lean leaves alone: each keeps the frame of Laws/Frame.lean.
-/

namespace Sys2Proof.Machine

variable {q : List Instr} {M : Store Byte → Prop} {F : Store Nat → Prop}

theorem noteState_fr {s : State} {f : State → State} (h : Fr q M F s) (hf : ∀ s, Fr q M F s → Fr q M F (f s)) (pt : Nat) :
    Fr q M F (noteState pt f s) := by
  unfold noteState
  exact Fr.ite (hf s h) (bumpConfigGen_fr (hf s h) pt)

theorem doQuiesce_fr {s : State} (h : Fr q M F s) (x1 : _) : Fr q M F (doQuiesce s x1) := by
  unfold doQuiesce
  dsimp only
  repeat' (first
    | with_reducible assumption
    | with_reducible apply setF_fr
    | with_reducible apply setB_fr
    | with_reducible apply Fr.ite)

theorem execQuiesce_fr {s t : State} (h : Fr q M F s) (e : execQuiesce s = .next t) : Fr q M F t := by
  unfold execQuiesce at e
  injection e with e
  subst e
  repeat' (first
    | with_reducible assumption
    | with_reducible apply whenAlive_fr
    | with_reducible apply doQuiesce_fr
    | intro _ _)

theorem doQuiesced_fr {s : State} (h : Fr q M F s) (x1 : _) : Fr q M F (doQuiesced s x1) := by
  unfold doQuiesced
  dsimp only
  repeat' (first
    | with_reducible assumption
    | with_reducible apply setB_fr
    | with_reducible apply raise_fr
    | with_reducible apply Fr.ite
    | dsimp only
    | with_reducible apply Fr.upd)

theorem execQuiesced_fr {s t : State} (h : Fr q M F s) {x0 : _} (e : execQuiesced x0 s = .next t) : Fr q M F t := by
  unfold execQuiesced at e
  injection e with e
  subst e
  repeat' (first
    | with_reducible assumption
    | with_reducible apply whenAlive_fr
    | with_reducible apply noteState_fr
    | with_reducible apply doQuiesced_fr
    | intro _ _)

theorem doResume_fr {s : State} (h : Fr q M F s) (x1 : _) : Fr q M F (doResume s x1) := by
  unfold doResume
  dsimp only
  repeat' (first
    | with_reducible assumption
    | with_reducible apply setF_fr
    | with_reducible apply setB_fr
    | with_reducible apply Fr.ite
    | dsimp only
    | with_reducible apply Fr.upd)

theorem copyTables_fr {s : State} (h : Fr q MemOk F s) (x1 : _) (x2 : _) : Fr q MemOk F (copyTables s x1 x2) := by
  unfold copyTables
  repeat' (first
    | with_reducible assumption
    | with_reducible apply copyLines_fr)

theorem carryTables_fr {s : State} (h : Fr q MemOk F s) (x1 : _) (x2 : _) : Fr q MemOk F (carryTables s x1 x2) := by
  unfold carryTables
  repeat' (first
    | with_reducible assumption
    | with_reducible apply forAll_fr
    | with_reducible apply copyTables_fr
    | intro _ _ _
    | split)

theorem joinCore_fr {s : State} (h : Fr q M F s) (x1 : _) (x2 : _) : Fr q M F (joinCore s x1 x2) := by
  unfold joinCore
  dsimp only
  repeat' (first
    | with_reducible assumption
    | dsimp only
    | with_reducible apply Fr.upd)

theorem leaveLost_fr {s : State} (h : Fr q M F s) (x1 : _) : Fr q M F (leaveLost s x1) := by
  unfold leaveLost
  dsimp only
  repeat' (first
    | with_reducible assumption
    | with_reducible apply clearRegions_fr
    | dsimp only
    | with_reducible apply Fr.upd)

theorem doCfg_fr {s : State} (h : Fr q MemOk F s) (x1 : _) : Fr q MemOk F (doCfg s x1) := by
  unfold doCfg
  dsimp only
  repeat' (first
    | with_reducible assumption
    | with_reducible apply setF_fr
    | with_reducible apply forAll_fr
    | with_reducible apply leaveLost_fr
    | with_reducible apply joinCore_fr
    | with_reducible apply carryTables_fr
    | with_reducible apply dropCached_fr
    | with_reducible apply bumpConfigGen_fr
    | with_reducible apply setB_fr
    | with_reducible apply Fr.ite
    | intro _ _ _
    | dsimp only
    | with_reducible apply Fr.upd)

theorem execCfgGo_fr {s t : State} (h : Fr q MemOk F s) (e : execCfgGo s = .next t) : Fr q MemOk F t := by
  unfold execCfgGo at e
  injection e with e
  subst e
  repeat' (first
    | with_reducible assumption
    | with_reducible apply whenAlive_fr
    | with_reducible apply doCfg_fr
    | intro _ _)

theorem copyPair_fr {s : State} (h : Fr q MemOk F s) (x1 : _) (x2 : _) : Fr q MemOk F (copyPair s x1 x2) := by
  unfold copyPair
  repeat' (first
    | with_reducible assumption
    | with_reducible apply copyLines_fr)

theorem doPairCopyDone_fr {s : State} (h : Fr q MemOk F s) (x1 : _) : Fr q MemOk F (doPairCopyDone s x1) := by
  unfold doPairCopyDone
  dsimp only
  repeat' (first
    | with_reducible assumption
    | with_reducible apply copyPair_fr
    | with_reducible apply forAll_fr
    | with_reducible apply setB_fr
    | with_reducible apply Fr.ite
    | intro _ _ _
    | split
    | dsimp only
    | with_reducible apply Fr.upd)

theorem execPairCopyDone_fr {s t : State} (h : Fr q MemOk F s) {x0 : _} (e : execPairCopyDone x0 s = .next t) : Fr q MemOk F t := by
  unfold execPairCopyDone at e
  injection e with e
  subst e
  repeat' (first
    | with_reducible assumption
    | with_reducible apply whenAlive_fr
    | with_reducible apply noteState_fr
    | with_reducible apply doPairCopyDone_fr
    | intro _ _)

theorem doBind_fr {s : State} (h : Fr q M F s) (x1 : _) : Fr q M F (doBind s x1) := by
  unfold doBind
  dsimp only
  repeat' (first
    | with_reducible assumption
    | with_reducible apply setF_fr
    | with_reducible apply freshBinding_fr
    | with_reducible apply Fr.ite)

theorem execBind_fr {s t : State} (h : Fr q M F s) {x0 : _} (e : execBind x0 s = .next t) : Fr q M F t := by
  unfold execBind at e
  injection e with e
  subst e
  repeat' (first
    | with_reducible assumption
    | with_reducible apply whenAlive_fr
    | with_reducible apply doBind_fr
    | intro _ _)

theorem doUnbind_fr {s : State} (h : Fr q M F s) : Fr q M F (doUnbind s) := by
  unfold doUnbind
  dsimp only
  repeat' (first
    | with_reducible assumption
    | with_reducible apply setF_fr
    | with_reducible apply Fr.ite)

theorem execUnbind_fr {s t : State} (h : Fr q M F s) (e : execUnbind s = .next t) : Fr q M F t := by
  unfold execUnbind at e
  injection e with e
  subst e
  repeat' (first
    | with_reducible assumption
    | with_reducible apply whenAlive_fr
    | with_reducible apply doUnbind_fr)

theorem setScrub_fr {s : State} (h : Fr q M F s) (x1 : _) (x2 : _) : Fr q M F (setScrub s x1 x2) := by
  unfold setScrub
  dsimp only
  repeat' (first
    | with_reducible assumption
    | dsimp only
    | with_reducible apply Fr.upd)

theorem withdraw_fr {s : State} (h : Fr q MemOk F s) (x1 : _) (x2 : _) : Fr q MemOk F (withdraw s x1 x2) := by
  unfold withdraw
  dsimp only
  repeat' (first
    | with_reducible assumption
    | with_reducible apply setScrub_fr
    | with_reducible apply forAll_fr
    | with_reducible apply recallLines_fr
    | with_reducible apply setF_fr
    | with_reducible apply setB_fr
    | intro _ _ _
    | dsimp only
    | with_reducible apply Fr.upd)

theorem scrubStart_fr {s : State} (h : Fr q MemOk F s) (x1 : _) (x2 : _) (x3 : _) : Fr q MemOk F (scrubStart s x1 x2 x3) := by
  unfold scrubStart
  dsimp only
  repeat' (first
    | with_reducible assumption
    | with_reducible apply withdraw_fr
    | with_reducible apply forAll_fr
    | with_reducible apply refuse_fr
    | intro _ _ _
    | dsimp only
    | with_reducible apply Fr.upd)

theorem restartScrub_fr {s : State} (h : Fr q MemOk F s) (x1 : _) : Fr q MemOk F (restartScrub s x1) := by
  unfold restartScrub
  repeat' (first
    | with_reducible assumption
    | with_reducible apply withdraw_fr
    | with_reducible apply Fr.ite
    | split)

theorem doScrubGo_fr {s : State} (h : Fr q MemOk F s) (x1 : _) : Fr q MemOk F (doScrubGo s x1) := by
  unfold doScrubGo
  dsimp only
  repeat' (first
    | with_reducible assumption
    | with_reducible apply setF_fr
    | with_reducible apply draw_fr
    | with_reducible apply scrubStart_fr
    | with_reducible apply Fr.ite
    | split
    | dsimp only
    | with_reducible apply Fr.upd)

theorem execScrubGo_fr {s t : State} (h : Fr q MemOk F s) (e : execScrubGo s = .next t) : Fr q MemOk F t := by
  unfold execScrubGo at e
  injection e with e
  subst e
  repeat' (first
    | with_reducible assumption
    | with_reducible apply whenAlive_fr
    | with_reducible apply noteState_fr
    | with_reducible apply doScrubGo_fr
    | intro _ _)

theorem doScrubTimeout_fr {s : State} (h : Fr q MemOk F s) (x1 : _) : Fr q MemOk F (doScrubTimeout s x1) := by
  unfold doScrubTimeout
  dsimp only
  repeat' (first
    | with_reducible assumption
    | with_reducible apply fencePid_fr
    | with_reducible apply advanceEl_fr
    | split)

theorem execScrubSnoopTimeout_fr {s t : State} (h : Fr q MemOk F s) {x0 : _} (e : execScrubSnoopTimeout x0 s = .next t) : Fr q MemOk F t := by
  unfold execScrubSnoopTimeout at e
  injection e with e
  subst e
  repeat' (first
    | with_reducible assumption
    | with_reducible apply whenAlive_fr
    | with_reducible apply doScrubTimeout_fr
    | intro _ _)

theorem doSanitizeDone_fr {s : State} (h : Fr q M F s) (x1 : _) : Fr q M F (doSanitizeDone s x1) := by
  unfold doSanitizeDone
  dsimp only
  repeat' (first
    | with_reducible assumption
    | with_reducible apply setF_fr
    | with_reducible apply forAll_fr
    | with_reducible apply Fr.ite
    | intro _ _ _
    | dsimp only
    | with_reducible apply Fr.upd)

theorem execSanitizeDone_fr {s t : State} (h : Fr q M F s) {x0 : _} (e : execSanitizeDone x0 s = .next t) : Fr q M F t := by
  unfold execSanitizeDone at e
  injection e with e
  subst e
  repeat' (first
    | with_reducible assumption
    | with_reducible apply whenAlive_fr
    | with_reducible apply doSanitizeDone_fr
    | intro _ _)

theorem scrubCore_fr {s : State} (h : Fr q MemOk F s) (x1 : _) : Fr q MemOk F (scrubCore s x1) := by
  unfold scrubCore
  dsimp only
  repeat' (first
    | with_reducible assumption
    | with_reducible apply zeroRange_fr
    | with_reducible apply newCoreKey_fr
    | with_reducible apply clearRegions_fr
    | with_reducible apply discardWork_fr
    | with_reducible apply clearCounters_fr
    | dsimp only
    | with_reducible apply Fr.upd)

theorem freeCore_fr {s : State} (h : Fr q M F s) (x1 : _) : Fr q M F (freeCore s x1) := by
  unfold freeCore
  dsimp only
  repeat' (first
    | with_reducible assumption
    | dsimp only
    | with_reducible apply Fr.upd)

theorem freeDrive_fr {s : State} (h : Fr q MemOk F s) (x1 : _) (x2 : _) : Fr q MemOk F (freeDrive s x1 x2) := by
  unfold freeDrive
  dsimp only
  repeat' (first
    | with_reducible assumption
    | with_reducible apply setB_fr
    | with_reducible apply releaseWindow_fr
    | with_reducible apply forAll_fr
    | with_reducible apply setF_fr
    | with_reducible apply wrapF_fr
    | with_reducible apply Fr.ite
    | intro _ _ _
    | split
    | dsimp only
    | with_reducible apply Fr.upd)

theorem doScrubDone_fr {s : State} (h : Fr q MemOk F s) (x1 : _) : Fr q MemOk F (doScrubDone s x1) := by
  unfold doScrubDone
  dsimp only
  repeat' (first
    | with_reducible assumption
    | with_reducible apply forAll_fr
    | with_reducible apply freeCore_fr
    | with_reducible apply scrubCore_fr
    | with_reducible apply carryTables_fr
    | with_reducible apply freeDrive_fr
    | with_reducible apply setScrub_fr
    | with_reducible apply setF_fr
    | with_reducible apply setB_fr
    | with_reducible apply raise_fr
    | with_reducible apply invalidatePt_fr
    | with_reducible apply Fr.ite
    | intro _ _ _
    | split
    | dsimp only
    | with_reducible apply Fr.upd)

theorem execScrubDone_fr {s t : State} (h : Fr q MemOk F s) {x0 : _} (e : execScrubDone x0 s = .next t) : Fr q MemOk F t := by
  unfold execScrubDone at e
  injection e with e
  subst e
  repeat' (first
    | with_reducible assumption
    | with_reducible apply whenAlive_fr
    | with_reducible apply doScrubDone_fr
    | intro _ _)

end Sys2Proof.Machine
end

