-- ==== Sys2Proof/Laws/DetMode.lean ====
section
/-!
SUPPORT. What every operation of Machine/DetMode.lean leaves alone: each keeps the frame of Laws/Frame.lean.
-/

namespace Sys2Proof.Machine

variable {q : List Instr} {M : Store Byte → Prop} {F : Store Nat → Prop}

theorem doDetWrite_fr {s : State} (h : Fr q M F s) (x1 : _) : Fr q M F (doDetWrite s x1) := by
  unfold doDetWrite
  dsimp only
  repeat' (first
    | with_reducible assumption
    | with_reducible apply bumpF_fr
    | with_reducible apply raise_fr
    | with_reducible apply setB_fr
    | with_reducible apply Fr.ite)

theorem execDetModeWrite_fr {s t : State} (h : Fr q M F s) {x0 : _} (e : execDetModeWrite x0 s = .next t) : Fr q M F t := by
  unfold execDetModeWrite at e
  injection e with e
  subst e
  repeat' (first
    | with_reducible assumption
    | with_reducible apply whenAlive_fr
    | with_reducible apply noteChip_fr
    | with_reducible apply doDetWrite_fr
    | intro _ _)

theorem doDetEffect_fr {s : State} (h : Fr q M F s) : Fr q M F (doDetEffect s) := by
  unfold doDetEffect
  repeat' (first
    | with_reducible assumption
    | with_reducible apply bumpAll_fr
    | with_reducible apply setB_fr
    | with_reducible apply toFrameStart_fr
    | with_reducible apply Fr.ite)

theorem doDrunOpen_fr {s : State} (h : Fr q M F s) (x1 : _) : Fr q M F (doDrunOpen s x1) := by
  unfold doDrunOpen
  dsimp only
  repeat' (first
    | with_reducible assumption
    | with_reducible apply raise_fr
    | with_reducible apply setBitF_fr
    | with_reducible apply bumpConfigGen_fr
    | with_reducible apply setF_fr
    | with_reducible apply forAll_fr
    | with_reducible apply remapSts_fr
    | with_reducible apply Fr.ite
    | intro _ _ _
    | dsimp only
    | with_reducible apply Fr.upd)

theorem execDrunOpen_fr {s t : State} (h : Fr q M F s) {x0 : _} (e : execDrunOpen x0 s = .next t) : Fr q M F t := by
  unfold execDrunOpen at e
  injection e with e
  subst e
  repeat' (first
    | with_reducible assumption
    | with_reducible apply whenAlive_fr
    | with_reducible apply doDrunOpen_fr
    | intro _ _)

theorem clearStaging_fr {s : State} (h : Fr q M F s) (x1 : _) : Fr q M F (clearStaging s x1) := by
  unfold clearStaging
  dsimp only
  repeat' (first
    | with_reducible assumption
    | dsimp only
    | with_reducible apply Fr.upd)

theorem doColdStart_fr {s : State} (h : Fr q MemOk F s) (x1 : _) : Fr q MemOk F (doColdStart s x1) := by
  unfold doColdStart
  dsimp only
  repeat' (first
    | with_reducible assumption
    | with_reducible apply advanceFt_fr
    | with_reducible apply flushDc_fr
    | with_reducible apply invalidatePt_fr
    | with_reducible apply forAll_fr
    | with_reducible apply clearStaging_fr
    | with_reducible apply Fr.ite
    | intro _ _ _
    | split
    | dsimp only
    | with_reducible apply Fr.upd)

theorem execRunColdStart_fr {s t : State} (h : Fr q MemOk F s) {x0 : _} (e : execRunColdStart x0 s = .next t) : Fr q MemOk F t := by
  unfold execRunColdStart at e
  injection e with e
  subst e
  repeat' (first
    | with_reducible assumption
    | with_reducible apply whenAlive_fr
    | with_reducible apply doColdStart_fr
    | intro _ _)

theorem doRunFrame0_fr {s : State} (h : Fr q M F s) (x1 : _) : Fr q M F (doRunFrame0 s x1) := by
  unfold doRunFrame0
  dsimp only
  repeat' (first
    | with_reducible assumption
    | with_reducible apply advanceFt_fr
    | with_reducible apply Fr.ite
    | split
    | dsimp only
    | with_reducible apply Fr.upd)

theorem execRunFrame0_fr {s t : State} (h : Fr q M F s) {x0 : _} (e : execRunFrame0 x0 s = .next t) : Fr q M F t := by
  unfold execRunFrame0 at e
  injection e with e
  subst e
  repeat' (first
    | with_reducible assumption
    | with_reducible apply whenAlive_fr
    | with_reducible apply doRunFrame0_fr
    | intro _ _)

theorem doDrunClose_fr {s : State} (h : Fr q M F s) (x1 : _) : Fr q M F (doDrunClose s x1) := by
  unfold doDrunClose
  dsimp only
  repeat' (first
    | with_reducible assumption
    | with_reducible apply bumpConfigGen_fr
    | with_reducible apply setBitF_fr
    | with_reducible apply forAll_fr
    | with_reducible apply remapSts_fr
    | with_reducible apply Fr.ite
    | intro _ _ _
    | dsimp only
    | with_reducible apply Fr.upd)

theorem execDrunClose_fr {s t : State} (h : Fr q M F s) {x0 : _} (e : execDrunClose x0 s = .next t) : Fr q M F t := by
  unfold execDrunClose at e
  injection e with e
  subst e
  repeat' (first
    | with_reducible assumption
    | with_reducible apply whenAlive_fr
    | with_reducible apply doDrunClose_fr
    | intro _ _)

theorem doDxUnaligned_fr {s : State} (h : Fr q M F s) : Fr q M F (doDxUnaligned s) := by
  unfold doDxUnaligned
  dsimp only
  repeat' (first
    | with_reducible assumption
    | with_reducible apply atPeriodic_fr
    | with_reducible apply forAll_fr
    | with_reducible apply recordDx_fr
    | with_reducible apply Fr.ite
    | intro _ _ _)

theorem execDxUnaligned_fr {s t : State} (h : Fr q M F s) (e : execDxUnaligned s = .next t) : Fr q M F t := by
  unfold execDxUnaligned at e
  injection e with e
  subst e
  repeat' (first
    | with_reducible assumption
    | with_reducible apply whenAlive_fr
    | with_reducible apply doDxUnaligned_fr)

theorem missBeat_fr {s : State} (h : Fr q M F s) (x1 : _) : Fr q M F (missBeat s x1) := by
  unfold missBeat
  dsimp only
  repeat' (first
    | with_reducible assumption
    | with_reducible apply declareLost_fr
    | with_reducible apply Fr.ite
    | dsimp only
    | with_reducible apply Fr.upd)

theorem beatStart_fr {s : State} (h : Fr q M F s) : Fr q M F (beatStart s) := by
  unfold beatStart
  repeat' (first
    | with_reducible assumption
    | with_reducible apply forAll_fr
    | with_reducible apply checkChannels_fr
    | with_reducible apply atPeriodic_fr
    | intro _ _ _)

theorem doHeartbeat_fr {s : State} (h : Fr q M F s) (x1 : _) : Fr q M F (doHeartbeat s x1) := by
  unfold doHeartbeat
  dsimp only
  repeat' (first
    | with_reducible assumption
    | with_reducible apply beatStart_fr
    | with_reducible apply forAll_fr
    | with_reducible apply missBeat_fr
    | with_reducible apply Fr.ite
    | intro _ _ _)

theorem execHeartbeat_fr {s t : State} (h : Fr q M F s) {x0 : _} (e : execHeartbeat x0 s = .next t) : Fr q M F t := by
  unfold execHeartbeat at e
  injection e with e
  subst e
  repeat' (first
    | with_reducible assumption
    | with_reducible apply whenAlive_fr
    | with_reducible apply doHeartbeat_fr
    | intro _ _)

end Sys2Proof.Machine
end

