-- ==== Sys2Proof/Laws/Dram.lean ====
section
/-!
SUPPORT. What every operation of Machine/Dram.lean leaves alone: each keeps the frame of Laws/Frame.lean.
-/

namespace Sys2Proof.Machine

variable {q : List Instr} {M : Store Byte → Prop} {F : Store Nat → Prop}

theorem setPcQueue_fr {s : State} (h : Fr q M F s) (x1 : _) (x2 : _) : Fr q M F (setPcQueue s x1 x2) := by
  unfold setPcQueue
  dsimp only
  repeat' (first
    | with_reducible assumption
    | dsimp only
    | with_reducible apply Fr.upd)

theorem noteWater_fr {s : State} (h : Fr q M F s) (x1 : _) : Fr q M F (noteWater s x1) := by
  unfold noteWater
  dsimp only
  repeat' (first
    | with_reducible assumption
    | with_reducible apply Fr.ite
    | dsimp only
    | with_reducible apply Fr.upd)

theorem setWb_fr {s : State} (h : Fr q M F s) (x1 : _) (x2 : _) : Fr q M F (setWb s x1 x2) := by
  unfold setWb
  dsimp only
  repeat' (first
    | with_reducible assumption
    | with_reducible apply setF_fr
    | dsimp only
    | with_reducible apply Fr.upd)

theorem enterQueue_fr {s : State} (h : Fr q M F s) (x1 : _) (x2 : _) : Fr q M F (enterQueue s x1 x2) := by
  unfold enterQueue
  dsimp only
  repeat' (first
    | with_reducible assumption
    | with_reducible apply setWb_fr
    | with_reducible apply noteWater_fr
    | with_reducible apply setPcQueue_fr
    | with_reducible apply Fr.ite
    | dsimp only
    | with_reducible apply Fr.upd)

theorem admitTag_fr {s : State} (h : Fr q M F s) (x1 : _) (x2 : _) : Fr q M F (admitTag s x1 x2) := by
  unfold admitTag
  dsimp only
  repeat' (first
    | with_reducible assumption
    | with_reducible apply enterQueue_fr
    | with_reducible apply Fr.ite
    | dsimp only
    | with_reducible apply Fr.upd)

theorem admitTags_fr {s : State} (h : Fr q M F s) (x1 : _) : Fr q M F (admitTags s x1) := by
  unfold admitTags
  dsimp only
  repeat' (first
    | with_reducible assumption
    | with_reducible apply forAll_fr
    | with_reducible apply admitTag_fr
    | intro _ _ _
    | dsimp only
    | with_reducible apply Fr.upd)

theorem pushDram_fr {s : State} (h : Fr q M F s) (x1 : _) (x2 : _) (x3 : _) (x4 : _) (x5 : _) (x6 : _) : Fr q M F (pushDram s x1 x2 x3 x4 x5 x6) := by
  unfold pushDram
  dsimp only
  repeat' (first
    | with_reducible assumption
    | with_reducible apply admitTag_fr)

theorem execDramRequest_fr {s t : State} (h : Fr q M F s) {x0 : _} {x1 : _} {x2 : _} {x3 : _} {x4 : _} {x5 : _} (e : execDramRequest x0 x1 x2 x3 x4 x5 s = .next t) : Fr q M F t := by
  unfold execDramRequest at e
  injection e with e
  subst e
  repeat' (first
    | with_reducible assumption
    | with_reducible apply whenAlive_fr
    | with_reducible apply pushDram_fr
    | with_reducible apply Fr.ite
    | intro _ _)

theorem doAgeExpired_fr {s : State} (h : Fr q M F s) (x1 : _) (x2 : _) : Fr q M F (doAgeExpired s x1 x2) := by
  unfold doAgeExpired
  dsimp only
  repeat' (first
    | with_reducible assumption
    | with_reducible apply advanceEl_fr
    | with_reducible apply bumpF_fr
    | with_reducible apply setPcQueue_fr
    | with_reducible apply Fr.ite
    | split)

theorem execAgeExpired_fr {s t : State} (h : Fr q M F s) {x0 : _} {x1 : _} (e : execAgeExpired x0 x1 s = .next t) : Fr q M F t := by
  unfold execAgeExpired at e
  injection e with e
  subst e
  repeat' (first
    | with_reducible assumption
    | with_reducible apply whenAlive_fr
    | with_reducible apply doAgeExpired_fr
    | with_reducible apply Fr.ite
    | intro _ _)

theorem noteActAt_fr {s : State} (h : Fr q M F s) (x1 : _) (x2 : _) (x3 : _) : Fr q M F (noteActAt s x1 x2 x3) := by
  unfold noteActAt
  dsimp only
  repeat' (first
    | with_reducible assumption
    | with_reducible apply countWork_fr
    | split
    | dsimp only
    | with_reducible apply Fr.upd)

theorem noteAct_fr {s : State} (h : Fr q M F s) (x1 : _) (x2 : _) : Fr q M F (noteAct s x1 x2) := by
  unfold noteAct
  dsimp only
  repeat' (first
    | with_reducible assumption
    | with_reducible apply noteActAt_fr)

theorem busyBank_fr {s : State} (h : Fr q M F s) (x1 : _) (x2 : _) (x3 : _) : Fr q M F (busyBank s x1 x2 x3) := by
  unfold busyBank
  dsimp only
  repeat' (first
    | with_reducible assumption
    | dsimp only
    | with_reducible apply Fr.upd)

theorem activate_fr {s : State} (h : Fr q M F s) (x1 : _) (x2 : _) (x3 : _) : Fr q M F (activate s x1 x2 x3) := by
  unfold activate
  dsimp only
  repeat' (first
    | with_reducible assumption
    | with_reducible apply noteActAt_fr
    | with_reducible apply busyBank_fr
    | dsimp only
    | with_reducible apply Fr.upd)

theorem transfer_fr {s : State} (h : Fr q M F s) (x1 : _) (x2 : _) (x3 : _) : Fr q M F (transfer s x1 x2 x3) := by
  unfold transfer
  dsimp only
  repeat' (first
    | with_reducible assumption
    | with_reducible apply busyBank_fr
    | with_reducible apply activate_fr
    | with_reducible apply countWork_fr
    | with_reducible apply setPcQueue_fr
    | with_reducible apply wrapF_fr
    | with_reducible apply bumpF_fr
    | with_reducible apply admitTags_fr
    | with_reducible apply noteWater_fr
    | with_reducible apply Fr.ite
    | split
    | dsimp only
    | with_reducible apply Fr.upd)

theorem windowOff_fr {s : State} (h : Fr q M F s) (x1 : _) (x2 : _) (x3 : _) : Fr q M F (windowOff s x1 x2 x3) := by
  unfold windowOff
  dsimp only
  repeat' (first
    | with_reducible assumption
    | with_reducible apply transfer_fr
    | with_reducible apply Fr.ite
    | split
    | dsimp only
    | with_reducible apply Fr.upd)

theorem windowOn_fr {s : State} (h : Fr q M F s) (x1 : _) (x2 : _) (x3 : _) : Fr q M F (windowOn s x1 x2 x3) := by
  unfold windowOn
  dsimp only
  repeat' (first
    | with_reducible assumption
    | with_reducible apply transfer_fr
    | with_reducible apply Fr.ite
    | split
    | dsimp only
    | with_reducible apply Fr.upd)

theorem doDataWindow_fr {s : State} (h : Fr q M F s) (x1 : _) (x2 : _) : Fr q M F (doDataWindow s x1 x2) := by
  unfold doDataWindow
  dsimp only
  repeat' (first
    | with_reducible assumption
    | with_reducible apply atPeriodic_fr
    | with_reducible apply windowOn_fr
    | with_reducible apply windowOff_fr
    | with_reducible apply Fr.ite)

theorem execDataWindow_fr {s t : State} (h : Fr q M F s) {x0 : _} {x1 : _} (e : execDataWindow x0 x1 s = .next t) : Fr q M F t := by
  unfold execDataWindow at e
  injection e with e
  subst e
  repeat' (first
    | with_reducible assumption
    | with_reducible apply whenAlive_fr
    | with_reducible apply doDataWindow_fr
    | with_reducible apply Fr.ite
    | intro _ _)

theorem toKind_fr {s t : State} {x1 : _} {x2 : _} {x3 : _} (e : toKind s x1 x2 x3 = some t) (h : Fr q M F s) : Fr q M F t := by
  unfold toKind at e
  dsimp only at e
  repeat' (split at e)
  all_goals (first | (injection e with e; subst e) | cases e)
  repeat' (first
    | with_reducible assumption
    | with_reducible apply advanceFt_fr
    | dsimp only
    | with_reducible apply Fr.upd)

theorem sendRfm_fr {s : State} (h : Fr q M F s) (x1 : _) (x2 : _) : Fr q M F (sendRfm s x1 x2) := by
  unfold sendRfm
  dsimp only
  repeat' (first
    | with_reducible assumption
    | with_reducible apply addF_fr
    | with_reducible apply countWork_fr
    | dsimp only
    | with_reducible apply Fr.upd)

theorem refreshBanks_fr {s : State} (h : Fr q M F s) (x1 : _) (x2 : _) : Fr q M F (refreshBanks s x1 x2) := by
  unfold refreshBanks
  dsimp only
  repeat' (first
    | with_reducible assumption
    | with_reducible apply forAll_fr
    | with_reducible apply sendRfm_fr
    | with_reducible apply countWork_fr
    | intro _ _ _
    | dsimp only
    | with_reducible apply Fr.upd)

theorem doRefreshSlot_fr {s : State} (h : Fr q M F s) (x1 : _) : Fr q M F (doRefreshSlot s x1) := by
  unfold doRefreshSlot
  dsimp only
  repeat' (first
    | with_reducible assumption
    | apply toKind_fr (by with_reducible assumption)
    | with_reducible apply refreshBanks_fr
    | with_reducible apply Fr.ite
    | split
    | dsimp only
    | with_reducible apply Fr.upd)

theorem execRefreshSlot_fr {s t : State} (h : Fr q M F s) {x0 : _} (e : execRefreshSlot x0 s = .next t) : Fr q M F t := by
  unfold execRefreshSlot at e
  injection e with e
  subst e
  repeat' (first
    | with_reducible assumption
    | with_reducible apply whenAlive_fr
    | with_reducible apply doRefreshSlot_fr
    | with_reducible apply Fr.ite
    | intro _ _)

theorem enterWb_fr {s : State} (h : Fr q M F s) (x1 : _) (x2 : _) : Fr q M F (enterWb s x1 x2) := by
  unfold enterWb
  dsimp only
  repeat' (first
    | with_reducible assumption
    | with_reducible apply setWb_fr
    | with_reducible apply bumpF_fr
    | with_reducible apply Fr.ite)

theorem notePins_fr {s : State} (h : Fr q M F s) (x1 : _) (x2 : _) : Fr q M F (notePins s x1 x2) := by
  unfold notePins
  dsimp only
  repeat' (first
    | with_reducible assumption
    | with_reducible apply forAll_fr
    | with_reducible apply Fr.ite
    | intro _ _ _
    | dsimp only
    | with_reducible apply Fr.upd)

theorem ceNote_fr {s : State} (h : Fr q M F s) (x1 : _) (x2 : _) (x3 : _) : Fr q M F (ceNote s x1 x2 x3) := by
  unfold ceNote
  dsimp only
  repeat' (first
    | with_reducible assumption
    | with_reducible apply wrapF_fr
    | with_reducible apply setF_fr
    | with_reducible apply setB_fr
    | with_reducible apply notePins_fr
    | with_reducible apply Fr.ite)

theorem ceRead_fr {s : State} (h : Fr q M F s) (x1 : _) (x2 : _) (x3 : _) : Fr q M F (ceRead s x1 x2 x3) := by
  unfold ceRead
  dsimp only
  repeat' (first
    | with_reducible assumption
    | with_reducible apply ceNote_fr
    | with_reducible apply enterWb_fr
    | with_reducible apply Fr.ite)

theorem recoverDir_fr {s : State} (h : Fr q MemOk F s) (x1 : _) : Fr q MemOk F (recoverDir s x1) := by
  unfold recoverDir
  dsimp only
  repeat' (first
    | with_reducible assumption
    | with_reducible apply bumpF_fr
    | with_reducible apply freshLine_fr
    | with_reducible apply forAll_fr
    | with_reducible apply setTxn_fr
    | with_reducible apply setDir_fr
    | with_reducible apply sendSnoop_fr
    | with_reducible apply Fr.ite
    | intro _ _ _
    | split)

theorem ueArea_fr {s : State} (h : Fr q MemOk F s) (x1 : _) : Fr q MemOk F (ueArea s x1) := by
  unfold ueArea
  repeat' (first
    | with_reducible assumption
    | with_reducible apply addRepair_fr
    | with_reducible apply recoverDir_fr
    | with_reducible apply Fr.ite
    | split)

theorem setErrors_fr {s : State} (h : Fr q M F s) (x1 : _) (x2 : _) : Fr q M F (setErrors s x1 x2) := by
  unfold setErrors
  dsimp only
  repeat' (first
    | with_reducible assumption
    | dsimp only
    | with_reducible apply Fr.upd)

theorem doReadData_fr {s : State} (h : Fr q MemOk F s) (x1 : _) (x2 : _) (x3 : _) (x4 : _) : Fr q MemOk F (doReadData s x1 x2 x3 x4) := by
  unfold doReadData
  dsimp only
  repeat' (first
    | with_reducible assumption
    | with_reducible apply setErrors_fr
    | with_reducible apply ueArea_fr
    | with_reducible apply ueRead_fr
    | with_reducible apply ceRead_fr
    | with_reducible apply Fr.ite
    | split)

theorem execDramReadData_fr {s t : State} (h : Fr q MemOk F s) {x0 : _} {x1 : _} {x2 : _} {x3 : _} (e : execDramReadData x0 x1 x2 x3 s = .next t) : Fr q MemOk F t := by
  unfold execDramReadData at e
  injection e with e
  subst e
  repeat' (first
    | with_reducible assumption
    | with_reducible apply whenAlive_fr
    | with_reducible apply checkChannels_fr
    | with_reducible apply doReadData_fr
    | with_reducible apply Fr.ite
    | intro _ _)

theorem doWriteback_fr {s : State} (h : Fr q MemOk F s) (x1 : _) : Fr q MemOk F (doWriteback s x1) := by
  unfold doWriteback
  dsimp only
  repeat' (first
    | with_reducible assumption
    | with_reducible apply setWb_fr
    | with_reducible apply pushDram_fr
    | with_reducible apply rewriteLine_fr
    | with_reducible apply Fr.ite
    | split)

theorem execCorrectedWriteback_fr {s t : State} (h : Fr q MemOk F s) {x0 : _} (e : execCorrectedWriteback x0 s = .next t) : Fr q MemOk F t := by
  unfold execCorrectedWriteback at e
  injection e with e
  subst e
  repeat' (first
    | with_reducible assumption
    | with_reducible apply whenAlive_fr
    | with_reducible apply doWriteback_fr
    | with_reducible apply Fr.ite
    | intro _ _)

theorem doPinErased_fr {s : State} (h : Fr q M F s) (x1 : _) (x2 : _) : Fr q M F (doPinErased s x1 x2) := by
  unfold doPinErased
  dsimp only
  repeat' (first
    | with_reducible assumption
    | with_reducible apply setB_fr
    | with_reducible apply setF_fr
    | with_reducible apply raise_fr
    | with_reducible apply Fr.ite
    | split)

theorem execPinErased_fr {s t : State} (h : Fr q M F s) {x0 : _} {x1 : _} (e : execPinErased x0 x1 s = .next t) : Fr q M F t := by
  unfold execPinErased at e
  injection e with e
  subst e
  repeat' (first
    | with_reducible assumption
    | with_reducible apply whenAlive_fr
    | with_reducible apply doPinErased_fr
    | with_reducible apply Fr.ite
    | intro _ _)

theorem putEntry_fr {s : State} (h : Fr q M F s) (x1 : _) (x2 : _) (x3 : _) (x4 : _) : Fr q M F (putEntry s x1 x2 x3 x4) := by
  unfold putEntry
  dsimp only
  repeat' (first
    | with_reducible assumption
    | with_reducible apply setF_fr)

theorem takeEntry_fr {s : State} (h : Fr q M F s) (x1 : _) (x2 : _) : Fr q M F (takeEntry s x1 x2) := by
  unfold takeEntry
  dsimp only
  repeat' (first
    | with_reducible assumption
    | with_reducible apply putEntry_fr
    | with_reducible apply remapSts_fr
    | with_reducible apply setF_fr
    | split
    | dsimp only
    | with_reducible apply Fr.upd)

theorem acceptRemap_fr {s : State} (h : Fr q M F s) (x1 : _) (x2 : _) : Fr q M F (acceptRemap s x1 x2) := by
  unfold acceptRemap
  dsimp only
  repeat' (first
    | with_reducible assumption
    | with_reducible apply remapSts_fr
    | with_reducible apply takeEntry_fr
    | with_reducible apply Fr.ite
    | dsimp only
    | with_reducible apply Fr.upd)

theorem doRemapRequest_fr {s : State} (h : Fr q M F s) (x1 : _) (x2 : _) : Fr q M F (doRemapRequest s x1 x2) := by
  unfold doRemapRequest
  dsimp only
  repeat' (first
    | with_reducible assumption
    | with_reducible apply setF_fr
    | with_reducible apply acceptRemap_fr
    | with_reducible apply Fr.ite)

theorem execRemapRequest_fr {s t : State} (h : Fr q M F s) {x0 : _} {x1 : _} (e : execRemapRequest x0 x1 s = .next t) : Fr q M F t := by
  unfold execRemapRequest at e
  injection e with e
  subst e
  repeat' (first
    | with_reducible assumption
    | with_reducible apply whenAlive_fr
    | with_reducible apply doRemapRequest_fr
    | with_reducible apply Fr.ite
    | intro _ _)

theorem hardFault_fr {s : State} (h : Fr q M F s) (x1 : _) : Fr q M F (hardFault s x1) := by
  unfold hardFault
  dsimp only
  repeat' (first
    | with_reducible assumption
    | with_reducible apply raise_fr
    | with_reducible apply acceptRemap_fr
    | with_reducible apply faultEntry_fr
    | with_reducible apply Fr.ite
    | split)

theorem lostCopy_fr {s : State} (h : Fr q M F s) (x1 : _) : Fr q M F (lostCopy s x1) := by
  unfold lostCopy
  repeat' (first
    | with_reducible assumption
    | with_reducible apply setErrors_fr)

theorem copyToSpare_fr {s : State} (h : Fr q MemOk F s) (x1 : _) (x2 : _) (x3 : _) : Fr q MemOk F (copyToSpare s x1 x2 x3) := by
  unfold copyToSpare
  dsimp only
  repeat' (first
    | with_reducible assumption
    | with_reducible apply lostCopy_fr
    | with_reducible apply rewriteLine_fr
    | with_reducible apply noteActAt_fr
    | with_reducible apply freshLine_fr
    | with_reducible apply Fr.ite)

theorem remapStep_fr {s : State} (h : Fr q MemOk F s) (x1 : _) (x2 : _) : Fr q MemOk F (remapStep s x1 x2) := by
  unfold remapStep
  dsimp only
  repeat' (first
    | with_reducible assumption
    | with_reducible apply setF_fr
    | with_reducible apply forAll_fr
    | with_reducible apply copyToSpare_fr
    | with_reducible apply noteActAt_fr
    | with_reducible apply raise_fr
    | with_reducible apply remapSts_fr
    | with_reducible apply takeEntry_fr
    | with_reducible apply Fr.ite
    | intro _ _ _
    | split
    | dsimp only
    | with_reducible apply Fr.upd)

theorem copyLine_fr {s : State} (h : Fr q MemOk F s) (x1 : _) (x2 : _) : Fr q MemOk F (copyLine s x1 x2) := by
  unfold copyLine
  dsimp only
  repeat' (first
    | with_reducible assumption
    | with_reducible apply noteAct_fr
    | with_reducible apply freshLine_fr
    | with_reducible apply Fr.ite
    | dsimp only
    | with_reducible apply Fr.updMem
    | with_reducible apply memPut_ok
    | with_reducible apply Fr.mem (M := MemOk))

theorem repairTags_fr {s : State} (h : Fr q MemOk F s) (x1 : _) : Fr q MemOk F (repairTags s x1) := by
  unfold repairTags
  dsimp only
  repeat' (first
    | with_reducible assumption
    | with_reducible apply tagsLost_fr
    | with_reducible apply bumpF_fr
    | with_reducible apply freshLine_fr
    | with_reducible apply Fr.ite)

theorem repairLine_fr {s : State} (h : Fr q MemOk F s) (x1 : _) : Fr q MemOk F (repairLine s x1).1 := by
  unfold repairLine
  dsimp only
  repeat' (first
    | with_reducible assumption
    | with_reducible apply bumpF_fr
    | with_reducible apply copyLine_fr
    | with_reducible apply freshLine_fr
    | with_reducible apply recoverDir_fr
    | with_reducible apply repairTags_fr
    | with_reducible apply Fr.ite
    | with_reducible apply Fr.ite_fst
    | split)

theorem doRepairs_fr {s : State} (h : Fr q MemOk F s) (x1 : _) : Fr q MemOk F (doRepairs s x1) := by
  unfold doRepairs
  dsimp only
  repeat' (first
    | with_reducible assumption
    | with_reducible apply repairLine_fr
    | with_reducible apply noteAct_fr
    | with_reducible apply Fr.ite_fst
    | with_reducible apply Fr.foldl_fst
    | intro _ _ _
    | dsimp only
    | with_reducible apply Fr.upd)

theorem maintDone_fr {s : State} (h : Fr q M F s) (x1 : _) (x2 : _) : Fr q M F (maintDone s x1 x2) := by
  unfold maintDone
  dsimp only
  repeat' (first
    | with_reducible assumption
    | dsimp only
    | with_reducible apply Fr.upd)

theorem trainFails_fr {s : State} (h : Fr q M F s) (x1 : _) (x2 : _) : Fr q M F (trainFails s x1 x2) := by
  unfold trainFails
  dsimp only
  repeat' (first
    | with_reducible assumption
    | with_reducible apply raise_fr
    | with_reducible apply bumpF_fr
    | with_reducible apply chanError_fr
    | with_reducible apply setBitF_fr
    | with_reducible apply faultEntry_fr
    | with_reducible apply Fr.ite
    | dsimp only
    | with_reducible apply Fr.upd)

theorem trainStack_fr {s : State} (h : Fr q M F s) (x1 : _) (x2 : _) : Fr q M F (trainStack s x1 x2) := by
  unfold trainStack
  dsimp only
  repeat' (first
    | with_reducible assumption
    | with_reducible apply bumpF_fr
    | with_reducible apply maintDone_fr
    | with_reducible apply forAll_fr
    | with_reducible apply trainFails_fr
    | intro _ _ _
    | dsimp only
    | with_reducible apply Fr.upd)

theorem calibrate_fr {s : State} (h : Fr q M F s) (x1 : _) : Fr q M F (calibrate s x1) := by
  unfold calibrate
  repeat' (first
    | with_reducible assumption
    | with_reducible apply bumpF_fr
    | with_reducible apply maintDone_fr)

theorem scrubRead_fr {s : State} (h : Fr q MemOk F s) (x1 : _) : Fr q MemOk F (scrubRead s x1) := by
  unfold scrubRead
  dsimp only
  repeat' (first
    | with_reducible assumption
    | with_reducible apply noteAct_fr
    | with_reducible apply ueArea_fr
    | with_reducible apply ueRead_fr
    | with_reducible apply ceRead_fr
    | split)

theorem verifyEntry_fr {s : State} (h : Fr q MemOk F s) (x1 : _) : Fr q MemOk F (verifyEntry s x1) := by
  unfold verifyEntry
  dsimp only
  repeat' (first
    | with_reducible assumption
    | with_reducible apply setWb_fr
    | with_reducible apply hardFault_fr
    | with_reducible apply ceNote_fr
    | with_reducible apply noteAct_fr
    | with_reducible apply scrubRead_fr
    | with_reducible apply Fr.ite
    | split)

theorem patrol_fr {s : State} (h : Fr q MemOk F s) (x1 : _) (x2 : _) : Fr q MemOk F (patrol s x1 x2) := by
  unfold patrol
  dsimp only
  repeat' (first
    | with_reducible assumption
    | with_reducible apply forAll_fr
    | with_reducible apply scrubRead_fr
    | with_reducible apply setF_fr
    | with_reducible apply raise_fr
    | with_reducible apply bumpF_fr
    | with_reducible apply Fr.ite
    | intro _ _ _
    | dsimp only
    | with_reducible apply Fr.upd)

theorem scrubStep_fr {s : State} (h : Fr q MemOk F s) (x1 : _) (x2 : _) : Fr q MemOk F (scrubStep s x1 x2) := by
  unfold scrubStep
  dsimp only
  repeat' (first
    | with_reducible assumption
    | with_reducible apply forAll_fr
    | with_reducible apply rewriteLine_fr
    | with_reducible apply noteAct_fr
    | with_reducible apply setWb_fr
    | with_reducible apply setErrors_fr
    | with_reducible apply patrol_fr
    | with_reducible apply verifyEntry_fr
    | intro _ _ _)

theorem doMaintSlot_fr {s : State} (h : Fr q MemOk F s) (x1 : _) (x2 : _) (x3 : _) : Fr q MemOk F (doMaintSlot s x1 x2 x3) := by
  unfold doMaintSlot
  dsimp only
  repeat' (first
    | with_reducible assumption
    | apply toKind_fr (by with_reducible assumption)
    | with_reducible apply remapSts_fr
    | with_reducible apply doRepairs_fr
    | with_reducible apply remapStep_fr
    | with_reducible apply trainStack_fr
    | with_reducible apply calibrate_fr
    | with_reducible apply scrubStep_fr
    | with_reducible apply Fr.ite
    | split)

theorem execMaintSlot_fr {s t : State} (h : Fr q MemOk F s) {x0 : _} {x1 : _} {x2 : _} (e : execMaintSlot x0 x1 x2 s = .next t) : Fr q MemOk F t := by
  unfold execMaintSlot at e
  injection e with e
  subst e
  repeat' (first
    | with_reducible assumption
    | with_reducible apply whenAlive_fr
    | with_reducible apply checkChannels_fr
    | with_reducible apply doMaintSlot_fr
    | with_reducible apply Fr.ite
    | intro _ _)

theorem doBistStart_fr {s : State} (h : Fr q M F s) (x1 : _) (x2 : _) : Fr q M F (doBistStart s x1 x2) := by
  unfold doBistStart
  dsimp only
  repeat' (first
    | with_reducible assumption
    | with_reducible apply setB_fr
    | with_reducible apply setF_fr
    | with_reducible apply Fr.ite
    | dsimp only
    | with_reducible apply Fr.upd)

theorem execBistStart_fr {s t : State} (h : Fr q M F s) {x0 : _} {x1 : _} (e : execBistStart x0 x1 s = .next t) : Fr q M F t := by
  unfold execBistStart at e
  injection e with e
  subst e
  repeat' (first
    | with_reducible assumption
    | with_reducible apply whenAlive_fr
    | with_reducible apply doBistStart_fr
    | with_reducible apply Fr.ite
    | intro _ _)

theorem downReads_fr {s : State} (h : Fr q M F s) (x1 : _) (x2 : _) : Fr q M F (downReads s x1 x2) := by
  unfold downReads
  repeat' (first
    | with_reducible assumption
    | with_reducible apply forAll_fr
    | with_reducible apply addF_fr
    | with_reducible apply ueRead_fr
    | intro _ _ _)

theorem wipeStack_fr {s : State} (h : Fr q MemOk F s) (x1 : _) : Fr q MemOk F (wipeStack s x1) := by
  unfold wipeStack
  dsimp only
  repeat' (first
    | with_reducible assumption
    | dsimp only
    | with_reducible apply Fr.updMem
    | with_reducible apply memFilter_ok
    | with_reducible apply Fr.mem (M := MemOk))

theorem doBistDone_fr {s : State} (h : Fr q MemOk F s) (x1 : _) (x2 : _) : Fr q MemOk F (doBistDone s x1 x2) := by
  unfold doBistDone
  dsimp only
  repeat' (first
    | with_reducible assumption
    | with_reducible apply wipeStack_fr
    | with_reducible apply forAll_fr
    | with_reducible apply setErrors_fr
    | with_reducible apply downReads_fr
    | with_reducible apply scrubRead_fr
    | with_reducible apply noteActAt_fr
    | with_reducible apply setB_fr
    | with_reducible apply setF_fr
    | with_reducible apply raise_fr
    | intro _ _ _
    | split
    | dsimp only
    | with_reducible apply Fr.upd)

theorem execBistDone_fr {s t : State} (h : Fr q MemOk F s) {x0 : _} {x1 : _} (e : execBistDone x0 x1 s = .next t) : Fr q MemOk F t := by
  unfold execBistDone at e
  injection e with e
  subst e
  repeat' (first
    | with_reducible assumption
    | with_reducible apply whenAlive_fr
    | with_reducible apply checkChannels_fr
    | with_reducible apply doBistDone_fr
    | with_reducible apply Fr.ite
    | intro _ _)

theorem storeRaw_fr {s : State} (h : Fr q MemOk F s) (x1 : _) (x2 : _) (x3 : _) : Fr q MemOk F (storeRaw s x1 x2 x3) := by
  unfold storeRaw
  dsimp only
  repeat' (first
    | with_reducible assumption
    | split
    | dsimp only
    | with_reducible apply Fr.updMem
    | with_reducible apply memPut_ok
    | with_reducible apply Fr.mem (M := MemOk))

theorem testCommand_fr {s : State} {f : State → Nat → State} (h : Fr q M F s)
    (hf : ∀ s n, Fr q M F s → Fr q M F (f s n)) (c : Nat) : Fr q M F (testCommand s c f) := by
  unfold testCommand
  have h1 := noteAct_fr (setB_fr h (EDAC.TEST_STS_REFUSED c) false) c (lineOff (testLine s c))
  exact Fr.ite (setB_fr h _ _) (raise_fr (hf _ _ (Fr.ite (ueRead_fr h1 _ _) h1)) _ _)

theorem doTestWrite_fr {s : State} (h : Fr q MemOk F s) (x1 : _) : Fr q MemOk F (doTestWrite s x1) := by
  unfold doTestWrite
  repeat' (first
    | with_reducible assumption
    | with_reducible apply testCommand_fr
    | with_reducible apply storeRaw_fr
    | with_reducible apply Fr.ite
    | intro _ _ _)

theorem execTestWrite_fr {s t : State} (h : Fr q MemOk F s) {x0 : _} (e : execTestWrite x0 s = .next t) : Fr q MemOk F t := by
  unfold execTestWrite at e
  injection e with e
  subst e
  repeat' (first
    | with_reducible assumption
    | with_reducible apply whenAlive_fr
    | with_reducible apply doTestWrite_fr
    | with_reducible apply Fr.ite
    | intro _ _)

theorem doTestRead_fr {s : State} (h : Fr q M F s) (x1 : _) : Fr q M F (doTestRead s x1) := by
  unfold doTestRead
  dsimp only
  repeat' (first
    | with_reducible assumption
    | with_reducible apply testCommand_fr
    | with_reducible apply setF_fr
    | intro _ _ _)

theorem execTestRead_fr {s t : State} (h : Fr q M F s) {x0 : _} (e : execTestRead x0 s = .next t) : Fr q M F t := by
  unfold execTestRead at e
  injection e with e
  subst e
  repeat' (first
    | with_reducible assumption
    | with_reducible apply whenAlive_fr
    | with_reducible apply doTestRead_fr
    | with_reducible apply Fr.ite
    | intro _ _)

theorem doTestReadRaw_fr {s : State} (h : Fr q M F s) (x1 : _) : Fr q M F (doTestReadRaw s x1) := by
  unfold doTestReadRaw
  dsimp only
  repeat' (first
    | with_reducible assumption
    | with_reducible apply testCommand_fr
    | with_reducible apply setF_fr
    | intro _ _ _)

theorem execTestReadRaw_fr {s t : State} (h : Fr q M F s) {x0 : _} (e : execTestReadRaw x0 s = .next t) : Fr q M F t := by
  unfold execTestReadRaw at e
  injection e with e
  subst e
  repeat' (first
    | with_reducible assumption
    | with_reducible apply whenAlive_fr
    | with_reducible apply doTestReadRaw_fr
    | with_reducible apply Fr.ite
    | intro _ _)

end Sys2Proof.Machine
end

