-- ==== Sys2Proof/Laws/Link.lean ====
section
/-!
SUPPORT. What every operation of Machine/Link.lean leaves alone: each keeps the frame of Laws/Frame.lean.
-/

namespace Sys2Proof.Machine

variable {q : List Instr} {M : Store Byte → Prop} {F : Store Nat → Prop}

theorem enterState_fr {s : State} (h : Fr q M F s) (x1 : _) (x2 : _) : Fr q M F (enterState s x1 x2) := by
  unfold enterState
  dsimp only
  repeat' (first
    | with_reducible assumption
    | with_reducible apply setLink_fr
    | with_reducible apply setF_fr)

theorem clearLanes_fr {s : State} (h : Fr q M F s) (x1 : _) : Fr q M F (clearLanes s x1) := by
  unfold clearLanes
  dsimp only
  repeat' (first
    | with_reducible assumption
    | with_reducible apply setLink_fr)

theorem startCold_fr {s : State} (h : Fr q M F s) (x1 : _) (x2 : _) : Fr q M F (startCold s x1 x2) := by
  unfold startCold
  dsimp only
  repeat' (first
    | with_reducible assumption
    | with_reducible apply setF_fr
    | with_reducible apply setB_fr
    | with_reducible apply enterState_fr
    | with_reducible apply clearLanes_fr
    | with_reducible apply setLink_fr)

theorem doTrain_fr {s : State} (h : Fr q M F s) (x1 : _) : Fr q M F (doTrain s x1) := by
  unfold doTrain
  repeat' (first
    | with_reducible assumption
    | with_reducible apply startCold_fr
    | with_reducible apply Fr.ite)

theorem execPortTrain_fr {s t : State} (h : Fr q M F s) {x0 : _} (e : execPortTrain x0 s = .next t) : Fr q M F t := by
  unfold execPortTrain at e
  injection e with e
  subst e
  repeat' (first
    | with_reducible assumption
    | with_reducible apply whenAlive_fr
    | with_reducible apply doTrain_fr
    | intro _ _)

theorem recordReplay_fr {s : State} (h : Fr q M F s) (x1 : _) : Fr q M F (recordReplay s x1) := by
  unfold recordReplay
  repeat' (first
    | with_reducible assumption
    | with_reducible apply forAll_fr
    | with_reducible apply recordDx_fr
    | with_reducible apply Fr.ite
    | intro _ _ _)

theorem dropExchange_fr {s : State} (h : Fr q M F s) (x1 : _) : Fr q M F (dropExchange s x1) := by
  unfold dropExchange
  dsimp only
  repeat' (first
    | with_reducible assumption
    | dsimp only
    | with_reducible apply Fr.upd)

theorem abandonExchange_fr {s : State} (h : Fr q M F s) (x1 : _) : Fr q M F (abandonExchange s x1) := by
  unfold abandonExchange
  dsimp only
  repeat' (first
    | with_reducible assumption
    | dsimp only
    | with_reducible apply Fr.upd)

theorem beginRetrain_fr {s : State} (h : Fr q M F s) (x1 : _) : Fr q M F (beginRetrain s x1) := by
  unfold beginRetrain
  dsimp only
  repeat' (first
    | with_reducible assumption
    | with_reducible apply setLink_fr
    | with_reducible apply bumpF_fr
    | with_reducible apply setB_fr
    | with_reducible apply clearLanes_fr
    | with_reducible apply recordReplay_fr
    | with_reducible apply raise_fr
    | with_reducible apply enterState_fr
    | with_reducible apply Fr.ite)

theorem stopPort_fr {s : State} (h : Fr q M F s) (x1 : _) : Fr q M F (stopPort s x1) := by
  unfold stopPort
  dsimp only
  repeat' (first
    | with_reducible assumption
    | with_reducible apply enterState_fr
    | with_reducible apply dropExchange_fr
    | with_reducible apply setB_fr
    | with_reducible apply setF_fr
    | with_reducible apply setLink_fr
    | with_reducible apply raise_fr
    | with_reducible apply Fr.ite
    | dsimp only
    | with_reducible apply Fr.upd)

theorem failPort_fr {s : State} (h : Fr q M F s) (x1 : _) (x2 : _) (x3 : _) : Fr q M F (failPort s x1 x2 x3) := by
  unfold failPort
  repeat' (first
    | with_reducible assumption
    | with_reducible apply faultEntry_fr
    | with_reducible apply setF_fr
    | with_reducible apply stopPort_fr)

theorem failAttempt_fr {s : State} (h : Fr q M F s) (x1 : _) (x2 : _) : Fr q M F (failAttempt s x1 x2) := by
  unfold failAttempt
  dsimp only
  repeat' (first
    | with_reducible assumption
    | with_reducible apply setF_fr
    | with_reducible apply setLink_fr
    | with_reducible apply bumpF_fr
    | with_reducible apply dropExchange_fr
    | with_reducible apply enterState_fr
    | with_reducible apply Fr.ite)

theorem disablePort_fr {s : State} (h : Fr q M F s) (x1 : _) : Fr q M F (disablePort s x1) := by
  unfold disablePort
  repeat' (first
    | with_reducible assumption
    | with_reducible apply stopPort_fr
    | with_reducible apply Fr.ite)

theorem portsOff_fr {s : State} (h : Fr q M F s) : Fr q M F (portsOff s) := by
  unfold portsOff
  repeat' (first
    | with_reducible assumption
    | with_reducible apply forAll_fr
    | with_reducible apply disablePort_fr
    | intro _ _ _)

theorem trainEnabled_fr {s : State} (h : Fr q M F s) : Fr q M F (trainEnabled s) := by
  unfold trainEnabled
  repeat' (first
    | with_reducible assumption
    | with_reducible apply forAll_fr
    | with_reducible apply startCold_fr
    | with_reducible apply Fr.ite
    | intro _ _ _)

theorem doRetrain_fr {s : State} (h : Fr q M F s) (x1 : _) : Fr q M F (doRetrain s x1) := by
  unfold doRetrain
  repeat' (first
    | with_reducible assumption
    | with_reducible apply beginRetrain_fr
    | with_reducible apply Fr.ite)

theorem execPortRetrain_fr {s t : State} (h : Fr q M F s) {x0 : _} (e : execPortRetrain x0 s = .next t) : Fr q M F t := by
  unfold execPortRetrain at e
  injection e with e
  subst e
  repeat' (first
    | with_reducible assumption
    | with_reducible apply whenAlive_fr
    | with_reducible apply doRetrain_fr
    | intro _ _)

theorem execDetectSignal_fr {s t : State} (h : Fr q M F s) {x0 : _} (e : execDetectSignal x0 s = .next t) : Fr q M F t := by
  unfold execDetectSignal at e
  injection e with e
  subst e
  repeat' (first
    | with_reducible assumption
    | with_reducible apply whenAlive_fr
    | with_reducible apply enterState_fr
    | with_reducible apply advanceEl_fr
    | with_reducible apply Fr.ite
    | intro _ _)

theorem notePeer_fr {s : State} (h : Fr q M F s) (x1 : _) (x2 : _) : Fr q M F (notePeer s x1 x2) := by
  unfold notePeer
  repeat' (first
    | with_reducible assumption
    | with_reducible apply setF_fr)

theorem checkEqualize_fr {s : State} (h : Fr q M F s) (x1 : _) : Fr q M F (checkEqualize s x1) := by
  unfold checkEqualize
  dsimp only
  repeat' (first
    | with_reducible assumption
    | with_reducible apply enterState_fr
    | with_reducible apply setF_fr
    | with_reducible apply Fr.ite)

theorem takeRtr_fr {s : State} (h : Fr q M F s) (x1 : _) (x2 : _) : Fr q M F (takeRtr s x1 x2) := by
  unfold takeRtr
  repeat' (first
    | with_reducible assumption
    | with_reducible apply beginRetrain_fr
    | with_reducible apply Fr.ite)

theorem doTseq_fr {s : State} (h : Fr q M F s) (x1 : _) (x2 : _) (x3 : _) (x4 : _) : Fr q M F (doTseq s x1 x2 x3 x4) := by
  unfold doTseq
  dsimp only
  repeat' (first
    | with_reducible assumption
    | with_reducible apply takeRtr_fr
    | with_reducible apply notePeer_fr
    | with_reducible apply checkEqualize_fr
    | with_reducible apply setLink_fr
    | with_reducible apply Fr.ite)

theorem execTseq_fr {s t : State} (h : Fr q M F s) {x0 : _} {x1 : _} {x2 : _} {x3 : _} (e : execTseq x0 x1 x2 x3 s = .next t) : Fr q M F t := by
  unfold execTseq at e
  injection e with e
  subst e
  repeat' (first
    | with_reducible assumption
    | with_reducible apply whenAlive_fr
    | with_reducible apply doTseq_fr
    | intro _ _)

theorem alignLanes_fr {s : State} (h : Fr q M F s) (x1 : _) : Fr q M F (alignLanes s x1) := by
  unfold alignLanes
  dsimp only
  repeat' (first
    | with_reducible assumption
    | with_reducible apply setB_fr
    | with_reducible apply setF_fr
    | with_reducible apply enterState_fr
    | with_reducible apply setLink_fr
    | with_reducible apply Fr.ite)

theorem doTs1_fr {s : State} (h : Fr q M F s) (x1 : _) (x2 : _) (x3 : _) : Fr q M F (doTs1 s x1 x2 x3) := by
  unfold doTs1
  dsimp only
  repeat' (first
    | with_reducible assumption
    | with_reducible apply takeRtr_fr
    | with_reducible apply notePeer_fr
    | with_reducible apply alignLanes_fr
    | with_reducible apply setLink_fr
    | with_reducible apply Fr.ite)

theorem execTs1_fr {s t : State} (h : Fr q M F s) {x0 : _} {x1 : _} {x2 : _} (e : execTs1 x0 x1 x2 s = .next t) : Fr q M F t := by
  unfold execTs1 at e
  injection e with e
  subst e
  repeat' (first
    | with_reducible assumption
    | with_reducible apply whenAlive_fr
    | with_reducible apply doTs1_fr
    | intro _ _)

theorem settleTs2_fr {s : State} (h : Fr q M F s) (x1 : _) (x2 : _) : Fr q M F (settleTs2 s x1 x2) := by
  unfold settleTs2
  dsimp only
  repeat' (first
    | with_reducible assumption
    | with_reducible apply setF_fr
    | with_reducible apply notePeer_fr
    | with_reducible apply setB_fr
    | with_reducible apply failAttempt_fr
    | with_reducible apply enterState_fr
    | with_reducible apply setLink_fr
    | with_reducible apply Fr.ite
    | split)

theorem doTs2_fr {s : State} (h : Fr q M F s) (x1 : _) (x2 : _) : Fr q M F (doTs2 s x1 x2) := by
  unfold doTs2
  dsimp only
  repeat' (first
    | with_reducible assumption
    | with_reducible apply takeRtr_fr
    | with_reducible apply settleTs2_fr
    | with_reducible apply setLink_fr
    | with_reducible apply Fr.ite)

theorem execTs2_fr {s t : State} (h : Fr q M F s) {x0 : _} {x1 : _} (e : execTs2 x0 x1 s = .next t) : Fr q M F t := by
  unfold execTs2 at e
  injection e with e
  subst e
  repeat' (first
    | with_reducible assumption
    | with_reducible apply whenAlive_fr
    | with_reducible apply doTs2_fr
    | intro _ _)

theorem restartCredits_fr {s : State} (h : Fr q M F s) (x1 : _) (x2 : _) (x3 : _) : Fr q M F (restartCredits s x1 x2 x3) := by
  unfold restartCredits
  dsimp only
  repeat' (first
    | with_reducible assumption
    | with_reducible apply setLink_fr)

theorem switchWidth_fr {s : State} (h : Fr q M F s) (x1 : _) (x2 : _) (x3 : _) : Fr q M F (switchWidth s x1 x2 x3) := by
  unfold switchWidth
  dsimp only
  repeat' (first
    | with_reducible assumption
    | with_reducible apply setF_fr
    | with_reducible apply setB_fr
    | with_reducible apply raise_fr
    | with_reducible apply setLink_fr
    | with_reducible apply Fr.ite)

theorem sendGo_fr {s : State} (h : Fr q M F s) (x1 : _) (x2 : _) : Fr q M F (sendGo s x1 x2) := by
  unfold sendGo
  dsimp only
  repeat' (first
    | with_reducible assumption
    | with_reducible apply switchWidth_fr
    | with_reducible apply sendCtrl_fr)

theorem askAgain_fr {s : State} (h : Fr q M F s) (x1 : _) : Fr q M F (askAgain s x1) := by
  unfold askAgain
  dsimp only
  repeat' (first
    | with_reducible assumption
    | with_reducible apply sendGo_fr
    | with_reducible apply sendCtrl_fr
    | with_reducible apply Fr.ite)

theorem endRetrain_fr {s : State} (h : Fr q M F s) (x1 : _) (x2 : _) (x3 : _) : Fr q M F (endRetrain s x1 x2 x3) := by
  unfold endRetrain
  dsimp only
  repeat' (first
    | with_reducible assumption
    | with_reducible apply setLink_fr
    | with_reducible apply setF_fr
    | with_reducible apply setB_fr
    | with_reducible apply bumpF_fr
    | with_reducible apply faultEntry_fr
    | with_reducible apply raise_fr
    | with_reducible apply askAgain_fr
    | with_reducible apply flushLink_fr
    | with_reducible apply enterState_fr
    | with_reducible apply Fr.ite
    | split)

theorem startExchange_fr {s : State} (h : Fr q M F s) (x1 : _) (x2 : _) : Fr q M F (startExchange s x1 x2) := by
  unfold startExchange
  dsimp only
  repeat' (first
    | with_reducible assumption
    | with_reducible apply setF_fr
    | with_reducible apply draw_fr
    | with_reducible apply sendCtrl_fr
    | with_reducible apply Fr.ite
    | split
    | dsimp only
    | with_reducible apply Fr.upd)

theorem enterKeying_fr {s : State} (h : Fr q M F s) (x1 : _) (x2 : _) : Fr q M F (enterKeying s x1 x2) := by
  unfold enterKeying
  dsimp only
  repeat' (first
    | with_reducible assumption
    | with_reducible apply setLink_fr
    | with_reducible apply setF_fr
    | with_reducible apply startExchange_fr
    | with_reducible apply enterState_fr)

theorem settleTs3_fr {s : State} (h : Fr q M F s) (x1 : _) (x2 : _) (x3 : _) : Fr q M F (settleTs3 s x1 x2 x3) := by
  unfold settleTs3
  dsimp only
  repeat' (first
    | with_reducible assumption
    | with_reducible apply setF_fr
    | with_reducible apply restartCredits_fr
    | with_reducible apply setLink_fr
    | with_reducible apply endRetrain_fr
    | with_reducible apply startExchange_fr
    | with_reducible apply abandonExchange_fr
    | with_reducible apply enterKeying_fr
    | with_reducible apply Fr.ite)

theorem doTs3_fr {s : State} (h : Fr q M F s) (x1 : _) (x2 : _) : Fr q M F (doTs3 s x1 x2) := by
  unfold doTs3
  dsimp only
  repeat' (first
    | with_reducible assumption
    | with_reducible apply takeRtr_fr
    | with_reducible apply settleTs3_fr
    | with_reducible apply setLink_fr
    | with_reducible apply Fr.ite)

theorem execTs3_fr {s t : State} (h : Fr q M F s) {x0 : _} {x1 : _} (e : execTs3 x0 x1 s = .next t) : Fr q M F t := by
  unfold execTs3 at e
  injection e with e
  subst e
  repeat' (first
    | with_reducible assumption
    | with_reducible apply whenAlive_fr
    | with_reducible apply doTs3_fr
    | intro _ _)

theorem failExchange_fr {s : State} (h : Fr q M F s) (x1 : _) (x2 : _) : Fr q M F (failExchange s x1 x2) := by
  unfold failExchange
  dsimp only
  repeat' (first
    | with_reducible assumption
    | with_reducible apply setF_fr
    | with_reducible apply dropExchange_fr
    | with_reducible apply faultEntry_fr
    | with_reducible apply raise_fr
    | with_reducible apply failAttempt_fr
    | with_reducible apply Fr.ite)

theorem execTrainStateLimit_fr {s t : State} (h : Fr q M F s) {x0 : _} (e : execTrainStateLimit x0 s = .next t) : Fr q M F t := by
  unfold execTrainStateLimit at e
  injection e with e
  subst e
  dsimp only
  repeat' (first
    | with_reducible assumption
    | with_reducible apply whenAlive_fr
    | with_reducible apply advanceEl_fr
    | with_reducible apply failExchange_fr
    | with_reducible apply failAttempt_fr
    | with_reducible apply Fr.ite
    | intro _ _)

theorem execFailedHoldEnd_fr {s t : State} (h : Fr q M F s) {x0 : _} (e : execFailedHoldEnd x0 s = .next t) : Fr q M F t := by
  unfold execFailedHoldEnd at e
  injection e with e
  subst e
  dsimp only
  repeat' (first
    | with_reducible assumption
    | with_reducible apply whenAlive_fr
    | with_reducible apply advanceEl_fr
    | with_reducible apply failPort_fr
    | with_reducible apply enterState_fr
    | with_reducible apply clearLanes_fr
    | with_reducible apply raise_fr
    | with_reducible apply startCold_fr
    | with_reducible apply Fr.ite
    | intro _ _)

theorem failLane_fr {s : State} (h : Fr q M F s) (x1 : _) (x2 : _) : Fr q M F (failLane s x1 x2) := by
  unfold failLane
  repeat' (first
    | with_reducible assumption
    | with_reducible apply beginRetrain_fr
    | with_reducible apply setBitF_fr
    | with_reducible apply Fr.ite)

theorem execLaneLossOfLock_fr {s t : State} (h : Fr q M F s) {x0 : _} {x1 : _} (e : execLaneLossOfLock x0 x1 s = .next t) : Fr q M F t := by
  unfold execLaneLossOfLock at e
  injection e with e
  subst e
  repeat' (first
    | with_reducible assumption
    | with_reducible apply whenAlive_fr
    | with_reducible apply failLane_fr
    | intro _ _)

theorem execLaneSerLimit_fr {s t : State} (h : Fr q M F s) {x0 : _} {x1 : _} {x2 : _} (e : execLaneSerLimit x0 x1 x2 s = .next t) : Fr q M F t := by
  unfold execLaneSerLimit at e
  injection e with e
  subst e
  dsimp only
  repeat' (first
    | with_reducible assumption
    | with_reducible apply whenAlive_fr
    | with_reducible apply addF_fr
    | with_reducible apply failLane_fr
    | with_reducible apply Fr.ite
    | intro _ _)

theorem execFecUncorrectableLimit_fr {s t : State} (h : Fr q M F s) {x0 : _} {x1 : _} (e : execFecUncorrectableLimit x0 x1 s = .next t) : Fr q M F t := by
  unfold execFecUncorrectableLimit at e
  injection e with e
  subst e
  dsimp only
  repeat' (first
    | with_reducible assumption
    | with_reducible apply whenAlive_fr
    | with_reducible apply addF_fr
    | with_reducible apply beginRetrain_fr
    | with_reducible apply Fr.ite
    | intro _ _)

theorem doLwcRequest_fr {s : State} (h : Fr q M F s) (x1 : _) (x2 : _) : Fr q M F (doLwcRequest s x1 x2) := by
  unfold doLwcRequest
  dsimp only
  repeat' (first
    | with_reducible assumption
    | with_reducible apply setB_fr
    | with_reducible apply beginRetrain_fr
    | with_reducible apply setLink_fr
    | with_reducible apply sendGo_fr
    | with_reducible apply sendCtrl_fr
    | with_reducible apply Fr.ite)

theorem execLwcRequest_fr {s t : State} (h : Fr q M F s) {x0 : _} {x1 : _} (e : execLwcRequest x0 x1 s = .next t) : Fr q M F t := by
  unfold execLwcRequest at e
  injection e with e
  subst e
  repeat' (first
    | with_reducible assumption
    | with_reducible apply whenAlive_fr
    | with_reducible apply doLwcRequest_fr
    | intro _ _)

theorem execLwcReq_fr {s t : State} (h : Fr q M F s) {x0 : _} {x1 : _} (e : execLwcReq x0 x1 s = .next t) : Fr q M F t := by
  unfold execLwcReq at e
  injection e with e
  subst e
  dsimp only
  repeat' (first
    | with_reducible assumption
    | with_reducible apply whenAlive_fr
    | with_reducible apply setLink_fr
    | with_reducible apply sendGo_fr
    | with_reducible apply Fr.ite
    | intro _ _)

theorem execLwcGo_fr {s t : State} (h : Fr q M F s) {x0 : _} {x1 : _} {x2 : _} (e : execLwcGo x0 x1 x2 s = .next t) : Fr q M F t := by
  unfold execLwcGo at e
  injection e with e
  subst e
  dsimp only
  repeat' (first
    | with_reducible assumption
    | with_reducible apply whenAlive_fr
    | with_reducible apply switchWidth_fr
    | with_reducible apply setLink_fr
    | with_reducible apply Fr.ite
    | intro _ _)

theorem takeSwitch_fr {s : State} (h : Fr q M F s) (x1 : _) : Fr q M F (takeSwitch s x1) := by
  unfold takeSwitch
  dsimp only
  repeat' (first
    | with_reducible assumption
    | with_reducible apply setLink_fr
    | with_reducible apply sendGo_fr
    | with_reducible apply Fr.ite)

theorem replayFrom_fr {s : State} (h : Fr q M F s) (x1 : _) (x2 : _) : Fr q M F (replayFrom s x1 x2) := by
  unfold replayFrom
  repeat' (first
    | with_reducible assumption
    | with_reducible apply recordReplay_fr
    | with_reducible apply bumpF_fr
    | with_reducible apply setLink_fr)

theorem sendNak_fr {s : State} (h : Fr q M F s) (x1 : _) : Fr q M F (sendNak s x1) := by
  unfold sendNak
  dsimp only
  repeat' (first
    | with_reducible assumption
    | with_reducible apply recordReplay_fr
    | with_reducible apply bumpF_fr
    | with_reducible apply setLink_fr
    | with_reducible apply Fr.ite)

theorem applyAck_fr {s t : State} {p : Nat} {f : RxFlit} (e : applyAck s p f = some t) (h : Fr q M F s) : Fr q M F t := by
  unfold applyAck at e
  dsimp only at e
  split at e
  · obtain ⟨r, _, rfl⟩ := Option.map_eq_some_iff.1 e
    exact replayFrom_fr (bumpF_fr h _) _ _
  · split at e
    · obtain ⟨r, _, rfl⟩ := Option.map_eq_some_iff.1 e
      exact flushLink_fr (setLink_fr h _ _) _
    · injection e with e; subst e; exact h

theorem applyCret_fr {s : State} (h : Fr q M F s) (x1 : _) (x2 : _) : Fr q M F (applyCret s x1 x2) := by
  unfold applyCret
  dsimp only
  repeat' (first
    | with_reducible assumption
    | with_reducible apply setLink_fr
    | with_reducible apply Fr.ite)

theorem takeCtrl_fr {s : State} (h : Fr q M F s) (x0 : _) (x2 : _) : Fr q M F (takeCtrl x0 s x2) := by
  unfold takeCtrl
  dsimp only
  repeat' (first
    | with_reducible assumption
    | with_reducible apply setLink_fr
    | with_reducible apply failExchange_fr
    | with_reducible apply beginRetrain_fr
    | with_reducible apply Fr.ite)

theorem deliver_fr {s : State} (h : Fr q M F s) (x1 : _) (x2 : _) (x3 : _) (x4 : _) : Fr q M F (deliver s x1 x2 x3 x4) := by
  unfold deliver
  dsimp only
  repeat' (first
    | with_reducible assumption
    | with_reducible apply beginRetrain_fr
    | with_reducible apply bumpF_fr
    | with_reducible apply sendNak_fr
    | with_reducible apply setLink_fr
    | with_reducible apply setF_fr
    | with_reducible apply setB_fr
    | with_reducible apply wrapF_fr
    | with_reducible apply forAll_fr
    | with_reducible apply takeCtrl_fr
    | with_reducible apply Fr.ite
    | intro _ _ _
    | split
    | dsimp only
    | with_reducible apply Fr.upd)

theorem endFrame_fr {s : State} (h : Fr q M F s) (x1 : _) : Fr q M F (endFrame s x1) := by
  unfold endFrame
  dsimp only
  repeat' (first
    | with_reducible assumption
    | with_reducible apply deliver_fr
    | with_reducible apply sendNak_fr
    | with_reducible apply bumpF_fr
    | with_reducible apply setLink_fr
    | with_reducible apply Fr.ite
    | split)

theorem takeFlit_fr {s : State} (h : Fr q M F s) (x1 : _) (x2 : _) : Fr q M F (takeFlit s x1 x2) := by
  unfold takeFlit
  dsimp only
  repeat' (first
    | with_reducible assumption
    | with_reducible apply endFrame_fr
    | with_reducible apply setLink_fr
    | with_reducible apply sendNak_fr
    | with_reducible apply Fr.ite)

theorem recvFlit_fr {s : State} (h : Fr q M F s) (x1 : _) (x2 : _) : Fr q M F (recvFlit s x1 x2) := by
  unfold recvFlit
  dsimp only
  repeat' (first
    | with_reducible assumption
    | with_reducible apply sendNak_fr
    | with_reducible apply bumpF_fr
    | with_reducible apply beginRetrain_fr
    | apply applyAck_fr (by with_reducible assumption)
    | with_reducible apply applyCret_fr
    | with_reducible apply takeSwitch_fr
    | with_reducible apply takeFlit_fr
    | with_reducible apply Fr.ite
    | split)

theorem execFlit_fr {s t : State} (h : Fr q M F s) {x0 : _} {x1 : _} (e : execFlit x0 x1 s = .next t) : Fr q M F t := by
  unfold execFlit at e
  injection e with e
  subst e
  repeat' (first
    | with_reducible assumption
    | with_reducible apply whenAlive_fr
    | with_reducible apply recvFlit_fr
    | intro _ _)

theorem execReplayTimer_fr {s t : State} (h : Fr q M F s) {x0 : _} (e : execReplayTimer x0 s = .next t) : Fr q M F t := by
  unfold execReplayTimer at e
  injection e with e
  subst e
  dsimp only
  repeat' (first
    | with_reducible assumption
    | with_reducible apply whenAlive_fr
    | with_reducible apply replayFrom_fr
    | with_reducible apply advanceEl_fr
    | with_reducible apply Fr.ite
    | intro _ _)

theorem execReplayLimit_fr {s t : State} (h : Fr q M F s) {x0 : _} (e : execReplayLimit x0 s = .next t) : Fr q M F t := by
  unfold execReplayLimit at e
  injection e with e
  subst e
  repeat' (first
    | with_reducible assumption
    | with_reducible apply whenAlive_fr
    | with_reducible apply beginRetrain_fr
    | with_reducible apply Fr.ite
    | intro _ _)

theorem execTagFailLimit_fr {s t : State} (h : Fr q M F s) {x0 : _} (e : execTagFailLimit x0 s = .next t) : Fr q M F t := by
  unfold execTagFailLimit at e
  injection e with e
  subst e
  repeat' (first
    | with_reducible assumption
    | with_reducible apply whenAlive_fr
    | with_reducible apply raise_fr
    | with_reducible apply failPort_fr
    | with_reducible apply Fr.ite
    | intro _ _)

theorem doCreditCheck_fr {s : State} (h : Fr q M F s) (x1 : _) (x2 : _) : Fr q M F (doCreditCheck s x1 x2) := by
  unfold doCreditCheck
  dsimp only
  repeat' (first
    | with_reducible assumption
    | with_reducible apply setLink_fr
    | with_reducible apply raise_fr
    | with_reducible apply bumpF_fr
    | with_reducible apply beginRetrain_fr
    | with_reducible apply faultEntry_fr
    | with_reducible apply Fr.ite)

theorem execCreditCheck_fr {s t : State} (h : Fr q M F s) {x0 : _} {x1 : _} (e : execCreditCheck x0 x1 s = .next t) : Fr q M F t := by
  unfold execCreditCheck at e
  injection e with e
  subst e
  repeat' (first
    | with_reducible assumption
    | with_reducible apply whenAlive_fr
    | with_reducible apply doCreditCheck_fr
    | intro _ _)

theorem noteStall_fr {s : State} (h : Fr q M F s) (x0 : _) (x2 : _) : Fr q M F (noteStall x0 s x2) := by
  unfold noteStall
  repeat' (first
    | with_reducible assumption
    | with_reducible apply bumpF_fr
    | with_reducible apply setQueue_fr
    | split)

theorem execCreditStall_fr {s t : State} (h : Fr q M F s) {x0 : _} (e : execCreditStall x0 s = .next t) : Fr q M F t := by
  unfold execCreditStall at e
  injection e with e
  subst e
  repeat' (first
    | with_reducible assumption
    | with_reducible apply whenAlive_fr
    | with_reducible apply forAll_fr
    | with_reducible apply noteStall_fr
    | with_reducible apply Fr.ite
    | intro _ _ _
    | intro _ _)

theorem execCchkPeriod_fr {s t : State} (h : Fr q M F s) {x0 : _} (e : execCchkPeriod x0 s = .next t) : Fr q M F t := by
  unfold execCchkPeriod at e
  injection e with e
  subst e
  dsimp only
  repeat' (first
    | with_reducible assumption
    | with_reducible apply whenAlive_fr
    | with_reducible apply atPeriodic_fr
    | with_reducible apply sendCtrl_fr
    | with_reducible apply Fr.ite
    | intro _ _)

end Sys2Proof.Machine
end

