-- ==== Sys2Proof/Laws/Selvedge.lean ====
section
/-!
SUPPORT. What every operation of Machine/Selvedge.lean leaves alone: each keeps the frame of Laws/Frame.lean.
-/

namespace Sys2Proof.Machine

variable {q : List Instr} {M : Store Byte → Prop} {F : Store Nat → Prop}

theorem controlChange_fr {s : State} (h : Fr q M F s) (x1 : _) : Fr q M F (controlChange s x1) := by
  unfold controlChange
  repeat' (first
    | with_reducible assumption
    | with_reducible apply forAll_fr
    | with_reducible apply sendSelv_fr
    | intro _ _ _)

theorem holdOutputs_fr {s : State} (h : Fr q M F s) : Fr q M F (holdOutputs s) := by
  unfold holdOutputs
  dsimp only
  repeat' (first
    | with_reducible assumption
    | dsimp only
    | with_reducible apply Fr.upd)

theorem install_fr {s : State} (h : Fr q M F s) (x1 : _) (x2 : _) (x3 : _) : Fr q M F (install s x1 x2 x3) := by
  unfold install
  dsimp only
  repeat' (first
    | with_reducible assumption
    | with_reducible apply setF_fr
    | with_reducible apply wrapF_fr
    | with_reducible apply setB_fr
    | with_reducible apply raise_fr
    | with_reducible apply controlChange_fr
    | with_reducible apply faultEntry_fr
    | with_reducible apply resync_fr
    | split
    | dsimp only
    | with_reducible apply Fr.upd)

theorem dropHolder_fr {s : State} (h : Fr q M F s) (x1 : _) : Fr q M F (dropHolder s x1) := by
  unfold dropHolder
  dsimp only
  repeat' (first
    | with_reducible assumption
    | with_reducible apply holdOutputs_fr
    | with_reducible apply setF_fr
    | with_reducible apply raise_fr
    | with_reducible apply controlChange_fr
    | with_reducible apply faultEntry_fr)

theorem execHello_fr {s t : State} (h : Fr q M F s) {x0 : _} {x1 : _} {x2 : _} (e : execHello x0 x1 x2 s = .next t) : Fr q M F t := by
  unfold execHello at e
  injection e with e
  subst e
  dsimp only
  repeat' (first
    | with_reducible assumption
    | with_reducible apply whenManaged_fr
    | with_reducible apply onFrame_fr
    | with_reducible apply setSelv_fr
    | with_reducible apply setF_fr
    | with_reducible apply Fr.ite
    | with_reducible apply Fr.queue
    | intro _ _)

theorem execSelvLinkUp_fr {s t : State} (h : Fr q M F s) {x0 : _} (e : execSelvLinkUp x0 s = .next t) : Fr q M F t := by
  unfold execSelvLinkUp at e
  injection e with e
  subst e
  dsimp only
  repeat' (first
    | with_reducible assumption
    | with_reducible apply whenManaged_fr
    | with_reducible apply setB_fr
    | with_reducible apply resync_fr
    | with_reducible apply raise_fr
    | with_reducible apply Fr.ite
    | intro _ _)

theorem endLease_fr {s : State} (h : Fr q M F s) (x1 : _) : Fr q M F (endLease s x1) := by
  unfold endLease
  dsimp only
  repeat' (first
    | with_reducible assumption
    | with_reducible apply raise_fr
    | with_reducible apply setSelv_fr
    | with_reducible apply Fr.ite
    | with_reducible apply Fr.queue)

theorem selvDown_fr {s : State} (h : Fr q M F s) (x1 : _) : Fr q M F (selvDown s x1) := by
  unfold selvDown
  dsimp only
  repeat' (first
    | with_reducible assumption
    | with_reducible apply setSelv_fr
    | with_reducible apply setF_fr
    | with_reducible apply setB_fr
    | with_reducible apply raise_fr
    | with_reducible apply bumpF_fr
    | with_reducible apply endLease_fr
    | with_reducible apply Fr.ite
    | simp only [List.length_nil, Nat.zero_le])

theorem execSelvLinkDown_fr {s t : State} (h : Fr q M F s) {x0 : _} (e : execSelvLinkDown x0 s = .next t) : Fr q M F t := by
  unfold execSelvLinkDown at e
  injection e with e
  subst e
  repeat' (first
    | with_reducible assumption
    | with_reducible apply whenManaged_fr
    | with_reducible apply selvDown_fr
    | intro _ _)

theorem execRenew_fr {s t : State} (h : Fr q M F s) {x0 : _} {x1 : _} (e : execRenew x0 x1 s = .next t) : Fr q M F t := by
  unfold execRenew at e
  injection e with e
  subst e
  dsimp only
  repeat' (first
    | with_reducible assumption
    | with_reducible apply whenManaged_fr
    | with_reducible apply onFrame_fr
    | with_reducible apply setSelv_fr
    | with_reducible apply sendSelv_fr
    | with_reducible apply bumpF_fr
    | with_reducible apply Fr.ite
    | with_reducible apply Fr.queue
    | intro _ _)

theorem execClaim_fr {s t : State} (h : Fr q M F s) {x0 : _} {x1 : _} (e : execClaim x0 x1 s = .next t) : Fr q M F t := by
  unfold execClaim at e
  injection e with e
  subst e
  dsimp only
  repeat' (first
    | with_reducible assumption
    | with_reducible apply whenManaged_fr
    | with_reducible apply onFrame_fr
    | with_reducible apply sendSelv_fr
    | with_reducible apply install_fr
    | with_reducible apply Fr.ite
    | intro _ _)

theorem doHandover_fr {s : State} (h : Fr q M F s) : Fr q M F (doHandover s) := by
  unfold doHandover
  dsimp only
  repeat' (first
    | with_reducible assumption
    | with_reducible apply setB_fr
    | with_reducible apply install_fr
    | with_reducible apply Fr.ite
    | split)

theorem execHandover_fr {s t : State} (h : Fr q M F s) (e : execHandover s = .next t) : Fr q M F t := by
  unfold execHandover at e
  injection e with e
  subst e
  repeat' (first
    | with_reducible assumption
    | with_reducible apply whenAlive_fr
    | with_reducible apply doHandover_fr)

theorem checkLease_fr {s : State} (h : Fr q M F s) (x1 : _) : Fr q M F (checkLease s x1) := by
  unfold checkLease
  repeat' (first
    | with_reducible assumption
    | with_reducible apply endLease_fr
    | with_reducible apply Fr.ite)

theorem checkHolder_fr {s : State} (h : Fr q M F s) : Fr q M F (checkHolder s) := by
  unfold checkHolder
  repeat' (first
    | with_reducible assumption
    | with_reducible apply dropHolder_fr
    | with_reducible apply Fr.ite
    | split)

theorem autoReturn_fr {s : State} (h : Fr q M F s) : Fr q M F (autoReturn s) := by
  unfold autoReturn
  dsimp only
  repeat' (first
    | with_reducible assumption
    | with_reducible apply install_fr
    | with_reducible apply Fr.ite)

theorem noHolderCheck_fr {s : State} (h : Fr q M F s) : Fr q M F (noHolderCheck s) := by
  unfold noHolderCheck
  dsimp only
  repeat' (first
    | with_reducible assumption
    | with_reducible apply faultEntry_fr
    | with_reducible apply Fr.ite
    | dsimp only
    | with_reducible apply Fr.upd)

theorem execSelvedgeLeaseCheck_fr {s t : State} (h : Fr q M F s) (e : execSelvedgeLeaseCheck s = .next t) : Fr q M F t := by
  unfold execSelvedgeLeaseCheck at e
  injection e with e
  subst e
  dsimp only
  repeat' (first
    | with_reducible assumption
    | with_reducible apply whenManaged_fr
    | with_reducible apply atPeriodic_fr
    | with_reducible apply noHolderCheck_fr
    | with_reducible apply autoReturn_fr
    | with_reducible apply checkHolder_fr
    | with_reducible apply checkLease_fr
    | intro _ _)

theorem execDualWindowClose_fr {s t : State} (h : Fr q M F s) (e : execDualWindowClose s = .next t) : Fr q M F t := by
  unfold execDualWindowClose at e
  injection e with e
  subst e
  repeat' (first
    | with_reducible assumption
    | with_reducible apply whenManaged_fr
    | with_reducible apply setB_fr
    | with_reducible apply advanceEl_fr
    | with_reducible apply Fr.ite
    | intro _ _)

theorem doFaultPop_fr {s : State} (h : Fr q M F s) : Fr q M F (doFaultPop s) := by
  have hl : logWithin { s with log := s.log.drop 1 } := by
    have := h.log
    unfold logWithin generalUsed reservedUsed at this ⊢
    have sub : ∀ p : FaultEntry → Bool, ((s.log.drop 1).filter p).length ≤ (s.log.filter p).length := fun p =>
      ((List.drop_sublist 1 s.log).filter p).length_le
    exact ⟨Nat.le_trans (sub _) this.1, Nat.le_trans (sub _) this.2⟩
  exact ⟨h.pending, h.mem, h.fuses, h.regs, hl, h.selv⟩

theorem execFaultPop_fr {s t : State} (h : Fr q M F s) (e : execFaultPop s = .next t) : Fr q M F t := by
  unfold execFaultPop at e
  injection e with e
  subst e
  repeat' (first
    | with_reducible assumption
    | with_reducible apply whenAlive_fr
    | with_reducible apply doFaultPop_fr)

theorem doClearLost_fr {s : State} (h : Fr q M F s) : Fr q M F (doClearLost s) := by
  unfold doClearLost
  repeat' (first
    | with_reducible assumption
    | with_reducible apply setB_fr)

theorem execClearLost_fr {s t : State} (h : Fr q M F s) (e : execClearLost s = .next t) : Fr q M F t := by
  unfold execClearLost at e
  injection e with e
  subst e
  repeat' (first
    | with_reducible assumption
    | with_reducible apply whenAlive_fr
    | with_reducible apply doClearLost_fr)

end Sys2Proof.Machine
end

