-- ==== Sys2Proof/Laws/Power.lean ====
section
/-!
SUPPORT. What every operation of Machine/Power.lean leaves alone: each keeps the frame of Laws/Frame.lean.
-/

namespace Sys2Proof.Machine

variable {q : List Instr} {M : Store Byte → Prop} {F : Store Nat → Prop}

theorem setPwrState_fr {s : State} (h : Fr q M F s) (x1 : _) : Fr q M F (setPwrState s x1) := by
  unfold setPwrState
  repeat' (first
    | with_reducible assumption
    | with_reducible apply raise_fr
    | with_reducible apply setF_fr
    | with_reducible apply Fr.ite)

theorem setFreq_fr {s : State} (h : Fr q M F s) (x1 : _) (x2 : _) : Fr q M F (setFreq s x1 x2) := by
  unfold setFreq
  dsimp only
  repeat' (first
    | with_reducible assumption
    | dsimp only
    | with_reducible apply Fr.upd)

theorem setVstk_fr {s : State} (h : Fr q M F s) (x1 : _) (x2 : _) : Fr q M F (setVstk s x1 x2) := by
  unfold setVstk
  dsimp only
  repeat' (first
    | with_reducible assumption
    | dsimp only
    | with_reducible apply Fr.upd)

theorem deferChange_fr {s : State} (h : Fr q M F s) (x1 : _) : Fr q M F (deferChange s x1) := by
  unfold deferChange
  repeat' (first
    | with_reducible assumption
    | with_reducible apply raise_fr
    | with_reducible apply bumpF_fr
    | with_reducible apply setB_fr)

theorem applyClock_fr {s : State} (h : Fr q M F s) (x1 : _) : Fr q M F (applyClock s x1) := by
  unfold applyClock
  dsimp only
  repeat' (first
    | with_reducible assumption
    | with_reducible apply setVstk_fr
    | with_reducible apply setFreq_fr
    | with_reducible apply setB_fr
    | with_reducible apply setF_fr
    | with_reducible apply Fr.ite)

theorem updateClock_fr {s : State} (h : Fr q M F s) (x1 : _) : Fr q M F (updateClock s x1) := by
  unfold updateClock
  repeat' (first
    | with_reducible assumption
    | with_reducible apply deferChange_fr
    | with_reducible apply applyClock_fr
    | with_reducible apply Fr.ite)

theorem execDetModeTakesEffect_fr {s t : State} (h : Fr q M F s) (e : execDetModeTakesEffect s = .next t) : Fr q M F t := by
  unfold execDetModeTakesEffect at e
  injection e with e
  subst e
  dsimp only
  repeat' (first
    | with_reducible assumption
    | with_reducible apply whenAlive_fr
    | with_reducible apply doDetEffect_fr
    | with_reducible apply forAll_fr
    | with_reducible apply updateClock_fr
    | with_reducible apply Fr.ite
    | intro _ _ _
    | intro _ _)

theorem recordThrottle_fr {s : State} (h : Fr q M F s) : Fr q M F (recordThrottle s) := by
  unfold recordThrottle
  repeat' (first
    | with_reducible assumption
    | with_reducible apply forAll_fr
    | with_reducible apply recordDx_fr
    | with_reducible apply Fr.ite
    | intro _ _ _)

theorem admission_fr {s : State} (h : Fr q M F s) (x0 : _) : Fr q M F (admission x0 s) := by
  unfold admission
  dsimp only
  repeat' (first
    | with_reducible assumption
    | split
    | dsimp only
    | with_reducible apply Fr.upd)

theorem chargeQueue_fr {s : State} (h : Fr q M F s) (x0 : _) (x2 : _) : Fr q M F (chargeQueue x0 s x2) := by
  unfold chargeQueue
  dsimp only
  repeat' (first
    | with_reducible assumption
    | with_reducible apply wrapF_fr)

theorem chargeEnergy_fr {s : State} (h : Fr q M F s) (x0 : _) (x1 : _) (x2 : _) (x3 : _) (x4 : _) : Fr q M F (chargeEnergy x0 x1 x2 x3 x4 s) := by
  unfold chargeEnergy
  dsimp only
  repeat' (first
    | with_reducible assumption
    | with_reducible apply forAll_fr
    | with_reducible apply wrapF_fr
    | with_reducible apply chargeQueue_fr
    | intro _ _ _
    | dsimp only
    | with_reducible apply Fr.upd)

theorem capFlag_fr {s : State} (h : Fr q M F s) (x0 : _) (x1 : _) : Fr q M F (capFlag x0 x1 s) := by
  unfold capFlag
  repeat' (first
    | with_reducible assumption
    | with_reducible apply faultEntry_fr
    | with_reducible apply raise_fr
    | with_reducible apply setB_fr
    | with_reducible apply Fr.ite)

theorem execCapLoopUpdate_fr {s t : State} (h : Fr q M F s) {x0 : _} {x1 : _} {x2 : _} {x3 : _} {x4 : _} {x5 : _} (e : execCapLoopUpdate x0 x1 x2 x3 x4 x5 s = .next t) : Fr q M F t := by
  unfold execCapLoopUpdate at e
  injection e with e
  subst e
  dsimp only
  repeat' (first
    | with_reducible assumption
    | with_reducible apply whenManaged_fr
    | with_reducible apply recordThrottle_fr
    | with_reducible apply atPeriodic_fr
    | with_reducible apply setF_fr
    | with_reducible apply raise_fr
    | with_reducible apply setB_fr
    | with_reducible apply admission_fr
    | with_reducible apply capFlag_fr
    | with_reducible apply forAll_fr
    | with_reducible apply updateClock_fr
    | with_reducible apply setPwrState_fr
    | with_reducible apply chargeEnergy_fr
    | with_reducible apply Fr.ite
    | intro _ _ _
    | intro _ _)

theorem execFastLimit_fr {s t : State} (h : Fr q M F s) {x0 : _} (e : execFastLimit x0 s = .next t) : Fr q M F t := by
  unfold execFastLimit at e
  injection e with e
  subst e
  dsimp only
  repeat' (first
    | with_reducible assumption
    | with_reducible apply whenManaged_fr
    | with_reducible apply setF_fr
    | with_reducible apply raise_fr
    | with_reducible apply setB_fr
    | with_reducible apply Fr.ite
    | intro _ _)

theorem execDroopStretch_fr {s t : State} (h : Fr q M F s) {x0 : _} (e : execDroopStretch x0 s = .next t) : Fr q M F t := by
  unfold execDroopStretch at e
  injection e with e
  subst e
  dsimp only
  repeat' (first
    | with_reducible assumption
    | with_reducible apply whenManaged_fr
    | with_reducible apply bumpF_fr
    | with_reducible apply setB_fr
    | with_reducible apply recordDx_fr
    | with_reducible apply Fr.ite
    | intro _ _
    | split)

theorem execStretchEnd_fr {s t : State} (h : Fr q M F s) {x0 : _} (e : execStretchEnd x0 s = .next t) : Fr q M F t := by
  unfold execStretchEnd at e
  injection e with e
  subst e
  dsimp only
  repeat' (first
    | with_reducible assumption
    | with_reducible apply whenManaged_fr
    | with_reducible apply setB_fr
    | with_reducible apply Fr.ite
    | intro _ _
    | dsimp only
    | with_reducible apply Fr.upd)

theorem stepDown_fr {s : State} (h : Fr q M F s) (x1 : _) : Fr q M F (stepDown s x1) := by
  unfold stepDown
  repeat' (first
    | with_reducible assumption
    | with_reducible apply bumpF_fr
    | with_reducible apply setFreq_fr)

theorem stepUp_fr {s : State} (h : Fr q M F s) (x1 : _) : Fr q M F (stepUp s x1) := by
  unfold stepUp
  repeat' (first
    | with_reducible assumption
    | with_reducible apply bumpF_fr
    | with_reducible apply setFreq_fr
    | with_reducible apply Fr.ite)

theorem holdStep_fr {s : State} (h : Fr q M F s) (x1 : _) (x2 : _) : Fr q M F (holdStep s x1 x2) := by
  unfold holdStep
  dsimp only
  repeat' (first
    | with_reducible assumption
    | dsimp only
    | with_reducible apply Fr.upd)

theorem execDeferEnd_fr {s t : State} (h : Fr q M F s) {x0 : _} (e : execDeferEnd x0 s = .next t) : Fr q M F t := by
  unfold execDeferEnd at e
  injection e with e
  subst e
  dsimp only
  repeat' (first
    | with_reducible assumption
    | with_reducible apply whenManaged_fr
    | with_reducible apply setB_fr
    | with_reducible apply advanceEl_fr
    | with_reducible apply holdStep_fr
    | with_reducible apply applyClock_fr
    | with_reducible apply stepDown_fr
    | with_reducible apply stepUp_fr
    | with_reducible apply Fr.ite
    | intro _ _)

theorem execMonitorAlarm_fr {s t : State} (h : Fr q M F s) {x0 : _} (e : execMonitorAlarm x0 s = .next t) : Fr q M F t := by
  unfold execMonitorAlarm at e
  injection e with e
  subst e
  repeat' (first
    | with_reducible assumption
    | with_reducible apply whenManaged_fr
    | with_reducible apply holdStep_fr
    | with_reducible apply deferChange_fr
    | with_reducible apply stepDown_fr
    | with_reducible apply Fr.ite
    | intro _ _)

theorem execMonitorStepUp_fr {s t : State} (h : Fr q M F s) {x0 : _} (e : execMonitorStepUp x0 s = .next t) : Fr q M F t := by
  unfold execMonitorStepUp at e
  injection e with e
  subst e
  dsimp only
  repeat' (first
    | with_reducible assumption
    | with_reducible apply whenManaged_fr
    | with_reducible apply toFrameStart_fr
    | with_reducible apply holdStep_fr
    | with_reducible apply deferChange_fr
    | with_reducible apply stepUp_fr
    | with_reducible apply Fr.ite
    | intro _ _)

theorem execFillerWindow_fr {s t : State} (h : Fr q M F s) {x0 : _} {x1 : _} (e : execFillerWindow x0 x1 s = .next t) : Fr q M F t := by
  unfold execFillerWindow at e
  injection e with e
  subst e
  dsimp only
  repeat' (first
    | with_reducible assumption
    | with_reducible apply whenAlive_fr
    | with_reducible apply Fr.ite
    | intro _ _
    | split
    | dsimp only
    | with_reducible apply Fr.upd)

theorem sampleRail_fr {s : State} (h : Fr q M F s) (x1 : _) : Fr q M F (sampleRail s x1) := by
  unfold sampleRail
  dsimp only
  repeat' (first
    | with_reducible assumption
    | with_reducible apply setF_fr
    | with_reducible apply setB_fr
    | dsimp only
    | with_reducible apply Fr.upd)

theorem execTelemetrySample_fr {s t : State} (h : Fr q MemOk F s) {x0 : _} {x1 : _} {x2 : _} {x3 : _} {x4 : _} (e : execTelemetrySample x0 x1 x2 x3 x4 s = .next t) : Fr q MemOk F t := by
  unfold execTelemetrySample at e
  injection e with e
  subst e
  dsimp only
  repeat' (first
    | with_reducible assumption
    | with_reducible apply whenManaged_fr
    | with_reducible apply atPeriodic_fr
    | with_reducible apply forAll_fr
    | with_reducible apply sampleRail_fr
    | with_reducible apply setF_fr
    | with_reducible apply driveFails_fr
    | with_reducible apply Fr.ite
    | intro _ _ _
    | intro _ _
    | dsimp only
    | with_reducible apply Fr.upd)

theorem phaseGone_fr {s : State} (h : Fr q M F s) (x1 : _) (x2 : _) (x3 : _) : Fr q M F (phaseGone s x1 x2 x3) := by
  unfold phaseGone
  dsimp only
  repeat' (first
    | with_reducible assumption
    | with_reducible apply setF_fr
    | with_reducible apply raise_fr
    | with_reducible apply faultEntry_fr
    | with_reducible apply declareLost_fr
    | with_reducible apply setB_fr
    | with_reducible apply latch_fr
    | with_reducible apply Fr.ite
    | dsimp only
    | with_reducible apply Fr.upd)

theorem execPhaseLost_fr {s t : State} (h : Fr q M F s) {x0 : _} {x1 : _} (e : execPhaseLost x0 x1 s = .next t) : Fr q M F t := by
  unfold execPhaseLost at e
  injection e with e
  subst e
  repeat' (first
    | with_reducible assumption
    | with_reducible apply whenManaged_fr
    | with_reducible apply phaseGone_fr
    | with_reducible apply Fr.ite
    | intro _ _)

theorem execRailOutOfRegulation_fr {s t : State} (h : Fr q M F s) {x0 : _} (e : execRailOutOfRegulation x0 s = .next t) : Fr q M F t := by
  unfold execRailOutOfRegulation at e
  injection e with e
  subst e
  repeat' (first
    | with_reducible assumption
    | with_reducible apply whenManaged_fr
    | with_reducible apply declareLost_fr
    | with_reducible apply setB_fr
    | intro _ _)

theorem setRails_fr {s : State} (h : Fr q M F s) (x1 : _) (x2 : _) : Fr q M F (setRails s x1 x2) := by
  unfold setRails
  repeat' (first
    | with_reducible assumption
    | with_reducible apply forAll_fr
    | with_reducible apply setB_fr
    | intro _ _ _)

theorem shutRails_fr {s : State} (h : Fr q M F s) : Fr q M F (shutRails s) := by
  unfold shutRails
  repeat' (first
    | with_reducible assumption
    | with_reducible apply setRails_fr)

theorem execThermalTrip_fr {s t : State} (h : Fr q MemOk F s) {x0 : _} (e : execThermalTrip x0 s = .next t) : Fr q MemOk F t := by
  unfold execThermalTrip at e
  injection e with e
  subst e
  dsimp only
  repeat' (first
    | with_reducible assumption
    | with_reducible apply whenManaged_fr
    | with_reducible apply shutRails_fr
    | with_reducible apply latch_fr
    | with_reducible apply faultEntry_fr
    | intro _ _
    | dsimp only
    | with_reducible apply Fr.updMem
    | with_reducible apply Fr.mem (M := MemOk)
    | rfl)

theorem execChipFatal_fr {s t : State} (h : Fr q M F s) {x0 : _} {x1 : _} (e : execChipFatal x0 x1 s = .next t) : Fr q M F t := by
  unfold execChipFatal at e
  injection e with e
  subst e
  repeat' (first
    | with_reducible assumption
    | with_reducible apply whenManaged_fr
    | with_reducible apply latch_fr
    | with_reducible apply faultEntry_fr
    | intro _ _)

theorem execInputLow_fr {s t : State} (h : Fr q M F s) (e : execInputLow s = .next t) : Fr q M F t := by
  unfold execInputLow at e
  injection e with e
  subst e
  dsimp only
  repeat' (first
    | with_reducible assumption
    | with_reducible apply whenManaged_fr
    | with_reducible apply raise_fr
    | intro _ _
    | dsimp only
    | with_reducible apply Fr.upd)

theorem execInputLowClear_fr {s t : State} (h : Fr q M F s) (e : execInputLowClear s = .next t) : Fr q M F t := by
  unfold execInputLowClear at e
  injection e with e
  subst e
  dsimp only
  repeat' (first
    | with_reducible assumption
    | with_reducible apply whenManaged_fr
    | intro _ _
    | dsimp only
    | with_reducible apply Fr.upd)

theorem enterOff_fr {s : State} (h : Fr q MemOk F s) : Fr q MemOk F (enterOff s) := by
  unfold enterOff
  dsimp only
  repeat' (first
    | with_reducible assumption
    | with_reducible apply setF_fr
    | with_reducible apply forAll_fr
    | with_reducible apply selvDown_fr
    | intro _ _ _
    | dsimp only
    | with_reducible apply Fr.updMem
    | rfl)

theorem execInputShutdown_fr {s t : State} (h : Fr q MemOk F s) (e : execInputShutdown s = .next t) : Fr q MemOk F t := by
  unfold execInputShutdown at e
  injection e with e
  subst e
  dsimp only
  repeat' (first
    | with_reducible assumption
    | with_reducible apply enterOff_fr
    | dsimp only
    | with_reducible apply Fr.upd)

theorem pwrResult_fr {s : State} (h : Fr q M F s) (x1 : _) : Fr q M F (pwrResult s x1) := by
  unfold pwrResult
  repeat' (first
    | with_reducible assumption
    | with_reducible apply setF_fr)

theorem doPwrIdle_fr {s : State} (h : Fr q M F s) : Fr q M F (doPwrIdle s) := by
  unfold doPwrIdle
  repeat' (first
    | with_reducible assumption
    | with_reducible apply forAll_fr
    | with_reducible apply updateClock_fr
    | with_reducible apply setPwrState_fr
    | with_reducible apply pwrResult_fr
    | with_reducible apply Fr.ite
    | intro _ _ _)

theorem leaveIdle_fr {s : State} (h : Fr q M F s) : Fr q M F (leaveIdle s) := by
  unfold leaveIdle
  repeat' (first
    | with_reducible assumption
    | with_reducible apply forAll_fr
    | with_reducible apply updateClock_fr
    | with_reducible apply setPwrState_fr
    | intro _ _ _)

theorem doPwrRun_fr {s : State} (h : Fr q M F s) : Fr q M F (doPwrRun s) := by
  unfold doPwrRun
  dsimp only
  repeat' (first
    | with_reducible assumption
    | with_reducible apply leaveIdle_fr
    | with_reducible apply pwrResult_fr
    | with_reducible apply setRails_fr
    | with_reducible apply setPwrState_fr
    | with_reducible apply trainEnabled_fr
    | with_reducible apply forAll_fr
    | with_reducible apply calibrate_fr
    | intro _ _ _
    | split
    | dsimp only
    | with_reducible apply Fr.upd)

theorem lockOpenSlots_fr {s : State} (h : Fr q M F s) : Fr q M F (lockOpenSlots s) := by
  unfold lockOpenSlots
  dsimp only
  repeat' (first
    | with_reducible assumption
    | with_reducible apply setF_fr
    | with_reducible apply bumpConfigGen_fr
    | with_reducible apply forAll_fr
    | with_reducible apply Fr.ite
    | intro _ _ _
    | dsimp only
    | with_reducible apply Fr.upd)

theorem doPwrHibernate_fr {s : State} (h : Fr q M F s) : Fr q M F (doPwrHibernate s) := by
  unfold doPwrHibernate
  dsimp only
  repeat' (first
    | with_reducible assumption
    | with_reducible apply pwrResult_fr
    | with_reducible apply setPwrState_fr
    | with_reducible apply setRails_fr
    | with_reducible apply portsOff_fr
    | with_reducible apply lockOpenSlots_fr
    | with_reducible apply Fr.ite
    | dsimp only
    | with_reducible apply Fr.upd)

theorem doPwrOff_fr {s : State} (h : Fr q MemOk F s) : Fr q MemOk F (doPwrOff s) := by
  unfold doPwrOff
  dsimp only
  repeat' (first
    | with_reducible assumption
    | with_reducible apply enterOff_fr
    | with_reducible apply pwrResult_fr
    | with_reducible apply Fr.ite)

theorem doResumeCmd_fr {s : State} (h : Fr q M F s) : Fr q M F (doResumeCmd s) := by
  unfold doResumeCmd
  dsimp only
  repeat' (first
    | with_reducible assumption
    | with_reducible apply noteState_fr
    | with_reducible apply doResume_fr
    | with_reducible apply leaveIdle_fr
    | with_reducible apply Fr.ite
    | intro _ _)

theorem execResume_fr {s t : State} (h : Fr q M F s) (e : execResume s = .next t) : Fr q M F t := by
  unfold execResume at e
  injection e with e
  subst e
  repeat' (first
    | with_reducible assumption
    | with_reducible apply whenAlive_fr
    | with_reducible apply doResumeCmd_fr)

theorem execPwrRun_fr {s t : State} (h : Fr q M F s) (e : execPwrRun s = .next t) : Fr q M F t := by
  unfold execPwrRun at e
  injection e with e
  subst e
  repeat' (first
    | with_reducible assumption
    | with_reducible apply whenAlive_fr
    | with_reducible apply doPwrRun_fr)

theorem execPwrIdle_fr {s t : State} (h : Fr q M F s) (e : execPwrIdle s = .next t) : Fr q M F t := by
  unfold execPwrIdle at e
  injection e with e
  subst e
  repeat' (first
    | with_reducible assumption
    | with_reducible apply whenAlive_fr
    | with_reducible apply doPwrIdle_fr)

theorem execPwrHibernate_fr {s t : State} (h : Fr q M F s) (e : execPwrHibernate s = .next t) : Fr q M F t := by
  unfold execPwrHibernate at e
  injection e with e
  subst e
  repeat' (first
    | with_reducible assumption
    | with_reducible apply whenAlive_fr
    | with_reducible apply doPwrHibernate_fr)

theorem execPwrOff_fr {s t : State} (h : Fr q MemOk F s) (e : execPwrOff s = .next t) : Fr q MemOk F t := by
  unfold execPwrOff at e
  injection e with e
  subst e
  repeat' (first
    | with_reducible assumption
    | with_reducible apply whenAlive_fr
    | with_reducible apply doPwrOff_fr)

theorem clearAddr_fr {s : State} (h : Fr q M F s) (a : Nat) : Fr q M F (clearAddr s a) := by
  have hr := Store.rising_drop (p := fun k => k / 32 % 0x10000000 == a) h.regs
  exact ⟨h.pending, h.mem, h.fuses, hr, h.log, h.selv⟩

theorem doEnClear_fr {s : State} (h : Fr q M F s) : Fr q M F (doEnClear s) := by
  unfold doEnClear
  repeat' (first
    | with_reducible assumption
    | with_reducible apply clearAddr_fr)

theorem execEnClear_fr {s t : State} (h : Fr q M F s) (e : execEnClear s = .next t) : Fr q M F t := by
  unfold execEnClear at e
  injection e with e
  subst e
  repeat' (first
    | with_reducible assumption
    | with_reducible apply whenAlive_fr
    | with_reducible apply doEnClear_fr)

end Sys2Proof.Machine
end

