-- ==== Sys2Proof/Laws/Attest.lean ====
section
/-!
SUPPORT. What every operation of Machine/Attest.lean leaves alone: each keeps the frame of Laws/Frame.lean.
-/

namespace Sys2Proof.Machine

variable {q : List Instr} {M : Store Byte → Prop} {F : Store Nat → Prop}

theorem setSlotResult_fr {s : State} (h : Fr q M F s) (x1 : _) (x2 : _) : Fr q M F (setSlotResult s x1 x2) := by
  unfold setSlotResult
  repeat' (first
    | with_reducible assumption
    | with_reducible apply setF_fr)

theorem startSlot_fr {s : State} (h : Fr q MemOk F s) (x1 : _) (x2 : _) : Fr q MemOk F (startSlot s x1 x2) := by
  unfold startSlot
  dsimp only
  repeat' (first
    | with_reducible assumption
    | with_reducible apply evictRange_fr
    | dsimp only
    | with_reducible apply Fr.upd)

theorem doSlotLoad_fr {s : State} (h : Fr q MemOk F s) : Fr q MemOk F (doSlotLoad s) := by
  unfold doSlotLoad
  dsimp only
  repeat' (first
    | with_reducible assumption
    | with_reducible apply setSlotResult_fr
    | with_reducible apply startSlot_fr
    | with_reducible apply Fr.ite)

theorem doSlotLock_fr {s : State} (h : Fr q MemOk F s) : Fr q MemOk F (doSlotLock s) := by
  unfold doSlotLock
  dsimp only
  repeat' (first
    | with_reducible assumption
    | with_reducible apply setSlotResult_fr
    | with_reducible apply startSlot_fr
    | with_reducible apply Fr.ite)

theorem dropImageKey_fr {s : State} (h : Fr q M F s) (x1 : _) : Fr q M F (dropImageKey s x1) := by
  unfold dropImageKey
  dsimp only
  repeat' (first
    | with_reducible assumption
    | dsimp only
    | with_reducible apply Fr.upd)

theorem doSlotClear_fr {s : State} (h : Fr q M F s) : Fr q M F (doSlotClear s) := by
  unfold doSlotClear
  dsimp only
  repeat' (first
    | with_reducible assumption
    | with_reducible apply setSlotResult_fr
    | with_reducible apply dropImageKey_fr
    | with_reducible apply setF_fr
    | with_reducible apply bumpConfigGen_fr
    | with_reducible apply Fr.ite)

theorem execKslotLoad_fr {s t : State} (h : Fr q MemOk F s) (e : execKslotLoad s = .next t) : Fr q MemOk F t := by
  unfold execKslotLoad at e
  injection e with e
  subst e
  repeat' (first
    | with_reducible assumption
    | with_reducible apply whenAlive_fr
    | with_reducible apply doSlotLoad_fr)

theorem execKslotLock_fr {s t : State} (h : Fr q MemOk F s) (e : execKslotLock s = .next t) : Fr q MemOk F t := by
  unfold execKslotLock at e
  injection e with e
  subst e
  repeat' (first
    | with_reducible assumption
    | with_reducible apply whenAlive_fr
    | with_reducible apply doSlotLock_fr)

theorem execKslotClear_fr {s t : State} (h : Fr q M F s) (e : execKslotClear s = .next t) : Fr q M F t := by
  unfold execKslotClear at e
  injection e with e
  subst e
  repeat' (first
    | with_reducible assumption
    | with_reducible apply whenAlive_fr
    | with_reducible apply doSlotClear_fr)

theorem execKslotEvicted_fr {s t : State} (h : Fr q M F s) {x0 : _} (e : execKslotEvicted x0 s = .next t) : Fr q M F t := by
  unfold execKslotEvicted at e
  injection e with e
  subst e
  dsimp only
  repeat' (first
    | with_reducible assumption
    | with_reducible apply whenAlive_fr
    | with_reducible apply bumpConfigGen_fr
    | with_reducible apply setF_fr
    | with_reducible apply Fr.ite
    | intro _ _
    | split
    | dsimp only
    | with_reducible apply Fr.upd)

theorem quoteRefused_fr {s : State} (h : Fr q M F s) (x1 : _) : Fr q M F (quoteRefused s x1) := by
  unfold quoteRefused
  repeat' (first
    | with_reducible assumption
    | with_reducible apply setF_fr)

theorem quoteStart_fr {s : State} (h : Fr q M F s) (x1 : _) : Fr q M F (quoteStart s x1) := by
  unfold quoteStart
  dsimp only
  repeat' (first
    | with_reducible assumption
    | with_reducible apply setF_fr
    | with_reducible apply setB_fr
    | dsimp only
    | with_reducible apply Fr.upd
    | rfl)

theorem doQuote_fr {s : State} (h : Fr q M F s) (x1 : _) : Fr q M F (doQuote s x1) := by
  unfold doQuote
  dsimp only
  repeat' (first
    | with_reducible assumption
    | with_reducible apply quoteRefused_fr
    | with_reducible apply draw_fr
    | with_reducible apply quoteStart_fr
    | with_reducible apply Fr.ite
    | dsimp only
    | with_reducible apply Fr.upd)

theorem execQuote_fr {s t : State} (h : Fr q M F s) {x0 : _} (e : execQuote x0 s = .next t) : Fr q M F t := by
  unfold execQuote at e
  injection e with e
  subst e
  repeat' (first
    | with_reducible assumption
    | with_reducible apply whenAlive_fr
    | with_reducible apply doQuote_fr
    | intro _ _)

theorem doAkCertificate_fr {s : State} (h : Fr q M F s) : Fr q M F (doAkCertificate s) := by
  unfold doAkCertificate
  repeat' (first
    | with_reducible assumption
    | with_reducible apply quoteRefused_fr
    | with_reducible apply quoteStart_fr
    | with_reducible apply Fr.ite)

theorem execAkCertificate_fr {s t : State} (h : Fr q M F s) (e : execAkCertificate s = .next t) : Fr q M F t := by
  unfold execAkCertificate at e
  injection e with e
  subst e
  repeat' (first
    | with_reducible assumption
    | with_reducible apply whenAlive_fr
    | with_reducible apply doAkCertificate_fr)

theorem doDikPublicKey_fr {s : State} (h : Fr q M F s) : Fr q M F (doDikPublicKey s) := by
  unfold doDikPublicKey
  repeat' (first
    | with_reducible assumption
    | with_reducible apply quoteRefused_fr
    | with_reducible apply quoteStart_fr
    | with_reducible apply Fr.ite)

theorem execDikPublicKey_fr {s t : State} (h : Fr q M F s) (e : execDikPublicKey s = .next t) : Fr q M F t := by
  unfold execDikPublicKey at e
  injection e with e
  subst e
  repeat' (first
    | with_reducible assumption
    | with_reducible apply whenAlive_fr
    | with_reducible apply doDikPublicKey_fr)

theorem execQuoteDone_fr {s t : State} (h : Fr q M F s) (e : execQuoteDone s = .next t) : Fr q M F t := by
  unfold execQuoteDone at e
  injection e with e
  subst e
  dsimp only
  repeat' (first
    | with_reducible assumption
    | with_reducible apply whenManaged_fr
    | with_reducible apply setF_fr
    | with_reducible apply setB_fr
    | with_reducible apply raise_fr
    | with_reducible apply Fr.ite
    | intro _ _
    | dsimp only
    | with_reducible apply Fr.upd)

theorem readQbuf_fr {s : State} (h : Fr q M F s) : Fr q M F (readQbuf s) := by
  unfold readQbuf
  repeat' (first
    | with_reducible assumption
    | with_reducible apply wrapF_fr
    | with_reducible apply Fr.ite)

theorem execQbufData_fr {s t : State} (h : Fr q M F s) (e : execQbufData s = .next t) : Fr q M F t := by
  unfold execQbufData at e
  injection e with e
  subst e
  repeat' (first
    | with_reducible assumption
    | with_reducible apply whenManaged_fr
    | with_reducible apply readQbuf_fr)

theorem dropRelease_fr {s : State} (h : Fr q M F s) (x1 : _) : Fr q M F (dropRelease s x1) := by
  unfold dropRelease
  dsimp only
  repeat' (first
    | with_reducible assumption
    | dsimp only
    | with_reducible apply Fr.upd)

theorem execReleasePairExpiry_fr {s t : State} (h : Fr q M F s) {x0 : _} (e : execReleasePairExpiry x0 s = .next t) : Fr q M F t := by
  unfold execReleasePairExpiry at e
  injection e with e
  subst e
  repeat' (first
    | with_reducible assumption
    | with_reducible apply whenManaged_fr
    | with_reducible apply dropRelease_fr
    | with_reducible apply advanceFt_fr
    | intro _ _
    | split)

theorem doRelData_fr {s : State} (h : Fr q M F s) (x1 : _) : Fr q M F (doRelData s x1) := by
  unfold doRelData
  dsimp only
  repeat' (first
    | with_reducible assumption
    | with_reducible apply wrapF_fr
    | with_reducible apply Fr.ite
    | dsimp only
    | with_reducible apply Fr.upd)

theorem execRelData_fr {s t : State} (h : Fr q M F s) {x0 : _} (e : execRelData x0 s = .next t) : Fr q M F t := by
  unfold execRelData at e
  injection e with e
  subst e
  repeat' (first
    | with_reducible assumption
    | with_reducible apply whenAlive_fr
    | with_reducible apply doRelData_fr
    | intro _ _)

theorem doKeyRelease_fr {s : State} (h : Fr q M F s) : Fr q M F (doKeyRelease s) := by
  unfold doKeyRelease
  dsimp only
  repeat' (first
    | with_reducible assumption
    | with_reducible apply setB_fr
    | with_reducible apply Fr.ite
    | dsimp only
    | with_reducible apply Fr.upd
    | rfl)

theorem execKeyRelease_fr {s t : State} (h : Fr q M F s) (e : execKeyRelease s = .next t) : Fr q M F t := by
  unfold execKeyRelease at e
  injection e with e
  subst e
  repeat' (first
    | with_reducible assumption
    | with_reducible apply whenAlive_fr
    | with_reducible apply doKeyRelease_fr)

theorem execRelDone_fr {s t : State} (h : Fr q M F s) (e : execRelDone s = .next t) : Fr q M F t := by
  unfold execRelDone at e
  injection e with e
  subst e
  dsimp only
  repeat' (first
    | with_reducible assumption
    | with_reducible apply whenManaged_fr
    | with_reducible apply setF_fr
    | with_reducible apply setB_fr
    | with_reducible apply dropRelease_fr
    | with_reducible apply bumpConfigGen_fr
    | with_reducible apply raise_fr
    | with_reducible apply Fr.ite
    | intro _ _
    | split
    | dsimp only
    | with_reducible apply Fr.upd)

theorem recallRange_fr {s : State} (h : Fr q MemOk F s) (x1 : _) (x2 : _) (x3 : _) (x4 : _) : Fr q MemOk F (recallRange s x1 x2 x3 x4) := by
  unfold recallRange
  dsimp only
  repeat' (first
    | with_reducible assumption
    | with_reducible apply recallLines_fr)

theorem doImgBind_fr {s : State} (h : Fr q MemOk F s) : Fr q MemOk F (doImgBind s) := by
  unfold doImgBind
  dsimp only
  repeat' (first
    | with_reducible assumption
    | with_reducible apply setF_fr
    | with_reducible apply bumpConfigGen_fr
    | with_reducible apply recallRange_fr
    | with_reducible apply placeImages_fr
    | with_reducible apply Fr.ite
    | dsimp only
    | with_reducible apply Fr.upd)

theorem execImgBind_fr {s t : State} (h : Fr q MemOk F s) (e : execImgBind s = .next t) : Fr q MemOk F t := by
  unfold execImgBind at e
  injection e with e
  subst e
  repeat' (first
    | with_reducible assumption
    | with_reducible apply whenAlive_fr
    | with_reducible apply doImgBind_fr)

theorem execImgDone_fr {s t : State} (h : Fr q M F s) {x0 : _} (e : execImgDone x0 s = .next t) : Fr q M F t := by
  unfold execImgDone at e
  injection e with e
  subst e
  dsimp only
  repeat' (first
    | with_reducible assumption
    | with_reducible apply whenAlive_fr
    | with_reducible apply setF_fr
    | with_reducible apply raise_fr
    | with_reducible apply bumpConfigGen_fr
    | with_reducible apply Fr.ite
    | intro _ _
    | split
    | dsimp only
    | with_reducible apply Fr.upd)

theorem doImgUnbind_fr {s : State} (h : Fr q M F s) : Fr q M F (doImgUnbind s) := by
  unfold doImgUnbind
  dsimp only
  repeat' (first
    | with_reducible assumption
    | with_reducible apply setF_fr
    | with_reducible apply bumpConfigGen_fr
    | with_reducible apply Fr.ite)

theorem execImgUnbind_fr {s t : State} (h : Fr q M F s) (e : execImgUnbind s = .next t) : Fr q M F t := by
  unfold execImgUnbind at e
  injection e with e
  subst e
  repeat' (first
    | with_reducible assumption
    | with_reducible apply whenAlive_fr
    | with_reducible apply doImgUnbind_fr)

end Sys2Proof.Machine
end

