-- ==== Sys2Proof/Laws/FabricTime.lean ====
section
/-!
SUPPORT. What every operation of Machine/FabricTime.lean leaves alone: each keeps the frame of Laws/Frame.lean.
-/

namespace Sys2Proof.Machine

variable {q : List Instr} {M : Store Byte → Prop} {F : Store Nat → Prop}

theorem setAligned_fr {s : State} (h : Fr q M F s) (x1 : _) : Fr q M F (setAligned s x1) := by
  unfold setAligned
  dsimp only
  repeat' (first
    | with_reducible assumption
    | with_reducible apply setB_fr
    | with_reducible apply raise_fr
    | with_reducible apply Fr.ite)

theorem setSlew_fr {s : State} (h : Fr q M F s) (x1 : _) : Fr q M F (setSlew s x1) := by
  unfold setSlew
  dsimp only
  repeat' (first
    | with_reducible assumption
    | dsimp only
    | with_reducible apply Fr.upd)

theorem setRefused_fr {s : State} (h : Fr q M F s) (x1 : _) : Fr q M F (setRefused s x1) := by
  unfold setRefused
  dsimp only
  repeat' (first
    | with_reducible assumption
    | dsimp only
    | with_reducible apply Fr.upd)

theorem enterLocked_fr {s : State} (h : Fr q M F s) : Fr q M F (enterLocked s) := by
  unfold enterLocked
  repeat' (first
    | with_reducible assumption
    | with_reducible apply raise_fr
    | with_reducible apply setF_fr)

theorem enterHoldover_fr {s : State} (h : Fr q M F s) : Fr q M F (enterHoldover s) := by
  unfold enterHoldover
  dsimp only
  repeat' (first
    | with_reducible assumption
    | with_reducible apply setF_fr
    | with_reducible apply setSlew_fr
    | with_reducible apply raise_fr
    | split
    | dsimp only
    | with_reducible apply Fr.upd)

theorem enterFreerun_fr {s : State} (h : Fr q M F s) : Fr q M F (enterFreerun s) := by
  unfold enterFreerun
  dsimp only
  repeat' (first
    | with_reducible assumption
    | with_reducible apply setF_fr
    | with_reducible apply raise_fr
    | with_reducible apply setAligned_fr
    | with_reducible apply setSlew_fr
    | with_reducible apply setRefused_fr)

theorem newRate_fr {s : State} (h : Fr q M F s) : Fr q M F (newRate s) := by
  unfold newRate
  dsimp only
  repeat' (first
    | with_reducible assumption
    | with_reducible apply freeNat_fr
    | with_reducible apply setF_fr)

theorem refuseStep_fr {s : State} (h : Fr q M F s) (x1 : _) : Fr q M F (refuseStep s x1) := by
  unfold refuseStep
  repeat' (first
    | with_reducible assumption
    | with_reducible apply setRefused_fr
    | with_reducible apply setSlew_fr
    | with_reducible apply setAligned_fr
    | with_reducible apply raise_fr)

theorem applyStep_fr {s : State} (h : Fr q M F s) (x1 : _) : Fr q M F (applyStep s x1) := by
  unfold applyStep
  repeat' (first
    | with_reducible assumption
    | with_reducible apply setRefused_fr
    | with_reducible apply setSlew_fr
    | with_reducible apply newRate_fr)

theorem applyOffset_fr {s : State} (h : Fr q M F s) (x1 : _) : Fr q M F (applyOffset s x1) := by
  unfold applyOffset
  dsimp only
  repeat' (first
    | with_reducible assumption
    | with_reducible apply applyStep_fr
    | with_reducible apply setAligned_fr
    | with_reducible apply enterLocked_fr
    | with_reducible apply refuseStep_fr
    | with_reducible apply Fr.ite
    | split
    | dsimp only
    | with_reducible apply Fr.upd)

theorem openExchange_fr {s : State} (h : Fr q M F s) : Fr q M F (openExchange s) := by
  unfold openExchange
  dsimp only
  repeat' (first
    | with_reducible assumption
    | with_reducible apply advanceFt_fr
    | split
    | dsimp only
    | with_reducible apply Fr.upd)

theorem execTimeSync_fr {s t : State} (h : Fr q M F s) {x0 : _} {x1 : _} {x2 : _} {x3 : _} (e : execTimeSync x0 x1 x2 x3 s = .next t) : Fr q M F t := by
  unfold execTimeSync at e
  injection e with e
  subst e
  dsimp only
  repeat' (first
    | with_reducible assumption
    | with_reducible apply whenManaged_fr
    | with_reducible apply onFrame_fr
    | with_reducible apply openExchange_fr
    | with_reducible apply sendSelv_fr
    | with_reducible apply Fr.ite
    | intro _ _
    | split
    | dsimp only
    | with_reducible apply Fr.upd)

theorem execDelayRsp_fr {s t : State} (h : Fr q M F s) {x0 : _} {x1 : _} (e : execDelayRsp x0 x1 s = .next t) : Fr q M F t := by
  unfold execDelayRsp at e
  injection e with e
  subst e
  dsimp only
  repeat' (first
    | with_reducible assumption
    | with_reducible apply whenManaged_fr
    | with_reducible apply onFrame_fr
    | with_reducible apply setF_fr
    | with_reducible apply applyOffset_fr
    | with_reducible apply Fr.ite
    | intro _ _
    | split
    | dsimp only
    | with_reducible apply Fr.upd)

theorem execMissedExchange_fr {s t : State} (h : Fr q M F s) (e : execMissedExchange s = .next t) : Fr q M F t := by
  unfold execMissedExchange at e
  injection e with e
  subst e
  repeat' (first
    | with_reducible assumption
    | with_reducible apply whenManaged_fr
    | with_reducible apply enterHoldover_fr
    | with_reducible apply advanceFt_fr
    | with_reducible apply Fr.ite
    | intro _ _)

theorem execHoldoverLimit_fr {s t : State} (h : Fr q M F s) (e : execHoldoverLimit s = .next t) : Fr q M F t := by
  unfold execHoldoverLimit at e
  injection e with e
  subst e
  repeat' (first
    | with_reducible assumption
    | with_reducible apply whenManaged_fr
    | with_reducible apply enterFreerun_fr
    | with_reducible apply advanceEl_fr
    | with_reducible apply Fr.ite
    | intro _ _)

theorem execTclkLossOfLock_fr {s t : State} (h : Fr q M F s) (e : execTclkLossOfLock s = .next t) : Fr q M F t := by
  unfold execTclkLossOfLock at e
  injection e with e
  subst e
  repeat' (first
    | with_reducible assumption
    | with_reducible apply whenManaged_fr
    | with_reducible apply enterHoldover_fr
    | with_reducible apply Fr.ite
    | intro _ _)

theorem doFtLoad_fr {s : State} (h : Fr q M F s) : Fr q M F (doFtLoad s) := by
  unfold doFtLoad
  dsimp only
  repeat' (first
    | with_reducible assumption
    | with_reducible apply setB_fr
    | with_reducible apply raise_fr
    | with_reducible apply Fr.ite
    | dsimp only
    | with_reducible apply Fr.upd)

theorem execFtLoad_fr {s t : State} (h : Fr q M F s) (e : execFtLoad s = .next t) : Fr q M F t := by
  unfold execFtLoad at e
  injection e with e
  subst e
  repeat' (first
    | with_reducible assumption
    | with_reducible apply whenAlive_fr
    | with_reducible apply doFtLoad_fr)

theorem execLoadTakesEffect_fr {s t : State} (h : Fr q M F s) (e : execLoadTakesEffect s = .next t) : Fr q M F t := by
  unfold execLoadTakesEffect at e
  injection e with e
  subst e
  dsimp only
  repeat' (first
    | with_reducible assumption
    | with_reducible apply whenManaged_fr
    | with_reducible apply setB_fr
    | with_reducible apply advanceFt_fr
    | with_reducible apply setF_fr
    | with_reducible apply Fr.ite
    | intro _ _
    | dsimp only
    | with_reducible apply Fr.upd)

theorem tick_fr {s : State} (h : Fr q M F s) : Fr q M F (tick s) := by
  unfold tick
  dsimp only
  repeat' (first
    | with_reducible assumption
    | with_reducible apply advanceBy_fr
    | with_reducible apply sendEvt_fr
    | with_reducible apply Fr.ite
    | dsimp only
    | with_reducible apply Fr.upd)

end Sys2Proof.Machine
end

