-- ==== Sys2Proof/Laws/Bringup.lean ====
section
/-!
SUPPORT. What every operation of Machine/Bringup.lean leaves alone: each keeps the frame of Laws/Frame.lean.
-/

namespace Sys2Proof.Machine

variable {q : List Instr} {M : Store Byte → Prop} {F : Store Nat → Prop}

theorem execVinApplied_fr {s t : State} (h : Fr q M F s) (e : execVinApplied s = .next t) : Fr q M F t := by
  unfold execVinApplied at e
  injection e with e
  subst e
  dsimp only
  repeat' (first
    | with_reducible assumption
    | with_reducible apply Fr.ite
    | dsimp only
    | with_reducible apply Fr.upd)

theorem execVinGood_fr {s t : State} (h : Fr q M F s) (e : execVinGood s = .next t) : Fr q M F t := by
  unfold execVinGood at e
  injection e with e
  subst e
  dsimp only
  repeat' (first
    | with_reducible assumption
    | with_reducible apply Fr.ite
    | dsimp only
    | with_reducible apply Fr.upd)

theorem holdReset_fr {s : State} (h : Fr q M F s) : Fr q M F (holdReset s) := by
  unfold holdReset
  dsimp only
  repeat' (first
    | with_reducible assumption
    | with_reducible apply forAll_fr
    | with_reducible apply selvDown_fr
    | intro _ _ _
    | dsimp only
    | with_reducible apply Fr.upd)

theorem execResetNLow_fr {s t : State} (h : Fr q M F s) {x0 : _} (e : execResetNLow x0 s = .next t) : Fr q M F t := by
  unfold execResetNLow at e
  injection e with e
  subst e
  dsimp only
  repeat' (first
    | with_reducible assumption
    | with_reducible apply holdReset_fr
    | with_reducible apply freeNat_fr
    | with_reducible apply Fr.ite)

theorem showStraps_fr {s : State} (h : Fr q M F s) (x1 : _) : Fr q M F (showStraps s x1) := by
  unfold showStraps
  dsimp only
  repeat' (first
    | with_reducible assumption
    | with_reducible apply setF_fr)

theorem selv_map_fr {m : Store SelvPort} {f : SelvPort → SelvPort} (hf : ∀ p, (f p).queue.length ≤ 64) :
    queuesWithin (m.map fun e => (e.1, f e.2)) := by
  intro e he
  obtain ⟨x, _, rfl⟩ := List.mem_map.1 he
  exact hf x.2

theorem coldReset_fr {s : State} (h : Fr q MemOk F s) (straps cause : Nat) : Fr q MemOk F (coldReset s straps cause) := by
  unfold coldReset
  dsimp only
  have h1 : ∀ t : State, t.pending = s.pending → t.regs = [] → t.mem = [] → t.log = [] → t.sec.fuses = s.sec.fuses →
      t.ctl.selv = (s.ctl.selv.map fun e => (e.1, sentOnly e.2)) → Fr q MemOk F t := by
    intro t hp hr hm hl hf hs
    refine ⟨hp.trans h.pending, ?_, by rw [hf]; exact h.fuses, ?_, ?_, ?_⟩
    · rw [hm]; exact (rfl : MemOk [])
    · rw [hr]; rfl
    · unfold logWithin generalUsed reservedUsed; rw [hl]; simp
    · rw [hs]; exact selv_map_fr fun p => by simp [sentOnly]
  refine setF_fr ?_ _ _
  refine Fr.upd ?_ rfl rfl
  refine adoptFirmware_fr (showStraps_fr (loadFuses_fr ?_) _)
  exact h1 _ rfl rfl rfl rfl rfl rfl

theorem execInternalResetRelease_fr {s t : State} (h : Fr q MemOk F s) {x0 : _} (e : execInternalResetRelease x0 s = .next t) : Fr q MemOk F t := by
  unfold execInternalResetRelease at e
  injection e with e
  subst e
  repeat' (first
    | with_reducible assumption
    | with_reducible apply coldReset_fr
    | with_reducible apply Fr.ite)

theorem announceReset_fr {s : State} (h : Fr q M F s) : Fr q M F (announceReset s) := by
  unfold announceReset
  repeat' (first
    | with_reducible assumption
    | with_reducible apply controlChange_fr
    | with_reducible apply setF_fr
    | with_reducible apply Fr.ite)

theorem refuseReset_fr {s : State} (h : Fr q M F s) (x1 : _) : Fr q M F (refuseReset s x1) := by
  unfold refuseReset
  repeat' (first
    | with_reducible assumption
    | with_reducible apply setF_fr
    | with_reducible apply setB_fr)

theorem doResetCold_fr {s : State} (h : Fr q MemOk F s) : Fr q MemOk F (doResetCold s) := by
  unfold doResetCold
  repeat' (first
    | with_reducible assumption
    | with_reducible apply coldReset_fr
    | with_reducible apply announceReset_fr
    | with_reducible apply refuseReset_fr
    | with_reducible apply Fr.ite)

theorem execChipResetCold_fr {s t : State} (h : Fr q MemOk F s) (e : execChipResetCold s = .next t) : Fr q MemOk F t := by
  unfold execChipResetCold at e
  injection e with e
  subst e
  repeat' (first
    | with_reducible assumption
    | with_reducible apply whenManaged_fr
    | with_reducible apply doResetCold_fr)

theorem warmSelv_fr {s : State} (h : Fr q M F s) (x1 : _) : Fr q M F (warmSelv s x1) := by
  unfold warmSelv
  dsimp only
  repeat' (first
    | with_reducible assumption
    | with_reducible apply selvDown_fr
    | with_reducible apply setSelv_fr
    | simp only [List.length_nil, Nat.zero_le])

theorem warmRoot_fr {s : State} (h : Fr q M F s) (x1 : _) : Fr q M F (warmRoot s x1) := by
  unfold warmRoot
  dsimp only
  repeat' (first
    | with_reducible assumption
    | with_reducible apply setB_fr
    | with_reducible apply setF_fr
    | with_reducible apply Fr.ite)

theorem warmEmpty_fr {s : State} (h : Fr q M F s) : Fr q M F (warmEmpty s) := by
  unfold warmEmpty
  dsimp only
  repeat' (first
    | with_reducible assumption
    | dsimp only
    | with_reducible apply Fr.upd)

theorem warmRegs_fr {s : State} (h : Fr q M F s) : Fr q M F (warmRegs s) := by
  unfold warmRegs
  dsimp only
  repeat' (first
    | with_reducible assumption
    | with_reducible apply setB_fr
    | with_reducible apply setF_fr
    | with_reducible apply setPwrState_fr
    | with_reducible apply forAll_fr
    | with_reducible apply clearRegions_fr
    | with_reducible apply Fr.ite
    | intro _ _ _)

theorem warmKeys_fr {s : State} (h : Fr q M F s) : Fr q M F (warmKeys s) := by
  unfold warmKeys
  dsimp only
  repeat' (first
    | with_reducible assumption
    | with_reducible apply lockOpenSlots_fr
    | dsimp only
    | with_reducible apply Fr.upd)

theorem warmControl_fr {s : State} (h : Fr q M F s) : Fr q M F (warmControl s) := by
  unfold warmControl
  dsimp only
  repeat' (first
    | with_reducible assumption
    | split
    | dsimp only
    | with_reducible apply Fr.upd)

theorem warmReset_fr {s : State} (h : Fr q MemOk F s) : Fr q MemOk F (warmReset s) := by
  unfold warmReset
  dsimp only
  repeat' (first
    | with_reducible assumption
    | with_reducible apply holdOutputs_fr
    | with_reducible apply announceReset_fr
    | with_reducible apply flushDc_fr
    | with_reducible apply tierWarm_fr
    | with_reducible apply warmEmpty_fr
    | with_reducible apply portsOff_fr
    | with_reducible apply forAll_fr
    | with_reducible apply warmSelv_fr
    | with_reducible apply noteChip_fr
    | with_reducible apply adoptFirmware_fr
    | with_reducible apply warmKeys_fr
    | with_reducible apply warmRegs_fr
    | with_reducible apply warmRoot_fr
    | with_reducible apply setB_fr
    | with_reducible apply setF_fr
    | with_reducible apply warmControl_fr
    | with_reducible apply enterHoldover_fr
    | intro _ _ _
    | intro _ _
    | dsimp only
    | with_reducible apply Fr.upd)

theorem doResetWarm_fr {s : State} (h : Fr q MemOk F s) : Fr q MemOk F (doResetWarm s) := by
  unfold doResetWarm
  repeat' (first
    | with_reducible assumption
    | with_reducible apply warmReset_fr
    | with_reducible apply refuseReset_fr
    | with_reducible apply Fr.ite)

theorem execChipResetWarm_fr {s t : State} (h : Fr q MemOk F s) (e : execChipResetWarm s = .next t) : Fr q MemOk F t := by
  unfold execChipResetWarm at e
  injection e with e
  subst e
  repeat' (first
    | with_reducible assumption
    | with_reducible apply whenManaged_fr
    | with_reducible apply doResetWarm_fr)

theorem applyMap_fr {s : State} (h : Fr q M F s) : Fr q M F (applyMap s) := by
  unfold applyMap
  dsimp only
  repeat' (first
    | with_reducible assumption
    | dsimp only
    | with_reducible apply Fr.upd)

theorem failUnit_fr {s : State} (h : Fr q M F s) (x0 : _) (x1 : _) (x3 : _) : Fr q M F (failUnit x0 x1 s x3) := by
  unfold failUnit
  dsimp only
  repeat' (first
    | with_reducible assumption
    | with_reducible apply raise_fr
    | with_reducible apply setF_fr
    | with_reducible apply setB_fr
    | with_reducible apply faultEntry_fr
    | with_reducible apply Fr.ite
    | dsimp only
    | with_reducible apply Fr.upd)

theorem testUnits_fr {s : State} (h : Fr q M F s) (x1 : _) (x2 : _) (x3 : _) : Fr q M F (testUnits s x1 x2 x3) := by
  unfold testUnits
  repeat' (first
    | with_reducible assumption
    | with_reducible apply forAll_fr
    | with_reducible apply failUnit_fr
    | with_reducible apply Fr.ite
    | intro _ _ _)

theorem retireEngines_fr {s : State} (h : Fr q M F s) : Fr q M F (retireEngines s) := by
  unfold retireEngines
  repeat' (first
    | with_reducible assumption
    | with_reducible apply forAll_fr
    | with_reducible apply engineFails_fr
    | intro _ _ _)

theorem endStep_fr {s : State} (h : Fr q M F s) (x1 : _) (x2 : _) (x3 : _) : Fr q M F (endStep s x1 x2 x3) := by
  unfold endStep
  dsimp only
  repeat' (first
    | with_reducible assumption
    | with_reducible apply setF_fr
    | with_reducible apply setB_fr
    | with_reducible apply raise_fr)

theorem doSeqStep_fr {s : State} (h : Fr q M F s) (x1 : _) : Fr q M F (doSeqStep s x1) := by
  unfold doSeqStep
  dsimp only
  repeat' (first
    | with_reducible assumption
    | with_reducible apply setF_fr
    | with_reducible apply setB_fr
    | with_reducible apply endStep_fr
    | with_reducible apply Fr.ite
    | dsimp only
    | with_reducible apply Fr.upd)

theorem stepWork_fr {s : State} {work : State → Nat × State} (h : Fr q M F s) (n : Nat)
    (hf : ∀ s, Fr q M F s → Fr q M F (work s).2) : Fr q M F (stepWork s n work) := by
  have h1 : Fr q M F (if stepReady s n then s else doSeqStep s n) := Fr.ite h (doSeqStep_fr h n)
  unfold stepWork
  generalize (if stepReady s n then s else doSeqStep s n) = s1 at h1
  dsimp only
  split
  · exact Fr.upd (hf _ h1) rfl rfl
  · exact h1

theorem workM0_fr {s : State} (h : Fr q M F s) (x0 : _) : Fr q M F (workM0 x0 s).2 := by
  unfold workM0
  repeat' (first
    | with_reducible assumption
    | with_reducible apply applyMap_fr
    | with_reducible apply Fr.ite_snd)

theorem execM0Identify_fr {s t : State} (h : Fr q M F s) {x0 : _} (e : execM0Identify x0 s = .next t) : Fr q M F t := by
  unfold execM0Identify at e
  injection e with e
  subst e
  repeat' (first
    | with_reducible assumption
    | with_reducible apply whenAlive_fr
    | with_reducible apply stepWork_fr
    | with_reducible apply workM0_fr
    | intro _ _)

theorem railsUp_fr {s : State} (h : Fr q M F s) : Fr q M F (railsUp s) := by
  unfold railsUp
  dsimp only
  repeat' (first
    | with_reducible assumption
    | with_reducible apply forAll_fr
    | with_reducible apply setVstk_fr
    | intro _ _ _
    | dsimp only
    | with_reducible apply Fr.upd)

theorem workM1_fr {s : State} (h : Fr q M F s) (x0 : _) (x1 : _) : Fr q M F (workM1 x0 x1 s).2 := by
  unfold workM1
  dsimp only
  repeat' (first
    | with_reducible assumption
    | with_reducible apply applyMap_fr
    | with_reducible apply testUnits_fr
    | with_reducible apply railsUp_fr
    | with_reducible apply Fr.ite_snd)

theorem execM1ClocksAndRails_fr {s t : State} (h : Fr q M F s) {x0 : _} {x1 : _} (e : execM1ClocksAndRails x0 x1 s = .next t) : Fr q M F t := by
  unfold execM1ClocksAndRails at e
  injection e with e
  subst e
  repeat' (first
    | with_reducible assumption
    | with_reducible apply whenAlive_fr
    | with_reducible apply stepWork_fr
    | with_reducible apply workM1_fr
    | intro _ _)

theorem execM2Time_fr {s t : State} (h : Fr q M F s) (e : execM2Time s = .next t) : Fr q M F t := by
  unfold execM2Time at e
  injection e with e
  subst e
  repeat' (first
    | with_reducible assumption
    | with_reducible apply whenAlive_fr
    | with_reducible apply stepWork_fr
    | intro _ _)

theorem workM3_fr {s : State} (h : Fr q M F s) (x0 : _) (x1 : _) : Fr q M F (workM3 x0 x1 s).2 := by
  unfold workM3
  dsimp only
  repeat' (first
    | with_reducible assumption
    | with_reducible apply testUnits_fr)

theorem execM3DieSelfTest_fr {s t : State} (h : Fr q M F s) {x0 : _} {x1 : _} (e : execM3DieSelfTest x0 x1 s = .next t) : Fr q M F t := by
  unfold execM3DieSelfTest at e
  injection e with e
  subst e
  repeat' (first
    | with_reducible assumption
    | with_reducible apply whenAlive_fr
    | with_reducible apply stepWork_fr
    | with_reducible apply workM3_fr
    | intro _ _)

theorem clearAbsent_fr {s : State} (h : Fr q M F s) : Fr q M F (clearAbsent s) := by
  unfold clearAbsent
  repeat' (first
    | with_reducible assumption
    | with_reducible apply forAll_fr
    | with_reducible apply clearColumn_fr
    | intro _ _ _)

theorem workM4_fr {s : State} (h : Fr q M F s) : Fr q M F (workM4 s).2 := by
  unfold workM4
  dsimp only
  repeat' (first
    | with_reducible assumption
    | with_reducible apply retireEngines_fr
    | with_reducible apply applyMap_fr
    | with_reducible apply clearAbsent_fr
    | with_reducible apply Fr.ite)

theorem execM4Reconcile_fr {s t : State} (h : Fr q M F s) (e : execM4Reconcile s = .next t) : Fr q M F t := by
  unfold execM4Reconcile at e
  injection e with e
  subst e
  repeat' (first
    | with_reducible assumption
    | with_reducible apply whenAlive_fr
    | with_reducible apply stepWork_fr
    | with_reducible apply workM4_fr
    | intro _ _)

theorem bootKeys_fr {s : State} (h : Fr q M F s) : Fr q M F (bootKeys s) := by
  unfold bootKeys
  dsimp only
  repeat' (first
    | with_reducible assumption
    | with_reducible apply draw_fr
    | with_reducible apply forAll_fr
    | with_reducible apply newCoreKey_fr
    | intro _ _ _
    | dsimp only
    | with_reducible apply Fr.upd)

theorem workM5_fr {s : State} (h : Fr q M F s) (x0 : _) : Fr q M F (workM5 x0 s).2 := by
  unfold workM5
  repeat' (first
    | with_reducible assumption
    | with_reducible apply doTrngFail_fr
    | with_reducible apply deriveIdentity_fr
    | with_reducible apply bootKeys_fr
    | with_reducible apply Fr.ite
    | split)

theorem execM5SecurityRoot_fr {s t : State} (h : Fr q M F s) {x0 : _} (e : execM5SecurityRoot x0 s = .next t) : Fr q M F t := by
  unfold execM5SecurityRoot at e
  injection e with e
  subst e
  repeat' (first
    | with_reducible assumption
    | with_reducible apply whenAlive_fr
    | with_reducible apply stepWork_fr
    | with_reducible apply workM5_fr
    | intro _ _)

theorem channelsUp_fr {s : State} (h : Fr q M F s) (x1 : _) : Fr q M F (channelsUp s x1) := by
  unfold channelsUp
  dsimp only
  repeat' (first
    | with_reducible assumption
    | with_reducible apply setF_fr
    | dsimp only
    | with_reducible apply Fr.upd)

theorem workM6_fr {s : State} (h : Fr q M F s) (x0 : _) : Fr q M F (workM6 x0 s).2 := by
  unfold workM6
  dsimp only
  repeat' (first
    | with_reducible assumption
    | with_reducible apply applyMap_fr
    | with_reducible apply forAll_fr
    | with_reducible apply failUnit_fr
    | with_reducible apply channelsUp_fr
    | with_reducible apply calibrate_fr
    | with_reducible apply Fr.ite
    | intro _ _ _)

theorem execM6DramTraining_fr {s t : State} (h : Fr q M F s) {x0 : _} (e : execM6DramTraining x0 s = .next t) : Fr q M F t := by
  unfold execM6DramTraining at e
  injection e with e
  subst e
  repeat' (first
    | with_reducible assumption
    | with_reducible apply whenAlive_fr
    | with_reducible apply stepWork_fr
    | with_reducible apply workM6_fr
    | intro _ _)

theorem placeRow_fr {s : State} (h : Fr q M F s) (x0 : _) (x2 : _) : Fr q M F (placeRow x0 s x2) := by
  unfold placeRow
  dsimp only
  repeat' (first
    | with_reducible assumption
    | with_reducible apply putEntry_fr
    | with_reducible apply remapSts_fr
    | split
    | dsimp only
    | with_reducible apply Fr.upd)

theorem initDram_fr {s : State} (h : Fr q MemOk F s) (x0 : _) : Fr q MemOk F (initDram x0 s) := by
  unfold initDram
  dsimp only
  repeat' (first
    | with_reducible assumption
    | with_reducible apply applyMap_fr
    | with_reducible apply forAll_fr
    | with_reducible apply failUnit_fr
    | with_reducible apply placeRow_fr
    | intro _ _ _
    | dsimp only
    | with_reducible apply Fr.updMem
    | rfl)

theorem rereadDram_fr {s : State} (h : Fr q MemOk F s) : Fr q MemOk F (rereadDram s) := by
  unfold rereadDram
  repeat' (first
    | with_reducible assumption
    | with_reducible apply forAll_fr
    | with_reducible apply scrubRead_fr
    | intro _ _ _)

theorem workM7_fr {s : State} (h : Fr q MemOk F s) (x0 : _) : Fr q MemOk F (workM7 x0 s).2 := by
  unfold workM7
  dsimp only
  repeat' (first
    | with_reducible assumption
    | with_reducible apply initDram_fr
    | with_reducible apply rereadDram_fr
    | with_reducible apply Fr.ite)

theorem execM7DramTest_fr {s t : State} (h : Fr q MemOk F s) {x0 : _} (e : execM7DramTest x0 s = .next t) : Fr q MemOk F t := by
  unfold execM7DramTest at e
  injection e with e
  subst e
  repeat' (first
    | with_reducible assumption
    | with_reducible apply whenAlive_fr
    | with_reducible apply stepWork_fr
    | with_reducible apply workM7_fr
    | intro _ _)

theorem workM8_fr {s : State} (h : Fr q M F s) (x0 : _) : Fr q M F (workM8 x0 s).2 := by
  unfold workM8
  dsimp only
  repeat' (first
    | with_reducible assumption
    | with_reducible apply trainEnabled_fr
    | with_reducible apply applyMap_fr
    | with_reducible apply testUnits_fr)

theorem execM8FabricPorts_fr {s t : State} (h : Fr q M F s) {x0 : _} (e : execM8FabricPorts x0 s = .next t) : Fr q M F t := by
  unfold execM8FabricPorts at e
  injection e with e
  subst e
  repeat' (first
    | with_reducible assumption
    | with_reducible apply whenAlive_fr
    | with_reducible apply stepWork_fr
    | with_reducible apply workM8_fr
    | intro _ _)

theorem startRoot_fr {s : State} (h : Fr q M F s) (x1 : _) : Fr q M F (startRoot s x1) := by
  unfold startRoot
  repeat' (first
    | with_reducible assumption
    | with_reducible apply setF_fr
    | with_reducible apply Fr.ite)

theorem raisePerst_fr {s : State} (h : Fr q M F s) : Fr q M F (raisePerst s) := by
  unfold raisePerst
  dsimp only
  repeat' (first
    | with_reducible assumption
    | dsimp only
    | with_reducible apply Fr.upd)

theorem workM9_fr {s : State} (h : Fr q M F s) (x0 : _) : Fr q M F (workM9 x0 s).2 := by
  unfold workM9
  dsimp only
  repeat' (first
    | with_reducible assumption
    | with_reducible apply forAll_fr
    | with_reducible apply startRoot_fr
    | with_reducible apply raisePerst_fr
    | with_reducible apply applyMap_fr
    | with_reducible apply testUnits_fr
    | intro _ _ _)

theorem execM9RootPorts_fr {s t : State} (h : Fr q M F s) {x0 : _} (e : execM9RootPorts x0 s = .next t) : Fr q M F t := by
  unfold execM9RootPorts at e
  injection e with e
  subst e
  repeat' (first
    | with_reducible assumption
    | with_reducible apply whenAlive_fr
    | with_reducible apply stepWork_fr
    | with_reducible apply workM9_fr
    | intro _ _)

theorem execM10Admission_fr {s t : State} (h : Fr q M F s) (e : execM10Admission s = .next t) : Fr q M F t := by
  unfold execM10Admission at e
  injection e with e
  subst e
  repeat' (first
    | with_reducible assumption
    | with_reducible apply whenAlive_fr
    | with_reducible apply stepWork_fr
    | intro _ _)

theorem execM11Service_fr {s t : State} (h : Fr q M F s) (e : execM11Service s = .next t) : Fr q M F t := by
  unfold execM11Service at e
  injection e with e
  subst e
  repeat' (first
    | with_reducible assumption
    | with_reducible apply whenAlive_fr
    | with_reducible apply stepWork_fr
    | intro _ _)

theorem stepEffect_fr {s : State} (h : Fr q MemOk F s) : Fr q MemOk F (stepEffect s) := by
  unfold stepEffect
  dsimp only
  repeat' (first
    | with_reducible assumption
    | with_reducible apply noteChip_fr
    | with_reducible apply digestStart_fr
    | with_reducible apply forAll_fr
    | with_reducible apply setF_fr
    | with_reducible apply restartScrub_fr
    | with_reducible apply Fr.ite
    | intro _ _ _
    | split
    | dsimp only
    | with_reducible apply Fr.upd)

theorem execStepDone_fr {s t : State} (h : Fr q MemOk F s) {x0 : _} (e : execStepDone x0 s = .next t) : Fr q MemOk F t := by
  unfold execStepDone at e
  injection e with e
  subst e
  repeat' (first
    | with_reducible assumption
    | with_reducible apply whenAlive_fr
    | with_reducible apply endStep_fr
    | with_reducible apply stepEffect_fr
    | with_reducible apply Fr.ite
    | intro _ _)

theorem execStepFail_fr {s t : State} (h : Fr q M F s) {x0 : _} {x1 : _} (e : execStepFail x0 x1 s = .next t) : Fr q M F t := by
  unfold execStepFail at e
  injection e with e
  subst e
  dsimp only
  repeat' (first
    | with_reducible assumption
    | with_reducible apply whenAlive_fr
    | with_reducible apply endStep_fr
    | with_reducible apply Fr.ite
    | intro _ _)

theorem execDriveReadyTimeout_fr {s t : State} (h : Fr q M F s) {x0 : _} (e : execDriveReadyTimeout x0 s = .next t) : Fr q M F t := by
  unfold execDriveReadyTimeout at e
  injection e with e
  subst e
  repeat' (first
    | with_reducible assumption
    | with_reducible apply whenAlive_fr
    | with_reducible apply raise_fr
    | with_reducible apply setF_fr
    | with_reducible apply Fr.ite
    | intro _ _)

theorem execAttach_fr {s t : State} (h : Fr q M F s) (e : execAttach s = .next t) : Fr q M F t := by
  unfold execAttach at e
  injection e with e
  subst e
  repeat' (first
    | with_reducible assumption
    | with_reducible apply whenManaged_fr
    | with_reducible apply raise_fr
    | with_reducible apply setB_fr
    | with_reducible apply Fr.ite
    | intro _ _)

theorem execDetach_fr {s t : State} (h : Fr q M F s) (e : execDetach s = .next t) : Fr q M F t := by
  unfold execDetach at e
  injection e with e
  subst e
  repeat' (first
    | with_reducible assumption
    | with_reducible apply whenManaged_fr
    | with_reducible apply raise_fr
    | with_reducible apply setB_fr
    | with_reducible apply Fr.ite
    | intro _ _)

theorem doVoid_fr (hF : Blown F) {s : State} (h : Fr q M F s) : Fr q M F (doVoid s) := by
  unfold doVoid
  dsimp only
  repeat' (first
    | with_reducible assumption
    | with_reducible apply doLcVoid_fr hF
    | with_reducible apply portsOff_fr
    | with_reducible apply Fr.ite)

theorem execLcVoid_fr (hF : Blown F) {s t : State} (h : Fr q M F s) (e : execLcVoid s = .next t) : Fr q M F t := by
  unfold execLcVoid at e
  injection e with e
  subst e
  repeat' (first
    | with_reducible assumption
    | with_reducible apply whenAlive_fr
    | with_reducible apply doVoid_fr hF
    | intro _ _)

end Sys2Proof.Machine
end

