-- ==== Sys2Proof/Laws/KeyX.lean ====
section
/-!
SUPPORT. What every operation of Machine/KeyX.lean leaves alone: each keeps the frame of Laws/Frame.lean.
-/

namespace Sys2Proof.Machine

variable {q : List Instr} {M : Store Byte → Prop} {F : Store Nat → Prop}

theorem setExchange_fr {s : State} (h : Fr q M F s) (x1 : _) (x2 : _) : Fr q M F (setExchange s x1 x2) := by
  unfold setExchange
  dsimp only
  repeat' (first
    | with_reducible assumption
    | dsimp only
    | with_reducible apply Fr.upd)

theorem enterActive_fr {s : State} (h : Fr q M F s) (x1 : _) : Fr q M F (enterActive s x1) := by
  unfold enterActive
  dsimp only
  repeat' (first
    | with_reducible assumption
    | with_reducible apply raise_fr
    | with_reducible apply enterState_fr
    | with_reducible apply setB_fr
    | with_reducible apply Fr.ite)

theorem finishExchange_fr {s : State} (h : Fr q M F s) (x1 : _) (x2 : _) : Fr q M F (finishExchange s x1 x2) := by
  unfold finishExchange
  dsimp only
  repeat' (first
    | with_reducible assumption
    | with_reducible apply setF_fr
    | with_reducible apply enterActive_fr
    | with_reducible apply bumpF_fr
    | with_reducible apply setExchange_fr
    | with_reducible apply Fr.ite
    | dsimp only
    | with_reducible apply Fr.upd)

theorem installKeys_fr {s : State} (h : Fr q M F s) (x1 : _) (x2 : _) (x3 : _) : Fr q M F (installKeys s x1 x2 x3) := by
  unfold installKeys
  dsimp only
  repeat' (first
    | with_reducible assumption
    | with_reducible apply finishExchange_fr
    | with_reducible apply sendCtrl_fr
    | dsimp only
    | with_reducible apply Fr.upd)

theorem takeKeyx_fr {s : State} {f : KeyX → State} (h : Fr q M F s) (hf : ∀ k, Fr q M F (f k)) (p : Nat) (profS : Bool)
    (want len : Nat) (ok : KeyX → Bool) : Fr q M F (takeKeyx s p profS want len ok f) := by
  unfold takeKeyx
  split
  · exact h
  · exact Fr.ite (Fr.ite (hf _) (failExchange_fr h _ _)) h

theorem doOffer_fr {s : State} (h : Fr q M F s) (x1 : _) (x2 : _) (x3 : _) : Fr q M F (doOffer s x1 x2 x3) := by
  unfold doOffer
  dsimp only
  repeat' (first
    | with_reducible assumption
    | with_reducible apply takeKeyx_fr
    | with_reducible apply failExchange_fr
    | with_reducible apply draw_fr
    | with_reducible apply sendCtrl_fr
    | with_reducible apply setExchange_fr
    | with_reducible apply Fr.ite
    | intro _)

theorem execOffer_fr {s t : State} (h : Fr q M F s) {x0 : _} {x1 : _} {x2 : _} (e : execOffer x0 x1 x2 s = .next t) : Fr q M F t := by
  unfold execOffer at e
  injection e with e
  subst e
  repeat' (first
    | with_reducible assumption
    | with_reducible apply whenAlive_fr
    | with_reducible apply doOffer_fr
    | intro _ _)

theorem doAccept_fr {s : State} (h : Fr q M F s) (x1 : _) (x2 : _) (x3 : _) : Fr q M F (doAccept s x1 x2 x3) := by
  unfold doAccept
  dsimp only
  repeat' (first
    | with_reducible assumption
    | with_reducible apply takeKeyx_fr
    | with_reducible apply failExchange_fr
    | with_reducible apply sendCtrl_fr
    | with_reducible apply installKeys_fr
    | with_reducible apply Fr.ite
    | intro _
    | dsimp only
    | with_reducible apply Fr.upd)

theorem execAccept_fr {s t : State} (h : Fr q M F s) {x0 : _} {x1 : _} {x2 : _} (e : execAccept x0 x1 x2 s = .next t) : Fr q M F t := by
  unfold execAccept at e
  injection e with e
  subst e
  repeat' (first
    | with_reducible assumption
    | with_reducible apply whenAlive_fr
    | with_reducible apply doAccept_fr
    | intro _ _)

theorem doConfirm_fr {s : State} (h : Fr q M F s) (x1 : _) (x2 : _) (x3 : _) : Fr q M F (doConfirm s x1 x2 x3) := by
  unfold doConfirm
  dsimp only
  repeat' (first
    | with_reducible assumption
    | with_reducible apply takeKeyx_fr
    | with_reducible apply failExchange_fr
    | with_reducible apply installKeys_fr
    | with_reducible apply Fr.ite
    | intro _
    | dsimp only
    | with_reducible apply Fr.upd)

theorem execConfirm_fr {s t : State} (h : Fr q M F s) {x0 : _} {x1 : _} {x2 : _} (e : execConfirm x0 x1 x2 s = .next t) : Fr q M F t := by
  unfold execConfirm at e
  injection e with e
  subst e
  repeat' (first
    | with_reducible assumption
    | with_reducible apply whenAlive_fr
    | with_reducible apply doConfirm_fr
    | intro _ _)

theorem joinRotation_fr {s : State} (h : Fr q M F s) (x1 : _) : Fr q M F (joinRotation s x1) := by
  unfold joinRotation
  repeat' (first
    | with_reducible assumption
    | with_reducible apply startExchange_fr
    | with_reducible apply Fr.ite)

theorem doNonce_fr {s : State} (h : Fr q M F s) (x1 : _) (x2 : _) (x3 : _) : Fr q M F (doNonce s x1 x2 x3) := by
  unfold doNonce
  dsimp only
  repeat' (first
    | with_reducible assumption
    | with_reducible apply joinRotation_fr
    | with_reducible apply takeKeyx_fr
    | with_reducible apply installKeys_fr
    | with_reducible apply Fr.ite
    | intro _)

theorem execNonce_fr {s t : State} (h : Fr q M F s) {x0 : _} {x1 : _} {x2 : _} (e : execNonce x0 x1 x2 s = .next t) : Fr q M F t := by
  unfold execNonce at e
  injection e with e
  subst e
  repeat' (first
    | with_reducible assumption
    | with_reducible apply whenAlive_fr
    | with_reducible apply doNonce_fr
    | intro _ _)

theorem doRotOffer_fr {s : State} (h : Fr q M F s) (x1 : _) (x2 : _) (x3 : _) : Fr q M F (doRotOffer s x1 x2 x3) := by
  unfold doRotOffer
  dsimp only
  repeat' (first
    | with_reducible assumption
    | with_reducible apply joinRotation_fr
    | with_reducible apply takeKeyx_fr
    | with_reducible apply failExchange_fr
    | with_reducible apply draw_fr
    | with_reducible apply sendCtrl_fr
    | with_reducible apply installKeys_fr
    | with_reducible apply Fr.ite
    | intro _
    | split
    | dsimp only
    | with_reducible apply Fr.upd)

theorem execRotOffer_fr {s t : State} (h : Fr q M F s) {x0 : _} {x1 : _} {x2 : _} (e : execRotOffer x0 x1 x2 s = .next t) : Fr q M F t := by
  unfold execRotOffer at e
  injection e with e
  subst e
  repeat' (first
    | with_reducible assumption
    | with_reducible apply whenAlive_fr
    | with_reducible apply doRotOffer_fr
    | intro _ _)

theorem doRotAccept_fr {s : State} (h : Fr q M F s) (x1 : _) (x2 : _) (x3 : _) : Fr q M F (doRotAccept s x1 x2 x3) := by
  unfold doRotAccept
  dsimp only
  repeat' (first
    | with_reducible assumption
    | with_reducible apply takeKeyx_fr
    | with_reducible apply installKeys_fr
    | intro _
    | dsimp only
    | with_reducible apply Fr.upd)

theorem execRotAccept_fr {s t : State} (h : Fr q M F s) {x0 : _} {x1 : _} {x2 : _} (e : execRotAccept x0 x1 x2 s = .next t) : Fr q M F t := by
  unfold execRotAccept at e
  injection e with e
  subst e
  repeat' (first
    | with_reducible assumption
    | with_reducible apply whenAlive_fr
    | with_reducible apply doRotAccept_fr
    | intro _ _)

theorem doReady_fr {s : State} (h : Fr q M F s) (x1 : _) (x2 : _) (x3 : _) : Fr q M F (doReady s x1 x2 x3) := by
  unfold doReady
  repeat' (first
    | with_reducible assumption
    | with_reducible apply takeKeyx_fr
    | with_reducible apply finishExchange_fr
    | intro _)

theorem execReady_fr {s t : State} (h : Fr q M F s) {x0 : _} {x1 : _} {x2 : _} (e : execReady x0 x1 x2 s = .next t) : Fr q M F t := by
  unfold execReady at e
  injection e with e
  subst e
  repeat' (first
    | with_reducible assumption
    | with_reducible apply whenAlive_fr
    | with_reducible apply doReady_fr
    | intro _ _)

theorem execKeyxTimeout_fr {s t : State} (h : Fr q M F s) {x0 : _} (e : execKeyxTimeout x0 s = .next t) : Fr q M F t := by
  unfold execKeyxTimeout at e
  injection e with e
  subst e
  repeat' (first
    | with_reducible assumption
    | with_reducible apply whenAlive_fr
    | with_reducible apply failExchange_fr
    | with_reducible apply advanceEl_fr
    | intro _ _
    | split)

theorem doKeyRotation_fr {s : State} (h : Fr q M F s) (x1 : _) : Fr q M F (doKeyRotation s x1) := by
  unfold doKeyRotation
  dsimp only
  repeat' (first
    | with_reducible assumption
    | with_reducible apply atPeriodic_fr
    | with_reducible apply bumpF_fr
    | with_reducible apply startExchange_fr
    | with_reducible apply Fr.ite)

theorem execLinkKeyRotation_fr {s t : State} (h : Fr q M F s) {x0 : _} (e : execLinkKeyRotation x0 s = .next t) : Fr q M F t := by
  unfold execLinkKeyRotation at e
  injection e with e
  subst e
  repeat' (first
    | with_reducible assumption
    | with_reducible apply whenAlive_fr
    | with_reducible apply doKeyRotation_fr
    | intro _ _)

theorem execFrameCounterLimit_fr {s t : State} (h : Fr q M F s) {x0 : _} (e : execFrameCounterLimit x0 s = .next t) : Fr q M F t := by
  unfold execFrameCounterLimit at e
  injection e with e
  subst e
  repeat' (first
    | with_reducible assumption
    | with_reducible apply whenAlive_fr
    | with_reducible apply setF_fr
    | with_reducible apply stopPort_fr
    | with_reducible apply Fr.ite
    | intro _ _)

end Sys2Proof.Machine
end

