-- ==== Sys2Proof/Laws/RegPages.lean ====
section
/-!
SUPPORT. What every operation of Machine/RegPages.lean leaves alone: each keeps the frame of Laws/Frame.lean.
-/

namespace Sys2Proof.Machine

variable {q : List Instr} {M : Store Byte → Prop} {F : Store Nat → Prop}

theorem rateStep_fr {s : State} (h : Fr q M F s) : Fr q M F (rateStep s) := by
  unfold rateStep
  repeat' (first
    | with_reducible assumption
    | with_reducible apply wrapF_fr
    | with_reducible apply setF_fr
    | with_reducible apply Fr.ite)

theorem autoStep_fr {s : State} (h : Fr q M F s) (x0 : _) (x1 : _) (x2 : _) : Fr q M F (autoStep x0 x1 x2 s) := by
  unfold autoStep
  repeat' (first
    | with_reducible assumption
    | with_reducible apply wrapF_fr
    | with_reducible apply Fr.ite)

theorem readEffect_fr {s : State} (h : Fr q M F s) (x1 : _) (x2 : _) : Fr q M F (readEffect s x1 x2) := by
  unfold readEffect
  repeat' (first
    | with_reducible assumption
    | with_reducible apply autoStep_fr
    | with_reducible apply readCntData_fr
    | with_reducible apply readHotPop_fr
    | with_reducible apply readFencePop_fr
    | with_reducible apply readQbuf_fr
    | with_reducible apply tblStep_fr
    | with_reducible apply rateStep_fr
    | with_reducible apply setF_fr
    | split)

theorem readReg_fr {s : State} (h : Fr q M F s) (x1 : _) (x2 : _) (x3 : _) : Fr q M F (readReg s x1 x2 x3).2 := by
  unfold readReg
  dsimp only
  repeat' (first
    | with_reducible assumption
    | with_reducible apply rebuildSeen_fr
    | with_reducible apply readEffect_fr
    | with_reducible apply Fr.ite
    | with_reducible apply Fr.ite_snd
    | split
    | dsimp only
    | with_reducible apply Fr.upd)

theorem readBurst_fr {s : State} (h : Fr q M F s) (x0 : _) (x1 : _) (x2 : _) (x3 : _) (x4 : _) : Fr q M F (readBurst x0 x1 x2 x3 x4 s).2 := by
  induction x3 generalizing s x4 with
  | zero =>
    unfold readBurst
    repeat' with_reducible assumption
  | succ n ih =>
    unfold readBurst
    dsimp only
    repeat' (first
      | with_reducible assumption
      | with_reducible apply ih
      | with_reducible apply readReg_fr)

theorem storeView_fr {s : State} (h : Fr q M F s) (x0 : _) (x2 : _) : Fr q M F (storeView x0 s x2) := by
  unfold storeView
  dsimp only
  repeat' (first
    | with_reducible assumption
    | with_reducible apply setF_fr
    | split)

theorem storeReg_fr {s : State} (h : Fr q M F s) (x1 : _) (x2 : _) : Fr q M F (storeReg s x1 x2) := by
  unfold storeReg
  repeat' (first
    | with_reducible assumption
    | with_reducible apply storeView_fr
    | with_reducible apply Fr.foldl
    | intro _ _ _)

theorem onBit_fr {s : State} {f : State → State} (h : Fr q M F s) (hf : ∀ s, Fr q M F s → Fr q M F (f s)) (v i : Nat) :
    Fr q M F (onBit v i f s) := by
  unfold onBit
  exact Fr.ite (hf s h) h

theorem noteField_fr {s : State} {f : State → State} (h : Fr q M F s) (hf : ∀ s, Fr q M F s → Fr q M F (f s)) (pt : Nat)
    (w : State → List Nat) : Fr q M F (noteField pt w f s) := by
  unfold noteField
  exact Fr.ite (hf s h) (bumpConfigGen_fr (hf s h) pt)

theorem writeChipReset_fr {s : State} (h : Fr q MemOk F s) (x0 : _) : Fr q MemOk F (writeChipReset x0 s) := by
  unfold writeChipReset
  repeat' (first
    | with_reducible assumption
    | with_reducible apply onBit_fr
    | with_reducible apply doResetWarm_fr
    | with_reducible apply doResetCold_fr
    | with_reducible apply Fr.ite
    | intro _ _)

theorem writeLcCmd_fr (hF : Blown F) {s : State} (h : Fr q M F s) (x0 : _) : Fr q M F (writeLcCmd x0 s) := by
  unfold writeLcCmd
  repeat' (first
    | with_reducible assumption
    | with_reducible apply onBit_fr
    | with_reducible apply doLcRma_fr hF
    | with_reducible apply doVoid_fr hF
    | with_reducible apply lcStart_fr
    | with_reducible apply Fr.ite
    | intro _ _
    | split)

theorem writeQuoteCmd_fr {s : State} (h : Fr q M F s) (x0 : _) : Fr q M F (writeQuoteCmd x0 s) := by
  unfold writeQuoteCmd
  repeat' (first
    | with_reducible assumption
    | with_reducible apply onBit_fr
    | with_reducible apply doQuote_fr
    | with_reducible apply doAkCertificate_fr
    | with_reducible apply doDikPublicKey_fr
    | intro _ _
    | split)

theorem writePwrCmd_fr {s : State} (h : Fr q MemOk F s) (x0 : _) : Fr q MemOk F (writePwrCmd x0 s) := by
  unfold writePwrCmd
  repeat' (first
    | with_reducible assumption
    | with_reducible apply onBit_fr
    | with_reducible apply doPwrRun_fr
    | with_reducible apply doPwrIdle_fr
    | with_reducible apply doPwrHibernate_fr
    | with_reducible apply doPwrOff_fr
    | with_reducible apply pwrResult_fr
    | intro _ _
    | split)

theorem writeImgCtl_fr {s : State} (h : Fr q MemOk F s) (x0 : _) : Fr q MemOk F (writeImgCtl x0 s) := by
  unfold writeImgCtl
  dsimp only
  repeat' (first
    | with_reducible assumption
    | with_reducible apply setF_fr
    | with_reducible apply onBit_fr
    | with_reducible apply doImgUnbind_fr
    | with_reducible apply doImgBind_fr
    | with_reducible apply Fr.ite)

theorem writeSlotCtl_fr {s : State} (h : Fr q MemOk F s) (x0 : _) : Fr q MemOk F (writeSlotCtl x0 s) := by
  unfold writeSlotCtl
  dsimp only
  repeat' (first
    | with_reducible assumption
    | with_reducible apply setF_fr
    | with_reducible apply onBit_fr
    | with_reducible apply doSlotClear_fr
    | with_reducible apply doSlotLock_fr
    | with_reducible apply doSlotLoad_fr
    | with_reducible apply Fr.ite)

theorem writeTblCmd_fr {s : State} (h : Fr q MemOk F s) (x0 : _) : Fr q MemOk F (writeTblCmd x0 s) := by
  unfold writeTblCmd
  repeat' (first
    | with_reducible assumption
    | with_reducible apply ignored_fr
    | with_reducible apply onBit_fr
    | with_reducible apply doTblRead_fr
    | with_reducible apply doTblCommit_fr
    | with_reducible apply Fr.ite
    | intro _ _)

theorem behave_fr (hF : Blown F) {b : Block} {n o bank v : Nat} {d : RegDesc} {f : State → State}
    (e : behave b n o bank v d = some f) {s : State} (h : Fr q MemOk F s) : Fr q MemOk F (f s) := by
  unfold behave at e
  split at e
  all_goals (repeat' (split at e))
  all_goals (first | (injection e with e; subst e) | cases e)
  all_goals (try dsimp only)
  all_goals (
    repeat' (first
      | with_reducible assumption
      | with_reducible apply onBit_fr
      | with_reducible apply doGingCopy_fr
      | with_reducible apply doGingFlip_fr
      | with_reducible apply doEntData_fr
      | with_reducible apply writeChipReset_fr
      | with_reducible apply doSeqStep_fr
      | with_reducible apply doHandover_fr
      | with_reducible apply noteChip_fr
      | with_reducible apply doDetWrite_fr
      | with_reducible apply doDrunClose_fr
      | with_reducible apply doDrunOpen_fr
      | with_reducible apply noteField_fr
      | with_reducible apply storeReg_fr
      | with_reducible apply doUnfence_fr
      | with_reducible apply doRelease_fr
      | with_reducible apply doFence_fr
      | with_reducible apply doResumeCmd_fr
      | with_reducible apply doQuiesce_fr
      | with_reducible apply noteState_fr
      | with_reducible apply doScrubGo_fr
      | with_reducible apply doCfg_fr
      | with_reducible apply doUnbind_fr
      | with_reducible apply doBind_fr
      | with_reducible apply doFtLoad_fr
      | with_reducible apply writeTblCmd_fr
      | with_reducible apply doXltInvalidate_fr
      | with_reducible apply doPageMove_fr
      | with_reducible apply doXltDigest_fr
      | with_reducible apply doCntClearAll_fr
      | with_reducible apply doCntClear_fr
      | with_reducible apply doRgnCtl_fr
      | with_reducible apply doRgnVer_fr
      | with_reducible apply doSeqFlush_fr
      | with_reducible apply doChkInject_fr
      | with_reducible apply doBistStart_fr
      | with_reducible apply doRemapRequest_fr
      | with_reducible apply setB_fr
      | with_reducible apply doTestReadRaw_fr
      | with_reducible apply doTestRead_fr
      | with_reducible apply doTestWrite_fr
      | with_reducible apply doCacheWrite_fr
      | with_reducible apply doTierFlush_fr
      | with_reducible apply doRebuild_fr
      | with_reducible apply doPortReset_fr
      | with_reducible apply disablePort_fr
      | with_reducible apply doRetrain_fr
      | with_reducible apply doTrain_fr
      | with_reducible apply doLwcRequest_fr
      | with_reducible apply setF_fr
      | with_reducible apply doRouteCopy_fr
      | with_reducible apply doRouteFlip_fr
      | with_reducible apply doTblData_fr
      | with_reducible apply autoStep_fr
      | with_reducible apply doGroupWrite_fr
      | with_reducible apply rateStep_fr
      | with_reducible apply doLimitWrite_fr
      | with_reducible apply doFieldProgram_fr hF
      | with_reducible apply writeLcCmd_fr hF
      | with_reducible apply doDebugWrite_fr
      | with_reducible apply doFwData_fr
      | with_reducible apply doSvnCommit_fr hF
      | with_reducible apply doFwDiscard_fr
      | with_reducible apply doFwVerify_fr
      | with_reducible apply writeQuoteCmd_fr
      | with_reducible apply writeImgCtl_fr
      | with_reducible apply writeSlotCtl_fr
      | with_reducible apply doRelData_fr
      | with_reducible apply doKeyRelease_fr
      | with_reducible apply followTgen_fr
      | with_reducible apply writePwrCmd_fr
      | with_reducible apply doEnClear_fr
      | with_reducible apply doClearLost_fr
      | with_reducible apply doFaultPop_fr
      | with_reducible apply refreshFrames_fr
      | with_reducible apply doWaysWrite_fr
      | with_reducible apply doDriveAssign_fr
      | with_reducible apply Fr.ite
      | intro _ _))

theorem clearEvt_fr {s : State} (h : Fr q M F s) (x1 : _) (x2 : _) (x3 : _) : Fr q M F (clearEvt s x1 x2 x3) := by
  unfold clearEvt
  dsimp only
  repeat' (first
    | with_reducible assumption
    | with_reducible apply setF_fr
    | with_reducible apply formEvt_fr
    | with_reducible apply Fr.ite)

theorem writeEvtEn_fr {s : State} (h : Fr q M F s) (x1 : _) (x2 : _) : Fr q M F (writeEvtEn s x1 x2) := by
  unfold writeEvtEn
  dsimp only
  repeat' (first
    | with_reducible assumption
    | with_reducible apply setF_fr
    | with_reducible apply formEvt_fr
    | with_reducible apply Fr.ite)

theorem writeHold_fr {s : State} (h : Fr q M F s) (x1 : _) (x2 : _) : Fr q M F (writeHold s x1 x2) := by
  unfold writeHold
  dsimp only
  repeat' (first
    | with_reducible assumption
    | with_reducible apply setF_fr
    | with_reducible apply formEvt_fr
    | with_reducible apply Fr.ite)

theorem flagWrite_fr {s : State} (h : Fr q M F s) (x1 : _) (x2 : _) (x3 : _) (x4 : _) : Fr q M F (flagWrite s x1 x2 x3 x4) := by
  unfold flagWrite
  dsimp only
  repeat' (first
    | with_reducible assumption
    | with_reducible apply ignored_fr
    | with_reducible apply Fr.ite)

theorem actReg_fr (hF : Blown F) {s : State} (h : Fr q MemOk F s) (x1 : _) (x2 : _) (x3 : _) (x4 : _) (x5 : _) (x6 : _) : Fr q MemOk F (actReg s x1 x2 x3 x4 x5 x6) := by
  unfold actReg
  repeat' (first
    | with_reducible assumption
    | with_reducible apply flagWrite_fr
    | with_reducible apply storeReg_fr
    | with_reducible apply writeHold_fr
    | with_reducible apply clearEvt_fr
    | with_reducible apply writeEvtEn_fr
    | apply behave_fr hF (by with_reducible assumption)
    | with_reducible apply Fr.ite
    | split)

theorem writeReg_fr (hF : Blown F) {s : State} (h : Fr q MemOk F s) (x1 : _) (x2 : _) : Fr q MemOk F (writeReg s x1 x2) := by
  unfold writeReg
  dsimp only
  repeat' (first
    | with_reducible assumption
    | with_reducible apply ignored_fr
    | with_reducible apply actReg_fr hF
    | with_reducible apply flagWrite_fr
    | with_reducible apply Fr.ite
    | split)

theorem execRegisterWrite_fr (hF : Blown F) {s t : State} (h : Fr q MemOk F s) {x0 : _} {x1 : _} (e : execRegisterWrite x0 x1 s = .next t) : Fr q MemOk F t := by
  unfold execRegisterWrite at e
  injection e with e
  subst e
  repeat' (first
    | with_reducible assumption
    | with_reducible apply whenAlive_fr
    | with_reducible apply writeReg_fr hF
    | intro _ _)

theorem onPage_fr {s : State} {f : State → State} (h : Fr q M F s) (hf : ∀ s, Fr q M F s → Fr q M F (f s)) (p : Nat) :
    Fr q M F (onPage p f s) := by
  unfold onPage
  exact Fr.ite (hf s h) h

theorem execPageEvtClear_fr {s t : State} (h : Fr q M F s) {x0 : _} {x1 : _} {x2 : _} (e : execPageEvtClear x0 x1 x2 s = .next t) : Fr q M F t := by
  unfold execPageEvtClear at e
  injection e with e
  subst e
  dsimp only
  repeat' (first
    | with_reducible assumption
    | with_reducible apply whenAlive_fr
    | with_reducible apply onPage_fr
    | with_reducible apply ignored_fr
    | with_reducible apply clearEvt_fr
    | with_reducible apply Fr.ite
    | intro _ _)

theorem execPageEvtEnWrite_fr (hF : Blown F) {s t : State} (h : Fr q MemOk F s) {x0 : _} {x1 : _} (e : execPageEvtEnWrite x0 x1 s = .next t) : Fr q MemOk F t := by
  unfold execPageEvtEnWrite at e
  injection e with e
  subst e
  repeat' (first
    | with_reducible assumption
    | with_reducible apply whenAlive_fr
    | with_reducible apply writeReg_fr hF
    | intro _ _)

theorem execMsgHoldWrite_fr (hF : Blown F) {s t : State} (h : Fr q MemOk F s) {x0 : _} {x1 : _} (e : execMsgHoldWrite x0 x1 s = .next t) : Fr q MemOk F t := by
  unfold execMsgHoldWrite at e
  injection e with e
  subst e
  repeat' (first
    | with_reducible assumption
    | with_reducible apply whenAlive_fr
    | with_reducible apply writeReg_fr hF
    | intro _ _)

theorem noteRefusedReset_fr {s : State} (h : Fr q M F s) (x1 : _) (x2 : _) (x3 : _) : Fr q M F (noteRefusedReset s x1 x2 x3) := by
  unfold noteRefusedReset
  repeat' (first
    | with_reducible assumption
    | with_reducible apply refuseReset_fr
    | with_reducible apply Fr.ite
    | split)

theorem countRefused_fr {s : State} (h : Fr q M F s) (x1 : _) (x2 : _) : Fr q M F (countRefused s x1 x2) := by
  unfold countRefused
  repeat' (first
    | with_reducible assumption
    | with_reducible apply bumpF_fr
    | split)

theorem regAnswer_fr {s : State} (h : Fr q M F s) (x1 : _) (x2 : _) (x3 : _) (x4 : _) (x5 : _) : Fr q M F (regAnswer s x1 x2 x3 x4 x5) := by
  unfold regAnswer
  repeat' (first
    | with_reducible assumption
    | with_reducible apply sendSelv_fr)

theorem writeBurst_fr (hF : Blown F) {s : State} (h : Fr q MemOk F s) (x0 : _) (x1 : _) (x2 : _) (x3 : _) (x4 : _) (x5 : _) (x6 : _) : Fr q MemOk F (writeBurst x0 x1 x2 x3 x4 x5 x6 s) := by
  induction x4 generalizing s x5 x6 with
  | nil =>
    unfold writeBurst
    repeat' (first
      | with_reducible assumption
      | with_reducible apply regAnswer_fr)
  | cons x l ih =>
    unfold writeBurst
    dsimp only
    repeat' (first
      | with_reducible assumption
      | with_reducible apply ih
      | with_reducible apply regAnswer_fr
      | with_reducible apply countRefused_fr
      | with_reducible apply noteRefusedReset_fr
      | with_reducible apply bumpF_fr
      | with_reducible apply writeReg_fr hF
      | with_reducible apply Fr.ite)

theorem execRegRead_fr {s t : State} (h : Fr q M F s) {x0 : _} {x1 : _} {x2 : _} {x3 : _} {x4 : _} (e : execRegRead x0 x1 x2 x3 x4 s = .next t) : Fr q M F t := by
  unfold execRegRead at e
  injection e with e
  subst e
  dsimp only
  repeat' (first
    | with_reducible assumption
    | with_reducible apply whenManaged_fr
    | with_reducible apply onFrame_fr
    | with_reducible apply regAnswer_fr
    | with_reducible apply readBurst_fr
    | with_reducible apply Fr.ite
    | intro _ _)

theorem execRegWrite_fr (hF : Blown F) {s t : State} (h : Fr q MemOk F s) {x0 : _} {x1 : _} {x2 : _} {x3 : _} {x4 : _} {x5 : _} {x6 : _} (e : execRegWrite x0 x1 x2 x3 x4 x5 x6 s = .next t) : Fr q MemOk F t := by
  unfold execRegWrite at e
  injection e with e
  subst e
  dsimp only
  repeat' (first
    | with_reducible assumption
    | with_reducible apply whenManaged_fr
    | with_reducible apply onFrame_fr
    | with_reducible apply regAnswer_fr
    | with_reducible apply writeBurst_fr hF
    | with_reducible apply Fr.ite
    | intro _ _)

end Sys2Proof.Machine
end

