-- ==== Sys2Proof/Laws/Tap.lean ====
section
/-!
SUPPORT. What every operation of Machine/Tap.lean leaves alone: each keeps the frame of Laws/Frame.lean.
-/

namespace Sys2Proof.Machine

variable {q : List Instr} {M : Store Byte → Prop} {F : Store Nat → Prop}

theorem tapLoad_fr {s : State} (h : Fr q M F s) (x1 : _) (x2 : _) : Fr q M F (tapLoad s x1 x2) := by
  unfold tapLoad
  dsimp only
  repeat' (first
    | with_reducible assumption
    | with_reducible apply setB_fr
    | dsimp only
    | with_reducible apply Fr.upd)

theorem execIdcode_fr {s t : State} (h : Fr q M F s) (e : execIdcode s = .next t) : Fr q M F t := by
  unfold execIdcode at e
  injection e with e
  subst e
  repeat' (first
    | with_reducible assumption
    | with_reducible apply tapLoad_fr
    | with_reducible apply Fr.ite)

theorem execBypass_fr {s t : State} (h : Fr q M F s) {x0 : _} (e : execBypass x0 s = .next t) : Fr q M F t := by
  unfold execBypass at e
  injection e with e
  subst e
  repeat' (first
    | with_reducible assumption
    | with_reducible apply tapLoad_fr
    | with_reducible apply Fr.ite)

theorem doScan_fr {s : State} (h : Fr q M F s) : Fr q M F (doScan s) := by
  unfold doScan
  dsimp only
  repeat' (first
    | with_reducible assumption
    | with_reducible apply freeNat_fr
    | with_reducible apply setB_fr
    | with_reducible apply tapLoad_fr
    | with_reducible apply Fr.ite)

theorem execScan_fr {s t : State} (h : Fr q M F s) (e : execScan s = .next t) : Fr q M F t := by
  unfold execScan at e
  injection e with e
  subst e
  repeat' (first
    | with_reducible assumption
    | with_reducible apply doScan_fr)

theorem tapAnswer_fr {s : State} (h : Fr q M F s) (x1 : _) (x2 : _) (x3 : _) (x4 : _) : Fr q M F (tapAnswer s x1 x2 x3 x4) := by
  unfold tapAnswer
  dsimp only
  repeat' (first
    | with_reducible assumption
    | dsimp only
    | with_reducible apply Fr.upd)

theorem tapRead_fr {s : State} (h : Fr q M F s) (x1 : _) (x2 : _) (x3 : _) (x4 : _) : Fr q M F (tapRead s x1 x2 x3 x4) := by
  unfold tapRead
  dsimp only
  repeat' (first
    | with_reducible assumption
    | with_reducible apply tapAnswer_fr
    | with_reducible apply readBurst_fr
    | with_reducible apply addF_fr
    | with_reducible apply Fr.ite)

theorem tapWrites_fr (hF : Blown F) {s : State} (h : Fr q MemOk F s) (x0 : _) (x1 : _) (x2 : _) (x3 : _) (x4 : _) : Fr q MemOk F (tapWrites x0 x1 x2 x3 x4 s) := by
  induction x2 generalizing s x3 x4 with
  | nil =>
    unfold tapWrites
    repeat' (first
      | with_reducible assumption
      | with_reducible apply tapAnswer_fr)
  | cons x l ih =>
    unfold tapWrites
    dsimp only
    repeat' (first
      | with_reducible assumption
      | with_reducible apply ih
      | with_reducible apply tapAnswer_fr
      | with_reducible apply noteRefusedReset_fr
      | with_reducible apply writeReg_fr hF
      | with_reducible apply bumpF_fr
      | with_reducible apply Fr.ite)

theorem tapWrite_fr (hF : Blown F) {s : State} (h : Fr q MemOk F s) (x1 : _) (x2 : _) (x3 : _) (x4 : _) : Fr q MemOk F (tapWrite s x1 x2 x3 x4) := by
  unfold tapWrite
  dsimp only
  repeat' (first
    | with_reducible assumption
    | with_reducible apply tapWrites_fr hF
    | with_reducible apply freeNat_fr
    | with_reducible apply tapAnswer_fr
    | with_reducible apply Fr.ite)

theorem tapMessage_fr (hF : Blown F) {s : State} (h : Fr q MemOk F s) (x1 : _) : Fr q MemOk F (tapMessage s x1) := by
  unfold tapMessage
  dsimp only
  repeat' (first
    | with_reducible assumption
    | with_reducible apply tapAnswer_fr
    | with_reducible apply tapRead_fr
    | with_reducible apply tapWrite_fr hF
    | with_reducible apply Fr.ite)

theorem doMsg_fr (hF : Blown F) {s : State} (h : Fr q MemOk F s) (x1 : _) (x2 : _) : Fr q MemOk F (doMsg s x1 x2) := by
  unfold doMsg
  dsimp only
  repeat' (first
    | with_reducible assumption
    | with_reducible apply tapLoad_fr
    | with_reducible apply tapMessage_fr hF
    | with_reducible apply Fr.ite
    | split
    | dsimp only
    | with_reducible apply Fr.upd)

theorem execMsg_fr (hF : Blown F) {s t : State} (h : Fr q MemOk F s) {x0 : _} {x1 : _} (e : execMsg x0 x1 s = .next t) : Fr q MemOk F t := by
  unfold execMsg at e
  injection e with e
  subst e
  repeat' (first
    | with_reducible assumption
    | with_reducible apply doMsg_fr hF)

end Sys2Proof.Machine
end

