-- ==== Sys2Proof/Laws/Dispatch.lean ====
section
/-!
SUPPORT. The frame over every command: what `exec` leaves alone whatever the command is, and what the commands that store
nothing in memory or blow no fuse leave alone besides.
-/

namespace Sys2Proof.Machine

variable {q : List Instr} {M : Store Byte → Prop} {F : Store Nat → Prop}

/-- Every command keeps the frame, with memory in its canonical form. -/
theorem exec_fr (hF : Blown F) {c : Instr} {s t : State} (h : Fr q MemOk F s) (e : exec c s = .next t) : Fr q MemOk F t := by
  cases c
  case timeSync => exact execTimeSync_fr h e
  case delayRsp => exact execDelayRsp_fr h e
  case missedExchange => exact execMissedExchange_fr h e
  case holdoverLimit => exact execHoldoverLimit_fr h e
  case ftLoad => exact execFtLoad_fr h e
  case loadTakesEffect => exact execLoadTakesEffect_fr h e
  case gingFlip => exact execGingFlip_fr h e
  case gingCopy => exact execGingCopy_fr h e
  case gingFlipFrame => exact execGingFlipFrame_fr h e
  case gingEntData => exact execGingEntData_fr h e
  case detModeWrite => exact execDetModeWrite_fr h e
  case detModeTakesEffect => exact execDetModeTakesEffect_fr h e
  case drunOpen => exact execDrunOpen_fr h e
  case runColdStart => exact execRunColdStart_fr h e
  case runFrame0 => exact execRunFrame0_fr h e
  case drunClose => exact execDrunClose_fr h e
  case dxUnaligned => exact execDxUnaligned_fr h e
  case heartbeat => exact execHeartbeat_fr h e
  case mirrorFailoverDone => exact execMirrorFailoverDone_fr h e
  case tclkLossOfLock => exact execTclkLossOfLock_fr h e
  case tblCommit => exact execTblCommit_fr h e
  case tblCommitDone => exact execTblCommitDone_fr h e
  case tblRead => exact execTblRead_fr h e
  case xltInvalidate => exact execXltInvalidate_fr h e
  case invDone => exact execInvDone_fr h e
  case pageMove => exact execPageMove_fr h e
  case moveDone => exact execMoveDone_fr h e
  case xltDigest => exact execXltDigest_fr h e
  case xltDigestDone => exact execXltDigestDone_fr h e
  case pxcWaysWrite => exact execPxcWaysWrite_fr h e
  case cntClear => exact execCntClear_fr h e
  case cntClearAll => exact execCntClearAll_fr h e
  case cntData => exact execCntData_fr h e
  case hotPop => exact execHotPop_fr h e
  case rdShared => exact execRdShared_fr h e
  case rdOwn => exact execRdOwn_fr h e
  case upgrade => exact execUpgrade_fr h e
  case rdOnce => exact execRdOnce_fr h e
  case wrFull => exact execWrFull_fr h e
  case wrPart => exact execWrPart_fr h e
  case wb => exact execWb_fr h e
  case evict => exact execEvict_fr h e
  case atomic => exact execAtomic_fr h e
  case publish => exact execPublish_fr h e
  case rdVersion => exact execRdVersion_fr h e
  case invAck => exact execInvAck_fr h e
  case snpAck => exact execSnpAck_fr h e
  case snpData => exact execSnpData_fr h e
  case snpFwded => exact execSnpFwded_fr h e
  case wbPending => exact execWbPending_fr h e
  case compAck => exact execCompAck_fr h e
  case pushAck => exact execPushAck_fr h e
  case pushDecline => exact execPushDecline_fr h e
  case leaseRenew => exact execLeaseRenew_fr h e
  case unknownOpcode => exact execUnknownOpcode_fr h e
  case partnerLeaseCheck => exact execPartnerLeaseCheck_fr h e
  case fence => exact execFence_fr h e
  case release => exact execRelease_fr h e
  case sweepDone => exact execSweepDone_fr h e
  case unfence => exact execUnfence_fr h e
  case fencePop => exact execFencePop_fr h e
  case rgnCtlWrite => exact execRgnCtlWrite_fr h e
  case rgnVerWrite => exact execRgnVerWrite_fr h e
  case cmdWriteDesc => exact execCmdWriteDesc_fr h e
  case cmdRead => exact execCmdRead_fr h e
  case cmdWriteFlush => exact execCmdWriteFlush_fr h e
  case seqCmdFlush => exact execSeqCmdFlush_fr h e
  case flushTakesEffect => exact execFlushTakesEffect_fr h e
  case descRead => exact execDescRead_fr h e
  case orderRelease => exact execOrderRelease_fr h e
  case patternFetchDone => exact execPatternFetchDone_fr h e
  case segment => exact execSegment_fr h e
  case tileEmit => exact execTileEmit_fr h e
  case indexArrival => exact execIndexArrival_fr h e
  case tierHint => exact execTierHint_fr h e
  case tileDispatch => exact execTileDispatch_fr h e
  case tileExecute => exact execTileExecute_fr h e
  case tileReexecute => exact execTileReexecute_fr h e
  case detLimit => exact execDetLimit_fr h e
  case tileDone => exact execTileDone_fr h e
  case segmentReport => exact execSegmentReport_fr h e
  case rootCompute => exact execRootCompute_fr h e
  case collPut => exact execCollPut_fr h e
  case selftestRotationStep => exact execSelftestRotationStep_fr h e
  case selftestDone => exact execSelftestDone_fr h e
  case chkInject => exact execChkInject_fr h e
  case dramRequest => exact execDramRequest_fr h e
  case ageExpired => exact execAgeExpired_fr h e
  case dataWindow => exact execDataWindow_fr h e
  case dramReadData => exact execDramReadData_fr h e
  case correctedWriteback => exact execCorrectedWriteback_fr h e
  case refreshSlot => exact execRefreshSlot_fr h e
  case maintSlot => exact execMaintSlot_fr h e
  case remapRequest => exact execRemapRequest_fr h e
  case pinErased => exact execPinErased_fr h e
  case bistStart => exact execBistStart_fr h e
  case bistDone => exact execBistDone_fr h e
  case testWrite => exact execTestWrite_fr h e
  case testRead => exact execTestRead_fr h e
  case testReadRaw => exact execTestReadRaw_fr h e
  case tierAccess => exact execTierAccess_fr h e
  case tierWayWait => exact execTierWayWait_fr h e
  case evictRecallDone => exact execEvictRecallDone_fr h e
  case fillComplete => exact execFillComplete_fr h e
  case writebackComplete => exact execWritebackComplete_fr h e
  case nvmeTimeout => exact execNvmeTimeout_fr h e
  case nvmeCommandFail => exact execNvmeCommandFail_fr h e
  case rootLinkDown => exact execRootLinkDown_fr h e
  case rebuildGo => exact execRebuildGo_fr h e
  case rebuildDone => exact execRebuildDone_fr h e
  case tierFlush => exact execTierFlush_fr h e
  case tierFlushDone => exact execTierFlushDone_fr h e
  case ptCacheWrite => exact execPtCacheWrite_fr h e
  case driveAssign => exact execDriveAssign_fr h e
  case portReset => exact execPortReset_fr h e
  case driveReady => exact execDriveReady_fr h e
  case driveRequest => exact execDriveRequest_fr h e
  case portTrain => exact execPortTrain_fr h e
  case portRetrain => exact execPortRetrain_fr h e
  case detectSignal => exact execDetectSignal_fr h e
  case tseq => exact execTseq_fr h e
  case ts1 => exact execTs1_fr h e
  case ts2 => exact execTs2_fr h e
  case ts3 => exact execTs3_fr h e
  case trainStateLimit => exact execTrainStateLimit_fr h e
  case failedHoldEnd => exact execFailedHoldEnd_fr h e
  case laneLossOfLock => exact execLaneLossOfLock_fr h e
  case laneSerLimit => exact execLaneSerLimit_fr h e
  case fecUncorrectableLimit => exact execFecUncorrectableLimit_fr h e
  case lwcRequest => exact execLwcRequest_fr h e
  case lwcReq => exact execLwcReq_fr h e
  case lwcGo => exact execLwcGo_fr h e
  case flit => exact execFlit_fr h e
  case replayTimer => exact execReplayTimer_fr h e
  case replayLimit => exact execReplayLimit_fr h e
  case tagFailLimit => exact execTagFailLimit_fr h e
  case creditCheck => exact execCreditCheck_fr h e
  case creditStall => exact execCreditStall_fr h e
  case cchkPeriod => exact execCchkPeriod_fr h e
  case packetArrival => exact execPacketArrival_fr h e
  case processingSlot => exact execProcessingSlot_fr h e
  case routeReturn => exact execRouteReturn_fr h e
  case portOutOfService => exact execPortOutOfService_fr h e
  case routeFlip => exact execRouteFlip_fr h e
  case routeCopy => exact execRouteCopy_fr h e
  case routeFlipDrained => exact execRouteFlipDrained_fr h e
  case drainTimeout => exact execDrainTimeout_fr h e
  case oldBankEnd => exact execOldBankEnd_fr h e
  case routeTblData => exact execRouteTblData_fr h e
  case creditRelease => exact execCreditRelease_fr h e
  case e2eCredit => exact execE2eCredit_fr h e
  case e2eLimitWrite => exact execE2eLimitWrite_fr h e
  case mcGroupWrite => exact execMcGroupWrite_fr h e
  case egressLaunch => exact execEgressLaunch_fr h e
  case trngFail => exact execTrngFail_fr h e
  case fwData => exact execFwData_fr h e
  case fwVerify => exact execFwVerify_fr h e
  case fwStaged => exact execFwStaged_fr h e
  case fwDiscard => exact execFwDiscard_fr h e
  case svnCommit => exact execSvnCommit_fr hF h e
  case quote => exact execQuote_fr h e
  case akCertificate => exact execAkCertificate_fr h e
  case dikPublicKey => exact execDikPublicKey_fr h e
  case quoteDone => exact execQuoteDone_fr h e
  case qbufData => exact execQbufData_fr h e
  case releasePairExpiry => exact execReleasePairExpiry_fr h e
  case relData => exact execRelData_fr h e
  case keyRelease => exact execKeyRelease_fr h e
  case relDone => exact execRelDone_fr h e
  case kslotLoad => exact execKslotLoad_fr h e
  case kslotLock => exact execKslotLock_fr h e
  case kslotClear => exact execKslotClear_fr h e
  case kslotEvicted => exact execKslotEvicted_fr h e
  case imgBind => exact execImgBind_fr h e
  case imgDone => exact execImgDone_fr h e
  case imgUnbind => exact execImgUnbind_fr h e
  case quiesce => exact execQuiesce_fr h e
  case quiesced => exact execQuiesced_fr h e
  case resume => exact execResume_fr h e
  case cfgGo => exact execCfgGo_fr h e
  case pairCopyDone => exact execPairCopyDone_fr h e
  case bind => exact execBind_fr h e
  case unbind => exact execUnbind_fr h e
  case scrubGo => exact execScrubGo_fr h e
  case scrubSnoopTimeout => exact execScrubSnoopTimeout_fr h e
  case scrubDone => exact execScrubDone_fr h e
  case sanitizeDone => exact execSanitizeDone_fr h e
  case lcRma => exact execLcRma_fr hF h e
  case lcVoid => exact execLcVoid_fr hF h e
  case lcDone => exact execLcDone_fr h e
  case debugLevelWrite => exact execDebugLevelWrite_fr h e
  case debugLevelTakesEffect => exact execDebugLevelTakesEffect_fr h e
  case linkKeyRotation => exact execLinkKeyRotation_fr h e
  case offer => exact execOffer_fr h e
  case accept => exact execAccept_fr h e
  case confirm => exact execConfirm_fr h e
  case nonce => exact execNonce_fr h e
  case rotOffer => exact execRotOffer_fr h e
  case rotAccept => exact execRotAccept_fr h e
  case ready => exact execReady_fr h e
  case keyxTimeout => exact execKeyxTimeout_fr h e
  case frameCounterLimit => exact execFrameCounterLimit_fr h e
  case capLoopUpdate => exact execCapLoopUpdate_fr h e
  case fastLimit => exact execFastLimit_fr h e
  case droopStretch => exact execDroopStretch_fr h e
  case stretchEnd => exact execStretchEnd_fr h e
  case deferEnd => exact execDeferEnd_fr h e
  case monitorAlarm => exact execMonitorAlarm_fr h e
  case monitorStepUp => exact execMonitorStepUp_fr h e
  case fillerWindow => exact execFillerWindow_fr h e
  case telemetrySample => exact execTelemetrySample_fr h e
  case pwrRun => exact execPwrRun_fr h e
  case pwrIdle => exact execPwrIdle_fr h e
  case pwrHibernate => exact execPwrHibernate_fr h e
  case pwrOff => exact execPwrOff_fr h e
  case enClear => exact execEnClear_fr h e
  case vinApplied => exact execVinApplied_fr h e
  case vinGood => exact execVinGood_fr h e
  case resetNLow => exact execResetNLow_fr h e
  case internalResetRelease => exact execInternalResetRelease_fr h e
  case chipResetCold => exact execChipResetCold_fr h e
  case chipResetWarm => exact execChipResetWarm_fr h e
  case inputLow => exact execInputLow_fr h e
  case inputLowClear => exact execInputLowClear_fr h e
  case inputShutdown => exact execInputShutdown_fr h e
  case thermalTrip => exact execThermalTrip_fr h e
  case chipFatal => exact execChipFatal_fr h e
  case phaseLost => exact execPhaseLost_fr h e
  case railOutOfRegulation => exact execRailOutOfRegulation_fr h e
  case attach => exact execAttach_fr h e
  case detach => exact execDetach_fr h e
  case m0Identify => exact execM0Identify_fr h e
  case m1ClocksAndRails => exact execM1ClocksAndRails_fr h e
  case m2Time => exact execM2Time_fr h e
  case m3DieSelfTest => exact execM3DieSelfTest_fr h e
  case m4Reconcile => exact execM4Reconcile_fr h e
  case m5SecurityRoot => exact execM5SecurityRoot_fr h e
  case m6DramTraining => exact execM6DramTraining_fr h e
  case m7DramTest => exact execM7DramTest_fr h e
  case m8FabricPorts => exact execM8FabricPorts_fr h e
  case m9RootPorts => exact execM9RootPorts_fr h e
  case m10Admission => exact execM10Admission_fr h e
  case m11Service => exact execM11Service_fr h e
  case stepDone => exact execStepDone_fr h e
  case stepFail => exact execStepFail_fr h e
  case driveReadyTimeout => exact execDriveReadyTimeout_fr h e
  case hello => exact execHello_fr h e
  case selvLinkUp => exact execSelvLinkUp_fr h e
  case selvLinkDown => exact execSelvLinkDown_fr h e
  case renew => exact execRenew_fr h e
  case claim => exact execClaim_fr h e
  case handover => exact execHandover_fr h e
  case selvedgeLeaseCheck => exact execSelvedgeLeaseCheck_fr h e
  case dualWindowClose => exact execDualWindowClose_fr h e
  case regRead => exact execRegRead_fr h e
  case regWrite => exact execRegWrite_fr hF h e
  case registerWrite => exact execRegisterWrite_fr hF h e
  case pageEvtClear => exact execPageEvtClear_fr h e
  case pageEvtEnWrite => exact execPageEvtEnWrite_fr hF h e
  case msgHoldWrite => exact execMsgHoldWrite_fr hF h e
  case faultPop => exact execFaultPop_fr h e
  case clearLost => exact execClearLost_fr h e
  case idcode => exact execIdcode_fr h e
  case msg => exact execMsg_fr hF h e
  case scan => exact execScan_fr h e
  case bypass => exact execBypass_fr h e
  case fieldProgram => exact execFieldProgram_fr hF h e

/-- A command that stores nothing in memory keeps the frame for every predicate on memory. -/
theorem exec_mem_fr (hF : Blown F) {c : Instr} {s t : State} (hc : storesMemory c = false) (h : Fr q M F s)
    (e : exec c s = .next t) : Fr q M F t := by
  cases c
  case timeSync => exact execTimeSync_fr h e
  case delayRsp => exact execDelayRsp_fr h e
  case missedExchange => exact execMissedExchange_fr h e
  case holdoverLimit => exact execHoldoverLimit_fr h e
  case ftLoad => exact execFtLoad_fr h e
  case loadTakesEffect => exact execLoadTakesEffect_fr h e
  case gingFlip => exact execGingFlip_fr h e
  case gingCopy => exact execGingCopy_fr h e
  case gingFlipFrame => exact execGingFlipFrame_fr h e
  case gingEntData => exact execGingEntData_fr h e
  case detModeWrite => exact execDetModeWrite_fr h e
  case detModeTakesEffect => exact execDetModeTakesEffect_fr h e
  case drunOpen => exact execDrunOpen_fr h e
  case runColdStart => cases hc
  case runFrame0 => exact execRunFrame0_fr h e
  case drunClose => exact execDrunClose_fr h e
  case dxUnaligned => exact execDxUnaligned_fr h e
  case heartbeat => exact execHeartbeat_fr h e
  case mirrorFailoverDone => exact execMirrorFailoverDone_fr h e
  case tclkLossOfLock => exact execTclkLossOfLock_fr h e
  case tblCommit => cases hc
  case tblCommitDone => exact execTblCommitDone_fr h e
  case tblRead => exact execTblRead_fr h e
  case xltInvalidate => cases hc
  case invDone => cases hc
  case pageMove => cases hc
  case moveDone => cases hc
  case xltDigest => exact execXltDigest_fr h e
  case xltDigestDone => exact execXltDigestDone_fr h e
  case pxcWaysWrite => exact execPxcWaysWrite_fr h e
  case cntClear => exact execCntClear_fr h e
  case cntClearAll => exact execCntClearAll_fr h e
  case cntData => exact execCntData_fr h e
  case hotPop => exact execHotPop_fr h e
  case rdShared => cases hc
  case rdOwn => cases hc
  case upgrade => cases hc
  case rdOnce => cases hc
  case wrFull => cases hc
  case wrPart => cases hc
  case wb => cases hc
  case evict => cases hc
  case atomic => cases hc
  case publish => exact execPublish_fr h e
  case rdVersion => exact execRdVersion_fr h e
  case invAck => cases hc
  case snpAck => cases hc
  case snpData => cases hc
  case snpFwded => cases hc
  case wbPending => cases hc
  case compAck => cases hc
  case pushAck => cases hc
  case pushDecline => cases hc
  case leaseRenew => exact execLeaseRenew_fr h e
  case unknownOpcode => exact execUnknownOpcode_fr h e
  case partnerLeaseCheck => cases hc
  case fence => cases hc
  case release => exact execRelease_fr h e
  case sweepDone => cases hc
  case unfence => exact execUnfence_fr h e
  case fencePop => exact execFencePop_fr h e
  case rgnCtlWrite => exact execRgnCtlWrite_fr h e
  case rgnVerWrite => exact execRgnVerWrite_fr h e
  case cmdWriteDesc => exact execCmdWriteDesc_fr h e
  case cmdRead => exact execCmdRead_fr h e
  case cmdWriteFlush => exact execCmdWriteFlush_fr h e
  case seqCmdFlush => exact execSeqCmdFlush_fr h e
  case flushTakesEffect => cases hc
  case descRead => cases hc
  case orderRelease => cases hc
  case patternFetchDone => cases hc
  case segment => exact execSegment_fr h e
  case tileEmit => cases hc
  case indexArrival => cases hc
  case tierHint => cases hc
  case tileDispatch => cases hc
  case tileExecute => cases hc
  case tileReexecute => cases hc
  case detLimit => cases hc
  case tileDone => cases hc
  case segmentReport => cases hc
  case rootCompute => cases hc
  case collPut => exact execCollPut_fr h e
  case selftestRotationStep => exact execSelftestRotationStep_fr h e
  case selftestDone => exact execSelftestDone_fr h e
  case chkInject => exact execChkInject_fr h e
  case dramRequest => exact execDramRequest_fr h e
  case ageExpired => exact execAgeExpired_fr h e
  case dataWindow => exact execDataWindow_fr h e
  case dramReadData => cases hc
  case correctedWriteback => cases hc
  case refreshSlot => exact execRefreshSlot_fr h e
  case maintSlot => cases hc
  case remapRequest => exact execRemapRequest_fr h e
  case pinErased => exact execPinErased_fr h e
  case bistStart => exact execBistStart_fr h e
  case bistDone => cases hc
  case testWrite => cases hc
  case testRead => exact execTestRead_fr h e
  case testReadRaw => exact execTestReadRaw_fr h e
  case tierAccess => cases hc
  case tierWayWait => cases hc
  case evictRecallDone => cases hc
  case fillComplete => cases hc
  case writebackComplete => cases hc
  case nvmeTimeout => cases hc
  case nvmeCommandFail => cases hc
  case rootLinkDown => cases hc
  case rebuildGo => exact execRebuildGo_fr h e
  case rebuildDone => exact execRebuildDone_fr h e
  case tierFlush => cases hc
  case tierFlushDone => cases hc
  case ptCacheWrite => exact execPtCacheWrite_fr h e
  case driveAssign => exact execDriveAssign_fr h e
  case portReset => exact execPortReset_fr h e
  case driveReady => exact execDriveReady_fr h e
  case driveRequest => exact execDriveRequest_fr h e
  case portTrain => exact execPortTrain_fr h e
  case portRetrain => exact execPortRetrain_fr h e
  case detectSignal => exact execDetectSignal_fr h e
  case tseq => exact execTseq_fr h e
  case ts1 => exact execTs1_fr h e
  case ts2 => exact execTs2_fr h e
  case ts3 => exact execTs3_fr h e
  case trainStateLimit => exact execTrainStateLimit_fr h e
  case failedHoldEnd => exact execFailedHoldEnd_fr h e
  case laneLossOfLock => exact execLaneLossOfLock_fr h e
  case laneSerLimit => exact execLaneSerLimit_fr h e
  case fecUncorrectableLimit => exact execFecUncorrectableLimit_fr h e
  case lwcRequest => exact execLwcRequest_fr h e
  case lwcReq => exact execLwcReq_fr h e
  case lwcGo => exact execLwcGo_fr h e
  case flit => exact execFlit_fr h e
  case replayTimer => exact execReplayTimer_fr h e
  case replayLimit => exact execReplayLimit_fr h e
  case tagFailLimit => exact execTagFailLimit_fr h e
  case creditCheck => exact execCreditCheck_fr h e
  case creditStall => exact execCreditStall_fr h e
  case cchkPeriod => exact execCchkPeriod_fr h e
  case packetArrival => exact execPacketArrival_fr h e
  case processingSlot => exact execProcessingSlot_fr h e
  case routeReturn => exact execRouteReturn_fr h e
  case portOutOfService => exact execPortOutOfService_fr h e
  case routeFlip => exact execRouteFlip_fr h e
  case routeCopy => exact execRouteCopy_fr h e
  case routeFlipDrained => exact execRouteFlipDrained_fr h e
  case drainTimeout => exact execDrainTimeout_fr h e
  case oldBankEnd => exact execOldBankEnd_fr h e
  case routeTblData => exact execRouteTblData_fr h e
  case creditRelease => exact execCreditRelease_fr h e
  case e2eCredit => exact execE2eCredit_fr h e
  case e2eLimitWrite => exact execE2eLimitWrite_fr h e
  case mcGroupWrite => exact execMcGroupWrite_fr h e
  case egressLaunch => exact execEgressLaunch_fr h e
  case trngFail => exact execTrngFail_fr h e
  case fwData => exact execFwData_fr h e
  case fwVerify => exact execFwVerify_fr h e
  case fwStaged => exact execFwStaged_fr h e
  case fwDiscard => exact execFwDiscard_fr h e
  case svnCommit => exact execSvnCommit_fr hF h e
  case quote => exact execQuote_fr h e
  case akCertificate => exact execAkCertificate_fr h e
  case dikPublicKey => exact execDikPublicKey_fr h e
  case quoteDone => exact execQuoteDone_fr h e
  case qbufData => exact execQbufData_fr h e
  case releasePairExpiry => exact execReleasePairExpiry_fr h e
  case relData => exact execRelData_fr h e
  case keyRelease => exact execKeyRelease_fr h e
  case relDone => exact execRelDone_fr h e
  case kslotLoad => cases hc
  case kslotLock => cases hc
  case kslotClear => exact execKslotClear_fr h e
  case kslotEvicted => exact execKslotEvicted_fr h e
  case imgBind => cases hc
  case imgDone => exact execImgDone_fr h e
  case imgUnbind => exact execImgUnbind_fr h e
  case quiesce => exact execQuiesce_fr h e
  case quiesced => exact execQuiesced_fr h e
  case resume => exact execResume_fr h e
  case cfgGo => cases hc
  case pairCopyDone => cases hc
  case bind => exact execBind_fr h e
  case unbind => exact execUnbind_fr h e
  case scrubGo => cases hc
  case scrubSnoopTimeout => cases hc
  case scrubDone => cases hc
  case sanitizeDone => exact execSanitizeDone_fr h e
  case lcRma => exact execLcRma_fr hF h e
  case lcVoid => exact execLcVoid_fr hF h e
  case lcDone => exact execLcDone_fr h e
  case debugLevelWrite => exact execDebugLevelWrite_fr h e
  case debugLevelTakesEffect => exact execDebugLevelTakesEffect_fr h e
  case linkKeyRotation => exact execLinkKeyRotation_fr h e
  case offer => exact execOffer_fr h e
  case accept => exact execAccept_fr h e
  case confirm => exact execConfirm_fr h e
  case nonce => exact execNonce_fr h e
  case rotOffer => exact execRotOffer_fr h e
  case rotAccept => exact execRotAccept_fr h e
  case ready => exact execReady_fr h e
  case keyxTimeout => exact execKeyxTimeout_fr h e
  case frameCounterLimit => exact execFrameCounterLimit_fr h e
  case capLoopUpdate => exact execCapLoopUpdate_fr h e
  case fastLimit => exact execFastLimit_fr h e
  case droopStretch => exact execDroopStretch_fr h e
  case stretchEnd => exact execStretchEnd_fr h e
  case deferEnd => exact execDeferEnd_fr h e
  case monitorAlarm => exact execMonitorAlarm_fr h e
  case monitorStepUp => exact execMonitorStepUp_fr h e
  case fillerWindow => exact execFillerWindow_fr h e
  case telemetrySample => cases hc
  case pwrRun => exact execPwrRun_fr h e
  case pwrIdle => exact execPwrIdle_fr h e
  case pwrHibernate => exact execPwrHibernate_fr h e
  case pwrOff => cases hc
  case enClear => exact execEnClear_fr h e
  case vinApplied => exact execVinApplied_fr h e
  case vinGood => exact execVinGood_fr h e
  case resetNLow => exact execResetNLow_fr h e
  case internalResetRelease => cases hc
  case chipResetCold => cases hc
  case chipResetWarm => cases hc
  case inputLow => exact execInputLow_fr h e
  case inputLowClear => exact execInputLowClear_fr h e
  case inputShutdown => cases hc
  case thermalTrip => cases hc
  case chipFatal => exact execChipFatal_fr h e
  case phaseLost => exact execPhaseLost_fr h e
  case railOutOfRegulation => exact execRailOutOfRegulation_fr h e
  case attach => exact execAttach_fr h e
  case detach => exact execDetach_fr h e
  case m0Identify => exact execM0Identify_fr h e
  case m1ClocksAndRails => exact execM1ClocksAndRails_fr h e
  case m2Time => exact execM2Time_fr h e
  case m3DieSelfTest => exact execM3DieSelfTest_fr h e
  case m4Reconcile => exact execM4Reconcile_fr h e
  case m5SecurityRoot => exact execM5SecurityRoot_fr h e
  case m6DramTraining => exact execM6DramTraining_fr h e
  case m7DramTest => cases hc
  case m8FabricPorts => exact execM8FabricPorts_fr h e
  case m9RootPorts => exact execM9RootPorts_fr h e
  case m10Admission => exact execM10Admission_fr h e
  case m11Service => exact execM11Service_fr h e
  case stepDone => cases hc
  case stepFail => exact execStepFail_fr h e
  case driveReadyTimeout => exact execDriveReadyTimeout_fr h e
  case hello => exact execHello_fr h e
  case selvLinkUp => exact execSelvLinkUp_fr h e
  case selvLinkDown => exact execSelvLinkDown_fr h e
  case renew => exact execRenew_fr h e
  case claim => exact execClaim_fr h e
  case handover => exact execHandover_fr h e
  case selvedgeLeaseCheck => exact execSelvedgeLeaseCheck_fr h e
  case dualWindowClose => exact execDualWindowClose_fr h e
  case regRead => exact execRegRead_fr h e
  case regWrite => cases hc
  case registerWrite => cases hc
  case pageEvtClear => exact execPageEvtClear_fr h e
  case pageEvtEnWrite => cases hc
  case msgHoldWrite => cases hc
  case faultPop => exact execFaultPop_fr h e
  case clearLost => exact execClearLost_fr h e
  case idcode => exact execIdcode_fr h e
  case msg => cases hc
  case scan => exact execScan_fr h e
  case bypass => exact execBypass_fr h e
  case fieldProgram => exact execFieldProgram_fr hF h e

/-- A command that blows no fuse keeps the frame for every predicate on the fuses. -/
theorem exec_fuse_fr {c : Instr} {s t : State} (hc : blowsFuse c = false) (h : Fr q MemOk F s)
    (e : exec c s = .next t) : Fr q MemOk F t := by
  cases c
  case timeSync => exact execTimeSync_fr h e
  case delayRsp => exact execDelayRsp_fr h e
  case missedExchange => exact execMissedExchange_fr h e
  case holdoverLimit => exact execHoldoverLimit_fr h e
  case ftLoad => exact execFtLoad_fr h e
  case loadTakesEffect => exact execLoadTakesEffect_fr h e
  case gingFlip => exact execGingFlip_fr h e
  case gingCopy => exact execGingCopy_fr h e
  case gingFlipFrame => exact execGingFlipFrame_fr h e
  case gingEntData => exact execGingEntData_fr h e
  case detModeWrite => exact execDetModeWrite_fr h e
  case detModeTakesEffect => exact execDetModeTakesEffect_fr h e
  case drunOpen => exact execDrunOpen_fr h e
  case runColdStart => exact execRunColdStart_fr h e
  case runFrame0 => exact execRunFrame0_fr h e
  case drunClose => exact execDrunClose_fr h e
  case dxUnaligned => exact execDxUnaligned_fr h e
  case heartbeat => exact execHeartbeat_fr h e
  case mirrorFailoverDone => exact execMirrorFailoverDone_fr h e
  case tclkLossOfLock => exact execTclkLossOfLock_fr h e
  case tblCommit => exact execTblCommit_fr h e
  case tblCommitDone => exact execTblCommitDone_fr h e
  case tblRead => exact execTblRead_fr h e
  case xltInvalidate => exact execXltInvalidate_fr h e
  case invDone => exact execInvDone_fr h e
  case pageMove => exact execPageMove_fr h e
  case moveDone => exact execMoveDone_fr h e
  case xltDigest => exact execXltDigest_fr h e
  case xltDigestDone => exact execXltDigestDone_fr h e
  case pxcWaysWrite => exact execPxcWaysWrite_fr h e
  case cntClear => exact execCntClear_fr h e
  case cntClearAll => exact execCntClearAll_fr h e
  case cntData => exact execCntData_fr h e
  case hotPop => exact execHotPop_fr h e
  case rdShared => exact execRdShared_fr h e
  case rdOwn => exact execRdOwn_fr h e
  case upgrade => exact execUpgrade_fr h e
  case rdOnce => exact execRdOnce_fr h e
  case wrFull => exact execWrFull_fr h e
  case wrPart => exact execWrPart_fr h e
  case wb => exact execWb_fr h e
  case evict => exact execEvict_fr h e
  case atomic => exact execAtomic_fr h e
  case publish => exact execPublish_fr h e
  case rdVersion => exact execRdVersion_fr h e
  case invAck => exact execInvAck_fr h e
  case snpAck => exact execSnpAck_fr h e
  case snpData => exact execSnpData_fr h e
  case snpFwded => exact execSnpFwded_fr h e
  case wbPending => exact execWbPending_fr h e
  case compAck => exact execCompAck_fr h e
  case pushAck => exact execPushAck_fr h e
  case pushDecline => exact execPushDecline_fr h e
  case leaseRenew => exact execLeaseRenew_fr h e
  case unknownOpcode => exact execUnknownOpcode_fr h e
  case partnerLeaseCheck => exact execPartnerLeaseCheck_fr h e
  case fence => exact execFence_fr h e
  case release => exact execRelease_fr h e
  case sweepDone => exact execSweepDone_fr h e
  case unfence => exact execUnfence_fr h e
  case fencePop => exact execFencePop_fr h e
  case rgnCtlWrite => exact execRgnCtlWrite_fr h e
  case rgnVerWrite => exact execRgnVerWrite_fr h e
  case cmdWriteDesc => exact execCmdWriteDesc_fr h e
  case cmdRead => exact execCmdRead_fr h e
  case cmdWriteFlush => exact execCmdWriteFlush_fr h e
  case seqCmdFlush => exact execSeqCmdFlush_fr h e
  case flushTakesEffect => exact execFlushTakesEffect_fr h e
  case descRead => exact execDescRead_fr h e
  case orderRelease => exact execOrderRelease_fr h e
  case patternFetchDone => exact execPatternFetchDone_fr h e
  case segment => exact execSegment_fr h e
  case tileEmit => exact execTileEmit_fr h e
  case indexArrival => exact execIndexArrival_fr h e
  case tierHint => exact execTierHint_fr h e
  case tileDispatch => exact execTileDispatch_fr h e
  case tileExecute => exact execTileExecute_fr h e
  case tileReexecute => exact execTileReexecute_fr h e
  case detLimit => exact execDetLimit_fr h e
  case tileDone => exact execTileDone_fr h e
  case segmentReport => exact execSegmentReport_fr h e
  case rootCompute => exact execRootCompute_fr h e
  case collPut => exact execCollPut_fr h e
  case selftestRotationStep => exact execSelftestRotationStep_fr h e
  case selftestDone => exact execSelftestDone_fr h e
  case chkInject => exact execChkInject_fr h e
  case dramRequest => exact execDramRequest_fr h e
  case ageExpired => exact execAgeExpired_fr h e
  case dataWindow => exact execDataWindow_fr h e
  case dramReadData => exact execDramReadData_fr h e
  case correctedWriteback => exact execCorrectedWriteback_fr h e
  case refreshSlot => exact execRefreshSlot_fr h e
  case maintSlot => exact execMaintSlot_fr h e
  case remapRequest => exact execRemapRequest_fr h e
  case pinErased => exact execPinErased_fr h e
  case bistStart => exact execBistStart_fr h e
  case bistDone => exact execBistDone_fr h e
  case testWrite => exact execTestWrite_fr h e
  case testRead => exact execTestRead_fr h e
  case testReadRaw => exact execTestReadRaw_fr h e
  case tierAccess => exact execTierAccess_fr h e
  case tierWayWait => exact execTierWayWait_fr h e
  case evictRecallDone => exact execEvictRecallDone_fr h e
  case fillComplete => exact execFillComplete_fr h e
  case writebackComplete => exact execWritebackComplete_fr h e
  case nvmeTimeout => exact execNvmeTimeout_fr h e
  case nvmeCommandFail => exact execNvmeCommandFail_fr h e
  case rootLinkDown => exact execRootLinkDown_fr h e
  case rebuildGo => exact execRebuildGo_fr h e
  case rebuildDone => exact execRebuildDone_fr h e
  case tierFlush => exact execTierFlush_fr h e
  case tierFlushDone => exact execTierFlushDone_fr h e
  case ptCacheWrite => exact execPtCacheWrite_fr h e
  case driveAssign => exact execDriveAssign_fr h e
  case portReset => exact execPortReset_fr h e
  case driveReady => exact execDriveReady_fr h e
  case driveRequest => exact execDriveRequest_fr h e
  case portTrain => exact execPortTrain_fr h e
  case portRetrain => exact execPortRetrain_fr h e
  case detectSignal => exact execDetectSignal_fr h e
  case tseq => exact execTseq_fr h e
  case ts1 => exact execTs1_fr h e
  case ts2 => exact execTs2_fr h e
  case ts3 => exact execTs3_fr h e
  case trainStateLimit => exact execTrainStateLimit_fr h e
  case failedHoldEnd => exact execFailedHoldEnd_fr h e
  case laneLossOfLock => exact execLaneLossOfLock_fr h e
  case laneSerLimit => exact execLaneSerLimit_fr h e
  case fecUncorrectableLimit => exact execFecUncorrectableLimit_fr h e
  case lwcRequest => exact execLwcRequest_fr h e
  case lwcReq => exact execLwcReq_fr h e
  case lwcGo => exact execLwcGo_fr h e
  case flit => exact execFlit_fr h e
  case replayTimer => exact execReplayTimer_fr h e
  case replayLimit => exact execReplayLimit_fr h e
  case tagFailLimit => exact execTagFailLimit_fr h e
  case creditCheck => exact execCreditCheck_fr h e
  case creditStall => exact execCreditStall_fr h e
  case cchkPeriod => exact execCchkPeriod_fr h e
  case packetArrival => exact execPacketArrival_fr h e
  case processingSlot => exact execProcessingSlot_fr h e
  case routeReturn => exact execRouteReturn_fr h e
  case portOutOfService => exact execPortOutOfService_fr h e
  case routeFlip => exact execRouteFlip_fr h e
  case routeCopy => exact execRouteCopy_fr h e
  case routeFlipDrained => exact execRouteFlipDrained_fr h e
  case drainTimeout => exact execDrainTimeout_fr h e
  case oldBankEnd => exact execOldBankEnd_fr h e
  case routeTblData => exact execRouteTblData_fr h e
  case creditRelease => exact execCreditRelease_fr h e
  case e2eCredit => exact execE2eCredit_fr h e
  case e2eLimitWrite => exact execE2eLimitWrite_fr h e
  case mcGroupWrite => exact execMcGroupWrite_fr h e
  case egressLaunch => exact execEgressLaunch_fr h e
  case trngFail => exact execTrngFail_fr h e
  case fwData => exact execFwData_fr h e
  case fwVerify => exact execFwVerify_fr h e
  case fwStaged => exact execFwStaged_fr h e
  case fwDiscard => exact execFwDiscard_fr h e
  case svnCommit => cases hc
  case quote => exact execQuote_fr h e
  case akCertificate => exact execAkCertificate_fr h e
  case dikPublicKey => exact execDikPublicKey_fr h e
  case quoteDone => exact execQuoteDone_fr h e
  case qbufData => exact execQbufData_fr h e
  case releasePairExpiry => exact execReleasePairExpiry_fr h e
  case relData => exact execRelData_fr h e
  case keyRelease => exact execKeyRelease_fr h e
  case relDone => exact execRelDone_fr h e
  case kslotLoad => exact execKslotLoad_fr h e
  case kslotLock => exact execKslotLock_fr h e
  case kslotClear => exact execKslotClear_fr h e
  case kslotEvicted => exact execKslotEvicted_fr h e
  case imgBind => exact execImgBind_fr h e
  case imgDone => exact execImgDone_fr h e
  case imgUnbind => exact execImgUnbind_fr h e
  case quiesce => exact execQuiesce_fr h e
  case quiesced => exact execQuiesced_fr h e
  case resume => exact execResume_fr h e
  case cfgGo => exact execCfgGo_fr h e
  case pairCopyDone => exact execPairCopyDone_fr h e
  case bind => exact execBind_fr h e
  case unbind => exact execUnbind_fr h e
  case scrubGo => exact execScrubGo_fr h e
  case scrubSnoopTimeout => exact execScrubSnoopTimeout_fr h e
  case scrubDone => exact execScrubDone_fr h e
  case sanitizeDone => exact execSanitizeDone_fr h e
  case lcRma => cases hc
  case lcVoid => cases hc
  case lcDone => exact execLcDone_fr h e
  case debugLevelWrite => exact execDebugLevelWrite_fr h e
  case debugLevelTakesEffect => exact execDebugLevelTakesEffect_fr h e
  case linkKeyRotation => exact execLinkKeyRotation_fr h e
  case offer => exact execOffer_fr h e
  case accept => exact execAccept_fr h e
  case confirm => exact execConfirm_fr h e
  case nonce => exact execNonce_fr h e
  case rotOffer => exact execRotOffer_fr h e
  case rotAccept => exact execRotAccept_fr h e
  case ready => exact execReady_fr h e
  case keyxTimeout => exact execKeyxTimeout_fr h e
  case frameCounterLimit => exact execFrameCounterLimit_fr h e
  case capLoopUpdate => exact execCapLoopUpdate_fr h e
  case fastLimit => exact execFastLimit_fr h e
  case droopStretch => exact execDroopStretch_fr h e
  case stretchEnd => exact execStretchEnd_fr h e
  case deferEnd => exact execDeferEnd_fr h e
  case monitorAlarm => exact execMonitorAlarm_fr h e
  case monitorStepUp => exact execMonitorStepUp_fr h e
  case fillerWindow => exact execFillerWindow_fr h e
  case telemetrySample => exact execTelemetrySample_fr h e
  case pwrRun => exact execPwrRun_fr h e
  case pwrIdle => exact execPwrIdle_fr h e
  case pwrHibernate => exact execPwrHibernate_fr h e
  case pwrOff => exact execPwrOff_fr h e
  case enClear => exact execEnClear_fr h e
  case vinApplied => exact execVinApplied_fr h e
  case vinGood => exact execVinGood_fr h e
  case resetNLow => exact execResetNLow_fr h e
  case internalResetRelease => exact execInternalResetRelease_fr h e
  case chipResetCold => exact execChipResetCold_fr h e
  case chipResetWarm => exact execChipResetWarm_fr h e
  case inputLow => exact execInputLow_fr h e
  case inputLowClear => exact execInputLowClear_fr h e
  case inputShutdown => exact execInputShutdown_fr h e
  case thermalTrip => exact execThermalTrip_fr h e
  case chipFatal => exact execChipFatal_fr h e
  case phaseLost => exact execPhaseLost_fr h e
  case railOutOfRegulation => exact execRailOutOfRegulation_fr h e
  case attach => exact execAttach_fr h e
  case detach => exact execDetach_fr h e
  case m0Identify => exact execM0Identify_fr h e
  case m1ClocksAndRails => exact execM1ClocksAndRails_fr h e
  case m2Time => exact execM2Time_fr h e
  case m3DieSelfTest => exact execM3DieSelfTest_fr h e
  case m4Reconcile => exact execM4Reconcile_fr h e
  case m5SecurityRoot => exact execM5SecurityRoot_fr h e
  case m6DramTraining => exact execM6DramTraining_fr h e
  case m7DramTest => exact execM7DramTest_fr h e
  case m8FabricPorts => exact execM8FabricPorts_fr h e
  case m9RootPorts => exact execM9RootPorts_fr h e
  case m10Admission => exact execM10Admission_fr h e
  case m11Service => exact execM11Service_fr h e
  case stepDone => exact execStepDone_fr h e
  case stepFail => exact execStepFail_fr h e
  case driveReadyTimeout => exact execDriveReadyTimeout_fr h e
  case hello => exact execHello_fr h e
  case selvLinkUp => exact execSelvLinkUp_fr h e
  case selvLinkDown => exact execSelvLinkDown_fr h e
  case renew => exact execRenew_fr h e
  case claim => exact execClaim_fr h e
  case handover => exact execHandover_fr h e
  case selvedgeLeaseCheck => exact execSelvedgeLeaseCheck_fr h e
  case dualWindowClose => exact execDualWindowClose_fr h e
  case regRead => exact execRegRead_fr h e
  case regWrite => cases hc
  case registerWrite => cases hc
  case pageEvtClear => exact execPageEvtClear_fr h e
  case pageEvtEnWrite => cases hc
  case msgHoldWrite => cases hc
  case faultPop => exact execFaultPop_fr h e
  case clearLost => exact execClearLost_fr h e
  case idcode => exact execIdcode_fr h e
  case msg => cases hc
  case scan => exact execScan_fr h e
  case bypass => exact execBypass_fr h e
  case fieldProgram => cases hc

end Sys2Proof.Machine
end

