-- ==== Sys2Proof/Laws/State.lean ====
section
/-!
SUPPORT. What each update of the state leaves alone, field by field, and the read of a register field after a write.
-/

namespace Sys2Proof.Machine

variable {s : State} {f g : Fld} {v i : Nat} {b : Bool}

/-! `setF` writes a register field alone. -/

@[simp] theorem setF_pending : (setF s f v).pending = s.pending := rfl
@[simp] theorem setF_mem : (setF s f v).mem = s.mem := rfl
@[simp] theorem setF_freeCtr : (setF s f v).freeCtr = s.freeCtr := rfl
@[simp] theorem setF_xlt : (setF s f v).xlt = s.xlt := rfl
@[simp] theorem setF_coh : (setF s f v).coh = s.coh := rfl
@[simp] theorem setF_eng : (setF s f v).eng = s.eng := rfl
@[simp] theorem setF_dram : (setF s f v).dram = s.dram := rfl
@[simp] theorem setF_tier : (setF s f v).tier = s.tier := rfl
@[simp] theorem setF_links : (setF s f v).links = s.links := rfl
@[simp] theorem setF_net : (setF s f v).net = s.net := rfl
@[simp] theorem setF_parts : (setF s f v).parts = s.parts := rfl
@[simp] theorem setF_sec : (setF s f v).sec = s.sec := rfl
@[simp] theorem setF_pwr : (setF s f v).pwr = s.pwr := rfl
@[simp] theorem setF_ctl : (setF s f v).ctl = s.ctl := rfl
@[simp] theorem setF_dbg : (setF s f v).dbg = s.dbg := rfl
@[simp] theorem setF_input : (setF s f v).input = s.input := rfl
@[simp] theorem setF_log : (setF s f v).log = s.log := rfl
@[simp] theorem setF_boot : (setF s f v).boot = s.boot := rfl
@[simp] theorem setF_time : (setF s f v).time = s.time := rfl
@[simp] theorem setF_ging : (setF s f v).ging = s.ging := rfl
@[simp] theorem setF_runs : (setF s f v).runs = s.runs := rfl

/-! `setB` writes a register field alone. -/

@[simp] theorem setB_pending : (setB s f b).pending = s.pending := rfl
@[simp] theorem setB_mem : (setB s f b).mem = s.mem := rfl
@[simp] theorem setB_freeCtr : (setB s f b).freeCtr = s.freeCtr := rfl
@[simp] theorem setB_xlt : (setB s f b).xlt = s.xlt := rfl
@[simp] theorem setB_coh : (setB s f b).coh = s.coh := rfl
@[simp] theorem setB_eng : (setB s f b).eng = s.eng := rfl
@[simp] theorem setB_dram : (setB s f b).dram = s.dram := rfl
@[simp] theorem setB_tier : (setB s f b).tier = s.tier := rfl
@[simp] theorem setB_links : (setB s f b).links = s.links := rfl
@[simp] theorem setB_net : (setB s f b).net = s.net := rfl
@[simp] theorem setB_parts : (setB s f b).parts = s.parts := rfl
@[simp] theorem setB_sec : (setB s f b).sec = s.sec := rfl
@[simp] theorem setB_pwr : (setB s f b).pwr = s.pwr := rfl
@[simp] theorem setB_ctl : (setB s f b).ctl = s.ctl := rfl
@[simp] theorem setB_dbg : (setB s f b).dbg = s.dbg := rfl
@[simp] theorem setB_input : (setB s f b).input = s.input := rfl
@[simp] theorem setB_log : (setB s f b).log = s.log := rfl
@[simp] theorem setB_boot : (setB s f b).boot = s.boot := rfl
@[simp] theorem setB_time : (setB s f b).time = s.time := rfl
@[simp] theorem setB_ging : (setB s f b).ging = s.ging := rfl
@[simp] theorem setB_runs : (setB s f b).runs = s.runs := rfl

/-! `addF` writes a register field alone. -/

@[simp] theorem addF_pending : (addF s f v).pending = s.pending := rfl
@[simp] theorem addF_mem : (addF s f v).mem = s.mem := rfl
@[simp] theorem addF_freeCtr : (addF s f v).freeCtr = s.freeCtr := rfl
@[simp] theorem addF_xlt : (addF s f v).xlt = s.xlt := rfl
@[simp] theorem addF_coh : (addF s f v).coh = s.coh := rfl
@[simp] theorem addF_eng : (addF s f v).eng = s.eng := rfl
@[simp] theorem addF_dram : (addF s f v).dram = s.dram := rfl
@[simp] theorem addF_tier : (addF s f v).tier = s.tier := rfl
@[simp] theorem addF_links : (addF s f v).links = s.links := rfl
@[simp] theorem addF_net : (addF s f v).net = s.net := rfl
@[simp] theorem addF_parts : (addF s f v).parts = s.parts := rfl
@[simp] theorem addF_sec : (addF s f v).sec = s.sec := rfl
@[simp] theorem addF_pwr : (addF s f v).pwr = s.pwr := rfl
@[simp] theorem addF_ctl : (addF s f v).ctl = s.ctl := rfl
@[simp] theorem addF_dbg : (addF s f v).dbg = s.dbg := rfl
@[simp] theorem addF_input : (addF s f v).input = s.input := rfl
@[simp] theorem addF_log : (addF s f v).log = s.log := rfl
@[simp] theorem addF_boot : (addF s f v).boot = s.boot := rfl
@[simp] theorem addF_time : (addF s f v).time = s.time := rfl
@[simp] theorem addF_ging : (addF s f v).ging = s.ging := rfl
@[simp] theorem addF_runs : (addF s f v).runs = s.runs := rfl

/-! `bumpF` writes a register field alone. -/

@[simp] theorem bumpF_pending : (bumpF s f).pending = s.pending := rfl
@[simp] theorem bumpF_mem : (bumpF s f).mem = s.mem := rfl
@[simp] theorem bumpF_freeCtr : (bumpF s f).freeCtr = s.freeCtr := rfl
@[simp] theorem bumpF_xlt : (bumpF s f).xlt = s.xlt := rfl
@[simp] theorem bumpF_coh : (bumpF s f).coh = s.coh := rfl
@[simp] theorem bumpF_eng : (bumpF s f).eng = s.eng := rfl
@[simp] theorem bumpF_dram : (bumpF s f).dram = s.dram := rfl
@[simp] theorem bumpF_tier : (bumpF s f).tier = s.tier := rfl
@[simp] theorem bumpF_links : (bumpF s f).links = s.links := rfl
@[simp] theorem bumpF_net : (bumpF s f).net = s.net := rfl
@[simp] theorem bumpF_parts : (bumpF s f).parts = s.parts := rfl
@[simp] theorem bumpF_sec : (bumpF s f).sec = s.sec := rfl
@[simp] theorem bumpF_pwr : (bumpF s f).pwr = s.pwr := rfl
@[simp] theorem bumpF_ctl : (bumpF s f).ctl = s.ctl := rfl
@[simp] theorem bumpF_dbg : (bumpF s f).dbg = s.dbg := rfl
@[simp] theorem bumpF_input : (bumpF s f).input = s.input := rfl
@[simp] theorem bumpF_log : (bumpF s f).log = s.log := rfl
@[simp] theorem bumpF_boot : (bumpF s f).boot = s.boot := rfl
@[simp] theorem bumpF_time : (bumpF s f).time = s.time := rfl
@[simp] theorem bumpF_ging : (bumpF s f).ging = s.ging := rfl
@[simp] theorem bumpF_runs : (bumpF s f).runs = s.runs := rfl

/-! `wrapF` writes a register field alone. -/

@[simp] theorem wrapF_pending : (wrapF s f v).pending = s.pending := rfl
@[simp] theorem wrapF_mem : (wrapF s f v).mem = s.mem := rfl
@[simp] theorem wrapF_freeCtr : (wrapF s f v).freeCtr = s.freeCtr := rfl
@[simp] theorem wrapF_xlt : (wrapF s f v).xlt = s.xlt := rfl
@[simp] theorem wrapF_coh : (wrapF s f v).coh = s.coh := rfl
@[simp] theorem wrapF_eng : (wrapF s f v).eng = s.eng := rfl
@[simp] theorem wrapF_dram : (wrapF s f v).dram = s.dram := rfl
@[simp] theorem wrapF_tier : (wrapF s f v).tier = s.tier := rfl
@[simp] theorem wrapF_links : (wrapF s f v).links = s.links := rfl
@[simp] theorem wrapF_net : (wrapF s f v).net = s.net := rfl
@[simp] theorem wrapF_parts : (wrapF s f v).parts = s.parts := rfl
@[simp] theorem wrapF_sec : (wrapF s f v).sec = s.sec := rfl
@[simp] theorem wrapF_pwr : (wrapF s f v).pwr = s.pwr := rfl
@[simp] theorem wrapF_ctl : (wrapF s f v).ctl = s.ctl := rfl
@[simp] theorem wrapF_dbg : (wrapF s f v).dbg = s.dbg := rfl
@[simp] theorem wrapF_input : (wrapF s f v).input = s.input := rfl
@[simp] theorem wrapF_log : (wrapF s f v).log = s.log := rfl
@[simp] theorem wrapF_boot : (wrapF s f v).boot = s.boot := rfl
@[simp] theorem wrapF_time : (wrapF s f v).time = s.time := rfl
@[simp] theorem wrapF_ging : (wrapF s f v).ging = s.ging := rfl
@[simp] theorem wrapF_runs : (wrapF s f v).runs = s.runs := rfl

/-! `setBitF` writes a register field alone. -/

@[simp] theorem setBitF_pending : (setBitF s f i b).pending = s.pending := rfl
@[simp] theorem setBitF_mem : (setBitF s f i b).mem = s.mem := rfl
@[simp] theorem setBitF_freeCtr : (setBitF s f i b).freeCtr = s.freeCtr := rfl
@[simp] theorem setBitF_xlt : (setBitF s f i b).xlt = s.xlt := rfl
@[simp] theorem setBitF_coh : (setBitF s f i b).coh = s.coh := rfl
@[simp] theorem setBitF_eng : (setBitF s f i b).eng = s.eng := rfl
@[simp] theorem setBitF_dram : (setBitF s f i b).dram = s.dram := rfl
@[simp] theorem setBitF_tier : (setBitF s f i b).tier = s.tier := rfl
@[simp] theorem setBitF_links : (setBitF s f i b).links = s.links := rfl
@[simp] theorem setBitF_net : (setBitF s f i b).net = s.net := rfl
@[simp] theorem setBitF_parts : (setBitF s f i b).parts = s.parts := rfl
@[simp] theorem setBitF_sec : (setBitF s f i b).sec = s.sec := rfl
@[simp] theorem setBitF_pwr : (setBitF s f i b).pwr = s.pwr := rfl
@[simp] theorem setBitF_ctl : (setBitF s f i b).ctl = s.ctl := rfl
@[simp] theorem setBitF_dbg : (setBitF s f i b).dbg = s.dbg := rfl
@[simp] theorem setBitF_input : (setBitF s f i b).input = s.input := rfl
@[simp] theorem setBitF_log : (setBitF s f i b).log = s.log := rfl
@[simp] theorem setBitF_boot : (setBitF s f i b).boot = s.boot := rfl
@[simp] theorem setBitF_time : (setBitF s f i b).time = s.time := rfl
@[simp] theorem setBitF_ging : (setBitF s f i b).ging = s.ging := rfl
@[simp] theorem setBitF_runs : (setBitF s f i b).runs = s.runs := rfl

/-! A register field does not change with the other fields of the state. -/

@[simp] theorem getF_with_pending {x : _} : getF { s with pending := x } f = getF s f := rfl
@[simp] theorem getF_with_mem {x : _} : getF { s with mem := x } f = getF s f := rfl
@[simp] theorem getF_with_freeCtr {x : _} : getF { s with freeCtr := x } f = getF s f := rfl
@[simp] theorem getF_with_xlt {x : _} : getF { s with xlt := x } f = getF s f := rfl
@[simp] theorem getF_with_coh {x : _} : getF { s with coh := x } f = getF s f := rfl
@[simp] theorem getF_with_eng {x : _} : getF { s with eng := x } f = getF s f := rfl
@[simp] theorem getF_with_dram {x : _} : getF { s with dram := x } f = getF s f := rfl
@[simp] theorem getF_with_tier {x : _} : getF { s with tier := x } f = getF s f := rfl
@[simp] theorem getF_with_links {x : _} : getF { s with links := x } f = getF s f := rfl
@[simp] theorem getF_with_net {x : _} : getF { s with net := x } f = getF s f := rfl
@[simp] theorem getF_with_parts {x : _} : getF { s with parts := x } f = getF s f := rfl
@[simp] theorem getF_with_sec {x : _} : getF { s with sec := x } f = getF s f := rfl
@[simp] theorem getF_with_pwr {x : _} : getF { s with pwr := x } f = getF s f := rfl
@[simp] theorem getF_with_ctl {x : _} : getF { s with ctl := x } f = getF s f := rfl
@[simp] theorem getF_with_dbg {x : _} : getF { s with dbg := x } f = getF s f := rfl
@[simp] theorem getF_with_input {x : _} : getF { s with input := x } f = getF s f := rfl
@[simp] theorem getF_with_log {x : _} : getF { s with log := x } f = getF s f := rfl
@[simp] theorem getF_with_boot {x : _} : getF { s with boot := x } f = getF s f := rfl
@[simp] theorem getF_with_time {x : _} : getF { s with time := x } f = getF s f := rfl
@[simp] theorem getF_with_ging {x : _} : getF { s with ging := x } f = getF s f := rfl
@[simp] theorem getF_with_runs {x : _} : getF { s with runs := x } f = getF s f := rfl

/-! A write of another field of the state commutes with the registers. -/

theorem regsRising_setF (h : Store.rising s.regs = true) : Store.rising (setF s f v).regs = true := Store.rising_set h

/-- A read of the field written gives the value written, cut to the field's width. -/
theorem getF_setF_self (h : Store.rising s.regs = true) : getF (setF s f v) f = v % 2 ^ f.width :=
  Store.get_set_self h

/-- A write leaves every field with another key alone. -/
theorem getF_setF_of_ne (h : Store.rising s.regs = true) (hk : g.key ≠ f.key) : getF (setF s f v) g = getF s g := by
  unfold getF setF
  exact Store.get_set_of_ne hk h

theorem flag_setB_self (h : Store.rising s.regs = true) (hw : 0 < f.width) : flag (setB s f b) f = b := by
  have h2 : 2 ≤ 2 ^ f.width := Nat.le_self_pow (by omega) 2
  unfold flag setB
  rw [getF_setF_self h, Nat.mod_eq_of_lt (by cases b <;> simp <;> omega)]
  cases b <;> rfl

theorem flag_setF_of_ne (h : Store.rising s.regs = true) (hk : g.key ≠ f.key) : flag (setF s f v) g = flag s g := by
  unfold flag; rw [getF_setF_of_ne h hk]

theorem getF_bumpF_self (h : Store.rising s.regs = true) :
    getF (bumpF s f) f = min (getF s f + 1) (2 ^ f.width - 1) := by
  unfold bumpF addF
  rw [getF_setF_self h, Nat.mod_eq_of_lt]
  have := Nat.two_pow_pos f.width
  omega

end Sys2Proof.Machine
end

