-- ==== Sys2Proof/Laws/Spec.lean ====
section
/-!
SUPPORT. What the shared operations do, once each: guards that hold, register fields after an event, the clocks.
-/

namespace Sys2Proof.Machine

variable {s : State} {f : State → State}

theorem whenManaged_of (h : managed s = true) : whenManaged s f = f s := by simp [whenManaged, h]

theorem whenAlive_of (h : alive s = true) : whenAlive s f = f s := by simp [whenAlive, h]

theorem managed_of_alive (h : alive s = true) : managed s = true := by
  simp only [alive, Bool.and_eq_true] at h; exact h.1

theorem latched_of_alive (h : alive s = true) : latched s = false := by
  simp only [alive, Bool.and_eq_true, Bool.not_eq_true'] at h; exact h.2

end Sys2Proof.Machine
end

