-- ==== Sys2Proof/Laws/Step.lean ====
section
/-!
SUPPORT. What every operation of Machine/Step.lean leaves alone: each keeps the frame of Laws/Frame.lean.
-/

namespace Sys2Proof.Machine

variable {q : List Instr} {M : Store Byte → Prop} {F : Store Nat → Prop}

theorem idle_fr {s : State} (h : Fr q MemOk F s) : Fr q MemOk F (idle s) := by
  unfold idle
  repeat' (first
    | with_reducible assumption
    | with_reducible apply whenAlive_fr
    | with_reducible apply tick_fr
    | with_reducible apply pumpRecs_fr)

end Sys2Proof.Machine
end

