-- ==== Sys2Proof/Tests/Slice0.lean ====
section
/-!
SUPPORT. Tests: small states, a witness for the hypotheses of each clause of the obligations, an ill-formed term for each
check of WellFormed, and a few steps with values from the spec.
-/

namespace Sys2Proof.Machine

set_option Elab.async false

open Sys2Proof Sys2Proof.Machine

-- HELPERS
/-- A small state for the tests: the state after reset with one change. -/
def st (f : State → State) : State := f State.reset

/-- The state after reset with power on the stacks. -/
def powered : State := { State.reset with pwr := {} }

/-- Power is on, partition 0 owns core 0, and its tables map page 0 (64 KiB, read and write) to frame 0 of that core. -/
def mapped : State :=
  let s := setB State.reset (XLT.ROOT_V 0) true
  let k := memKey 0 tableArea
  { s with
    parts := { owner := [(0, 1)] }
    pwr := {}
    mem := memPut (memPut (memPut (memPut (memPut [] k 8 0x1001) (k + 0x1000) 8 0x2001) (k + 0x2000) 8 0x3001)
      (k + 0x3000) 8 0x4001) (k + 0x4000) 8 0xF
    xlt := { frames := [(0, .cur 0 0x4000 0 0 (some 0))] } }

/-- A FILL descriptor with the built-in pattern, NOCMPL and no bytes. -/
def goodDesc : Nat := 1 + 2 ^ 18

/-- A share of a FILL whose pattern block at PVA 64 is fetched. -/
def fetchShare : Share := { job := 1, core := 0, lead := 0, pt := 0, desc := goodDesc + 2 ^ 198 }

/-- It waits in a mapped partition whose memory holds a header and an EMIT at PVA 64. -/
def fetching : State :=
  { mapped with
    mem := memPut mapped.mem (memKey 0 64) 16 (0x101 + 2 ^ 125)
    eng := { shares := [fetchShare] } }

/-- While another descriptor expands, one with its pattern block at PVA 64 is in stage 0. -/
def aheadFetch : State :=
  { fetching with eng := { shares := [{ fetchShare with phase := 2 }], fifos := [(0, [{ desc := goodDesc + 2 ^ 198, num := 0 }])] } }

/-- A share that expands a pattern of one EMIT of one row of 64 bytes. -/
def emitShare : Share :=
  { fetchShare with
    phase := 2
    begun := true
    words := [0x101, 2 ^ 61]
    shapes := (64, 1, 0) :: List.replicate 15 (0, 0, 0) }

/-- The share of core `c` in a descriptor spread over cores 0 and 1 by core 0. -/
def longShare (c : Nat) : Share := { job := 1, core := c, lead := 0, pt := 0, desc := goodDesc + 3 * 2 ^ 32, phase := 2 }

/-- A tile that writes 4 KiB at PVA 0. -/
def hintTile : Tile :=
  { job := 1, core := 0, pt := 0, t := 0, i := 0, rows := [⟨0, 0, 4096, 1, 0⟩], bytes := 0, elems := 0, in1 := 0 }

/-- The page of that tile lies in the window of drive 0, and the tile waits to be dispatched. -/
def hinting : State :=
  { setF (setB mapped (TIER.DRIVE_EN 0) true) (SCORE.TIER_AHEAD_TILES 0) 4 with
    mem := memPut mapped.mem (memKey 0 tableArea + 0x2000) 8 (0xF + 2 ^ 47)
    tier := { size := [(0, 1)] }
    eng := { ready := [(0, [hintTile])] } }

/-- A tile without rows that an engine has started. -/
def aTile : Tile := { job := 1, core := 0, pt := 0, t := 0, i := 0, rows := [], bytes := 0, elems := 0, in1 := 0, begun := true }

/-- A tile of a share is at the head of the queue of engine 0 of core 0. -/
def running (x : Tile) : State := { mapped with eng := { shares := [emitShare], queues := [(0, [x])] } }

/-- A HASH with ROOT and NOCMPL that has ended its tiles. -/
def rootShare : Share :=
  { job := 1, core := 0, lead := 0, pt := 0, desc := 4 + 2 ^ 8 + 2 ^ 18, phase := 3, emitted := 1 }

/-- A COLLECTIVE of partner 1 with 64 integer elements in tile 0. -/
def collShare : Share := { job := 1, core := 0, lead := 0, pt := 0, desc := 7 + 2 ^ 320 * (2 + 3 * 2 ^ 16 + 3 * 2 ^ 24), phase := 2 }

/-- That COLLECTIVE runs, and its tile 0 has been granted. -/
def collecting : State :=
  { mapped with
    eng :=
      { shares := [collShare]
        colls := [(0, some ⟨1, 0, [1], [{ t := 0 }], none⟩)]
        queues := [(0, [{ hintTile with rows := [⟨0, 0, 256, 1, 0⟩] }])] } }

/-- That COLLECTIVE has just begun, and its tile 0 waits to be dispatched. -/
def granting : State :=
  { mapped with
    eng := { shares := [collShare], colls := [(0, some { job := 1, pt := 0, pids := [1] })], ready := [(0, [hintTile])] } }

/-- Slot 0 of core 0 is a MAINT slot, and neither training nor calibration is due. -/
def maintaining : State :=
  { mapped with
    ging := { bank := [(48, 0xD0)] }
    dram := { due := [(0, 1), (1, 1)] } }

/-- Partition 0 has a cache of 1 GiB on core 0, whose set 0 holds tier block 0 clean, and an access to it is stored. -/
def tiered : State :=
  { setB (setF mapped (TIER.PT_CACHE_GIB 0) 1) TIER.TIER_CTL_EN true with
    tier := { ways := [(0, { block := 0, state := 2 })] }
    net := { store := [{ tier := some 0 }] } }

/-- Drives 0 and 1 are a pair of partition 0, and drive 0 has been lost and replaced. -/
def paired : State :=
  let s := setB (setB (setB powered (TIER.DRIVE_EN 0) true) (TIER.DRIVE_EN 1) true) (TIER.DRIVE_PAIR 0) true
  { setF (setF s (PCIE.DRV_STS_STATE 0) 2) (PCIE.DRV_STS_STATE 1) 2 with tier := { lostOf := [(0, 1)] } }

/-- Port 0 is ACTIVE without CCHK, and a packet has waited 2 ms on it for hop credit. -/
def starving : State :=
  { setF powered (PORT.LINK_STS_STATE 0) 7 with
    time := { ft := 2000000, elapsed := 2000000 }
    net := { egress := [(0, [{ kind := 0, core := 0, ready := 0, pkt := {} }])] } }

/-- Port 0 is ACTIVE with one response of partition 0 in its queue. -/
def sendingOne : State :=
  { setF powered (PORT.LINK_STS_STATE 0) 7 with
    net := { egress := [(3, [{ kind := 3, core := 0, ready := 0, pkt := {} }])] }
    links := [(0, { pool := 2048 })] }

/-- Port 0 is ACTIVE with one MGMT packet in its queue. -/
def sendingMgmt : State :=
  { setF powered (PORT.LINK_STS_STATE 0) 7 with
    net := { egress := [(0, [{ kind := 0, core := 0, ready := 0, pkt := {} }])] }
    links := [(0, { pool := 2048 })] }

/-- Partition 0 owns core 0 and drive 0, and key slot 0 names the first GiB of its tier addresses. -/
def slotReady : State :=
  setF (setB (setF { powered with parts := { owner := [(0, 1)] }, tier := { size := [(0, 1)] } } (PCIE.DRV_STS_STATE 0) 2)
    (TIER.DRIVE_EN 0) true) (KEY.KSLOT_LEN_GIB 0) 1

/-- Key slot 0 is LOCKED, partition 0 has a core and a kept release pair, and a release of its generation runs. -/
def releasing : State :=
  setF (setF (setF { powered with parts := { owner := [(0, 1)] }, sec := { relNext := 1, releases := [(0, some ⟨0, 0, 0, 0⟩)] } }
    (KEY.KSLOT_CTL_STATE 0) 2) FUSE.LIFECYCLE_STATE 1) TOP.CTL_STS_HOLDER 1

/-- Port 0 of a SEALED module of profile S is ACTIVE with a cold exchange. -/
def offered : State :=
  { setF (setF (setF powered (PORT.LINK_STS_STATE 0) 7) FUSE.PART_INFO_PROFILE 1) FUSE.LIFECYCLE_STATE 1 with
    sec := { kx := [(0, some ⟨0, true, [], 0, 0, 0, false, false⟩)] } }

/-- A scrub of partition 0 waits for the answer of PID 5 since its start. -/
def scrubSnoop : State :=
  { powered with
    parts := { owner := [(0, 1)], scrubs := [(0, some { cores := [0], drives := [], owed := [(5, 0)] })] }
    coh := { txns := [(0, some { req := { agent := .recall 32 }, invs := [5] })] } }

/-- The receivers of the debug contacts are on. -/
def tapped : State := setB powered DBG.DBG_CTL_PORT_EN true
-- END HELPERS

/-! Witnesses: a state and operands that meet the hypotheses of each clause of the obligations. -/

/-- A state and operands that meet the hypotheses of TimeUnitCommands (timeSync). -/
theorem witness_TimeUnitCommands_timeSync :
    ∃ (s : State) (f : SelvFrame) (t1 : Nat) (sub : Fin 8) (turn : Nat) (u : State), managed s = true ∧ frameOk f = true ∧ timeSource s f.port = true ∧ openExchange (noteSender s f) = u ∧ 3 ≤ getF u (SELV.LINK_STS_VER f.port) :=
  ⟨st fun s => setF (setF (setF s TOP.CTL_STS_HOLDER 1) (SELV.LINK_STS_UP 0) 1) (SELV.LINK_STS_VER 0) 3, ⟨0, 9, 0x88B5, true, 3, 46⟩, 0, 0, 0, openExchange (noteSender (st fun s => setF (setF (setF s TOP.CTL_STS_HOLDER 1) (SELV.LINK_STS_UP 0) 1) (SELV.LINK_STS_VER 0) 3) ⟨0, 9, 0x88B5, true, 3, 46⟩), by decide +kernel⟩

/-- A state and operands that meet the hypotheses of TimeUnitCommands (delayRsp). -/
theorem witness_TimeUnitCommands_delayRsp :
    ∃ (s : State) (f : SelvFrame) (t1 t2 t3 t4 : Nat) (u : State), managed s = true ∧ frameOk f = true ∧ noteSender s f = u ∧ timeSource s f.port = true ∧ s.time.exch = some (f.port.val, t1, t2, t3) :=
  ⟨st fun s => { setF (setF s TOP.CTL_STS_HOLDER 1) (SELV.LINK_STS_UP 0) 1 with time := { s.time with exch := some (0, 0, 0, 0) } }, ⟨0, 9, 0x88B5, true, 2, 46⟩, 0, 0, 0, 0, noteSender (st fun s => { setF (setF s TOP.CTL_STS_HOLDER 1) (SELV.LINK_STS_UP 0) 1 with time := { s.time with exch := some (0, 0, 0, 0) } }) ⟨0, 9, 0x88B5, true, 2, 46⟩, by decide +kernel⟩

/-- A state and operands that meet the hypotheses of TimeUnitCommands (missedExchange). -/
theorem witness_TimeUnitCommands_missedExchange :
    ∃ (s : State) (u : State), managed s = true ∧ ftState s = 2 ∧ advanceFt s (missedAt s) = u ∧ ftState u = 2 :=
  ⟨st fun s => setF s FT.FT_STS_STATE 2, advanceFt (st fun s => setF s FT.FT_STS_STATE 2) (missedAt (st fun s => setF s FT.FT_STS_STATE 2)), by decide +kernel⟩

/-- A state and operands that meet the hypotheses of TimeUnitCommands (tclkLossOfLock). -/
theorem witness_TimeUnitCommands_tclkLossOfLock :
    ∃ (s : State) (u : State), managed s = true ∧ ftState s = 2 ∧ s = u ∧ ftState u = 2 :=
  ⟨st fun s => setF s FT.FT_STS_STATE 2, st fun s => setF s FT.FT_STS_STATE 2, by decide +kernel⟩

/-- A state and operands that meet the hypotheses of TimeUnitCommands (holdoverLimit). -/
theorem witness_TimeUnitCommands_holdoverLimit :
    ∃ (s : State), managed s = true ∧ ftState s = 3 :=
  ⟨st fun s => setF s FT.FT_STS_STATE 3, by decide +kernel⟩

/-- A state and operands that meet the hypotheses of TimeUnitCommands (ftLoad). -/
theorem witness_TimeUnitCommands_ftLoad :
    ∃ (s : State), alive s = true ∧ (ftState s = 0 ∨ ftState s = 4) ∧ getF s FT.LOAD % 4096 = 0 ∧ s.time.ft < getF s FT.LOAD :=
  ⟨st fun s => setF s FT.LOAD 8192, by decide +kernel⟩

/-- A state and operands that meet the hypotheses of TimeUnitCommands (loadTakesEffect). -/
theorem witness_TimeUnitCommands_loadTakesEffect :
    ∃ (s : State) (u : State), managed s = true ∧ flag s FT.FT_STS_LOAD_PENDING = true ∧ ftState s = 0 ∧ setB (advanceFt s s.time.loadAt) FT.FT_STS_LOAD_PENDING false = u :=
  ⟨st fun s => { setB s FT.FT_STS_LOAD_PENDING true with time := { loadVal := 8192, loadAt := 4096 } }, setB (advanceFt (st fun s => { setB s FT.FT_STS_LOAD_PENDING true with time := { loadVal := 8192, loadAt := 4096 } }) 4096) FT.FT_STS_LOAD_PENDING false, by decide +kernel⟩

/-- A state and operands that meet the hypotheses of TimeUnitCommands (loadTakesEffect_dropped). -/
theorem witness_TimeUnitCommands_loadTakesEffect_dropped :
    ∃ (s : State), managed s = true ∧ flag s FT.FT_STS_LOAD_PENDING = true ∧ ftState s = 2 :=
  ⟨st fun s => setF (setB s FT.FT_STS_LOAD_PENDING true) FT.FT_STS_STATE 2, by decide +kernel⟩

/-- A state and operands that meet the hypotheses of GinghamCommands (gingFlip). -/
theorem witness_GinghamCommands_gingFlip :
    ∃ (s : State), alive s = true ∧ checkBank s (1 - gingActive s) = (0, 0, 0) :=
  ⟨st fun s => { setF s GING.FLIP_FRAME 9 with
    boot := { absent := 0xFFFF }, ging := { bank := (upTo 48).map fun i => (4096 + 4032 + i, 0xA0) } }, by decide +kernel⟩

/-- A state and operands that meet the hypotheses of GinghamCommands (gingCopy). -/
theorem witness_GinghamCommands_gingCopy :
    ∃ (s : State), alive s = true ∧ flipPending s = false :=
  ⟨State.reset, by decide +kernel⟩

/-- A state and operands that meet the hypotheses of GinghamCommands (gingFlipFrame). -/
theorem witness_GinghamCommands_gingFlipFrame :
    ∃ (s : State), managed s = true ∧ flipPending s = true :=
  ⟨st fun s => setB s GING.GING_STS_FLIP_PENDING true, by decide +kernel⟩

/-- A state and operands that meet the hypotheses of GinghamCommands (gingEntData). -/
theorem witness_GinghamCommands_gingEntData :
    ∃ (s : State) (v : Nat), alive s = true ∧ flipPending s = false ∧ flag s GING.ENT_ADDR_AUTOINC = true ∧ getF s GING.ENT_ADDR_INDEX % 4 = 0 :=
  ⟨State.reset, 0, by decide +kernel⟩

/-- A state and operands that meet the hypotheses of DeterministicCommands (detModeWrite). -/
theorem witness_DeterministicCommands_detModeWrite :
    ∃ (s : State) (v : Nat), alive s = true ∧ flag s TOP.DET_MODE_LOCK = false ∧ machineIdle s = true ∧ anyRun s = false :=
  ⟨State.reset, 0, by decide +kernel⟩

/-- A state and operands that meet the hypotheses of DeterministicCommands (detModeTakesEffect). -/
theorem witness_DeterministicCommands_detModeTakesEffect :
    ∃ (s : State), alive s = true ∧ flag s TOP.DET_MODE_EN ≠ flag s TOP.DET_MODE_ACTIVE :=
  ⟨st fun s => setB s TOP.DET_MODE_EN true, by decide +kernel⟩

/-- A state and operands that meet the hypotheses of DeterministicCommands (drunOpen). -/
theorem witness_DeterministicCommands_drunOpen :
    ∃ (s : State) (pt : Ptn), alive s = true ∧ detOn s = true ∧ flag s FT.FT_STS_ALIGNED = true ∧ runOpen s pt = false ∧ coresOf s pt ≠ [] ∧ s.time.ft / 4096 + 2 ≤ getF s PART.DRUN_START :=
  ⟨st fun s => { setF (setB (setB s TOP.DET_MODE_ACTIVE true) FT.FT_STS_ALIGNED true) PART.DRUN_START 2 with
    parts := { owner := [(0, 1)] } }, 0, by decide +kernel⟩

/-- A state and operands that meet the hypotheses of DeterministicCommands (runColdStart). -/
theorem witness_DeterministicCommands_runColdStart :
    ∃ (s : State) (pt : Ptn) (f : Nat), alive s = true ∧ Store.get none s.runs pt = some { frame := f, phase := 0 } :=
  ⟨st fun s => { s with runs := [(0, some ⟨2, 0⟩)] }, 0, 2, by decide +kernel⟩

/-- A state and operands that meet the hypotheses of DeterministicCommands (runFrame0). -/
theorem witness_DeterministicCommands_runFrame0 :
    ∃ (s : State) (pt : Ptn) (f : Nat), alive s = true ∧ Store.get none s.runs pt = some { frame := f, phase := 1 } :=
  ⟨st fun s => { s with runs := [(0, some ⟨2, 1⟩)] }, 0, 2, by decide +kernel⟩

/-- A state and operands that meet the hypotheses of DeterministicCommands (drunClose). -/
theorem witness_DeterministicCommands_drunClose :
    ∃ (s : State) (pt : Ptn), alive s = true ∧ bitF s PART.DRUN_OPEN_OPEN pt = true :=
  ⟨st fun s => setF s PART.DRUN_OPEN_OPEN 1, 0, by decide +kernel⟩

/-- A state and operands that meet the hypotheses of DeterministicCommands (dxUnaligned). -/
theorem witness_DeterministicCommands_dxUnaligned :
    ∃ (s : State), alive s = true ∧ flag (atPeriodic s 5 4096 0) FT.FT_STS_ALIGNED = false :=
  ⟨State.reset, by decide +kernel⟩

/-- A state and operands that meet the hypotheses of DeterministicCommands (heartbeat). -/
theorem witness_DeterministicCommands_heartbeat :
    ∃ (s : State), alive s = true :=
  ⟨State.reset, by decide +kernel⟩

/-- A state and operands that meet the hypotheses of DeterministicCommands (heartbeat_first). -/
theorem witness_DeterministicCommands_heartbeat_first :
    ∃ (s : State) (core : Core) (t : State), alive s = true ∧ beatStart s = t ∧ getF t PWR.PWR_STS_STATE ≠ 3 ∧ Store.get 0 t.time.missed core ≠ t.time.ft / 4096 :=
  ⟨st fun s => { s with time := { ft := 8192 } }, 0, beatStart { State.reset with time := { ft := 8192 } }, by decide +kernel⟩

/-- A state and operands that meet the hypotheses of DeterministicCommands (heartbeat_second). -/
theorem witness_DeterministicCommands_heartbeat_second :
    ∃ (s : State) (core : Core) (t : State), alive s = true ∧ beatStart s = t ∧ getF t PWR.PWR_STS_STATE ≠ 3 ∧ coreUp t core = true ∧ 0 < t.time.ft / 4096 ∧ Store.get 0 t.time.missed core = t.time.ft / 4096 :=
  ⟨st fun s => { s with time := { ft := 8192, missed := [(0, 2)] } }, 0, beatStart { State.reset with time := { ft := 8192, missed := [(0, 2)] } }, by decide +kernel⟩

/-- A state and operands that meet the hypotheses of TableCommands (tblCommit). -/
theorem witness_TableCommands_tblCommit :
    ∃ (s : State) (level : Nat), alive s = true ∧ flag s XLT.TBL_STS_BUSY = false ∧ commitResult s (getF s XLT.TBL_ADDR_PT) (getF s XLT.TBL_ADDR_OFFSET * 8) level (getF s XLT.TBL_DATA) = 0 :=
  ⟨mapped, 0, by decide +kernel⟩

/-- A state and operands that meet the hypotheses of TableCommands (tblCommit_refused). -/
theorem witness_TableCommands_tblCommit_refused :
    ∃ (s : State) (level : Nat), alive s = true ∧ flag s XLT.TBL_STS_BUSY = false ∧ commitResult s (getF s XLT.TBL_ADDR_PT) (getF s XLT.TBL_ADDR_OFFSET * 8) level (getF s XLT.TBL_DATA) ≠ 0 :=
  ⟨State.reset, 0, by decide +kernel⟩

/-- A state and operands that meet the hypotheses of TableCommands (tblCommitDone). -/
theorem witness_TableCommands_tblCommitDone :
    ∃ (s : State) (r : Nat), managed s = true ∧ s.xlt.tblNext = r + 1 ∧ commitWaits s = false :=
  ⟨st fun s => { s with xlt := { tblNext := 1 } }, 0, by decide +kernel⟩

/-- A state and operands that meet the hypotheses of TableCommands (tblRead). -/
theorem witness_TableCommands_tblRead :
    ∃ (s : State) (level : Nat), alive s = true ∧ flag s XLT.TBL_STS_BUSY = false ∧ coresOf s (getF s XLT.TBL_ADDR_PT) ≠ [] ∧ level ≤ 4 :=
  ⟨mapped, 0, by decide +kernel⟩

/-- A state and operands that meet the hypotheses of TableCommands (xltDigest). -/
theorem witness_TableCommands_xltDigest :
    ∃ (s : State) (pt : Ptn), alive s = true ∧ flag s XLT.DIGEST_STS_BUSY = false :=
  ⟨State.reset, 0, by decide +kernel⟩

/-- A state and operands that meet the hypotheses of TableCommands (xltDigestDone). -/
theorem witness_TableCommands_xltDigestDone :
    ∃ (s : State) (d n : Nat), managed s = true ∧ s.xlt.digest = some (d, n) :=
  ⟨st fun s => { s with xlt := { digest := some (5, 0) } }, 5, 0, by decide +kernel⟩

/-- A state and operands that meet the hypotheses of InvalidationAndMoveCommands (xltInvalidate). -/
theorem witness_InvalidationAndMoveCommands_xltInvalidate :
    ∃ (s : State) (pt : Ptn) (kind : Nat) (rcl : Bool), alive s = true ∧ invResult s pt kind = 0 :=
  ⟨mapped, 0, 0, false, by decide +kernel⟩

/-- A state and operands that meet the hypotheses of InvalidationAndMoveCommands (invDone). -/
theorem witness_InvalidationAndMoveCommands_invDone :
    ∃ (s : State) (j : InvJob), alive s = true ∧ s.xlt.inv = some j ∧ oldFinished s j = true ∧ recalling s 1 = false ∧ ((invHeld s j).isEmpty ∨ j.again = true) :=
  ⟨{ mapped with xlt := { inv := some { pt := 0 } } }, { pt := 0 }, by decide +kernel⟩

/-- A state and operands that meet the hypotheses of InvalidationAndMoveCommands (invDone_again). -/
theorem witness_InvalidationAndMoveCommands_invDone_again :
    ∃ (s : State) (j : InvJob), alive s = true ∧ s.xlt.inv = some j ∧ oldFinished s j = true ∧ recalling s 1 = false ∧ (invHeld s j).isEmpty = false ∧ j.again = false :=
  ⟨{ setF mapped (PART.FENCE_STS_STATE 1) 1 with xlt := { mapped.xlt with inv := some { pt := 0, hi := 65536 } }, coh := { dir := [(0, .exc 1)] } }, { pt := 0, hi := 65536 }, by decide +kernel⟩

/-- A state and operands that meet the hypotheses of InvalidationAndMoveCommands (pageMove). -/
theorem witness_InvalidationAndMoveCommands_pageMove :
    ∃ (s : State) (pt : Ptn) (l off e : Nat), alive s = true ∧ moveResult s pt (getF s XLT.MOVE_PVA * 65536) (getF s XLT.MOVE_DST * 65536) = 0 ∧ leafOf s pt (getF s XLT.MOVE_PVA * 65536) = some (l, off, e) :=
  ⟨setF mapped XLT.MOVE_DST 1, 0, 0, 0x4000, 0xF, by decide +kernel⟩

/-- A state and operands that meet the hypotheses of InvalidationAndMoveCommands (moveDone). -/
theorem witness_InvalidationAndMoveCommands_moveDone :
    ∃ (s : State) (pt : Ptn) (j : MoveJob), alive s = true ∧ Store.get none s.xlt.moves pt = some j ∧ pageAtRest s pt j (leafPlaces s pt (ePpa (tableEntry s pt j.off)) j.lvl) = true :=
  ⟨{ mapped with xlt := { frames := [(0, .cur 0 0x4000 0 0 (some 0))], moves := [(0, some ⟨0, 65536, 0x4000, 0, 65536⟩)] } }, 0, ⟨0, 65536, 0x4000, 0, 65536⟩, by decide +kernel⟩

/-- A state and operands that meet the hypotheses of AccessCounterCommands (cntClear). -/
theorem witness_AccessCounterCommands_cntClear :
    ∃ (s : State) (core : Core), alive s = true :=
  ⟨State.reset, 0, by decide +kernel⟩

/-- A state and operands that meet the hypotheses of AccessCounterCommands (cntClearAll). -/
theorem witness_AccessCounterCommands_cntClearAll :
    ∃ (s : State), alive s = true :=
  ⟨State.reset, by decide +kernel⟩

/-- A state and operands that meet the hypotheses of AccessCounterCommands (cntData). -/
theorem witness_AccessCounterCommands_cntData :
    ∃ (s : State), managed s = true ∧ flag s XLT.CNT_ADDR_AUTOINC = true :=
  ⟨st fun s => setB s XLT.CNT_ADDR_AUTOINC true, by decide +kernel⟩

/-- A state and operands that meet the hypotheses of AccessCounterCommands (cntData_fixed). -/
theorem witness_AccessCounterCommands_cntData_fixed :
    ∃ (s : State), managed s = true ∧ flag s XLT.CNT_ADDR_AUTOINC = false :=
  ⟨st fun s => setB s XLT.CNT_ADDR_AUTOINC false, by decide +kernel⟩

/-- A state and operands that meet the hypotheses of AccessCounterCommands (hotPop). -/
theorem witness_AccessCounterCommands_hotPop :
    ∃ (s : State) (x : Nat × Nat) (l : List (Nat × Nat)), managed s = true ∧ s.xlt.hot = x :: l :=
  ⟨st fun s => { s with xlt := { hot := [(1, 2)] } }, (1, 2), [], by decide +kernel⟩

/-- A state and operands that meet the hypotheses of AccessCounterCommands (pxcWaysWrite). -/
theorem witness_AccessCounterCommands_pxcWaysWrite :
    ∃ (s : State) (pt : Ptn) (mask : Nat), alive s = true ∧ mask < 65536 ∧ ((upTo 16).any fun q => q != pt.val && (mask &&& pxcWays s q) != 0) = false ∧ bitF s PART.DRUN_OPEN_OPEN pt = false ∧ mask ≠ pxcWays s pt :=
  ⟨st fun s => forAll (upTo 16) (fun s p => setF s (PXC.WAYS_MASK p) 0) s, 0, 3, by decide +kernel⟩

/-- A state and operands that meet the hypotheses of AccessCounterCommands (pxcWaysWrite_clash). -/
theorem witness_AccessCounterCommands_pxcWaysWrite_clash :
    ∃ (s : State) (pt : Ptn) (mask : Nat), alive s = true ∧ ((upTo 16).any fun q => q != pt.val && (mask % 65536 &&& pxcWays s q) != 0) = true :=
  ⟨st fun s => setF s (PXC.WAYS_MASK 1) 1, 0, 1, by decide +kernel⟩

/-- A state and operands that meet the hypotheses of RequestsAreServed (rdShared). -/
theorem witness_RequestsAreServed_rdShared :
    ∃ (s : State) (pid : Pid) (tag : Nat) (ties : List Pid) (r : Req) (line : Nat) (u t : State), alive s = true ∧ Serves s [0x01] pid tag (ties.map (·.val)) r line u t :=
  ⟨st fun s => { s with net := { store := [{ op := 0x01, line := some 0 }] } }, 0, 0, [], { op := 0x01, line := some 0 }, 0, st fun s => { s with net := { store := [{ op := 0x01, line := some 0 }] } }, wrapF (setDc (taking (st fun s => { s with net := { store := [{ op := 0x01, line := some 0 }] } }) { op := 0x01, line := some 0 } 0 []) 0 [(0, false)]) (DIR.DC_MISSES 0) 1, by unfold Serves Wins; decide +kernel⟩

/-- A state and operands that meet the hypotheses of RequestsAreServed (rdOwn). -/
theorem witness_RequestsAreServed_rdOwn :
    ∃ (s : State) (pid : Pid) (tag : Nat) (ties : List Pid) (r : Req) (line : Nat) (u t : State), alive s = true ∧ Serves s [0x02] pid tag (ties.map (·.val)) r line u t :=
  ⟨st fun s => { s with net := { store := [{ op := 0x02, line := some 0 }] } }, 0, 0, [], { op := 0x02, line := some 0 }, 0, st fun s => { s with net := { store := [{ op := 0x02, line := some 0 }] } }, wrapF (setDc (taking (st fun s => { s with net := { store := [{ op := 0x02, line := some 0 }] } }) { op := 0x02, line := some 0 } 0 []) 0 [(0, false)]) (DIR.DC_MISSES 0) 1, by unfold Serves Wins; decide +kernel⟩

/-- A state and operands that meet the hypotheses of RequestsAreServed (upgrade). -/
theorem witness_RequestsAreServed_upgrade :
    ∃ (s : State) (pid : Pid) (tag : Nat) (ties : List Pid) (r : Req) (line : Nat) (u t : State), alive s = true ∧ Serves s [0x03] pid tag (ties.map (·.val)) r line u t :=
  ⟨st fun s => { s with net := { store := [{ op := 0x03, line := some 0 }] } }, 0, 0, [], { op := 0x03, line := some 0 }, 0, st fun s => { s with net := { store := [{ op := 0x03, line := some 0 }] } }, wrapF (setDc (taking (st fun s => { s with net := { store := [{ op := 0x03, line := some 0 }] } }) { op := 0x03, line := some 0 } 0 []) 0 [(0, false)]) (DIR.DC_MISSES 0) 1, by unfold Serves Wins; decide +kernel⟩

/-- A state and operands that meet the hypotheses of RequestsAreServed (rdOnce). -/
theorem witness_RequestsAreServed_rdOnce :
    ∃ (s : State) (pid : Pid) (tag : Nat) (ties : List Pid) (r : Req) (line : Nat) (u t : State), alive s = true ∧ Serves s [0x04] pid tag (ties.map (·.val)) r line u t :=
  ⟨st fun s => { s with net := { store := [{ op := 0x04, line := some 0 }] } }, 0, 0, [], { op := 0x04, line := some 0 }, 0, st fun s => { s with net := { store := [{ op := 0x04, line := some 0 }] } }, wrapF (setDc (taking (st fun s => { s with net := { store := [{ op := 0x04, line := some 0 }] } }) { op := 0x04, line := some 0 } 0 []) 0 [(0, false)]) (DIR.DC_MISSES 0) 1, by unfold Serves Wins; decide +kernel⟩

/-- A state and operands that meet the hypotheses of RequestsAreServed (wrFull). -/
theorem witness_RequestsAreServed_wrFull :
    ∃ (s : State) (pid : Pid) (tag : Nat) (ties : List Pid) (r : Req) (line : Nat) (u t : State), alive s = true ∧ Serves s [0x05] pid tag (ties.map (·.val)) r line u t :=
  ⟨st fun s => { s with net := { store := [{ op := 0x05, line := some 0 }] } }, 0, 0, [], { op := 0x05, line := some 0 }, 0, st fun s => { s with net := { store := [{ op := 0x05, line := some 0 }] } }, wrapF (setDc (taking (st fun s => { s with net := { store := [{ op := 0x05, line := some 0 }] } }) { op := 0x05, line := some 0 } 0 []) 0 [(0, false)]) (DIR.DC_MISSES 0) 1, by unfold Serves Wins; decide +kernel⟩

/-- A state and operands that meet the hypotheses of RequestsAreServed (wrPart). -/
theorem witness_RequestsAreServed_wrPart :
    ∃ (s : State) (pid : Pid) (tag : Nat) (ties : List Pid) (r : Req) (line : Nat) (u t : State), alive s = true ∧ Serves s [0x06] pid tag (ties.map (·.val)) r line u t :=
  ⟨st fun s => { s with net := { store := [{ op := 0x06, line := some 0 }] } }, 0, 0, [], { op := 0x06, line := some 0 }, 0, st fun s => { s with net := { store := [{ op := 0x06, line := some 0 }] } }, wrapF (setDc (taking (st fun s => { s with net := { store := [{ op := 0x06, line := some 0 }] } }) { op := 0x06, line := some 0 } 0 []) 0 [(0, false)]) (DIR.DC_MISSES 0) 1, by unfold Serves Wins; decide +kernel⟩

/-- A state and operands that meet the hypotheses of RequestsAreServed (wb). -/
theorem witness_RequestsAreServed_wb :
    ∃ (s : State) (pid : Pid) (tag : Nat) (r : Req) (line : Nat) (u t : State), alive s = true ∧ Serves s [0x07] pid tag [] r line u t :=
  ⟨st fun s => { s with net := { store := [{ op := 0x07, line := some 0 }] } }, 0, 0, { op := 0x07, line := some 0 }, 0, st fun s => { s with net := { store := [{ op := 0x07, line := some 0 }] } }, wrapF (setDc (taking (st fun s => { s with net := { store := [{ op := 0x07, line := some 0 }] } }) { op := 0x07, line := some 0 } 0 []) 0 [(0, false)]) (DIR.DC_MISSES 0) 1, by unfold Serves Wins; decide +kernel⟩

/-- A state and operands that meet the hypotheses of RequestsAreServed (evict). -/
theorem witness_RequestsAreServed_evict :
    ∃ (s : State) (pid : Pid) (tag : Nat) (r : Req) (line : Nat) (u t : State), alive s = true ∧ Serves s [0x08] pid tag [] r line u t :=
  ⟨st fun s => { s with net := { store := [{ op := 0x08, line := some 0 }] } }, 0, 0, { op := 0x08, line := some 0 }, 0, st fun s => { s with net := { store := [{ op := 0x08, line := some 0 }] } }, wrapF (setDc (taking (st fun s => { s with net := { store := [{ op := 0x08, line := some 0 }] } }) { op := 0x08, line := some 0 } 0 []) 0 [(0, false)]) (DIR.DC_MISSES 0) 1, by unfold Serves Wins; decide +kernel⟩

/-- A state and operands that meet the hypotheses of RequestsAreServed (atomic). -/
theorem witness_RequestsAreServed_atomic :
    ∃ (s : State) (pid : Pid) (tag : Nat) (ties : List Pid) (r : Req) (line : Nat) (u t : State), alive s = true ∧ Serves s [0x09] pid tag (ties.map (·.val)) r line u t ∧ ((r.op = 0x09 → atomicBad r = false)) :=
  ⟨st fun s => { s with net := { store := [{ op := 0x09, line := some 0 }] } }, 0, 0, [], { op := 0x09, line := some 0 }, 0, st fun s => { s with net := { store := [{ op := 0x09, line := some 0 }] } }, wrapF (setDc (taking (st fun s => { s with net := { store := [{ op := 0x09, line := some 0 }] } }) { op := 0x09, line := some 0 } 0 []) 0 [(0, false)]) (DIR.DC_MISSES 0) 1, by unfold Serves Wins; decide +kernel⟩

/-- A state and operands that meet the hypotheses of DirectoryTransitions (rdSharedUnc). -/
theorem witness_DirectoryTransitions_rdSharedUnc :
    ∃ (s : State) (pid : Pid) (tag : Nat) (ties : List Pid) (r : Req) (line : Nat) (u t : State), alive s = true ∧ Serves s [0x01] pid tag (ties.map (·.val)) r line u t ∧ r.agent = .partner ∧ dirOf t line = .unc ∧ lineFails t line = false ∧ r.op = 0x01 :=
  ⟨st fun s => { s with net := { store := [{ op := 0x01, line := some 0 }] } }, 0, 0, [], { op := 0x01, line := some 0 }, 0, st fun s => { s with net := { store := [{ op := 0x01, line := some 0 }] } }, wrapF (setDc (taking (st fun s => { s with net := { store := [{ op := 0x01, line := some 0 }] } }) { op := 0x01, line := some 0 } 0 []) 0 [(0, false)]) (DIR.DC_MISSES 0) 1, by unfold Serves Wins; decide +kernel⟩

/-- A state and operands that meet the hypotheses of DirectoryTransitions (rdOwnUnc). -/
theorem witness_DirectoryTransitions_rdOwnUnc :
    ∃ (s : State) (pid : Pid) (tag : Nat) (ties : List Pid) (r : Req) (line : Nat) (u t : State), alive s = true ∧ Serves s [0x02] pid tag (ties.map (·.val)) r line u t ∧ r.agent = .partner ∧ dirOf t line = .unc ∧ lineFails t line = false ∧ r.op = 0x02 :=
  ⟨st fun s => { s with net := { store := [{ op := 0x02, line := some 0 }] } }, 0, 0, [], { op := 0x02, line := some 0 }, 0, st fun s => { s with net := { store := [{ op := 0x02, line := some 0 }] } }, wrapF (setDc (taking (st fun s => { s with net := { store := [{ op := 0x02, line := some 0 }] } }) { op := 0x02, line := some 0 } 0 []) 0 [(0, false)]) (DIR.DC_MISSES 0) 1, by unfold Serves Wins; decide +kernel⟩

/-- A state and operands that meet the hypotheses of DirectoryTransitions (rdOnceUnc). -/
theorem witness_DirectoryTransitions_rdOnceUnc :
    ∃ (s : State) (pid : Pid) (tag : Nat) (ties : List Pid) (r : Req) (line : Nat) (u t : State), alive s = true ∧ Serves s [0x04] pid tag (ties.map (·.val)) r line u t ∧ r.agent = .partner ∧ dirOf t line = .unc ∧ lineFails t line = false ∧ r.op = 0x04 :=
  ⟨st fun s => { s with net := { store := [{ op := 0x04, line := some 0 }] } }, 0, 0, [], { op := 0x04, line := some 0 }, 0, st fun s => { s with net := { store := [{ op := 0x04, line := some 0 }] } }, wrapF (setDc (taking (st fun s => { s with net := { store := [{ op := 0x04, line := some 0 }] } }) { op := 0x04, line := some 0 } 0 []) 0 [(0, false)]) (DIR.DC_MISSES 0) 1, by unfold Serves Wins; decide +kernel⟩

/-- A state and operands that meet the hypotheses of DirectoryTransitions (rdSharedExc). -/
theorem witness_DirectoryTransitions_rdSharedExc :
    ∃ (s : State) (pid : Pid) (tag : Nat) (ties : List Pid) (r : Req) (line : Nat) (u t : State) (o : Nat), alive s = true ∧ Serves s [0x01] pid tag (ties.map (·.val)) r line u t ∧ r.agent = .partner ∧ dirOf t line = .exc o ∧ pidLive t o = true ∧ r.pid ≠ o ∧ r.op = 0x01 :=
  ⟨st fun s => { setF s (PART.FENCE_STS_STATE 1) 1 with net := { store := [{ op := 0x01, line := some 0 }] }, coh := { dir := [(0, .exc 1)] } }, 0, 0, [], { op := 0x01, line := some 0 }, 0, st fun s => { setF s (PART.FENCE_STS_STATE 1) 1 with net := { store := [{ op := 0x01, line := some 0 }] }, coh := { dir := [(0, .exc 1)] } }, wrapF (setDc (taking (st fun s => { setF s (PART.FENCE_STS_STATE 1) 1 with net := { store := [{ op := 0x01, line := some 0 }] }, coh := { dir := [(0, .exc 1)] } }) { op := 0x01, line := some 0 } 0 []) 0 [(0, false)]) (DIR.DC_MISSES 0) 1, 1, by unfold Serves Wins; decide +kernel⟩

/-- A state and operands that meet the hypotheses of DirectoryTransitions (rdOwnExc). -/
theorem witness_DirectoryTransitions_rdOwnExc :
    ∃ (s : State) (pid : Pid) (tag : Nat) (ties : List Pid) (r : Req) (line : Nat) (u t : State) (o : Nat), alive s = true ∧ Serves s [0x02] pid tag (ties.map (·.val)) r line u t ∧ r.agent = .partner ∧ dirOf t line = .exc o ∧ pidLive t o = true ∧ r.pid ≠ o ∧ r.op = 0x02 :=
  ⟨st fun s => { setF s (PART.FENCE_STS_STATE 1) 1 with net := { store := [{ op := 0x02, line := some 0 }] }, coh := { dir := [(0, .exc 1)] } }, 0, 0, [], { op := 0x02, line := some 0 }, 0, st fun s => { setF s (PART.FENCE_STS_STATE 1) 1 with net := { store := [{ op := 0x02, line := some 0 }] }, coh := { dir := [(0, .exc 1)] } }, wrapF (setDc (taking (st fun s => { setF s (PART.FENCE_STS_STATE 1) 1 with net := { store := [{ op := 0x02, line := some 0 }] }, coh := { dir := [(0, .exc 1)] } }) { op := 0x02, line := some 0 } 0 []) 0 [(0, false)]) (DIR.DC_MISSES 0) 1, 1, by unfold Serves Wins; decide +kernel⟩

/-- A state and operands that meet the hypotheses of DirectoryTransitions (rdOwnShared). -/
theorem witness_DirectoryTransitions_rdOwnShared :
    ∃ (s : State) (pid : Pid) (tag : Nat) (ties : List Pid) (r : Req) (line : Nat) (u t : State) (p : Nat), alive s = true ∧ Serves s [0x02] pid tag (ties.map (·.val)) r line u t ∧ r.agent = .partner ∧ dirOf t line = .sh [p] ∧ pidLive t p = true ∧ r.pid ≠ p ∧ r.op = 0x02 :=
  ⟨st fun s => { setF s (PART.FENCE_STS_STATE 1) 1 with net := { store := [{ op := 0x02, line := some 0 }] }, coh := { dir := [(0, .sh [1])] } }, 0, 0, [], { op := 0x02, line := some 0 }, 0, st fun s => { setF s (PART.FENCE_STS_STATE 1) 1 with net := { store := [{ op := 0x02, line := some 0 }] }, coh := { dir := [(0, .sh [1])] } }, wrapF (setDc (taking (st fun s => { setF s (PART.FENCE_STS_STATE 1) 1 with net := { store := [{ op := 0x02, line := some 0 }] }, coh := { dir := [(0, .sh [1])] } }) { op := 0x02, line := some 0 } 0 []) 0 [(0, false)]) (DIR.DC_MISSES 0) 1, 1, by unfold Serves Wins; decide +kernel⟩

/-- A state and operands that meet the hypotheses of AnswersToTheDirectory (invAck). -/
theorem witness_AnswersToTheDirectory_invAck :
    ∃ (s : State) (core : Core) (pid : Pid) (off : Nat) (t : Txn), alive s = true ∧ txnOf s (lineAt core off) = some t ∧ t.invs.contains pid.val = true :=
  ⟨st fun s => { s with coh := { txns := [(0, some { req := {}, invs := [0, 1] })] } }, 0, 0, 0, { req := {}, invs := [0, 1] }, by decide +kernel⟩

/-- A state and operands that meet the hypotheses of AnswersToTheDirectory (snpAck). -/
theorem witness_AnswersToTheDirectory_snpAck :
    ∃ (s : State) (core : Core) (pid : Pid) (off : Nat) (isNew : Bool) (t : Txn), alive s = true ∧ txnOf s (lineAt core off) = some t ∧ awaitsOwner t pid = true ∧ t.snoop ≠ 0x21 ∧ t.snoop ≠ 0x22 :=
  ⟨st fun s => { s with coh := { txns := [(0, some { req := {}, snoop := 0x24 })] } }, 0, 0, 0, false, { req := {}, snoop := 0x24 }, by decide +kernel⟩

/-- A state and operands that meet the hypotheses of AnswersToTheDirectory (snpData). -/
theorem witness_AnswersToTheDirectory_snpData :
    ∃ (s : State) (core : Core) (pid : Pid) (off : Nat) (isNew : Bool) (data : Nat) (t : Txn), alive s = true ∧ txnOf s (lineAt core off) = some t ∧ awaitsOwner t pid = true :=
  ⟨st fun s => { s with coh := { txns := [(0, some { req := {}, snoop := 0x24 })] } }, 0, 0, 0, false, 0, { req := {}, snoop := 0x24 }, by decide +kernel⟩

/-- A state and operands that meet the hypotheses of AnswersToTheDirectory (snpFwded). -/
theorem witness_AnswersToTheDirectory_snpFwded :
    ∃ (s : State) (core : Core) (pid : Pid) (off : Nat) (data : Option Nat) (t : Txn), alive s = true ∧ txnOf s (lineAt core off) = some t ∧ awaitsOwner t pid = true :=
  ⟨st fun s => { s with coh := { txns := [(0, some { req := {}, snoop := 0x22 })] } }, 0, 0, 0, none, { req := {}, snoop := 0x22 }, by decide +kernel⟩

/-- A state and operands that meet the hypotheses of AnswersToTheDirectory (wbPending). -/
theorem witness_AnswersToTheDirectory_wbPending :
    ∃ (s : State) (core : Core) (pid : Pid) (off : Nat) (t : Txn), alive s = true ∧ txnOf s (lineAt core off) = some t ∧ awaitsOwner t pid = true ∧ t.held = none :=
  ⟨st fun s => { s with coh := { txns := [(0, some { req := {}, snoop := 0x22 })] } }, 0, 0, 0, { req := {}, snoop := 0x22 }, by decide +kernel⟩

/-- A state and operands that meet the hypotheses of AnswersToTheDirectory (compAck). -/
theorem witness_AnswersToTheDirectory_compAck :
    ∃ (s : State) (core : Core) (pid : Pid) (off : Nat) (t : Txn), alive s = true ∧ txnOf s (lineAt core off) = some t ∧ t.comp = true ∧ t.req.pid = pid.val ∧ t.snoop = 0 :=
  ⟨st fun s => { s with coh := { txns := [(0, some { req := {}, comp := true })] } }, 0, 0, 0, { req := {}, comp := true }, by decide +kernel⟩

/-- A state and operands that meet the hypotheses of AnswersToTheDirectory (compAck_breach). -/
theorem witness_AnswersToTheDirectory_compAck_breach :
    ∃ (s : State) (core : Core) (pid : Pid) (off : Nat), alive s = true ∧ txnOf s (lineAt core off) = none :=
  ⟨State.reset, 0, 0, 0, by decide +kernel⟩

/-- A state and operands that meet the hypotheses of AnswersToTheDirectory (pushAck). -/
theorem witness_AnswersToTheDirectory_pushAck :
    ∃ (s : State) (core : Core) (pid : Pid) (off : Nat) (t : Txn), alive s = true ∧ txnOf s (lineAt core off) = some t ∧ t.push = some pid.val :=
  ⟨st fun s => { s with coh := { txns := [(0, some { req := {}, push := some 0 })] } }, 0, 0, 0, { req := {}, push := some 0 }, by decide +kernel⟩

/-- A state and operands that meet the hypotheses of AnswersToTheDirectory (pushDecline). -/
theorem witness_AnswersToTheDirectory_pushDecline :
    ∃ (s : State) (core : Core) (pid : Pid) (off : Nat) (t : Txn), alive s = true ∧ txnOf s (lineAt core off) = some t ∧ t.push = some pid.val :=
  ⟨st fun s => { s with coh := { txns := [(0, some { req := {}, push := some 0 })] } }, 0, 0, 0, { req := {}, push := some 0 }, by decide +kernel⟩

/-- A state and operands that meet the hypotheses of VersionWords (publish). -/
theorem witness_VersionWords_publish :
    ∃ (s : State) (pid : Pid) (tag : Nat) (ties : List Pid) (r : Req) (u t : State), alive s = true ∧ findReq s pid tag [0x0A] = some r ∧ r.op = 0x0A ∧ coreUp s (regionCore r.pva) = true ∧ (linkTime s (regionCore r.pva) r.pt s.time.ft).map (advanceFt s) = some u ∧ wins u (regionCore r.pva) r (ties.map (·.val)) = (true, t) ∧ flag t (DIR.RGN_CTL_V (regionCore r.pva) (r.pva % 256)) = true ∧ getF t (DIR.RGN_CTL_PT (regionCore r.pva) (r.pva % 256)) = r.pt ∧ flag t (DIR.RGN_CTL_LOCK (regionCore r.pva) (r.pva % 256)) = false ∧ getF t (DIR.RGN_VER (regionCore r.pva) (r.pva % 256)) = r.data % 2 ^ 64 :=
  ⟨st fun s => { setB s (DIR.RGN_CTL_V 0 0) true with net := { store := [{ op := 0x0A }] } }, 0, 0, [], { op := 0x0A }, st fun s => { setB s (DIR.RGN_CTL_V 0 0) true with net := { store := [{ op := 0x0A }] } }, st fun s => { setB s (DIR.RGN_CTL_V 0 0) true with net := { store := [{ op := 0x0A }] } }, by decide +kernel⟩

/-- A state and operands that meet the hypotheses of VersionWords (rdVersion). -/
theorem witness_VersionWords_rdVersion :
    ∃ (s : State) (pid : Pid) (tag : Nat) (ties : List Pid) (r : Req) (u t : State), alive s = true ∧ findReq s pid tag [0x0B] = some r ∧ r.op = 0x0B ∧ coreUp s (regionCore r.pva) = true ∧ (linkTime s (regionCore r.pva) r.pt s.time.ft).map (advanceFt s) = some u ∧ wins u (regionCore r.pva) r (ties.map (·.val)) = (true, t) ∧ flag t (DIR.RGN_CTL_V (regionCore r.pva) (r.pva % 256)) = true ∧ getF t (DIR.RGN_CTL_PT (regionCore r.pva) (r.pva % 256)) = r.pt :=
  ⟨st fun s => { setB s (DIR.RGN_CTL_V 0 0) true with net := { store := [{ op := 0x0B }] } }, 0, 0, [], { op := 0x0B }, st fun s => { setB s (DIR.RGN_CTL_V 0 0) true with net := { store := [{ op := 0x0B }] } }, st fun s => { setB s (DIR.RGN_CTL_V 0 0) true with net := { store := [{ op := 0x0B }] } }, by decide +kernel⟩

/-- A state and operands that meet the hypotheses of VersionWords (rgnCtlWrite). -/
theorem witness_VersionWords_rgnCtlWrite :
    ∃ (s : State) (core : Core) (v : Nat), alive s = true ∧ coreUp s core = true ∧ flag s (DIR.RGN_CTL_V core (getF s (DIR.RGN_SEL_INDEX core))) = false ∧ v.testBit 0 = true ∧ ownerOf s core = some (bitsOf v 2 4) :=
  ⟨mapped, 0, 1, by decide +kernel⟩

/-- A state and operands that meet the hypotheses of VersionWords (rgnVerWrite). -/
theorem witness_VersionWords_rgnVerWrite :
    ∃ (s : State) (core : Core) (hi : Bool) (v : Nat), alive s = true ∧ coreUp s core = true ∧ flag s (DIR.RGN_CTL_V core (getF s (DIR.RGN_SEL_INDEX core))) = false :=
  ⟨State.reset, 0, false, 0, by decide +kernel⟩

/-- A state and operands that meet the hypotheses of VersionWords (rgnVerWrite_refused). -/
theorem witness_VersionWords_rgnVerWrite_refused :
    ∃ (s : State) (core : Core) (hi : Bool) (v : Nat), alive s = true ∧ coreUp s core = true ∧ flag s (DIR.RGN_CTL_V core (getF s (DIR.RGN_SEL_INDEX core))) = true :=
  ⟨st fun s => setB s (DIR.RGN_CTL_V 0 0) true, 0, false, 0, by decide +kernel⟩

/-- A state and operands that meet the hypotheses of VersionWords (unknownOpcode). -/
theorem witness_VersionWords_unknownOpcode :
    ∃ (s : State) (core : Core) (pid : Pid) (opcode off : Nat), alive s = true ∧ opcodeKnown (opcode % 256) = false :=
  ⟨State.reset, 0, 0, 0, 0, by decide +kernel⟩

/-- A state and operands that meet the hypotheses of LeasesAndFencing (leaseRenew). -/
theorem witness_LeasesAndFencing_leaseRenew :
    ∃ (s : State) (pid : Pid) (seq : Nat) (port : Port), alive s = true ∧ pidState s pid = 1 ∧ s.boot.admitted = true :=
  ⟨st fun s => { setF s (PART.FENCE_STS_STATE 0) 1 with boot := { admitted := true } }, 0, 0, 0, by decide +kernel⟩

/-- A state and operands that meet the hypotheses of LeasesAndFencing (leaseRenew_early). -/
theorem witness_LeasesAndFencing_leaseRenew_early :
    ∃ (s : State) (pid : Pid) (seq : Nat) (port : Port), alive s = true ∧ pidState s pid = 1 ∧ s.boot.admitted = false :=
  ⟨st fun s => setF s (PART.FENCE_STS_STATE 0) 1, 0, 0, 0, by decide +kernel⟩

/-- A state and operands that meet the hypotheses of LeasesAndFencing (leaseRenew_fenced). -/
theorem witness_LeasesAndFencing_leaseRenew_fenced :
    ∃ (s : State) (pid : Pid) (seq : Nat) (port : Port), alive s = true ∧ 2 ≤ pidState s pid :=
  ⟨st fun s => setF s (PART.FENCE_STS_STATE 0) 2, 0, 0, 0, by decide +kernel⟩

/-- A state and operands that meet the hypotheses of LeasesAndFencing (leaseRenew_unbound). -/
theorem witness_LeasesAndFencing_leaseRenew_unbound :
    ∃ (s : State) (pid : Pid) (seq : Nat) (port : Port), alive s = true ∧ pidState s pid = 0 :=
  ⟨powered, 0, 0, 0, by decide +kernel⟩

/-- A state and operands that meet the hypotheses of LeasesAndFencing (partnerLeaseCheck). -/
theorem witness_LeasesAndFencing_partnerLeaseCheck :
    ∃ (s : State) (t : State), alive s = true ∧ t = atPeriodic s 2 65536 2048 ∧ t.boot.admitted = true :=
  ⟨st fun s => { s with boot := { admitted := true } }, atPeriodic (st fun s => { s with boot := { admitted := true } }) 2 65536 2048, by decide +kernel⟩

/-- A state and operands that meet the hypotheses of LeasesAndFencing (fence). -/
theorem witness_LeasesAndFencing_fence :
    ∃ (s : State), alive s = true ∧ pidLive s (getF s PART.FENCE_PID_PID) = true :=
  ⟨st fun s => setF s (PART.FENCE_STS_STATE 0) 1, by decide +kernel⟩

/-- A state and operands that meet the hypotheses of LeasesAndFencing (release). -/
theorem witness_LeasesAndFencing_release :
    ∃ (s : State), alive s = true ∧ pidState s (getF s PART.FENCE_PID_PID) = 2 ∧ runOpen s (pidPt s (getF s PART.FENCE_PID_PID)) = false :=
  ⟨st fun s => setF s (PART.FENCE_STS_STATE 0) 2, by decide +kernel⟩

/-- A state and operands that meet the hypotheses of LeasesAndFencing (sweepDone). -/
theorem witness_LeasesAndFencing_sweepDone :
    ∃ (s : State) (pt : Ptn) (ps : List Nat), alive s = true ∧ Store.get [] s.coh.sweeps pt = ps ∧ ps ≠ [] :=
  ⟨st fun s => { s with coh := { sweeps := [(0, [1])] } }, 0, [1], by decide +kernel⟩

/-- A state and operands that meet the hypotheses of LeasesAndFencing (unfence). -/
theorem witness_LeasesAndFencing_unfence :
    ∃ (s : State), alive s = true ∧ pidState s (getF s PART.FENCE_PID_PID) = 4 :=
  ⟨st fun s => setF s (PART.FENCE_STS_STATE 0) 4, by decide +kernel⟩

/-- A state and operands that meet the hypotheses of LeasesAndFencing (fencePop). -/
theorem witness_LeasesAndFencing_fencePop :
    ∃ (s : State), managed s = true ∧ s.coh.fences ≠ [] :=
  ⟨st fun s => { s with coh := { fences := [3] } }, by decide +kernel⟩

/-- A state and operands that meet the hypotheses of CommandApertures (cmdWriteDesc). -/
theorem witness_CommandApertures_cmdWriteDesc :
    ∃ (s : State) (pid : Pid) (tag : Nat) (ties : List Pid) (r : Req), alive s = true ∧ findReq s pid tag [0x0C] = some r ∧ apOff r = 0 ∧ r.pva < 2 ^ 16 ∧ detOn s = false ∧ apRefusal s r = none ∧ (fifoOf s (apCore r) r.pt).length < 32 :=
  ⟨{ mapped with net := { store := [{ op := 0x0C, pva := 0, data := 0 }] } }, 0, 0, [], { op := 0x0C, pva := 0, data := 0 }, by decide +kernel⟩

/-- A state and operands that meet the hypotheses of CommandApertures (cmdWriteDesc_full). -/
theorem witness_CommandApertures_cmdWriteDesc_full :
    ∃ (s : State) (pid : Pid) (tag : Nat) (ties : List Pid) (r : Req), alive s = true ∧ findReq s pid tag [0x0C] = some r ∧ apOff r = 0 ∧ r.pva < 2 ^ 16 ∧ detOn s = false ∧ apRefusal s r = none ∧ 32 ≤ (fifoOf s (apCore r) r.pt).length :=
  ⟨{ mapped with
    net := { store := [{ op := 0x0C }] }, eng := { fifos := [(0, List.replicate 32 { desc := 0, num := 0 })] } }, 0, 0, [], { op := 0x0C }, by decide +kernel⟩

/-- A state and operands that meet the hypotheses of CommandApertures (cmdRead). -/
theorem witness_CommandApertures_cmdRead :
    ∃ (s : State) (pid : Pid) (tag : Nat) (ties : List Pid) (r : Req), alive s = true ∧ findReq s pid tag [0x0D] = some r ∧ apOff r = 0x040 ∧ r.pva < 2 ^ 16 ∧ detOn s = false ∧ apRefusal s r = none :=
  ⟨{ mapped with net := { store := [{ op := 0x0D, pva := 0x040, data := 0 }] } }, 0, 0, [], { op := 0x0D, pva := 0x040, data := 0 }, by decide +kernel⟩

/-- A state and operands that meet the hypotheses of CommandApertures (cmdWriteFlush). -/
theorem witness_CommandApertures_cmdWriteFlush :
    ∃ (s : State) (pid : Pid) (tag : Nat) (ties : List Pid) (r : Req), alive s = true ∧ findReq s pid tag [0x0C] = some r ∧ apOff r = 0x048 ∧ r.pva < 2 ^ 16 ∧ detOn s = false ∧ apRefusal s r = none ∧ r.data % 2 ^ 512 < 2 ∧ r.data % 2 = 1 :=
  ⟨{ mapped with net := { store := [{ op := 0x0C, pva := 0x048, data := 1 }] } }, 0, 0, [], { op := 0x0C, pva := 0x048, data := 1 }, by decide +kernel⟩

/-- A state and operands that meet the hypotheses of CommandApertures (seqCmdFlush). -/
theorem witness_CommandApertures_seqCmdFlush :
    ∃ (s : State) (core : Core), alive s = true ∧ coreUp s core = true ∧ (ownerOf s core).isSome = true :=
  ⟨mapped, 0, by decide +kernel⟩

/-- A state and operands that meet the hypotheses of CommandApertures (flushTakesEffect). -/
theorem witness_CommandApertures_flushTakesEffect :
    ∃ (s : State) (core : Core) (n : Nat) (pt : Nat), alive s = true ∧ expanding s core = false ∧ flushMark s core = some n ∧ ownerOf s core = some pt ∧ Store.get false s.eng.markCmd core = true :=
  ⟨{ mapped with eng := { mark := [(0, 1)], markCmd := [(0, true)] } }, 0, 0, 0, by decide +kernel⟩

/-- A state and operands that meet the hypotheses of DescriptorsAreRead (descRead). -/
theorem witness_DescriptorsAreRead_descRead :
    ∃ (s : State) (core : Core) (pt : Nat) (e : FifoEnt) (rest : List FifoEnt), alive s = true ∧ ownerOf s core = some pt ∧ coreUp s core = true ∧ passive s core = false ∧ flushMark s core = none ∧ (s.eng.shares.any fun h => h.core == core.val && h.lead == core.val && h.phase ≤ 2) = false ∧ fifoOf s core pt = e :: rest ∧ e.img = none ∧ e.words = [] ∧ badField e.desc core (runsFor s pt) = none ∧ dTrng e.desc = false :=
  ⟨{ mapped with eng := { fifos := [(0, [{ desc := goodDesc, num := 0 }])] } }, 0, 0, { desc := goodDesc, num := 0 }, [], by decide +kernel⟩

/-- A state and operands that meet the hypotheses of DescriptorsAreRead (descRead_fetched). -/
theorem witness_DescriptorsAreRead_descRead_fetched :
    ∃ (s : State) (core : Core) (pt : Nat) (e : FifoEnt) (rest : List FifoEnt), alive s = true ∧ ownerOf s core = some pt ∧ coreUp s core = true ∧ passive s core = false ∧ flushMark s core = none ∧ (s.eng.shares.any fun h => h.core == core.val && h.lead == core.val && h.phase ≤ 2) = false ∧ fifoOf s core pt = e :: rest ∧ e.img = none ∧ e.words ≠ [] ∧ dPat e.desc ≠ 0 ∧ dOrder e.desc = false ∧ badField e.desc core (runsFor s pt) = none ∧ dTrng e.desc = false :=
  ⟨{ mapped with eng := { fifos := [(0, [{ desc := goodDesc + 2 ^ 198, num := 0, words := [0x101, 2 ^ 61] }])] } }, 0, 0, { desc := goodDesc + 2 ^ 198, num := 0, words := [0x101, 2 ^ 61] }, [], by decide +kernel⟩

/-- A state and operands that meet the hypotheses of DescriptorsAreRead (descRead_bad). -/
theorem witness_DescriptorsAreRead_descRead_bad :
    ∃ (s : State) (core : Core) (pt : Nat) (e : FifoEnt) (rest : List FifoEnt) (o : Nat), alive s = true ∧ ownerOf s core = some pt ∧ coreUp s core = true ∧ passive s core = false ∧ flushMark s core = none ∧ (s.eng.shares.any fun h => h.core == core.val && h.lead == core.val && h.phase ≤ 2) = false ∧ fifoOf s core pt = e :: rest ∧ e.img = none ∧ badField e.desc core (runsFor s pt) = some o :=
  ⟨{ mapped with eng := { fifos := [(0, [{ desc := 0, num := 0 }])] } }, 0, 0, { desc := 0, num := 0 }, [], 0, by decide +kernel⟩

/-- A state and operands that meet the hypotheses of DescriptorsAreRead (orderRelease). -/
theorem witness_DescriptorsAreRead_orderRelease :
    ∃ (s : State) (core : Core) (h : Share), alive s = true ∧ (pumpRecs s).eng.shares.find? (fun h => h.core == core.val && h.lead == core.val && h.phase == 0) = some h ∧ earlierOpen (pumpRecs s) core h.num = false :=
  ⟨{ mapped with eng := { shares := [{ job := 1, core := 0, lead := 0, pt := 0, desc := 0, phase := 0 }] } }, 0, { job := 1, core := 0, lead := 0, pt := 0, desc := 0, phase := 0 }, by decide +kernel⟩

/-- A state and operands that meet the hypotheses of DescriptorsAreRead (patternFetchDone). -/
theorem witness_DescriptorsAreRead_patternFetchDone :
    ∃ (s : State) (core : Core) (pt : Nat) (h : Share) (w v : Nat) (x t u : State), alive s = true ∧ ownerOf s core = some pt ∧ Crossed s core pt x ∧ x.eng.shares.find? (fun h => h.core == core.val && h.lead == core.val && h.phase == 1) = some h ∧ seqRead x core seqEng h.pt (dPat h.desc : Nat) 8 = (.ok w, t) ∧ seqRead t core seqEng h.pt (dPat h.desc : Nat) (8 * (w % 64 + 1)) = (.ok v, u) ∧ staticBreach (elems 64 (w % 64 + 1) v) = none :=
  ⟨fetching, 0, 0, fetchShare, 0x101, 0x101 + 2 ^ 125, fetching, (seqRead fetching 0 seqEng 0 64 8).2, (seqRead (seqRead fetching 0 seqEng 0 64 8).2 0 seqEng 0 64 16).2, by unfold Crossed; decide +kernel⟩

/-- A state and operands that meet the hypotheses of DescriptorsAreRead (patternFetchDone_ahead). -/
theorem witness_DescriptorsAreRead_patternFetchDone_ahead :
    ∃ (s : State) (core : Core) (pt : Nat) (e : FifoEnt) (ws : List Nat) (x u : State), alive s = true ∧ ownerOf s core = some pt ∧ Crossed s core pt x ∧ x.eng.shares.find? (fun h => h.core == core.val && h.lead == core.val && h.phase == 1) = none ∧ ownerOf x core = some pt ∧ aheadOf x core pt = some e ∧ readBlock x core pt e.desc = (.ok ws, u) :=
  ⟨aheadFetch, 0, 0, { desc := goodDesc + 2 ^ 198, num := 0 }, [0x101, 2 ^ 61], aheadFetch, (readBlock aheadFetch 0 0 (goodDesc + 2 ^ 198)).2, by unfold Crossed; decide +kernel⟩

/-- A state and operands that meet the hypotheses of DescriptorsAreRead (segment). -/
theorem witness_DescriptorsAreRead_segment :
    ∃ (s : State) (core dest : Core) (h : Share), alive s = true ∧ s.eng.shares.find? (fun h => h.core == core.val && h.lead == core.val && h.toSend.contains dest.val) = some h ∧ coreUp s dest = true ∧ (segQueue s dest).length < 32 :=
  ⟨{ mapped with eng := { shares := [{ job := 1, core := 0, lead := 0, pt := 0, desc := 0, phase := 2, toSend := [0] }] } }, 0, 0, { job := 1, core := 0, lead := 0, pt := 0, desc := 0, phase := 2, toSend := [0] }, by decide +kernel⟩

/-- A state and operands that meet the hypotheses of DescriptorsAreRead (segmentReport). -/
theorem witness_DescriptorsAreRead_segmentReport :
    ∃ (s : State) (core lead : Core) (num : Nat) (h l : Share), alive s = true ∧ s.eng.shares.find? (fun h => h.core == core.val && h.lead == lead.val && h.num == num && h.phase == 3) = some h ∧ shareIdle s h = true ∧ dLong h.desc = true ∧ core ≠ lead ∧ collOf s h.core = none ∧ findShare s h.job lead = some l :=
  ⟨{ mapped with eng := { shares := [longShare 0, { longShare 1 with phase := 3 }] } }, 1, 0, 0, { longShare 1 with phase := 3 }, longShare 0, by decide +kernel⟩

/-- A state and operands that meet the hypotheses of TilesAreFormed (tileEmit). -/
theorem witness_TilesAreFormed_tileEmit :
    ∃ (s : State) (core : Core) (seg : Bool) (h k : Share) (rs : List Rows) (w : Nat) (aux : List Nat), alive s = true ∧ coreUp s core = true ∧ ctxShare s core seg = some h ∧ h.begun = true ∧ Share.patRun patBudget h = (k, .tile rs w aux) :=
  ⟨{ mapped with eng := { shares := [emitShare] } }, 0, false, emitShare, emitShare.goto 2, [⟨0, 0, 64, 1, 0⟩], 1, [], by decide +kernel⟩

/-- A state and operands that meet the hypotheses of TilesAreFormed (tileEmit_end). -/
theorem witness_TilesAreFormed_tileEmit_end :
    ∃ (s : State) (core : Core) (seg : Bool) (h k : Share), alive s = true ∧ coreUp s core = true ∧ ctxShare s core seg = some h ∧ h.begun = true ∧ Share.patRun patBudget h = (k, .fin) :=
  ⟨{ mapped with eng := { shares := [emitShare.goto 2] } }, 0, false, emitShare.goto 2, emitShare.goto 2, by decide +kernel⟩

/-- A state and operands that meet the hypotheses of TilesAreFormed (indexArrival). -/
theorem witness_TilesAreFormed_indexArrival :
    ∃ (s : State) (core : Core) (seg : Bool) (ahead : Nat) (h k : Share) (a : Int) (n : Nat) (m : Store Nat) (x t : State), alive s = true ∧ coreUp s core = true ∧ ctxShare s core seg = some h ∧ Crossed s core h.pt x ∧ ctxShare x core seg = some k ∧ k.want = some (a, n) ∧ k.ibuf = [] ∧ rangeLines a.toNat n ≠ [] ∧ seqLines x core seqEng k.pt a n = (.ok m, t) :=
  ⟨{ mapped with eng := { shares := [{ emitShare with want := some (0, 8) }] } }, 0, false, 0, { emitShare with want := some (0, 8) }, { emitShare with want := some (0, 8) }, 0, 8, [(0, 0)], { mapped with eng := { shares := [{ emitShare with want := some (0, 8) }] } }, (seqLines ({ mapped with eng := { shares := [{ emitShare with want := some (0, 8) }] } }) 0 seqEng 0 0 8).2, by unfold Crossed; decide +kernel⟩

/-- A state and operands that meet the hypotheses of TilesAreFormed (tierHint). -/
theorem witness_TilesAreFormed_tierHint :
    ∃ (s : State) (core : Core) (seg : Bool) (n va a : Nat) (x : Tile) (t : State), alive s = true ∧ coreUp s core = true ∧ ((readyOf s core seg.toNat).find? (fun x => x.t == n && x.rows.any fun r => (rowVas r).any fun a => decide (a ≤ va ∧ va < a + r.bytes)) = some x) ∧ n + 1 ≤ Store.get 0 s.eng.sent (x.job * 16 + core) + getF s (SCORE.TIER_AHEAD_TILES core) ∧ pagePlace s core seqEng x.pt va 0 = (.ok (.tier a), t) :=
  ⟨hinting, 0, false, 0, 0, 0, hintTile, (pagePlace hinting 0 seqEng 0 0 0).2, by decide +kernel⟩

/-- A state and operands that meet the hypotheses of TilesInEngines (tileDispatch). -/
theorem witness_TilesInEngines_tileDispatch :
    ∃ (s : State) (core : Core) (ctx : Nat) (x : Tile) (k : Nat), alive s = true ∧ coreUp s core = true ∧ collOf s core = none ∧ (readyHeads s core).findSome? (fun p => (engineFor s core p.2).map fun k => (p.1, p.2, k)) = some (ctx, x, k) :=
  ⟨{ mapped with eng := { ready := [(0, [hintTile])] } }, 0, 0, hintTile, 0, by decide +kernel⟩

/-- A state and operands that meet the hypotheses of TilesInEngines (tileDispatch_coll). -/
theorem witness_TilesInEngines_tileDispatch_coll :
    ∃ (s : State) (core : Core) (ctx : Nat) (x : Tile) (k : Nat) (q : Coll), alive s = true ∧ coreUp s core = true ∧ collStopNow s core = s ∧ (readyHeads s core).findSome? (fun p => (engineFor s core p.2).map fun k => (p.1, p.2, k)) = some (ctx, x, k) ∧ collOf s core = some q ∧ q.job = x.job ∧ (q.tiles.any fun y => y.t == x.t) = false :=
  ⟨granting, 0, 0, hintTile, 0, { job := 1, pt := 0, pids := [1] }, by decide +kernel⟩

/-- A state and operands that meet the hypotheses of TilesInEngines (tileExecute). -/
theorem witness_TilesInEngines_tileExecute :
    ∃ (s : State) (core : Core) (eng : Eng) (found : Fin 12) (bad : List Nat) (ahead : Nat) (ties : Ties) (x y : Tile) (h : Share) (m : Store Place) (ls : List (Nat × Nat)) (got : Store Nat) (a b t u v w : State), alive s = true ∧ coreUp s core = true ∧ collOf s core = none ∧ (queueAt s (engIdx core eng)).head? = some x ∧ findShare s x.job core = some h ∧ x.core = core.val ∧ x.st = 0 ∧ x.begun = true ∧ dOp h.desc ≠ 7 ∧ dOp h.desc ≠ 13 ∧ h.img = none ∧ found.val ≠ 10 ∧ Crossed s core x.pt a ∧ onShare (putTile a eng x) x.job core (fun h => { h with start := minStart h.start (some a.time.ft) }) = b ∧ tilePages b eng x (rowsOf x (readStreams h.desc)) (rowsOf x (writeStreams h.desc)) = (.ok m, t) ∧ reachLines t core eng x.pt ((firstOf (fun v => v) (linesMissing (joinBuf (residentOf t (engIdx core eng) x.job) x.input) (rowsOf x (readStreams h.desc)) ++ linesOf (rowsOf x (writeStreams h.desc)))).map fun v => (v, linePlace m v)) = (.ok ls, u) ∧ ((ls.filter fun p => (linesMissing (joinBuf (residentOf t (engIdx core eng) x.job) x.input) (rowsOf x (readStreams h.desc))).contains p.1).any fun p => yields b ties (engIdx core eng) x.pt p.2 p.1) = false ∧ fetchLines u core eng x.pt (ls.filter fun p => (linesMissing (joinBuf (residentOf t (engIdx core eng) x.job) x.input) (rowsOf x (readStreams h.desc))).contains p.1) = (.ok got, v) ∧ keepLines v (engIdx core eng) h x got = (y, w) ∧ y.core = core.val ∧ detection y found = none ∧ (tileResult (putTile w eng y) h y (joinBuf (residentOf (putTile w eng y) (engIdx core eng) y.job) y.input)).bad = false :=
  ⟨running aTile, 0, 0, 0, [], 0, {}, aTile, aTile, emitShare, [], [], [], running aTile, onShare (putTile (running aTile) 0 aTile) 1 0 fun h => { h with start := minStart h.start (some (running aTile).time.ft) }, onShare (putTile (running aTile) 0 aTile) 1 0 fun h => { h with start := minStart h.start (some (running aTile).time.ft) }, onShare (putTile (running aTile) 0 aTile) 1 0 fun h => { h with start := minStart h.start (some (running aTile).time.ft) }, onShare (putTile (running aTile) 0 aTile) 1 0 fun h => { h with start := minStart h.start (some (running aTile).time.ft) }, onShare (putTile (running aTile) 0 aTile) 1 0 fun h => { h with start := minStart h.start (some (running aTile).time.ft) }, by unfold Crossed; decide +kernel⟩

/-- A state and operands that meet the hypotheses of TilesInEngines (tileReexecute). -/
theorem witness_TilesInEngines_tileReexecute :
    ∃ (s : State) (core : Core) (eng : Eng) (x : Tile), alive s = true ∧ coreUp s core = true ∧ (queueAt s (engIdx core eng)).head? = some x ∧ x.st = 1 ∧ x.attempt = 1 ∧ getF s (ENG.DET_SINCE_ST_COUNT (engIdx x.core eng)) < 8 :=
  ⟨running { aTile with st := 1 }, 0, 0, { aTile with st := 1 }, by decide +kernel⟩

/-- A state and operands that meet the hypotheses of TilesInEngines (tileReexecute_second). -/
theorem witness_TilesInEngines_tileReexecute_second :
    ∃ (s : State) (core : Core) (eng : Eng) (x : Tile), alive s = true ∧ coreUp s core = true ∧ (queueAt s (engIdx core eng)).head? = some x ∧ x.st = 1 ∧ x.attempt = 2 :=
  ⟨running { aTile with st := 1, attempt := 2 }, 0, 0, { aTile with st := 1, attempt := 2 }, by decide +kernel⟩

/-- A state and operands that meet the hypotheses of TilesInEngines (tileReexecute_third). -/
theorem witness_TilesInEngines_tileReexecute_third :
    ∃ (s : State) (core : Core) (eng : Eng) (x : Tile), alive s = true ∧ coreUp s core = true ∧ (queueAt s (engIdx core eng)).head? = some x ∧ x.st = 1 ∧ x.attempt = 3 :=
  ⟨running { aTile with st := 1, attempt := 3 }, 0, 0, { aTile with st := 1, attempt := 3 }, by decide +kernel⟩

/-- A state and operands that meet the hypotheses of TilesInEngines (detLimit). -/
theorem witness_TilesInEngines_detLimit :
    ∃ (s : State) (core : Core) (eng : Eng), alive s = true ∧ coreUp s core = true ∧ 8 ≤ getF s (ENG.DET_SINCE_ST_COUNT (engIdx core eng)) ∧ engFailed s core eng = false ∧ queueAt s (engIdx core eng) = [] :=
  ⟨setF mapped (ENG.DET_SINCE_ST_COUNT 0) 8, 0, 0, by decide +kernel⟩

/-- A state and operands that meet the hypotheses of TilesInEngines (tileDone). -/
theorem witness_TilesInEngines_tileDone :
    ∃ (s : State) (core : Core) (eng : Eng) (ties : Ties) (x : Tile) (h : Share) (t u : State), alive s = true ∧ coreUp s core = true ∧ (queueAt s (engIdx core eng)).head? = some x ∧ findShare s x.job core = some h ∧ x.st = 2 ∧ takeFail s (engIdx core eng) = (none, t) ∧ issueWrites core eng x.pt x.hint (yields t ties (engIdx core eng) x.pt) x.out t = ([], u) ∧ x.lines.any (writePending (putTile u eng { x with out := [] }) (engIdx core eng)) = false :=
  ⟨running { aTile with st := 2 }, 0, 0, {}, { aTile with st := 2 }, emitShare, (takeFail (running { aTile with st := 2 }) 0).2, (takeFail (running { aTile with st := 2 }) 0).2, by decide +kernel⟩

/-- A state and operands that meet the hypotheses of RootAndCollectives (rootCompute). -/
theorem witness_RootAndCollectives_rootCompute :
    ∃ (s : State) (core : Core) (eng : Eng) (pt num : Nat) (h : Share) (v : Nat) (a t : State), alive s = true ∧ coreUp s core = true ∧ ownerOf s core = some pt ∧ (logicalOf s core eng).isSome = true ∧ Crossed s core pt a ∧ a.eng.shares.find? (fun h => h.core == core.val && h.lead == core.val && h.num == num && rootDue h) = some h ∧ rootReady a h = true ∧ h.emitted ≠ 0 ∧ h.img = none ∧ seqRead a core eng h.pt h.leaf0 (64 * h.emitted) = (.ok v, t) :=
  ⟨{ mapped with eng := { shares := [rootShare] } }, 0, 0, 0, 0, rootShare, 0, { mapped with eng := { shares := [rootShare] } }, (seqRead ({ mapped with eng := { shares := [rootShare] } }) 0 0 0 0 64).2, by unfold Crossed; decide +kernel⟩

/-- A state and operands that meet the hypotheses of RootAndCollectives (rootCompute_detected). -/
theorem witness_RootAndCollectives_rootCompute_detected :
    ∃ (s : State) (core : Core) (eng : Eng) (pt num : Nat) (h : Share) (a : State), alive s = true ∧ coreUp s core = true ∧ ownerOf s core = some pt ∧ (logicalOf s core eng).isSome = true ∧ Crossed s core pt a ∧ a.eng.shares.find? (fun h => h.core == core.val && h.lead == core.val && h.num == num && rootDue h) = some h ∧ rootReady a h = true :=
  ⟨{ mapped with eng := { shares := [rootShare] } }, 0, 0, 0, 0, rootShare, { mapped with eng := { shares := [rootShare] } }, by unfold Crossed; decide +kernel⟩

/-- A state and operands that meet the hypotheses of RootAndCollectives (collPut). -/
theorem witness_RootAndCollectives_collPut :
    ∃ (s : State) (core : Core) (pid : Pid) (n j data : Nat) (k : Coll) (x : CollTile) (h : Share), alive s = true ∧ coreUp s core = true ∧ collOf s core = some k ∧ k.tiles.find? (·.t == n) = some x ∧ findShare s k.job core = some h ∧ k.stop = none ∧ k.pids.contains pid.val = true ∧ j < collLines h.desc ((((heldTiles s core).find? fun y => y.job == k.job && y.t == n).map (·.rows)).getD []) ∧ x.seen.contains (pid.val, j) = false :=
  ⟨collecting, 0, 1, 0, 0, 0, ⟨1, 0, [1], [{ t := 0 }], none⟩, { t := 0 }, collShare, by decide +kernel⟩

/-- A state and operands that meet the hypotheses of RootAndCollectives (collPut_dropped). -/
theorem witness_RootAndCollectives_collPut_dropped :
    ∃ (s : State) (core : Core) (pid : Pid) (n j data : Nat), alive s = true ∧ coreUp s core = true ∧ collOf s core = none :=
  ⟨mapped, 0, 0, 0, 0, 0, by decide +kernel⟩

/-- A state and operands that meet the hypotheses of SelfTestAndInjection (selftestRotationStep). -/
theorem witness_SelfTestAndInjection_selftestRotationStep :
    ∃ (s : State) (core : Core) (t : State) (k : Nat), alive s = true ∧ coreUp s core = true ∧ t = atPeriodic s (16 + core) 268435456 ((4096 * core + 2048) * 4096 + 32 * 64) ∧ getF t (SCORE.SPARE_STS_SPARE core) = 8 ∧ flag t (SCORE.ST_CTL_ROT_EN core) = true ∧ testedEngine t core = none ∧ getF t (SCORE.SPARE_STS_NEXT_STEP core) = k ∧ k < 8 :=
  ⟨setB mapped (SCORE.ST_CTL_ROT_EN 0) true, 0, atPeriodic (setB mapped (SCORE.ST_CTL_ROT_EN 0) true) 16 268435456 (2048 * 4096 + 32 * 64), 0, by decide +kernel⟩

/-- A state and operands that meet the hypotheses of SelfTestAndInjection (selftestDone). -/
theorem witness_SelfTestAndInjection_selftestDone :
    ∃ (s : State) (core : Core) (e : Nat), alive s = true ∧ coreUp s core = true ∧ testedEngine s core = some e ∧ queueAt s (engIdx core e) = [] ∧ e ≠ 8 :=
  ⟨{ mapped with eng := { testing := [(0, 1)] } }, 0, 0, by decide +kernel⟩

/-- A state and operands that meet the hypotheses of SelfTestAndInjection (selftestDone_failed). -/
theorem witness_SelfTestAndInjection_selftestDone_failed :
    ∃ (s : State) (core : Core) (b : Fin 7) (e : Nat), alive s = true ∧ coreUp s core = true ∧ testedEngine s core = some e ∧ queueAt s (engIdx core e) = [] ∧ b.val ≠ 0 :=
  ⟨{ mapped with eng := { testing := [(0, 1)] } }, 0, 1, 0, by decide +kernel⟩

/-- A state and operands that meet the hypotheses of SelfTestAndInjection (chkInject). -/
theorem witness_SelfTestAndInjection_chkInject :
    ∃ (s : State) (core : Core) (eng : Eng) (v : Nat), alive s = true ∧ v.testBit 0 = true ∧ ownerOf s core = none ∧ engFailed s core eng = false ∧ coreUp s core = true :=
  ⟨State.reset, 0, 0, 1, by decide +kernel⟩

/-- A state and operands that meet the hypotheses of DramScheduling (dramRequest). -/
theorem witness_DramScheduling_dramRequest :
    ∃ (s : State) (core : Core) (off : Nat) (src : Fin 6) (port : Port) (write part : Bool), alive s = true ∧ stackLive s core = true ∧ dirRoom (pcQueue s (pcKey core (pcOf (physOff s core (lineOffArg off))))) write = true :=
  ⟨mapped, 0, 0, 0, 0, true, false, by decide +kernel⟩

/-- A state and operands that meet the hypotheses of DramScheduling (ageExpired). -/
theorem witness_DramScheduling_ageExpired :
    ∃ (s : State) (core : Core) (pc : Fin 64) (r : DramReq), alive s = true ∧ stackLive s core = true ∧ detOn s = false ∧ (pcQueue s (pcKey core pc)).find? (fun r => !r.aged) = some r :=
  ⟨{ mapped with dram := { queues := [(0, [{ line := 0, write := false, rmw := false, svc := 1, tc := 0, since := 0, half := 0, order := 0 }])] } }, 0, 0, { line := 0, write := false, rmw := false, svc := 1, tc := 0, since := 0, half := 0, order := 0 }, by decide +kernel⟩

/-- A state and operands that meet the hypotheses of DramScheduling (dataWindow). -/
theorem witness_DramScheduling_dataWindow :
    ∃ (s : State) (core : Core) (pc : Fin 64) (t : State) (r : DramReq), alive s = true ∧ stackLive s core = true ∧ t = atPeriodic s (4096 + pcKey core pc) 4 0 ∧ 48 ≤ t.time.ft ∧ isKind (coreEntry t core (ctlSlot t.time.ft)) 4 = false ∧ isKind (coreEntry t core (ctlSlot t.time.ft)) 5 = false ∧ Store.get 0 t.dram.bist core = 0 ∧ detOn t = false ∧ firstBy (fun a b => offRank t (pcKey core pc) b < offRank t (pcKey core pc) a) ((pcQueue t (pcKey core pc)).filter (canGo t core pc t.time.ft)) = some r ∧ ((Store.get (0, 0) t.dram.lastWr (pcKey core pc)).1 = 0 ∨ (Store.get (0, 0) t.dram.lastWr (pcKey core pc)).1 = dirNow r ∨ (Store.get (0, 0) t.dram.lastWr (pcKey core pc)).2 + 4 ≠ t.time.elapsed) :=
  ⟨{ mapped with time := { ft := 204, elapsed := 204 }, dram := { queues := [(0, [{ line := 0, write := false, rmw := false, svc := 1, tc := 0, since := 0, half := 0, order := 0 }])] } }, 0, 0, atPeriodic { mapped with time := { ft := 204, elapsed := 204 }, dram := { queues := [(0, [{ line := 0, write := false, rmw := false, svc := 1, tc := 0, since := 0, half := 0, order := 0 }])] } } 4096 4 0, { line := 0, write := false, rmw := false, svc := 1, tc := 0, since := 0, half := 0, order := 0 }, by decide +kernel⟩

/-- A state and operands that meet the hypotheses of DramScheduling (refreshSlot). -/
theorem witness_DramScheduling_refreshSlot :
    ∃ (s : State) (core : Core) (t : State), alive s = true ∧ coreUp s core = true ∧ toKind s core 4 (8192 + core) = some t ∧ stackLive t core = true :=
  ⟨{ mapped with ging := { bank := [(48, 0xC0)] } }, 0, (toKind { mapped with ging := { bank := [(48, 0xC0)] } } 0 4 8192).getD State.reset, by decide +kernel⟩

/-- A state and operands that meet the hypotheses of DramScheduling (refreshSlot_off). -/
theorem witness_DramScheduling_refreshSlot_off :
    ∃ (s : State) (core : Core) (t : State), alive s = true ∧ coreUp s core = true ∧ toKind s core 4 (8192 + core) = some t ∧ stackLive t core = false :=
  ⟨{ mapped with ging := { bank := [(48, 0xC0)] }, pwr := { selfRef := true } }, 0, (toKind { mapped with ging := { bank := [(48, 0xC0)] }, pwr := { selfRef := true } } 0 4 8192).getD State.reset, by decide +kernel⟩

/-- A state and operands that meet the hypotheses of DramCorrection (dramReadData). -/
theorem witness_DramCorrection_dramReadData :
    ∃ (s : State) (core : Core) (off : Nat) (src : Fin 6) (es : List (Nat × Nat)) (l : List (Nat × Nat)) (t : State), alive s = true ∧ stackLive s core = true ∧ t = (if es.isEmpty then s else setErrors s (memKey core (keptOff s core (lineOffArg off))) es) ∧ readOutcome t (memKey core (keptOff s core (lineOffArg off))) = some l ∧ l ≠ [] :=
  ⟨mapped, 0, 0, 0, [(3, 7)], [(3, 7)], setErrors mapped 0 [(3, 7)], by decide +kernel⟩

/-- A state and operands that meet the hypotheses of DramCorrection (dramReadData_bad). -/
theorem witness_DramCorrection_dramReadData_bad :
    ∃ (s : State) (core : Core) (off : Nat) (es : List (Nat × Nat)) (t : State), alive s = true ∧ stackLive s core = true ∧ t = (if es.isEmpty then s else setErrors s (memKey core (keptOff s core (lineOffArg off))) es) ∧ readOutcome t (memKey core (keptOff s core (lineOffArg off))) = none :=
  ⟨mapped, 0, 0, (upTo 20).map fun i => (i, 1), setErrors mapped 0 ((upTo 20).map fun i => (i, 1)), by decide +kernel⟩

/-- A state and operands that meet the hypotheses of DramCorrection (correctedWriteback). -/
theorem witness_DramCorrection_correctedWriteback :
    ∃ (s : State) (core : Core) (e : WbEntry), alive s = true ∧ stackLive s core = true ∧ detOn s = false ∧ (wbEntries s core).find? (fun e => !e.written) = some e :=
  ⟨{ mapped with dram := { wbq := [(0, [⟨0, [3], false⟩])] } }, 0, ⟨0, [3], false⟩, by decide +kernel⟩

/-- A state and operands that meet the hypotheses of DramCorrection (pinErased). -/
theorem witness_DramCorrection_pinErased :
    ∃ (s : State) (core : Core) (pc : Fin 64) (p : Nat), alive s = true ∧ stackLive s core = true ∧ flag s (EDAC.REMAP_CTL_ERASE_AUTO core) = true ∧ flag s (EDAC.ERASE_EN core pc) = false ∧ (upTo 36).find? (fun p => decide (64 ≤ (Store.get [] s.dram.pinRows (bankKey core pc p)).length)) = some p :=
  ⟨{ setB mapped (EDAC.REMAP_CTL_ERASE_AUTO 0) true with dram := { pinRows := [(0, upTo 64)] } }, 0, 0, 0, by decide +kernel⟩

/-- A state and operands that meet the hypotheses of DramCorrection (maintSlot). -/
theorem witness_DramCorrection_maintSlot :
    ∃ (s : State) (core : Core) (bad : List Nat) (again : List (Nat × List (Nat × Nat))) (t u : State), alive s = true ∧ stackLive s core = true ∧ toKind s core 5 (8208 + core) = some t ∧ remapSts (doRepairs t core) core = u ∧ copyingEntry u core = none ∧ maintDue u core 0 = false ∧ maintDue u core 1 = false ∧ u.dram.failed = [] :=
  ⟨maintaining, 0, [], [], (toKind maintaining 0 5 8208).getD State.reset, remapSts (doRepairs ((toKind maintaining 0 5 8208).getD State.reset) 0) 0, by decide +kernel⟩

/-- A state and operands that meet the hypotheses of DramCorrection (maintSlot_train). -/
theorem witness_DramCorrection_maintSlot_train :
    ∃ (s : State) (core : Core) (bad : List Nat) (again : List (Nat × List (Nat × Nat))) (t u : State), alive s = true ∧ stackLive s core = true ∧ toKind s core 5 (8208 + core) = some t ∧ remapSts (doRepairs t core) core = u ∧ copyingEntry u core = none ∧ maintDue u core 0 = true :=
  ⟨{ maintaining with dram := {} }, 0, [], [], (toKind { maintaining with dram := {} } 0 5 8208).getD State.reset, remapSts (doRepairs ((toKind { maintaining with dram := {} } 0 5 8208).getD State.reset) 0) 0, by decide +kernel⟩

/-- A state and operands that meet the hypotheses of DramRepairAndTest (remapRequest). -/
theorem witness_DramRepairAndTest_remapRequest :
    ∃ (s : State) (core : Core) (v : Nat), alive s = true ∧ coreUp s core = true ∧ remapResult s core (RemapReq.ofWord v) = 0 ∧ copyingEntry (setF s (EDAC.REMAP_RES_RESULT core) 0) core = none :=
  ⟨powered, 0, 1, by decide +kernel⟩

/-- A state and operands that meet the hypotheses of DramRepairAndTest (bistStart). -/
theorem witness_DramRepairAndTest_bistStart :
    ∃ (s : State) (core : Core) (kind : Fin 2), alive s = true ∧ stackLive s core = true ∧ ownerOf s core = none ∧ flag s (HPHY.BIST_STS_BUSY core) = false :=
  ⟨powered, 0, 0, by decide +kernel⟩

/-- A state and operands that meet the hypotheses of DramRepairAndTest (bistDone). -/
theorem witness_DramRepairAndTest_bistDone :
    ∃ (s : State) (core : Core) (errors : List (Nat × List (Nat × Nat))), alive s = true ∧ stackLive s core = true ∧ Store.get 0 s.dram.bist core = 1 :=
  ⟨{ mapped with dram := { bist := [(0, 1)] } }, 0, [], by decide +kernel⟩

/-- A state and operands that meet the hypotheses of DramRepairAndTest (bistDone_pattern). -/
theorem witness_DramRepairAndTest_bistDone_pattern :
    ∃ (s : State) (core : Core) (errors : List (Nat × List (Nat × Nat))) (u : State), alive s = true ∧ stackLive s core = true ∧ Store.get 0 s.dram.bist core = 2 ∧ wipeStack s core = u :=
  ⟨{ mapped with dram := { bist := [(0, 2)] } }, 0, [], wipeStack { mapped with dram := { bist := [(0, 2)] } } 0, by decide +kernel⟩

/-- A state and operands that meet the hypotheses of DramRepairAndTest (testWrite). -/
theorem witness_DramRepairAndTest_testWrite :
    ∃ (s : State) (core : Core) (u : State), alive s = true ∧ stackLive s core = true ∧ ownerOf s core = none ∧ noteAct (setB s (EDAC.TEST_STS_REFUSED core) false) core (lineOff (testLine s core)) = u ∧ chanDown u (testLine s core) = false :=
  ⟨powered, 0, noteAct (setB powered (EDAC.TEST_STS_REFUSED 0) false) 0 (lineOff (testLine powered 0)), by decide +kernel⟩

/-- A state and operands that meet the hypotheses of DramRepairAndTest (testRead). -/
theorem witness_DramRepairAndTest_testRead :
    ∃ (s : State) (core : Core) (u : State), alive s = true ∧ stackLive s core = true ∧ ownerOf s core = none ∧ noteAct (setB s (EDAC.TEST_STS_REFUSED core) false) core (lineOff (testLine s core)) = u ∧ chanDown u (testLine s core) = false :=
  ⟨powered, 0, noteAct (setB powered (EDAC.TEST_STS_REFUSED 0) false) 0 (lineOff (testLine powered 0)), by decide +kernel⟩

/-- A state and operands that meet the hypotheses of DramRepairAndTest (testReadRaw). -/
theorem witness_DramRepairAndTest_testReadRaw :
    ∃ (s : State) (core : Core) (u : State), alive s = true ∧ stackLive s core = true ∧ ownerOf s core = none ∧ noteAct (setB s (EDAC.TEST_STS_REFUSED core) false) core (lineOff (testLine s core)) = u ∧ chanDown u (testLine s core) = false :=
  ⟨powered, 0, noteAct (setB powered (EDAC.TEST_STS_REFUSED 0) false) 0 (lineOff (testLine powered 0)), by decide +kernel⟩

/-- A state and operands that meet the hypotheses of DramRepairAndTest (testWrite_refused). -/
theorem witness_DramRepairAndTest_testWrite_refused :
    ∃ (s : State) (core : Core), alive s = true ∧ stackLive s core = true ∧ (ownerOf s core).isSome = true :=
  ⟨mapped, 0, by decide +kernel⟩

/-- A state and operands that meet the hypotheses of TierAccesses (tierAccess). -/
theorem witness_TierAccesses_tierAccess :
    ∃ (s : State) (pid : Pid) (tag : Nat) (r : Req) (k : Nat) (t : State), alive s = true ∧ s.net.store.find? (fun r => r.pid == pid.val && r.tag == tag && !r.taken && r.tier.isSome && r.line.isNone) = some r ∧ tierLook s r.pt (r.tier.getD 0 / 4096) (.req pid tag) = (.way k, t) :=
  ⟨tiered, 0, 0, { tier := some 0 }, 0, (tierLook tiered 0 0 (.req 0 0)).2, by decide +kernel⟩

/-- A state and operands that meet the hypotheses of TierAccesses (tierWayWait). -/
theorem witness_TierAccesses_tierWayWait :
    ∃ (s : State) (pid : Pid) (tag : Nat) (r : Req) (k : Nat) (t : State), alive s = true ∧ s.net.store.find? (fun r => r.pid == pid.val && r.tag == tag && !r.taken && r.tier.isSome && r.line.isNone) = some r ∧ tierLook s r.pt (r.tier.getD 0 / 4096) (.req pid tag) = (.way k, t) :=
  ⟨tiered, 0, 0, { tier := some 0 }, 0, (tierLook tiered 0 0 (.req 0 0)).2, by decide +kernel⟩

/-- A state and operands that meet the hypotheses of TierAccesses (evictRecallDone). -/
theorem witness_TierAccesses_evictRecallDone :
    ∃ (s : State) (core : Core) (set way : Nat), alive s = true ∧ (getWay s (wayArg core set way)).state = 5 ∧ recalling s (wayJob (wayArg core set way)) = false ∧ wayOps s (wayArg core set way) = [] ∧ (getWay s (wayArg core set way)).prior ≠ 3 ∧ goalOf s (wayArg core set way) = none :=
  ⟨{ tiered with tier := { ways := [(0, { block := 0, state := 5, prior := 2 })] } }, 0, 0, 0, by decide +kernel⟩

/-- A state and operands that meet the hypotheses of TierAccesses (evictRecallDone_dirty). -/
theorem witness_TierAccesses_evictRecallDone_dirty :
    ∃ (s : State) (core : Core) (set way : Nat), alive s = true ∧ (getWay s (wayArg core set way)).state = 5 ∧ recalling s (wayJob (wayArg core set way)) = false ∧ wayOps s (wayArg core set way) = [] ∧ (getWay s (wayArg core set way)).prior = 3 :=
  ⟨{ tiered with tier := { ways := [(0, { block := 0, state := 5, prior := 3 })] } }, 0, 0, 0, by decide +kernel⟩

/-- A state and operands that meet the hypotheses of TierAccesses (evictRecallDone_waits). -/
theorem witness_TierAccesses_evictRecallDone_waits :
    ∃ (s : State) (core : Core) (set way : Nat), alive s = true ∧ (getWay s (wayArg core set way)).state ≠ 5 :=
  ⟨tiered, 0, 0, 0, by decide +kernel⟩

/-- A state and operands that meet the hypotheses of TierAccesses (fillComplete). -/
theorem witness_TierAccesses_fillComplete :
    ∃ (s : State) (core : Core) (set way : Nat) (o : TierOp), alive s = true ∧ s.tier.ops.find? (fun o => o.way == wayArg core set way && !o.write) = some o :=
  ⟨{ tiered with tier := { tiered.tier with ops := [{ way := 0, lba := 0, drive := 0, write := false }] } }, 0, 0, 0, { way := 0, lba := 0, drive := 0, write := false }, by decide +kernel⟩

/-- A state and operands that meet the hypotheses of TierAccesses (writebackComplete). -/
theorem witness_TierAccesses_writebackComplete :
    ∃ (s : State) (core : Core) (set way : Nat) (drive : Root) (o : TierOp), alive s = true ∧ opOf s (wayArg core set way) drive true = some o :=
  ⟨{ tiered with tier := { tiered.tier with ops := [{ way := 0, lba := 0, drive := 0, write := true }] } }, 0, 0, 0, 0, { way := 0, lba := 0, drive := 0, write := true }, by decide +kernel⟩

/-- A state and operands that meet the hypotheses of TierAccesses (nvmeTimeout). -/
theorem witness_TierAccesses_nvmeTimeout :
    ∃ (s : State) (core : Core) (set way : Nat) (drive : Root) (o : TierOp), alive s = true ∧ s.tier.ops.find? (fun o => o.way == wayArg core set way && o.drive == drive.val) = some o ∧ o.again = false ∧ Store.get 0 s.tier.slow drive < 2 :=
  ⟨{ tiered with tier := { tiered.tier with ops := [{ way := 0, lba := 0, drive := 0, write := false }] } }, 0, 0, 0, 0, { way := 0, lba := 0, drive := 0, write := false }, by decide +kernel⟩

/-- A state and operands that meet the hypotheses of TierAccesses (nvmeCommandFail). -/
theorem witness_TierAccesses_nvmeCommandFail :
    ∃ (s : State) (core : Core) (set way : Nat) (drive : Root) (o : TierOp), alive s = true ∧ s.tier.ops.find? (fun o => o.way == wayArg core set way && o.drive == drive.val) = some o ∧ o.again = false :=
  ⟨{ tiered with tier := { tiered.tier with ops := [{ way := 0, lba := 0, drive := 0, write := false }] } }, 0, 0, 0, 0, { way := 0, lba := 0, drive := 0, write := false }, by decide +kernel⟩

/-- A state and operands that meet the hypotheses of TierDrives (rootLinkDown). -/
theorem witness_TierDrives_rootLinkDown :
    ∃ (s : State) (root : Root) (u : State), alive s = true ∧ flag s (PCIE.LINK_STS_UP root) = true ∧ raise (setB s (PCIE.LINK_STS_UP root) false) (0x0510 + root) 0 = u ∧ getF u (PCIE.DRV_STS_STATE root) = 2 :=
  ⟨setF (setB powered (PCIE.LINK_STS_UP 0) true) (PCIE.DRV_STS_STATE 0) 2, 0, raise (setB (setF (setB powered (PCIE.LINK_STS_UP 0) true) (PCIE.DRV_STS_STATE 0) 2) (PCIE.LINK_STS_UP 0) false) 0x0510 0, by decide +kernel⟩

/-- A state and operands that meet the hypotheses of TierDrives (rebuildGo). -/
theorem witness_TierDrives_rebuildGo :
    ∃ (s : State) (port : Root), alive s = true ∧ s.tier.rebuild = none ∧ windowPaired s port = true ∧ degradedBy s port = some port.val ∧ driveReady s port = true ∧ readDrives s (port / 2 * 2) ≠ [] :=
  ⟨paired, 0, by decide +kernel⟩

/-- A state and operands that meet the hypotheses of TierDrives (rebuildDone). -/
theorem witness_TierDrives_rebuildDone :
    ∃ (s : State) (d : Nat), alive s = true ∧ s.tier.rebuild = some d :=
  ⟨{ paired with tier := { paired.tier with rebuild := some 0 } }, 0, by decide +kernel⟩

/-- A state and operands that meet the hypotheses of TierDrives (tierFlush). -/
theorem witness_TierDrives_tierFlush :
    ∃ (s : State) (pt : Ptn), alive s = true :=
  ⟨powered, 0, by decide +kernel⟩

/-- A state and operands that meet the hypotheses of TierDrives (tierFlushDone). -/
theorem witness_TierDrives_tierFlushDone :
    ∃ (s : State) (pt : Ptn) (u : State), alive s = true ∧ forAll (waysInUse s pt) pumpEmpty s = u ∧ flag u (TIER.PT_STS_FLUSHING pt) = true ∧ emptying u pt = false :=
  ⟨setB powered (TIER.PT_STS_FLUSHING 0) true, 0, setB powered (TIER.PT_STS_FLUSHING 0) true, by decide +kernel⟩

/-- A state and operands that meet the hypotheses of TierDrives (ptCacheWrite). -/
theorem witness_TierDrives_ptCacheWrite :
    ∃ (s : State) (pt : Ptn) (gib : Nat), alive s = true ∧ gib ≤ 32 ∧ tierEmpty s pt = true ∧ cacheFits s pt gib = true :=
  ⟨powered, 0, 0, by decide +kernel⟩

/-- A state and operands that meet the hypotheses of TierDrives (ptCacheWrite_refused). -/
theorem witness_TierDrives_ptCacheWrite_refused :
    ∃ (s : State) (pt : Ptn) (gib : Nat), alive s = true ∧ tierEmpty s pt = false :=
  ⟨tiered, 0, 0, by decide +kernel⟩

/-- A state and operands that meet the hypotheses of TierDrives (driveAssign). -/
theorem witness_TierDrives_driveAssign :
    ∃ (s : State) (root : Root) (v : Nat), alive s = true ∧ driveOk s root v = true ∧ v.testBit 4 = true ∧ flag s (TIER.DRIVE_EN root) = false :=
  ⟨setF powered (PCIE.DRV_STS_STATE 0) 2, 0, 16, by decide +kernel⟩

/-- A state and operands that meet the hypotheses of TierDrives (driveAssign_kept). -/
theorem witness_TierDrives_driveAssign_kept :
    ∃ (s : State) (root : Root) (v : Nat), alive s = true ∧ driveOk s root v = true ∧ (v.testBit 4 = flag s (TIER.DRIVE_EN root) ∨ v.testBit 4 = false) :=
  ⟨setB powered (TIER.DRIVE_EN 0) true, 0, 16, by decide +kernel⟩

/-- A state and operands that meet the hypotheses of TierDrives (portReset). -/
theorem witness_TierDrives_portReset :
    ∃ (s : State) (root : Root), alive s = true ∧ s.boot.badRoots.getLsbD root = false ∧ flag s (TIER.DRIVE_EN root) = false :=
  ⟨powered, 0, by decide +kernel⟩

/-- A state and operands that meet the hypotheses of TierDrives (driveReady). -/
theorem witness_TierDrives_driveReady :
    ∃ (s : State) (root : Root) (rate lanes : Nat) (flit : Bool) (i : DriveId) (lbas sp w : Nat) (t : State), alive s = true ∧ getF s (PCIE.DRV_STS_STATE root) = 1 ∧ min rate 6 = sp ∧ 0 < sp ∧ (if 4 ≤ lanes then 4 else if 2 ≤ lanes then 2 else lanes) = w ∧ 0 < w ∧ setB (setF (setF (setB (setPerst s root true) (PCIE.LINK_STS_UP root) true) (PCIE.LINK_STS_SPEED root) sp) (PCIE.LINK_STS_WIDTH root) w) (PCIE.LINK_STS_FLIT root) flit = t ∧ driveRefusal i = none :=
  ⟨setF powered (PCIE.DRV_STS_STATE 0) 1, 0, 6, 4, true, {}, 262144, 6, 4, setB (setF (setF (setB (setPerst (setF powered (PCIE.DRV_STS_STATE 0) 1) 0 true) (PCIE.LINK_STS_UP 0) true) (PCIE.LINK_STS_SPEED 0) 6) (PCIE.LINK_STS_WIDTH 0) 4) (PCIE.LINK_STS_FLIT 0) true, by decide +kernel⟩

/-- A state and operands that meet the hypotheses of TierDrives (driveReady_rejected). -/
theorem witness_TierDrives_driveReady_rejected :
    ∃ (s : State) (root : Root) (rate lanes : Nat) (flit : Bool) (i : DriveId) (lbas sp w reason : Nat) (t : State), alive s = true ∧ getF s (PCIE.DRV_STS_STATE root) = 1 ∧ min rate 6 = sp ∧ 0 < sp ∧ (if 4 ≤ lanes then 4 else if 2 ≤ lanes then 2 else lanes) = w ∧ 0 < w ∧ setB (setF (setF (setB (setPerst s root true) (PCIE.LINK_STS_UP root) true) (PCIE.LINK_STS_SPEED root) sp) (PCIE.LINK_STS_WIDTH root) w) (PCIE.LINK_STS_FLIT root) flit = t ∧ driveRefusal i = some reason :=
  ⟨setF powered (PCIE.DRV_STS_STATE 0) 1, 0, 6, 4, true, { lbaBytes := 512 }, 262144, 6, 4, 1, setB (setF (setF (setB (setPerst (setF powered (PCIE.DRV_STS_STATE 0) 1) 0 true) (PCIE.LINK_STS_UP 0) true) (PCIE.LINK_STS_SPEED 0) 6) (PCIE.LINK_STS_WIDTH 0) 4) (PCIE.LINK_STS_FLIT 0) true, by decide +kernel⟩

/-- A state and operands that meet the hypotheses of TierDrives (driveRequest). -/
theorem witness_TierDrives_driveRequest :
    ∃ (s : State) (root : Root) (outside : Bool) (n : Nat), alive s = true :=
  ⟨powered, 0, true, 2, by decide +kernel⟩

/-- A state and operands that meet the hypotheses of LinkTraining (portTrain). -/
theorem witness_LinkTraining_portTrain :
    ∃ (s : State) (port : Port), alive s = true ∧ portState s port = 0 ∧ flag s (PORT.PORT_CTL_EN port) = true :=
  ⟨setB powered (PORT.PORT_CTL_EN 0) true, 0, by decide +kernel⟩

/-- A state and operands that meet the hypotheses of LinkTraining (detectSignal). -/
theorem witness_LinkTraining_detectSignal :
    ∃ (s : State) (port : Port), alive s = true ∧ portState s port = 1 :=
  ⟨setF powered (PORT.LINK_STS_STATE 0) 1, 0, by decide +kernel⟩

/-- A state and operands that meet the hypotheses of LinkTraining (tseq). -/
theorem witness_LinkTraining_tseq :
    ∃ (s : State) (port : Port) (lane : Fin 5) (block : Nat) (good : Option Bool) (b : TsBlock), alive s = true ∧ readTs .tseq block = b ∧ b.crcOk = true ∧ portState s port = 2 ∧ (usableLanes s port).contains lane.val = true :=
  ⟨setF powered (PORT.LINK_STS_STATE 0) 2, 0, 0, tsBytes .tseq {}, none, readTs .tseq (tsBytes .tseq {}), by decide +kernel⟩

/-- A state and operands that meet the hypotheses of LinkTraining (ts1). -/
theorem witness_LinkTraining_ts1 :
    ∃ (s : State) (port : Port) (lane : Fin 5) (block : Nat) (b : TsBlock), alive s = true ∧ readTs .ts1 block = b ∧ b.crcOk = true ∧ portState s port = 3 ∧ (getLink s port).good.testBit lane = true :=
  ⟨{ setF powered (PORT.LINK_STS_STATE 0) 3 with links := [(0, { good := 1 })] }, 0, 0, tsBytes .ts1 {}, readTs .ts1 (tsBytes .ts1 {}), by decide +kernel⟩

/-- A state and operands that meet the hypotheses of LinkTraining (ts2). -/
theorem witness_LinkTraining_ts2 :
    ∃ (s : State) (port : Port) (block : Nat) (b : TsBlock), alive s = true ∧ readTs .ts2 block = b ∧ b.crcOk = true ∧ portState s port = 4 ∧ (getLink s port).last = some b ∧ (getLink s port).run = 7 :=
  ⟨{ setF powered (PORT.LINK_STS_STATE 0) 4 with links := [(0, { last := some (readTs .ts2 (tsBytes .ts2 {})), run := 7 })] }, 0, tsBytes .ts2 {}, readTs .ts2 (tsBytes .ts2 {}), by decide +kernel⟩

/-- A state and operands that meet the hypotheses of LinkTraining (ts2_counted). -/
theorem witness_LinkTraining_ts2_counted :
    ∃ (s : State) (port : Port) (block : Nat) (b : TsBlock), alive s = true ∧ readTs .ts2 block = b ∧ b.crcOk = true ∧ portState s port = 4 ∧ (getLink s port).last ≠ some b :=
  ⟨setF powered (PORT.LINK_STS_STATE 0) 4, 0, tsBytes .ts2 {}, readTs .ts2 (tsBytes .ts2 {}), by decide +kernel⟩

/-- A state and operands that meet the hypotheses of LinkTraining (ts2_rtr). -/
theorem witness_LinkTraining_ts2_rtr :
    ∃ (s : State) (port : Port) (block : Nat) (b : TsBlock), alive s = true ∧ readTs .ts2 block = b ∧ b.crcOk = true ∧ b.rtr = true ∧ linkActive s port = true ∧ portState (beginRetrain s port) port ≠ 4 :=
  ⟨setF powered (PORT.LINK_STS_STATE 0) 7, 0, tsBytes .ts2 { rtr := true }, readTs .ts2 (tsBytes .ts2 { rtr := true }), by decide +kernel⟩

/-- A state and operands that meet the hypotheses of LinkTraining (ts2_badCrc). -/
theorem witness_LinkTraining_ts2_badCrc :
    ∃ (s : State) (port : Port) (block : Nat), alive s = true ∧ (readTs .ts2 block).crcOk = false :=
  ⟨powered, 0, 0, by decide +kernel⟩

/-- A state and operands that meet the hypotheses of LinkTraining (ts3). -/
theorem witness_LinkTraining_ts3 :
    ∃ (s : State) (port : Port) (block : Nat) (b x : TsBlock), alive s = true ∧ readTs .ts3 block = b ∧ b.crcOk = true ∧ portState s port = 5 ∧ (getLink s port).last = some x ∧ (⟨x.lanes, x.width, x.ver, x.nvc, x.afeat⟩ : LinkConf) = ⟨b.lanes, b.width, b.ver, b.nvc, b.afeat⟩ ∧ (getLink s port).run = 15 ∧ flag s (PORT.LINK_STS_LEADER port) = false :=
  ⟨{ setF powered (PORT.LINK_STS_STATE 0) 5 with links := [(0, { last := some {}, run := 15 })] }, 0, tsBytes .ts3 {}, readTs .ts3 (tsBytes .ts3 {}), {}, by decide +kernel⟩

/-- A state and operands that meet the hypotheses of LinkTraining (trainStateLimit). -/
theorem witness_LinkTraining_trainStateLimit :
    ∃ (s : State) (port : Port) (n : Nat), alive s = true ∧ portState s port = n ∧ 1 ≤ n ∧ n ≤ 5 :=
  ⟨setF powered (PORT.LINK_STS_STATE 0) 1, 0, 1, by decide +kernel⟩

/-- A state and operands that meet the hypotheses of LinkTraining (failedHoldEnd). -/
theorem witness_LinkTraining_failedHoldEnd :
    ∃ (s : State) (port : Port), alive s = true ∧ portState s port = 8 ∧ retraining s port = false ∧ getF s (PORT.TRAIN_STS_ATTEMPT port) < 3 :=
  ⟨setF powered (PORT.LINK_STS_STATE 0) 8, 0, by decide +kernel⟩

/-- A state and operands that meet the hypotheses of LinkTraining (failedHoldEnd_last). -/
theorem witness_LinkTraining_failedHoldEnd_last :
    ∃ (s : State) (port : Port), alive s = true ∧ portState s port = 8 ∧ retraining s port = false ∧ getF s (PORT.TRAIN_STS_ATTEMPT port) = 3 :=
  ⟨setF (setF powered (PORT.LINK_STS_STATE 0) 8) (PORT.TRAIN_STS_ATTEMPT 0) 3, 0, by decide +kernel⟩

/-- A state and operands that meet the hypotheses of LinkRetraining (portRetrain). -/
theorem witness_LinkRetraining_portRetrain :
    ∃ (s : State) (port : Port), alive s = true ∧ linkActive s port = true :=
  ⟨setF powered (PORT.LINK_STS_STATE 0) 7, 0, by decide +kernel⟩

/-- A state and operands that meet the hypotheses of LinkRetraining (laneLossOfLock). -/
theorem witness_LinkRetraining_laneLossOfLock :
    ∃ (s : State) (port : Port) (lane : Fin 5), alive s = true ∧ linkActive s port = true ∧ bitF s (PORT.LINK_STS_LANES port) lane = true :=
  ⟨setF (setF powered (PORT.LINK_STS_STATE 0) 7) (PORT.LINK_STS_LANES 0) 1, 0, 0, by decide +kernel⟩

/-- A state and operands that meet the hypotheses of LinkRetraining (laneSerLimit). -/
theorem witness_LinkRetraining_laneSerLimit :
    ∃ (s : State) (port : Port) (lane : Fin 5) (n : Nat), alive s = true ∧ getF s (PORT.LANE_SER_LIMIT_SYMBOLS port) < n :=
  ⟨powered, 0, 0, 2 ^ 32, by decide +kernel⟩

/-- A state and operands that meet the hypotheses of LinkRetraining (laneSerLimit_below). -/
theorem witness_LinkRetraining_laneSerLimit_below :
    ∃ (s : State) (port : Port) (lane : Fin 5) (n : Nat), alive s = true ∧ n ≤ getF s (PORT.LANE_SER_LIMIT_SYMBOLS port) :=
  ⟨powered, 0, 0, 0, by decide +kernel⟩

/-- A state and operands that meet the hypotheses of LinkRetraining (fecUncorrectableLimit). -/
theorem witness_LinkRetraining_fecUncorrectableLimit :
    ∃ (s : State) (port : Port) (n : Nat), alive s = true ∧ 8 ≤ n :=
  ⟨setF powered (PORT.LINK_STS_STATE 0) 7, 0, 8, by decide +kernel⟩

/-- A state and operands that meet the hypotheses of LinkRetraining (lwcRequest). -/
theorem witness_LinkRetraining_lwcRequest :
    ∃ (s : State) (port : Port) (w : Nat), alive s = true ∧ lwcAgreed s port = true ∧ detOn s = false ∧ linkActive s port = true ∧ min 3 (w + 1) < getF s (PORT.LINK_STS_WIDTH port) ∧ flag s (PORT.LINK_STS_LEADER port) = true :=
  ⟨setB (setF (setF (setF powered (PORT.LINK_STS_STATE 0) 7) (PORT.LINK_STS_AFEAT 0) 2) (PORT.LINK_STS_WIDTH 0) 3) (PORT.LINK_STS_LEADER 0) true, 0, 0, by decide +kernel⟩

/-- A state and operands that meet the hypotheses of LinkRetraining (lwcRequest_refused). -/
theorem witness_LinkRetraining_lwcRequest_refused :
    ∃ (s : State) (port : Port) (w : Nat), alive s = true ∧ lwcAgreed s port = false :=
  ⟨setF powered (PORT.LINK_STS_STATE 0) 7, 0, 0, by decide +kernel⟩

/-- A state and operands that meet the hypotheses of LinkRetraining (lwcReq). -/
theorem witness_LinkRetraining_lwcReq :
    ∃ (s : State) (port : Port) (w : Nat), alive s = true ∧ linkActive s port = true ∧ lwcAgreed s port = true ∧ flag s (PORT.LINK_STS_LEADER port) = true ∧ (getLink s port).lwcPend = 0 :=
  ⟨setB (setF (setF (setF powered (PORT.LINK_STS_STATE 0) 7) (PORT.LINK_STS_AFEAT 0) 2) (PORT.LINK_STS_WIDTH 0) 3) (PORT.LINK_STS_LEADER 0) true, 0, 0, by decide +kernel⟩

/-- A state and operands that meet the hypotheses of LinkRetraining (lwcGo). -/
theorem witness_LinkRetraining_lwcGo :
    ∃ (s : State) (port : Port) (w lanes : Nat), alive s = true ∧ linkActive s port = true ∧ lwcAgreed s port = true ∧ 1 ≤ w ∧ w < getF s (PORT.LINK_STS_WIDTH port) :=
  ⟨setF (setF (setF powered (PORT.LINK_STS_STATE 0) 7) (PORT.LINK_STS_AFEAT 0) 2) (PORT.LINK_STS_WIDTH 0) 3, 0, 1, 0, by decide +kernel⟩

/-- A state and operands that meet the hypotheses of LinkFlits (flit). -/
theorem witness_LinkFlits_flit :
    ∃ (s : State) (port : Port) (bytes : Nat) (f : RxFlit) (t u : State), alive s = true ∧ linkCarries s port = true ∧ readFlit bytes = f ∧ f.crcOk = true ∧ f.kind ≠ 2 ∧ f.kind ≠ 3 ∧ f.rsvd = false ∧ f.wsw = false ∧ applyAck s port f = some t ∧ applyCret t port f = u ∧ f.seq = (getLink u port).e ∧ ((getLink u port).e + 1) % 8 ≠ 0 :=
  ⟨setF powered (PORT.LINK_STS_STATE 0) 7, 0, flitBytes {}, readFlit (flitBytes {}), setF powered (PORT.LINK_STS_STATE 0) 7, setF powered (PORT.LINK_STS_STATE 0) 7, by decide +kernel⟩

/-- A state and operands that meet the hypotheses of LinkFlits (flit_crc). -/
theorem witness_LinkFlits_flit_crc :
    ∃ (s : State) (port : Port) (bytes : Nat), alive s = true ∧ linkCarries s port = true ∧ (readFlit bytes).crcOk = false :=
  ⟨setF powered (PORT.LINK_STS_STATE 0) 7, 0, 0, by decide +kernel⟩

/-- A state and operands that meet the hypotheses of LinkFlits (flit_reserved). -/
theorem witness_LinkFlits_flit_reserved :
    ∃ (s : State) (port : Port) (bytes : Nat), alive s = true ∧ linkCarries s port = true ∧ (readFlit bytes).crcOk = true ∧ (readFlit bytes).kind = 3 :=
  ⟨setF powered (PORT.LINK_STS_STATE 0) 7, 0, flitBytes { kind := 3 }, by decide +kernel⟩

/-- A state and operands that meet the hypotheses of LinkFlits (replayTimer). -/
theorem witness_LinkFlits_replayTimer :
    ∃ (s : State) (port : Port), alive s = true ∧ linkCarries s port = true ∧ (getLink s port).replay ≠ [] :=
  ⟨{ setF powered (PORT.LINK_STS_STATE 0) 7 with links := [(0, { replay := [⟨0, 0, false, 0, 0, 0⟩] })] }, 0, by decide +kernel⟩

/-- A state and operands that meet the hypotheses of LinkFlits (replayLimit). -/
theorem witness_LinkFlits_replayLimit :
    ∃ (s : State) (port : Port), alive s = true ∧ max 1 (getF s (PORT.REPLAY_CTL_LIMIT port)) ≤ (getLink s port).stuck :=
  ⟨{ setF powered (PORT.LINK_STS_STATE 0) 7 with links := [(0, { stuck := 100000 })] }, 0, by decide +kernel⟩

/-- A state and operands that meet the hypotheses of LinkFlits (tagFailLimit). -/
theorem witness_LinkFlits_tagFailLimit :
    ∃ (s : State) (port : Port), alive s = true ∧ linkActive s port = true ∧ max 1 (getF s (PORT.TAG_CTL_LIMIT port)) ≤ (getLink s port).tagRun :=
  ⟨{ setF powered (PORT.LINK_STS_STATE 0) 7 with links := [(0, { tagRun := 100000 })] }, 0, by decide +kernel⟩

/-- A state and operands that meet the hypotheses of LinkFlits (creditCheck). -/
theorem witness_LinkFlits_creditCheck :
    ∃ (s : State) (port : Port) (freed : List Nat), alive s = true ∧ linkActive s port = true ∧ cchkAgreed s port = true ∧ (∀ v ∈ upTo (getF s (PORT.LINK_STS_NVC port)), creditGap (getLink s port) v (freed.getD v 0) < 256) :=
  ⟨setF (setF (setF powered (PORT.LINK_STS_STATE 0) 7) (PORT.LINK_STS_AFEAT 0) 8) (PORT.LINK_STS_NVC 0) 2, 0, [1, 2], by decide +kernel⟩

/-- A state and operands that meet the hypotheses of LinkFlits (creditStall). -/
theorem witness_LinkFlits_creditStall :
    ∃ (s : State) (port : Port), alive s = true ∧ linkActive s port = true ∧ cchkAgreed s port = false :=
  ⟨starving, 0, by decide +kernel⟩

/-- A state and operands that meet the hypotheses of LinkFlits (creditStall_counts). -/
theorem witness_LinkFlits_creditStall_counts :
    ∃ (s : State) (port : Port) (k : Nat) (x : Sending), starved s port k = some x :=
  ⟨starving, 0, 0, { kind := 0, core := 0, ready := 0, pkt := {} }, by decide +kernel⟩

/-- A state and operands that meet the hypotheses of LinkFlits (cchkPeriod). -/
theorem witness_LinkFlits_cchkPeriod :
    ∃ (s : State) (port : Port), alive s = true ∧ linkActive s port = true ∧ cchkAgreed s port = true :=
  ⟨setF (setF (setF powered (PORT.LINK_STS_STATE 0) 7) (PORT.LINK_STS_AFEAT 0) 8) (PORT.LINK_STS_NVC 0) 2, 0, by decide +kernel⟩

/-- A state and operands that meet the hypotheses of PacketsAtPorts (packetArrival). -/
theorem witness_PacketsAtPorts_packetArrival :
    ∃ (s : State) (port : Port) (p : Packet) (replayed : Bool), alive s = true ∧ portUp s port = true ∧ detOn s = false ∧ p.ece = false ∧ (getLink s port).inbox.head? ≠ some p :=
  ⟨setF powered (PORT.LINK_STS_STATE 0) 7, 0, { opcode := 1, tag := 5 }, false, by decide +kernel⟩

/-- A state and operands that meet the hypotheses of PacketsAtPorts (processingSlot). -/
theorem witness_PacketsAtPorts_processingSlot :
    ∃ (s : State) (port : Port) (d : Nat), alive s = true ∧ leastBy id ((s.net.arrived.filter fun x => x.1 == port.val).filterMap (dueSlot s)) = some d :=
  ⟨{ powered with net := { arrived := [(0, { opcode := 1, tag := 5 }, 3, 0)] } }, 0, 3, by decide +kernel⟩

/-- A state and operands that meet the hypotheses of PacketsAtPorts (routeReturn). -/
theorem witness_PacketsAtPorts_routeReturn :
    ∃ (s : State) (p : Packet), alive s = true ∧ s.net.resent.contains p = false ∧ p.src = getF s ROUTE.SELF_NODE_ID :=
  ⟨powered, { opcode := 1, tag := 5 }, by decide +kernel⟩

/-- A state and operands that meet the hypotheses of PacketsAtPorts (routeReturn_again). -/
theorem witness_PacketsAtPorts_routeReturn_again :
    ∃ (s : State) (status : Nat) (p : Packet), alive s = true ∧ s.net.resent.contains p = true :=
  ⟨{ powered with net := { resent := [{ opcode := 1, tag := 5 }] } }, 0, { opcode := 1, tag := 5 }, by decide +kernel⟩

/-- A state and operands that meet the hypotheses of PacketsAtPorts (portOutOfService). -/
theorem witness_PacketsAtPorts_portOutOfService :
    ∃ (s : State) (port : Port), alive s = true ∧ portUp s port = false :=
  ⟨powered, 0, by decide +kernel⟩

/-- A state and operands that meet the hypotheses of PacketsAtPorts (egressLaunch). -/
theorem witness_PacketsAtPorts_egressLaunch :
    ∃ (s : State) (port : Port) (u t : State) (f k c : Nat) (x : Sending) (l : List Sending), alive s = true ∧ flushLink s port = u ∧ mayStart u port = true ∧ detOn u = false ∧ headOf u port 0 = none ∧ isKind (slotEntry u (slotOf u) port) 2 = false ∧ schedule u port = some (f, t) ∧ flowHead u port f = some (k, c) ∧ queueOf u port k = x :: l :=
  ⟨sendingOne, 0, flushLink sendingOne 0, ((schedule (flushLink sendingOne 0) 0).getD (0, State.reset)).2, 0, 3, (flowHead (flushLink sendingOne 0) 0 0).elim 0 (·.2), { kind := 3, core := 0, ready := 0, pkt := {} }, [], by decide +kernel⟩

/-- A state and operands that meet the hypotheses of PacketsAtPorts (egressLaunch_mgmt). -/
theorem witness_PacketsAtPorts_egressLaunch_mgmt :
    ∃ (s : State) (port : Port) (u : State) (h : Nat × Nat) (x : Sending) (l : List Sending), alive s = true ∧ flushLink s port = u ∧ mayStart u port = true ∧ detOn u = false ∧ headOf u port 0 = some h ∧ queueOf u port 0 = x :: l :=
  ⟨sendingMgmt, 0, flushLink sendingMgmt 0, (headOf (flushLink sendingMgmt 0) 0 0).getD (0, 0), { kind := 0, core := 0, ready := 0, pkt := {} }, [], by decide +kernel⟩

/-- A state and operands that meet the hypotheses of RoutingTables (routeFlip). -/
theorem witness_RoutingTables_routeFlip :
    ∃ (s : State), alive s = true ∧ shadowOk s = true ∧ anyRun s = false ∧ shadowShut s = false :=
  ⟨powered, by decide +kernel⟩

/-- A state and operands that meet the hypotheses of RoutingTables (routeFlip_failed). -/
theorem witness_RoutingTables_routeFlip_failed :
    ∃ (s : State), alive s = true ∧ shadowOk s = false :=
  ⟨{ powered with net := { route := [(512, 2 ^ 28)] } }, by decide +kernel⟩

/-- A state and operands that meet the hypotheses of RoutingTables (routeCopy). -/
theorem witness_RoutingTables_routeCopy :
    ∃ (s : State), alive s = true ∧ shadowShut s = false ∧ getF s ROUTE.ROUTE_STS_ACTIVE = 0 :=
  ⟨powered, by decide +kernel⟩

/-- A state and operands that meet the hypotheses of RoutingTables (routeFlipDrained). -/
theorem witness_RoutingTables_routeFlipDrained :
    ∃ (s : State), alive s = true ∧ draining s = true ∧ routedQueued s = false :=
  ⟨setB powered ROUTE.ROUTE_STS_DRAINING true, by decide +kernel⟩

/-- A state and operands that meet the hypotheses of RoutingTables (drainTimeout). -/
theorem witness_RoutingTables_drainTimeout :
    ∃ (s : State), alive s = true ∧ draining s = true :=
  ⟨setB powered ROUTE.ROUTE_STS_DRAINING true, by decide +kernel⟩

/-- A state and operands that meet the hypotheses of RoutingTables (oldBankEnd). -/
theorem witness_RoutingTables_oldBankEnd :
    ∃ (s : State), alive s = true ∧ flag s ROUTE.ROUTE_STS_OLD_VALID = true :=
  ⟨setB powered ROUTE.ROUTE_STS_OLD_VALID true, by decide +kernel⟩

/-- A state and operands that meet the hypotheses of RoutingTables (routeTblData). -/
theorem witness_RoutingTables_routeTblData :
    ∃ (s : State) (v : Nat), alive s = true ∧ shadowShut s = false ∧ flag s ROUTE.TBL_ADDR_AUTOINC = false :=
  ⟨setB powered ROUTE.TBL_ADDR_AUTOINC false, 0, by decide +kernel⟩

/-- A state and operands that meet the hypotheses of CreditsAndGroups (creditRelease). -/
theorem witness_CreditsAndGroups_creditRelease :
    ∃ (s : State) (pid : Pid) (cost : Nat) (rest : List Nat), alive s = true ∧ Store.get [] s.net.owed pid = cost :: rest ∧ getF s (SHAPE.POL_CFG_RATE (pidPt s pid)) = 0 ∧ throttled s pid = false ∧ ladder s < 18 :=
  ⟨{ powered with net := { owed := [(0, [128])] } }, 0, 128, [], by decide +kernel⟩

/-- A state and operands that meet the hypotheses of CreditsAndGroups (e2eCredit). -/
theorem witness_CreditsAndGroups_e2eCredit :
    ∃ (s : State) (pid : Pid), alive s = true ∧ pidState s pid ≠ 0 ∧ ecredOf s pid ≠ Store.get 0 s.net.sent pid :=
  ⟨setF (setF powered (PART.FENCE_STS_STATE 0) 1) (SHAPE.E2E_DATA_ECRED 0) 1, 0, by decide +kernel⟩

/-- A state and operands that meet the hypotheses of CreditsAndGroups (e2eLimitWrite). -/
theorem witness_CreditsAndGroups_e2eLimitWrite :
    ∃ (s : State) (v : Nat), alive s = true ∧ limitSum s (pidPt s (getF s SHAPE.E2E_ADDR_PID)) (getF s SHAPE.E2E_ADDR_PID) + v % 256 ≤ 4096 * (viewCores s (pidPt s (getF s SHAPE.E2E_ADDR_PID))).length :=
  ⟨mapped, 0, by decide +kernel⟩

/-- A state and operands that meet the hypotheses of CreditsAndGroups (e2eLimitWrite_refused). -/
theorem witness_CreditsAndGroups_e2eLimitWrite_refused :
    ∃ (s : State) (v : Nat), alive s = true ∧ pidState s (getF s SHAPE.E2E_ADDR_PID) ≠ 0 ∧ 4096 * (viewCores s (pidPt s (getF s SHAPE.E2E_ADDR_PID))).length < limitSum s (pidPt s (getF s SHAPE.E2E_ADDR_PID)) (getF s SHAPE.E2E_ADDR_PID) + v % 256 :=
  ⟨setF powered (PART.FENCE_STS_STATE 0) 1, 1, by decide +kernel⟩

/-- A state and operands that meet the hypotheses of CreditsAndGroups (mcGroupWrite). -/
theorem witness_CreditsAndGroups_mcGroupWrite :
    ∃ (s : State) (reg : Fin 4) (v g : Nat), alive s = true ∧ getF s ROUTE.MC_SEL_GROUP = g ∧ g ≠ 0 ∧ ((upTo 48).all fun p => !(getF (putGroup s g reg v) (ROUTE.MC_PORTS g)).testBit p || getF s (PORT.XPORT_CTL_GROUP p) == getF (putGroup s g reg v) (ROUTE.MC_CTL_DIM g)) = true :=
  ⟨setF powered ROUTE.MC_SEL_GROUP 1, 0, 0, 1, by decide +kernel⟩

/-- A state and operands that meet the hypotheses of FirmwareAndLifecycle (fwData). -/
theorem witness_FirmwareAndLifecycle_fwData :
    ∃ (s : State) (v : Nat), alive s = true ∧ flag s SEC.FW_ADDR_AUTOINC = true :=
  ⟨setB powered SEC.FW_ADDR_AUTOINC true, 0, by decide +kernel⟩

/-- A state and operands that meet the hypotheses of FirmwareAndLifecycle (fwVerify). -/
theorem witness_FirmwareAndLifecycle_fwVerify :
    ∃ (s : State), alive s = true ∧ flag s SEC.FW_STS_BUSY = false :=
  ⟨powered, by decide +kernel⟩

/-- A state and operands that meet the hypotheses of FirmwareAndLifecycle (fwStaged). -/
theorem witness_FirmwareAndLifecycle_fwStaged :
    ∃ (s : State), managed s = true ∧ flag s SEC.FW_STS_BUSY = true :=
  ⟨setB powered SEC.FW_STS_BUSY true, by decide +kernel⟩

/-- A state and operands that meet the hypotheses of FirmwareAndLifecycle (fwDiscard). -/
theorem witness_FirmwareAndLifecycle_fwDiscard :
    ∃ (s : State), alive s = true ∧ flag s SEC.FW_STS_STAGED = true :=
  ⟨setB powered SEC.FW_STS_STAGED true, by decide +kernel⟩

/-- A state and operands that meet the hypotheses of FirmwareAndLifecycle (svnCommit). -/
theorem witness_FirmwareAndLifecycle_svnCommit :
    ∃ (s : State) (n : Nat), alive s = true ∧ lifecycle s = 1 ∧ min 64 (getF s SEC.FW_STS_RUN_SVN) = n ∧ getF s FUSE.SVN_SVN < n :=
  ⟨setF (setF powered FUSE.LIFECYCLE_STATE 1) SEC.FW_STS_RUN_SVN 3, 3, by decide +kernel⟩

/-- A state and operands that meet the hypotheses of FirmwareAndLifecycle (lcRma). -/
theorem witness_FirmwareAndLifecycle_lcRma :
    ∃ (s : State), alive s = true ∧ flag s SEC.SEC_STS_LC_BUSY = false ∧ lifecycle s = 1 :=
  ⟨setF powered FUSE.LIFECYCLE_STATE 1, by decide +kernel⟩

/-- A state and operands that meet the hypotheses of FirmwareAndLifecycle (lcVoid). -/
theorem witness_FirmwareAndLifecycle_lcVoid :
    ∃ (s : State), alive s = true ∧ Store.rising s.regs = true ∧ flag s SEC.SEC_STS_LC_BUSY = false ∧ lifecycle s ≠ 3 :=
  ⟨setF powered FUSE.LIFECYCLE_STATE 1, by decide +kernel⟩

/-- A state and operands that meet the hypotheses of FirmwareAndLifecycle (lcDone). -/
theorem witness_FirmwareAndLifecycle_lcDone :
    ∃ (s : State) (r : Nat), managed s = true ∧ s.sec.lcNext = r + 1 :=
  ⟨{ powered with sec := { lcNext := 1 } }, 0, by decide +kernel⟩

/-- A state and operands that meet the hypotheses of FirmwareAndLifecycle (debugLevelWrite). -/
theorem witness_FirmwareAndLifecycle_debugLevelWrite :
    ∃ (s : State) (l : Nat), alive s = true ∧ debugPermitted s l = true :=
  ⟨powered, 1, by decide +kernel⟩

/-- A state and operands that meet the hypotheses of FirmwareAndLifecycle (debugLevelWrite_refused). -/
theorem witness_FirmwareAndLifecycle_debugLevelWrite_refused :
    ∃ (s : State) (l : Nat), alive s = true ∧ debugPermitted s l = false :=
  ⟨setF powered FUSE.LIFECYCLE_STATE 1, 2, by decide +kernel⟩

/-- A state and operands that meet the hypotheses of FirmwareAndLifecycle (debugLevelTakesEffect). -/
theorem witness_FirmwareAndLifecycle_debugLevelTakesEffect :
    ∃ (s : State) (l : Nat), managed s = true ∧ s.sec.debugNext = l + 1 ∧ 0 < l ∧ l < 2 :=
  ⟨{ powered with sec := { debugNext := 2 } }, 1, by decide +kernel⟩

/-- A state and operands that meet the hypotheses of FirmwareAndLifecycle (fieldProgram). -/
theorem witness_FirmwareAndLifecycle_fieldProgram :
    ∃ (s : State) (entry : Nat), alive s = true ∧ lifecycle s = 1 ∧ getF s FUSE.FIELD_STS_USED < 64 :=
  ⟨setF powered FUSE.LIFECYCLE_STATE 1, 0, by decide +kernel⟩

/-- A state and operands that meet the hypotheses of FirmwareAndLifecycle (fieldProgram_refused). -/
theorem witness_FirmwareAndLifecycle_fieldProgram_refused :
    ∃ (s : State) (entry : Nat), alive s = true ∧ (lifecycle s ≠ 1 ∨ 64 ≤ getF s FUSE.FIELD_STS_USED) :=
  ⟨setF powered FUSE.LIFECYCLE_STATE 2, 0, by decide +kernel⟩

/-- A state and operands that meet the hypotheses of FirmwareAndLifecycle (trngFail). -/
theorem witness_FirmwareAndLifecycle_trngFail :
    ∃ (s : State) (test : Nat), managed s = true :=
  ⟨powered, 0, by decide +kernel⟩

/-- A state and operands that meet the hypotheses of KeySlots (kslotLoad). -/
theorem witness_KeySlots_kslotLoad :
    ∃ (s : State), alive s = true ∧ slotResult s (slotSel s) 0 = 0 :=
  ⟨slotReady, by decide +kernel⟩

/-- A state and operands that meet the hypotheses of KeySlots (kslotLoad_refused). -/
theorem witness_KeySlots_kslotLoad_refused :
    ∃ (s : State) (r : Nat), alive s = true ∧ slotResult s (slotSel s) 0 = r ∧ r ≠ 0 :=
  ⟨powered, 1, by decide +kernel⟩

/-- A state and operands that meet the hypotheses of KeySlots (kslotLock). -/
theorem witness_KeySlots_kslotLock :
    ∃ (s : State), alive s = true ∧ slotResult s (slotSel s) 1 = 0 :=
  ⟨setF ({ powered with parts := { owner := [(0, 1)] } }) (KEY.KSLOT_CTL_STATE 0) 1, by decide +kernel⟩

/-- A state and operands that meet the hypotheses of KeySlots (kslotLock_refused). -/
theorem witness_KeySlots_kslotLock_refused :
    ∃ (s : State) (r : Nat), alive s = true ∧ slotResult s (slotSel s) 1 = r ∧ r ≠ 0 :=
  ⟨powered, 1, by decide +kernel⟩

/-- A state and operands that meet the hypotheses of KeySlots (kslotClear). -/
theorem witness_KeySlots_kslotClear :
    ∃ (s : State), alive s = true ∧ bitF s PART.DRUN_OPEN_OPEN (slotPt s (slotSel s)) = false ∧ Store.get 0 s.sec.slotNext (slotSel s) = 0 ∧ slotState s (slotSel s) ≠ 0 :=
  ⟨setF ({ powered with parts := { owner := [(0, 1)] } }) (KEY.KSLOT_CTL_STATE 0) 1, by decide +kernel⟩

/-- A state and operands that meet the hypotheses of KeySlots (kslotEvicted). -/
theorem witness_KeySlots_kslotEvicted :
    ∃ (s : State) (slot : Fin 16) (t : Nat), alive s = true ∧ Store.get 0 s.sec.slotNext slot = t + 1 ∧ rangeEvicted s (slotPt s slot) ((slotRange s slot).1 * 2 ^ 30) ((slotRange s slot).2 * 2 ^ 30) = true :=
  ⟨{ powered with sec := { slotNext := [(0, 2)] } }, 0, 1, by decide +kernel⟩

/-- A state and operands that meet the hypotheses of KeySlots (relData). -/
theorem witness_KeySlots_relData :
    ∃ (s : State) (v : Nat), alive s = true ∧ flag s KEY.REL_ADDR_AUTOINC = false :=
  ⟨setB powered KEY.REL_ADDR_AUTOINC false, 0, by decide +kernel⟩

/-- A state and operands that meet the hypotheses of KeySlots (keyRelease). -/
theorem witness_KeySlots_keyRelease :
    ∃ (s : State), alive s = true ∧ flag s KEY.REL_STS_BUSY = false :=
  ⟨powered, by decide +kernel⟩

/-- A state and operands that meet the hypotheses of KeySlots (relDone). -/
theorem witness_KeySlots_relDone :
    ∃ (s : State) (r : Release), managed s = true ∧ s.sec.relNext ≠ 0 ∧ latched s = false ∧ (holder s).isSome = true ∧ recordField s 8 1 < 16 ∧ Store.get none s.sec.releases (recordField s 8 1 % 16) = some r ∧ recordField s 0 8 = r.gen ∧ getF s (ATT.GEN (recordField s 8 1 % 16)) = r.gen ∧ recordField s 9 1 < 16 ∧ slotPt s (recordField s 9 1) = recordField s 8 1 % 16 ∧ slotState s (recordField s 9 1) = 2 ∧ Store.get 0 s.sec.slotNext (recordField s 9 1) = 0 ∧ (ptState s (recordField s 8 1 % 16) == 0) = false ∧ (ptState s (recordField s 8 1 % 16) == 5) = false ∧ lifecycle s = 1 ∧ getF s SEC.DEBUG_LEVEL < 2 ∧ flag s SEC.FW_STS_STAGED = false :=
  ⟨releasing, ⟨0, 0, 0, 0⟩, by decide +kernel⟩

/-- A state and operands that meet the hypotheses of KeySlots (relDone_refused). -/
theorem witness_KeySlots_relDone_refused :
    ∃ (s : State) (r : Nat), managed s = true ∧ s.sec.relNext ≠ 0 ∧ (releaseResult s).1 = r ∧ r ≠ 0 :=
  ⟨{ powered with sec := { relNext := 1 } }, 1, by decide +kernel⟩

/-- A state and operands that meet the hypotheses of QuotesAndImages (quote). -/
theorem witness_QuotesAndImages_quote :
    ∃ (s : State) (pt : Ptn), alive s = true ∧ flag s ATT.QUOTE_STS_BUSY = false ∧ s.sec.ak ≠ 0 ∧ trngFailed s = false :=
  ⟨{ powered with sec := { ak := 1, dik := 1 } }, 0, by decide +kernel⟩

/-- A state and operands that meet the hypotheses of QuotesAndImages (quote_refused). -/
theorem witness_QuotesAndImages_quote_refused :
    ∃ (s : State) (pt : Ptn), alive s = true ∧ flag s ATT.QUOTE_STS_BUSY = false ∧ s.sec.ak = 0 :=
  ⟨powered, 0, by decide +kernel⟩

/-- A state and operands that meet the hypotheses of QuotesAndImages (akCertificate). -/
theorem witness_QuotesAndImages_akCertificate :
    ∃ (s : State), alive s = true ∧ flag s ATT.QUOTE_STS_BUSY = false ∧ s.sec.ak ≠ 0 :=
  ⟨{ powered with sec := { ak := 1, dik := 1 } }, by decide +kernel⟩

/-- A state and operands that meet the hypotheses of QuotesAndImages (dikPublicKey). -/
theorem witness_QuotesAndImages_dikPublicKey :
    ∃ (s : State), alive s = true ∧ flag s ATT.QUOTE_STS_BUSY = false ∧ s.sec.dik ≠ 0 :=
  ⟨{ powered with sec := { ak := 1, dik := 1 } }, by decide +kernel⟩

/-- A state and operands that meet the hypotheses of QuotesAndImages (quoteDone). -/
theorem witness_QuotesAndImages_quoteDone :
    ∃ (s : State), managed s = true ∧ flag s ATT.QUOTE_STS_BUSY = true :=
  ⟨setB powered ATT.QUOTE_STS_BUSY true, by decide +kernel⟩

/-- A state and operands that meet the hypotheses of QuotesAndImages (qbufData). -/
theorem witness_QuotesAndImages_qbufData :
    ∃ (s : State), managed s = true ∧ flag s ATT.QBUF_ADDR_AUTOINC = true :=
  ⟨setB powered ATT.QBUF_ADDR_AUTOINC true, by decide +kernel⟩

/-- A state and operands that meet the hypotheses of QuotesAndImages (releasePairExpiry). -/
theorem witness_QuotesAndImages_releasePairExpiry :
    ∃ (s : State) (pt : Ptn) (r : Release), managed s = true ∧ Store.get none s.sec.releases pt = some r :=
  ⟨{ powered with sec := { releases := [(0, some ⟨0, 0, 0, 0⟩)] } }, 0, ⟨0, 0, 0, 0⟩, by decide +kernel⟩

/-- A state and operands that meet the hypotheses of QuotesAndImages (imgBind). -/
theorem witness_QuotesAndImages_imgBind :
    ∃ (s : State), alive s = true ∧ bindResult s (imgSel s) = 0 :=
  ⟨setF mapped (ATT.IMG_LEN_UNITS 0) 1, by decide +kernel⟩

/-- A state and operands that meet the hypotheses of QuotesAndImages (imgBind_refused). -/
theorem witness_QuotesAndImages_imgBind_refused :
    ∃ (s : State) (r : Nat), alive s = true ∧ bindResult s (imgSel s) = r ∧ r ≠ 0 :=
  ⟨mapped, 7, by decide +kernel⟩

/-- A state and operands that meet the hypotheses of QuotesAndImages (imgDone). -/
theorem witness_QuotesAndImages_imgDone :
    ∃ (s : State) (slot : Fin 16), alive s = true ∧ Store.get 0 s.sec.imgStatus slot = 1 :=
  ⟨{ powered with sec := { imgStatus := [(0, 1)] } }, 0, by decide +kernel⟩

/-- A state and operands that meet the hypotheses of QuotesAndImages (imgDone_failed). -/
theorem witness_QuotesAndImages_imgDone_failed :
    ∃ (s : State) (slot : Fin 16) (st : Nat), alive s = true ∧ Store.get 0 s.sec.imgStatus slot = st + 1 ∧ st ≠ 0 :=
  ⟨{ powered with sec := { imgStatus := [(0, 41)] } }, 0, 40, by decide +kernel⟩

/-- A state and operands that meet the hypotheses of QuotesAndImages (imgUnbind). -/
theorem witness_QuotesAndImages_imgUnbind :
    ∃ (s : State), alive s = true ∧ bitF s PART.DRUN_OPEN_OPEN (getF s (ATT.IMG_CTL_PT (imgSel s))) = false ∧ 2 ≤ getF s (ATT.IMG_CTL_STATE (imgSel s)) :=
  ⟨setF ({ powered with parts := { owner := [(0, 1)] } }) (ATT.IMG_CTL_STATE 0) 2, by decide +kernel⟩

/-- A state and operands that meet the hypotheses of KeyExchanges (offer). -/
theorem witness_KeyExchanges_offer :
    ∃ (s : State) (port : Port) (c : Nat) (k : KeyX), alive s = true ∧ linkCarries s port = true ∧ linkS s = true ∧ exchange s port = some k ∧ k.cold = true ∧ leads s port = false ∧ k.script = [] ∧ trngFailed s = false :=
  ⟨offered, 0, 0, ⟨0, true, [], 0, 0, 0, false, false⟩, by decide +kernel⟩

/-- A state and operands that meet the hypotheses of KeyExchanges (offer_format). -/
theorem witness_KeyExchanges_offer_format :
    ∃ (s : State) (port : Port) (len c : Nat) (k : KeyX), alive s = true ∧ linkCarries s port = true ∧ exchange s port = some k ∧ (len ≠ 4192 ∨ linkS s = false ∨ k.cold = false ∨ leads s port = true ∨ k.script ≠ []) :=
  ⟨{ setF powered (PORT.LINK_STS_STATE 0) 7 with sec := { kx := [(0, some ⟨0, true, [], 0, 0, 0, false, false⟩)] } }, 0, 0, 0, ⟨0, true, [], 0, 0, 0, false, false⟩, by decide +kernel⟩

/-- A state and operands that meet the hypotheses of KeyExchanges (accept). -/
theorem witness_KeyExchanges_accept :
    ∃ (s : State) (port : Port) (c offer : Nat) (k : KeyX), alive s = true ∧ linkCarries s port = true ∧ linkS s = true ∧ exchange s port = some k ∧ k.cold = true ∧ leads s port = true ∧ k.script = [offer] :=
  ⟨setF (setB offered (PORT.LINK_STS_LEADER 0) true) (PORT.LINK_STS_STATE 0) 7 |> fun s => { s with sec := { s.sec with kx := [(0, some ⟨0, true, [5], 0, 0, 0, false, false⟩)] } }, 0, 0, 5, ⟨0, true, [5], 0, 0, 0, false, false⟩, by decide +kernel⟩

/-- A state and operands that meet the hypotheses of KeyExchanges (confirm). -/
theorem witness_KeyExchanges_confirm :
    ∃ (s : State) (port : Port) (c offer acc : Nat) (k : KeyX), alive s = true ∧ linkCarries s port = true ∧ linkS s = true ∧ exchange s port = some k ∧ k.cold = true ∧ leads s port = false ∧ k.script = [offer, acc] :=
  ⟨{ offered with sec := { kx := [(0, some ⟨0, true, [5, 6], 0, 0, 0, false, false⟩)] } }, 0, 0, 5, 6, ⟨0, true, [5, 6], 0, 0, 0, false, false⟩, by decide +kernel⟩

/-- A state and operands that meet the hypotheses of KeyExchanges (nonce). -/
theorem witness_KeyExchanges_nonce :
    ∃ (s : State) (port : Port) (c : Nat) (k : KeyX), alive s = true ∧ linkCarries s port = true ∧ linkS s = false ∧ exchange s port = some k ∧ k.derived = false ∧ c / 256 ^ 32 % 2 ^ 32 = k.rot :=
  ⟨{ setF (setF powered (PORT.LINK_STS_STATE 0) 7) FUSE.PART_INFO_PROFILE 0 with sec := { kx := [(0, some ⟨0, true, [], 0, 0, 0, false, false⟩)] } }, 0, 0, ⟨0, true, [], 0, 0, 0, false, false⟩, by decide +kernel⟩

/-- A state and operands that meet the hypotheses of KeyExchanges (rotOffer). -/
theorem witness_KeyExchanges_rotOffer :
    ∃ (s : State) (port : Port) (c : Nat) (k : KeyX), alive s = true ∧ linkCarries s port = true ∧ linkS s = true ∧ exchange s port = some k ∧ k.cold = false ∧ leads s port = false ∧ k.script = [] ∧ trngFailed s = false :=
  ⟨{ offered with sec := { kx := [(0, some ⟨0, false, [], 0, 0, 1, false, false⟩)] } }, 0, 0, ⟨0, false, [], 0, 0, 1, false, false⟩, by decide +kernel⟩

/-- A state and operands that meet the hypotheses of KeyExchanges (rotAccept). -/
theorem witness_KeyExchanges_rotAccept :
    ∃ (s : State) (port : Port) (c offer : Nat) (k : KeyX), alive s = true ∧ linkCarries s port = true ∧ linkS s = true ∧ exchange s port = some k ∧ k.cold = false ∧ leads s port = true ∧ k.script = [offer] :=
  ⟨{ setB offered (PORT.LINK_STS_LEADER 0) true with sec := { kx := [(0, some ⟨0, false, [5], 0, 0, 1, false, false⟩)] } }, 0, 0, 5, ⟨0, false, [5], 0, 0, 1, false, false⟩, by decide +kernel⟩

/-- A state and operands that meet the hypotheses of KeyExchanges (ready). -/
theorem witness_KeyExchanges_ready :
    ∃ (s : State) (port : Port) (c : Nat) (k : KeyX), alive s = true ∧ linkCarries s port = true ∧ exchange s port = some k ∧ k.derived = true ∧ k.cold = false ∧ c % 2 ^ 32 = k.rot :=
  ⟨{ setF powered (PORT.LINK_STS_STATE 0) 7 with sec := { kx := [(0, some ⟨0, false, [], 0, 0, 1, true, false⟩)] } }, 0, 1, ⟨0, false, [], 0, 0, 1, true, false⟩, by decide +kernel⟩

/-- A state and operands that meet the hypotheses of KeyExchanges (keyxTimeout). -/
theorem witness_KeyExchanges_keyxTimeout :
    ∃ (s : State) (port : Port) (k : KeyX), alive s = true ∧ exchange s port = some k :=
  ⟨{ setF powered (PORT.LINK_STS_STATE 0) 7 with sec := { kx := [(0, some ⟨0, true, [], 0, 0, 0, false, false⟩)] } }, 0, ⟨0, true, [], 0, 0, 0, false, false⟩, by decide +kernel⟩

/-- A state and operands that meet the hypotheses of KeyExchanges (linkKeyRotation). -/
theorem witness_KeyExchanges_linkKeyRotation :
    ∃ (s : State) (port : Port) (t : State), alive s = true ∧ atPeriodic s (64 + port) (4096 * 2 ^ rotLog2 s) (4096 * (port * 2 ^ (rotLog2 s - 6))) = t ∧ linkActive t port = true ∧ leads t port = true ∧ exchange t port = none :=
  ⟨setB offered (PORT.LINK_STS_LEADER 0) true |> fun s => { s with sec := {} }, 0, atPeriodic (setB offered (PORT.LINK_STS_LEADER 0) true |> fun s => { s with sec := {} }) 64 (4096 * 2 ^ 24) 0, by decide +kernel⟩

/-- A state and operands that meet the hypotheses of KeyExchanges (linkKeyRotation_skipped). -/
theorem witness_KeyExchanges_linkKeyRotation_skipped :
    ∃ (s : State) (port : Port) (t : State), alive s = true ∧ atPeriodic s (64 + port) (4096 * 2 ^ rotLog2 s) (4096 * (port * 2 ^ (rotLog2 s - 6))) = t ∧ linkActive t port = false :=
  ⟨powered, 0, atPeriodic powered 64 (4096 * 2 ^ 24) 0, by decide +kernel⟩

/-- A state and operands that meet the hypotheses of KeyExchanges (frameCounterLimit). -/
theorem witness_KeyExchanges_frameCounterLimit :
    ∃ (s : State) (port : Port), alive s = true ∧ 2 ^ 40 ≤ max (getF s (PORT.FRAMES_TX port)) (getF s (PORT.FRAMES_RX port)) :=
  ⟨setF powered (PORT.FRAMES_TX 0) (2 ^ 40), 0, by decide +kernel⟩

/-- A state and operands that meet the hypotheses of Partitions (quiesce). -/
theorem witness_Partitions_quiesce :
    ∃ (s : State) (pt : Nat), alive s = true ∧ selPt s = pt ∧ runOpen s pt = false ∧ (ptState s pt == 0) = false ∧ (ptState s pt == 5) = false ∧ (ptState s pt == 4) = false :=
  ⟨{ powered with parts := { owner := [(0, 1)] } }, 0, by decide +kernel⟩

/-- A state and operands that meet the hypotheses of Partitions (quiesced). -/
theorem witness_Partitions_quiesced :
    ∃ (s : State) (pt : Ptn), alive s = true ∧ flag s (PART.PT_STS_QUIESCING pt) = true ∧ ptDrained s pt = true :=
  ⟨setB ({ powered with parts := { owner := [(0, 1)] } }) (PART.PT_STS_QUIESCING 0) true, 0, by decide +kernel⟩

/-- A state and operands that meet the hypotheses of Partitions (resume). -/
theorem witness_Partitions_resume :
    ∃ (s : State) (pt : Nat), alive s = true ∧ selPt s = pt ∧ (getF s PWR.PWR_STS_STATE == 2) = false ∧ scrubbing s pt = false ∧ copyingPt s pt = false ∧ (flag s (PART.PT_STS_QUIESCING pt) = true ∨ s.parts.quiesced.getLsbD pt = true) :=
  ⟨{ powered with parts := { owner := [(0, 1)], quiesced := 1 } }, 0, by decide +kernel⟩

/-- A state and operands that meet the hypotheses of Partitions (cfgGo). -/
theorem witness_Partitions_cfgGo :
    ∃ (s : State) (pt : Nat), alive s = true ∧ selPt s = pt ∧ cfgResult s pt = 0 :=
  ⟨setF powered PART.CFG_CORES_CORES 1, 0, by decide +kernel⟩

/-- A state and operands that meet the hypotheses of Partitions (cfgGo_refused). -/
theorem witness_Partitions_cfgGo_refused :
    ∃ (s : State) (pt r : Nat), alive s = true ∧ selPt s = pt ∧ cfgResult s pt = r ∧ r ≠ 0 :=
  ⟨powered, 0, 3, by decide +kernel⟩

/-- A state and operands that meet the hypotheses of Partitions (pairCopyDone). -/
theorem witness_Partitions_pairCopyDone :
    ∃ (s : State) (pt : Ptn) (ps : List Nat), alive s = true ∧ (coresOf s pt).filter s.parts.copying.getLsbD = ps ∧ ps ≠ [] :=
  ⟨{ powered with parts := { owner := [(0, 1), (1, 1)], sec := [(0, 2)], copying := 1 } }, 0, [0], by decide +kernel⟩

/-- A state and operands that meet the hypotheses of Partitions (mirrorFailoverDone). -/
theorem witness_Partitions_mirrorFailoverDone :
    ∃ (s : State) (pt : Ptn) (p q : Nat), alive s = true ∧ ((upTo 16).filter fun p => s.parts.failing.getLsbD p && ownerOf s p == some pt.val) = [p] ∧ secondaryOf s p = some q ∧ lostCore s p = true ∧ coreUp s q = true :=
  ⟨{ setBitF powered TOP.CORE_MAP_LOST 0 true with parts := { owner := [(0, 1), (1, 1)], sec := [(0, 2)], failing := 1 } }, 0, 0, 1, by decide +kernel⟩

/-- A state and operands that meet the hypotheses of Partitions (bind). -/
theorem witness_Partitions_bind :
    ∃ (s : State) (pt : Ptn) (pid : Nat), alive s = true ∧ getF s PART.BIND_PID_PID = pid ∧ (pidState s pid = 0 ∨ pidState s pid = 4) ∧ flag s (ROUTE.PTAB_DATA_V pid) = true ∧ coresOf s pt ≠ [] ∧ limitSum s pt pid + getF s (SHAPE.E2E_DATA_LIMIT pid) ≤ 4096 * (viewCores s pt).length :=
  ⟨setB ({ powered with parts := { owner := [(0, 1)] } }) (ROUTE.PTAB_DATA_V 0) true, 0, 0, by decide +kernel⟩

/-- A state and operands that meet the hypotheses of Partitions (unbind). -/
theorem witness_Partitions_unbind :
    ∃ (s : State) (pid : Nat), alive s = true ∧ getF s PART.BIND_PID_PID = pid ∧ pidState s pid = 4 :=
  ⟨setF powered (PART.FENCE_STS_STATE 0) 4, 0, by decide +kernel⟩

/-- A state and operands that meet the hypotheses of Partitions (unbind_refused). -/
theorem witness_Partitions_unbind_refused :
    ∃ (s : State) (pid : Nat), alive s = true ∧ getF s PART.BIND_PID_PID = pid ∧ pidState s pid ≠ 4 :=
  ⟨powered, 0, by decide +kernel⟩

/-- A state and operands that meet the hypotheses of MuslinScrub (scrubGo). -/
theorem witness_MuslinScrub_scrubGo :
    ∃ (s : State) (pt : Nat), alive s = true ∧ selPt s = pt ∧ ptState s pt = 4 ∧ runOpen s pt = false ∧ trngFailed s = false ∧ scrubMaskOk s pt (getF s PART.SCRUB_CORES_CORES) (getF s PART.SCRUB_DRIVES_DRIVES) = true :=
  ⟨setF ({ powered with parts := { owner := [(0, 1)], quiesced := 1 } }) PART.SCRUB_CORES_CORES 1, 0, by decide +kernel⟩

/-- A state and operands that meet the hypotheses of MuslinScrub (scrubSnoopTimeout). -/
theorem witness_MuslinScrub_scrubSnoopTimeout :
    ∃ (s : State) (pid : Pid) (pt : Nat) (e : Nat), alive s = true ∧ ((upTo 16).find? fun pt => (scrubOf s pt).isSome && (awaitedBy s (scrubJob pt)).contains pid.val) = some pt ∧ ((((scrubOf s pt).map (·.owed)).getD []).find? fun o => o.1 == pid.val) = some (pid.val, e) :=
  ⟨scrubSnoop, 5, 0, 0, by decide +kernel⟩

/-- A state and operands that meet the hypotheses of MuslinScrub (sanitizeDone). -/
theorem witness_MuslinScrub_sanitizeDone :
    ∃ (s : State) (root : Root), alive s = true ∧ getF s (PCIE.DRV_STS_STATE root) = 5 :=
  ⟨setF powered (PCIE.DRV_STS_STATE 0) 5, 0, by decide +kernel⟩

/-- A state and operands that meet the hypotheses of MuslinScrub (scrubDone). -/
theorem witness_MuslinScrub_scrubDone :
    ∃ (s : State) (pt : Ptn) (x : Scrub), alive s = true ∧ scrubOf s pt = some x ∧ scrubOver s pt x = true :=
  ⟨{ powered with parts := { owner := [(0, 1)], quiesced := 1, scrubs := [(0, some { cores := [0], drives := [] })] } }, 0, { cores := [0], drives := [] }, by decide +kernel⟩

/-- A state and operands that meet the hypotheses of PowerControl (capLoopUpdate). -/
theorem witness_PowerControl_capLoopUpdate :
    ∃ (s : State) (avg : Nat) (cores : List Nat) (dram fab aux input : Nat) (s0 : State), managed s = true ∧ recordThrottle (atPeriodic s 1 65536 0) = s0 ∧ (holder s0).isSome = true :=
  ⟨setF powered TOP.CTL_STS_HOLDER 1, 0, [], 0, 0, 0, 0, recordThrottle (atPeriodic (setF powered TOP.CTL_STS_HOLDER 1) 1 65536 0), by decide +kernel⟩

/-- A state and operands that meet the hypotheses of PowerControl (fastLimit). -/
theorem witness_PowerControl_fastLimit :
    ∃ (s : State) (peak : Nat), managed s = true ∧ fastLimitTenths s < peak :=
  ⟨powered, 2 ^ 20, by decide +kernel⟩

/-- A state and operands that meet the hypotheses of PowerControl (fastLimit_within). -/
theorem witness_PowerControl_fastLimit_within :
    ∃ (s : State) (peak : Nat), managed s = true ∧ peak ≤ fastLimitTenths s :=
  ⟨powered, 0, by decide +kernel⟩

/-- A state and operands that meet the hypotheses of PowerControl (droopStretch). -/
theorem witness_PowerControl_droopStretch :
    ∃ (s : State) (core : Core) (pt : Nat), managed s = true ∧ coreUp s core = true ∧ flag s (CLK.CORE_CLK_STRETCH core) = false ∧ ownerOf s core = some pt :=
  ⟨{ powered with parts := { owner := [(0, 1)] } }, 0, 0, by decide +kernel⟩

/-- A state and operands that meet the hypotheses of PowerControl (stretchEnd). -/
theorem witness_PowerControl_stretchEnd :
    ∃ (s : State) (core : Core), managed s = true ∧ flag s (CLK.CORE_CLK_STRETCH core) = true :=
  ⟨setB powered (CLK.CORE_CLK_STRETCH 0) true, 0, by decide +kernel⟩

/-- A state and operands that meet the hypotheses of PowerControl (deferEnd). -/
theorem witness_PowerControl_deferEnd :
    ∃ (s : State) (core : Core) (t : State), managed s = true ∧ flag s (CLK.CORE_CLK_DEFER core) = true ∧ flag s (CLK.CORE_CLK_STRETCH core) = false ∧ setB (advanceEl s (Store.get 0 s.pwr.deferAt core - 1)) (CLK.CORE_CLK_DEFER core) false = t ∧ clockStale t core = true :=
  ⟨setB (setB powered (CLK.CORE_CLK_DEFER 0) true) (CLK.CORE_CLK_PINNED 0) false, 0, setB (advanceEl (setB (setB powered (CLK.CORE_CLK_DEFER 0) true) (CLK.CORE_CLK_PINNED 0) false) 0) (CLK.CORE_CLK_DEFER 0) false, by decide +kernel⟩

/-- A state and operands that meet the hypotheses of PowerControl (monitorAlarm). -/
theorem witness_PowerControl_monitorAlarm :
    ∃ (s : State) (core : Core), managed s = true ∧ floating s core = true ∧ freqBlocked s core = false :=
  ⟨setB powered (CLK.CORE_CLK_PINNED 0) false, 0, by decide +kernel⟩

/-- A state and operands that meet the hypotheses of PowerControl (monitorAlarm_deferred). -/
theorem witness_PowerControl_monitorAlarm_deferred :
    ∃ (s : State) (core : Core), managed s = true ∧ floating s core = true ∧ freqBlocked s core = true :=
  ⟨setB (setB powered (CLK.CORE_CLK_PINNED 0) false) (CLK.CORE_CLK_STRETCH 0) true, 0, by decide +kernel⟩

/-- A state and operands that meet the hypotheses of PowerControl (monitorStepUp). -/
theorem witness_PowerControl_monitorStepUp :
    ∃ (s : State) (core : Core) (t : State), managed s = true ∧ floating s core = true ∧ (holder s).isSome = true ∧ toFrameStart s = t ∧ freqBlocked t core = false ∧ freqHalf t core < limitHalf t core :=
  ⟨setF (setF (setB powered (CLK.CORE_CLK_PINNED 0) false) TOP.CTL_STS_HOLDER 1) (CLK.CORE_CLK_FMAX_STEP 0) 5, 0, toFrameStart (setF (setF (setB powered (CLK.CORE_CLK_PINNED 0) false) TOP.CTL_STS_HOLDER 1) (CLK.CORE_CLK_FMAX_STEP 0) 5), by decide +kernel⟩

/-- A state and operands that meet the hypotheses of PowerControl (fillerWindow). -/
theorem witness_PowerControl_fillerWindow :
    ∃ (s : State) (core : Core) (issued : Nat), alive s = true ∧ coreUp s core = true ∧ (ownerOf s core).isSome = true :=
  ⟨{ powered with parts := { owner := [(0, 1)] } }, 0, 0, by decide +kernel⟩

/-- A state and operands that meet the hypotheses of PowerControl (telemetrySample). -/
theorem witness_PowerControl_telemetrySample :
    ∃ (s : State) (rails : List (Nat × Nat × Nat)) (dram die : List Nat) (supply : Nat × Nat), managed s = true :=
  ⟨powered, [], [], [], (0, 0), by decide +kernel⟩

/-- A state and operands that meet the hypotheses of PowerStates (pwrIdle). -/
theorem witness_PowerStates_pwrIdle :
    ∃ (s : State), alive s = true ∧ getF s PWR.PWR_STS_STATE ≤ 1 ∧ allQuiet s = true :=
  ⟨powered, by decide +kernel⟩

/-- A state and operands that meet the hypotheses of PowerStates (pwrIdle_refused). -/
theorem witness_PowerStates_pwrIdle_refused :
    ∃ (s : State), alive s = true ∧ (1 < getF s PWR.PWR_STS_STATE ∨ allQuiet s = false) :=
  ⟨{ powered with parts := { owner := [(0, 1)] } }, by decide +kernel⟩

/-- A state and operands that meet the hypotheses of PowerStates (pwrRun). -/
theorem witness_PowerStates_pwrRun :
    ∃ (s : State), alive s = true ∧ getF s PWR.PWR_STS_STATE = 2 :=
  ⟨setF powered PWR.PWR_STS_STATE 2, by decide +kernel⟩

/-- A state and operands that meet the hypotheses of PowerStates (pwrRun_hibernate). -/
theorem witness_PowerStates_pwrRun_hibernate :
    ∃ (s : State), alive s = true ∧ getF s PWR.PWR_STS_STATE = 3 :=
  ⟨setF powered PWR.PWR_STS_STATE 3, by decide +kernel⟩

/-- A state and operands that meet the hypotheses of PowerStates (pwrHibernate). -/
theorem witness_PowerStates_pwrHibernate :
    ∃ (s : State), alive s = true ∧ getF s PWR.PWR_STS_STATE = 2 ∧ anyLive s = false ∧ anyRun s = false :=
  ⟨setF powered PWR.PWR_STS_STATE 2, by decide +kernel⟩

/-- A state and operands that meet the hypotheses of PowerStates (pwrOff). -/
theorem witness_PowerStates_pwrOff :
    ∃ (s : State), alive s = true ∧ (getF s PWR.PWR_STS_STATE = 2 ∨ getF s PWR.PWR_STS_STATE = 3) :=
  ⟨setF powered PWR.PWR_STS_STATE 2, by decide +kernel⟩

/-- A state and operands that meet the hypotheses of PowerStates (enClear). -/
theorem witness_PowerStates_enClear :
    ∃ (s : State), alive s = true :=
  ⟨powered, by decide +kernel⟩

/-- A state and operands that meet the hypotheses of PowerStates (inputLow). -/
theorem witness_PowerStates_inputLow :
    ∃ (s : State), managed s = true :=
  ⟨powered, by decide +kernel⟩

/-- A state and operands that meet the hypotheses of PowerStates (inputLowClear). -/
theorem witness_PowerStates_inputLowClear :
    ∃ (s : State), managed s = true :=
  ⟨powered, by decide +kernel⟩

/-- A state and operands that meet the hypotheses of PowerStates (phaseLost). -/
theorem witness_PowerStates_phaseLost :
    ∃ (s : State) (rail : Fin 20) (phase : Nat), managed s = true ∧ s.pwr.lost.contains (rail.val, phase) = false ∧ phase < phasesReq rail + 2 ∧ phasesLost s rail < 2 :=
  ⟨powered, 0, 0, by decide +kernel⟩

/-- A state and operands that meet the hypotheses of PowerStates (phaseLost_core). -/
theorem witness_PowerStates_phaseLost_core :
    ∃ (s : State) (rail : Fin 20) (phase : Nat), managed s = true ∧ s.pwr.lost.contains (rail.val, phase) = false ∧ phase < phasesReq rail + 2 ∧ phasesLost s rail = 2 ∧ rail.val < 16 :=
  ⟨{ powered with pwr := { lost := [(0, 1), (0, 2)] } }, 0, 0, by decide +kernel⟩

/-- A state and operands that meet the hypotheses of PowerStates (railOutOfRegulation). -/
theorem witness_PowerStates_railOutOfRegulation :
    ∃ (s : State) (core : Core), managed s = true :=
  ⟨powered, 0, by decide +kernel⟩

/-- A state and operands that meet the hypotheses of PowerStates (thermalTrip). -/
theorem witness_PowerStates_thermalTrip :
    ∃ (s : State) (sensor : Nat), managed s = true :=
  ⟨powered, 0, by decide +kernel⟩

/-- A state and operands that meet the hypotheses of PowerStates (chipFatal). -/
theorem witness_PowerStates_chipFatal :
    ∃ (s : State) (page detail : Nat), managed s = true :=
  ⟨powered, 0, 0, by decide +kernel⟩

/-- A state and operands that meet the hypotheses of Resets (vinApplied). -/
theorem witness_Resets_vinApplied :
    ∃ (s : State), s.input.vaux = false :=
  ⟨{ State.reset with input := { vaux := false } }, by decide +kernel⟩

/-- A state and operands that meet the hypotheses of Resets (vinGood). -/
theorem witness_Resets_vinGood :
    ∃ (s : State), s.input.applied = true ∧ s.input.good = false :=
  ⟨{ State.reset with input := { good := false } }, by decide +kernel⟩

/-- A state and operands that meet the hypotheses of Resets (resetNLow). -/
theorem witness_Resets_resetNLow :
    ∃ (s : State) (ns : Nat), s.input.good = true ∧ coolEnough s = true ∧ 10000 ≤ ns :=
  ⟨powered, 10000, by decide +kernel⟩

/-- A state and operands that meet the hypotheses of Resets (resetNLow_short). -/
theorem witness_Resets_resetNLow_short :
    ∃ (s : State) (ns : Nat), ns < 1000 :=
  ⟨powered, 0, by decide +kernel⟩

/-- A state and operands that meet the hypotheses of Resets (internalResetRelease). -/
theorem witness_Resets_internalResetRelease :
    ∃ (s : State) (straps : Nat), s.input.good = true ∧ s.input.vaux = true ∧ s.input.inReset = true :=
  ⟨{ State.reset with input := { inReset := true } }, 0, by decide +kernel⟩

/-- A state and operands that meet the hypotheses of Resets (chipResetCold). -/
theorem witness_Resets_chipResetCold :
    ∃ (s : State), managed s = true ∧ coolEnough s = true :=
  ⟨powered, by decide +kernel⟩

/-- A state and operands that meet the hypotheses of Resets (chipResetCold_refused). -/
theorem witness_Resets_chipResetCold_refused :
    ∃ (s : State), managed s = true ∧ coolEnough s = false :=
  ⟨{ setF powered FAULT.FATAL_CAUSE_CAUSE 2 with pwr := { temps := [(0, 120)] } }, by decide +kernel⟩

/-- A state and operands that meet the hypotheses of Resets (chipResetWarm). -/
theorem witness_Resets_chipResetWarm :
    ∃ (s : State), managed s = true ∧ warmReason s = 0 :=
  ⟨powered, by decide +kernel⟩

/-- A state and operands that meet the hypotheses of Resets (chipResetWarm_refused). -/
theorem witness_Resets_chipResetWarm_refused :
    ∃ (s : State) (r : Nat), managed s = true ∧ warmReason s = r ∧ r ≠ 0 :=
  ⟨{ powered with parts := { owner := [(0, 1)] } }, 1, by decide +kernel⟩

/-- A state and operands that meet the hypotheses of Resets (attach). -/
theorem witness_Resets_attach :
    ∃ (s : State), managed s = true ∧ flag s DBG.DBG_STS_ATTACHED = false :=
  ⟨powered, by decide +kernel⟩

/-- A state and operands that meet the hypotheses of Resets (detach). -/
theorem witness_Resets_detach :
    ∃ (s : State), managed s = true ∧ flag s DBG.DBG_STS_ATTACHED = true :=
  ⟨setB powered DBG.DBG_STS_ATTACHED true, by decide +kernel⟩

/-- A state and operands that meet the hypotheses of MarionetteSteps (m0Identify). -/
theorem witness_MarionetteSteps_m0Identify :
    ∃ (s : State) (eccBad : Bool), alive s = true ∧ stepReady s 0 = true :=
  ⟨setF (setF powered TOP.SEQ_STS_STEP 0) TOP.SEQ_STS_STATE 1, false, by decide +kernel⟩

/-- A state and operands that meet the hypotheses of MarionetteSteps (m1ClocksAndRails). -/
theorem witness_MarionetteSteps_m1ClocksAndRails :
    ∃ (s : State) (pllOk : Bool) (bad : List (Fin 20 × Nat)), alive s = true ∧ stepReady s 1 = true :=
  ⟨setF (setF powered TOP.SEQ_STS_STEP 1) TOP.SEQ_STS_STATE 1, true, [], by decide +kernel⟩

/-- A state and operands that meet the hypotheses of MarionetteSteps (m2Time). -/
theorem witness_MarionetteSteps_m2Time :
    ∃ (s : State), alive s = true ∧ stepReady s 2 = true :=
  ⟨setF (setF powered TOP.SEQ_STS_STEP 2) TOP.SEQ_STS_STATE 1, by decide +kernel⟩

/-- A state and operands that meet the hypotheses of MarionetteSteps (m3DieSelfTest). -/
theorem witness_MarionetteSteps_m3DieSelfTest :
    ∃ (s : State) (ok : Bool) (bad : List (Core × Eng)), alive s = true ∧ stepReady s 3 = true :=
  ⟨setF (setF powered TOP.SEQ_STS_STEP 3) TOP.SEQ_STS_STATE 1, true, [], by decide +kernel⟩

/-- A state and operands that meet the hypotheses of MarionetteSteps (m4Reconcile). -/
theorem witness_MarionetteSteps_m4Reconcile :
    ∃ (s : State), alive s = true ∧ stepReady s 4 = true :=
  ⟨setF (setF powered TOP.SEQ_STS_STEP 4) TOP.SEQ_STS_STATE 1, by decide +kernel⟩

/-- A state and operands that meet the hypotheses of MarionetteSteps (m5SecurityRoot). -/
theorem witness_MarionetteSteps_m5SecurityRoot :
    ∃ (s : State) (failing : Option Nat), alive s = true ∧ stepReady s 5 = true :=
  ⟨setF (setF powered TOP.SEQ_STS_STEP 5) TOP.SEQ_STS_STATE 1, none, by decide +kernel⟩

/-- A state and operands that meet the hypotheses of MarionetteSteps (m6DramTraining). -/
theorem witness_MarionetteSteps_m6DramTraining :
    ∃ (s : State) (untrained : List (Core × Nat)), alive s = true ∧ stepReady s 6 = true :=
  ⟨setF (setF powered TOP.SEQ_STS_STEP 6) TOP.SEQ_STS_STATE 1, [], by decide +kernel⟩

/-- A state and operands that meet the hypotheses of MarionetteSteps (m7DramTest). -/
theorem witness_MarionetteSteps_m7DramTest :
    ∃ (s : State) (bad : List (Core × Nat)), alive s = true ∧ stepReady s 7 = true :=
  ⟨setF (setF powered TOP.SEQ_STS_STEP 7) TOP.SEQ_STS_STATE 1, [], by decide +kernel⟩

/-- A state and operands that meet the hypotheses of MarionetteSteps (m8FabricPorts). -/
theorem witness_MarionetteSteps_m8FabricPorts :
    ∃ (s : State) (bad : List (Port × Fin 5)), alive s = true ∧ stepReady s 8 = true :=
  ⟨setF (setF powered TOP.SEQ_STS_STEP 8) TOP.SEQ_STS_STATE 1, [], by decide +kernel⟩

/-- A state and operands that meet the hypotheses of MarionetteSteps (m9RootPorts). -/
theorem witness_MarionetteSteps_m9RootPorts :
    ∃ (s : State) (bad : List Root), alive s = true ∧ stepReady s 9 = true :=
  ⟨setF (setF powered TOP.SEQ_STS_STEP 9) TOP.SEQ_STS_STATE 1, [], by decide +kernel⟩

/-- A state and operands that meet the hypotheses of MarionetteSteps (m10Admission). -/
theorem witness_MarionetteSteps_m10Admission :
    ∃ (s : State), alive s = true ∧ stepReady s 10 = true :=
  ⟨setF (setF powered TOP.SEQ_STS_STEP 10) TOP.SEQ_STS_STATE 1, by decide +kernel⟩

/-- A state and operands that meet the hypotheses of MarionetteSteps (m11Service). -/
theorem witness_MarionetteSteps_m11Service :
    ∃ (s : State), alive s = true ∧ stepReady s 11 = true :=
  ⟨setF (setF powered TOP.SEQ_STS_STEP 11) TOP.SEQ_STS_STATE 1, by decide +kernel⟩

/-- A state and operands that meet the hypotheses of MarionetteSteps (m2Time_refused). -/
theorem witness_MarionetteSteps_m2Time_refused :
    ∃ (s : State), alive s = true ∧ Store.rising s.regs = true ∧ stepReady s 2 = false ∧ stepAllowed s 2 = false :=
  ⟨powered, by decide +kernel⟩

/-- A state and operands that meet the hypotheses of MarionetteSteps (stepDone). -/
theorem witness_MarionetteSteps_stepDone :
    ∃ (s : State) (ms : Nat), alive s = true ∧ anyStep s = true ∧ s.boot.work = 1 ∧ stepMayEnd s = true :=
  ⟨{ setF (setF powered TOP.SEQ_STS_STEP 3) TOP.SEQ_STS_STATE 1 with boot := { work := 1 } }, 0, by decide +kernel⟩

/-- A state and operands that meet the hypotheses of MarionetteSteps (stepFail). -/
theorem witness_MarionetteSteps_stepFail :
    ∃ (s : State) (code ms : Nat), alive s = true ∧ anyStep s = true ∧ 2 ≤ s.boot.work ∧ (codeSteps (s.boot.work - 1)).contains (getF s TOP.SEQ_STS_STEP) = true :=
  ⟨{ setF (setF powered TOP.SEQ_STS_STEP 3) TOP.SEQ_STS_STATE 1 with boot := { work := 7 } }, 0, 0, by decide +kernel⟩

/-- A state and operands that meet the hypotheses of MarionetteSteps (driveReadyTimeout). -/
theorem witness_MarionetteSteps_driveReadyTimeout :
    ∃ (s : State) (root : Root), alive s = true ∧ stepRunning s 9 = true ∧ getF s (PCIE.DRV_STS_STATE root) = 1 :=
  ⟨setF (setF (setF powered TOP.SEQ_STS_STEP 9) TOP.SEQ_STS_STATE 1) (PCIE.DRV_STS_STATE 0) 1, 0, by decide +kernel⟩

/-- A state and operands that meet the hypotheses of ControlPorts (hello). -/
theorem witness_ControlPorts_hello :
    ∃ (s : State) (f : SelvFrame) (u : State) (vmin vmax v : Nat), managed s = true ∧ frameOk f = true ∧ noteSender s f = u ∧ selvUp u f.port = false ∧ commonVersion vmin vmax = some v :=
  ⟨powered, { port := 0, src := 2, words := 2, len := 46 }, noteSender (powered) { port := 0, src := 2, words := 2, len := 46 }, 16, 17, 17, by decide +kernel⟩

/-- A state and operands that meet the hypotheses of ControlPorts (badFrame). -/
theorem witness_ControlPorts_badFrame :
    ∃ (s : State) (f : SelvFrame) (vmin vmax seq epoch tag addr n : Nat) (fixed : Bool) (data : List Nat), frameOk f = false :=
  ⟨powered, { port := 0, src := 2, fcsOk := false, words := 2, len := 46 }, 0, 0, 0, 0, 0, 0, 0, false, [], by decide +kernel⟩

/-- A state and operands that meet the hypotheses of ControlPorts (selvLinkUp). -/
theorem witness_ControlPorts_selvLinkUp :
    ∃ (s : State) (m : Selv), managed s = true ∧ selvUp s m = false ∧ getF s (SELV.LINK_STS_VER m) ≠ 0 :=
  ⟨setF powered (SELV.LINK_STS_VER 0) 3, 0, by decide +kernel⟩

/-- A state and operands that meet the hypotheses of ControlPorts (selvLinkDown). -/
theorem witness_ControlPorts_selvLinkDown :
    ∃ (s : State) (m : Selv), managed s = true ∧ selvUp s m = true :=
  ⟨setB powered (SELV.LINK_STS_UP 0) true, 0, by decide +kernel⟩

/-- A state and operands that meet the hypotheses of ControlPorts (renew). -/
theorem witness_ControlPorts_renew :
    ∃ (s : State) (f : SelvFrame) (u : State) (seq : Nat), managed s = true ∧ frameOk f = true ∧ noteSender s f = u ∧ selvUp u f.port = true ∧ leaseLive u f.port = false :=
  ⟨setB powered (SELV.LINK_STS_UP 0) true, { port := 0, src := 2, words := 2, len := 46 }, noteSender (setB powered (SELV.LINK_STS_UP 0) true) { port := 0, src := 2, words := 2, len := 46 }, 0, by decide +kernel⟩

/-- A state and operands that meet the hypotheses of ControlPorts (renew_live). -/
theorem witness_ControlPorts_renew_live :
    ∃ (s : State) (f : SelvFrame) (u : State) (seq : Nat), managed s = true ∧ frameOk f = true ∧ noteSender s f = u ∧ selvUp u f.port = true ∧ leaseLive u f.port = true :=
  ⟨{ setB powered (SELV.LINK_STS_UP 0) true with ctl := { selv := [(0, { lease := .live })] } }, { port := 0, src := 2, words := 2, len := 46 }, noteSender ({ setB powered (SELV.LINK_STS_UP 0) true with ctl := { selv := [(0, { lease := .live })] } }) { port := 0, src := 2, words := 2, len := 46 }, 0, by decide +kernel⟩

/-- A state and operands that meet the hypotheses of ControlPorts (claim). -/
theorem witness_ControlPorts_claim :
    ∃ (s : State) (f : SelvFrame) (u : State) (epoch : Nat), managed s = true ∧ frameOk f = true ∧ noteSender s f = u ∧ selvUp u f.port = true ∧ getF u TOP.CTL_STS_HOLDER = 0 ∧ leaseLive u f.port = true ∧ epoch = getF u TOP.CTL_STS_EPOCH :=
  ⟨{ setB powered (SELV.LINK_STS_UP 0) true with ctl := { selv := [(0, { lease := .live })] } }, { port := 0, src := 2, words := 2, len := 46 }, noteSender ({ setB powered (SELV.LINK_STS_UP 0) true with ctl := { selv := [(0, { lease := .live })] } }) { port := 0, src := 2, words := 2, len := 46 }, 0, by decide +kernel⟩

/-- A state and operands that meet the hypotheses of ControlPorts (claim_refused). -/
theorem witness_ControlPorts_claim_refused :
    ∃ (s : State) (f : SelvFrame) (u : State) (epoch st : Nat), managed s = true ∧ frameOk f = true ∧ noteSender s f = u ∧ selvUp u f.port = true ∧ claimStatus u f.port epoch = st ∧ st ≠ 0 :=
  ⟨setB powered (SELV.LINK_STS_UP 0) true, { port := 0, src := 2, words := 2, len := 46 }, noteSender (setB powered (SELV.LINK_STS_UP 0) true) { port := 0, src := 2, words := 2, len := 46 }, 0, 4, by decide +kernel⟩

/-- A state and operands that meet the hypotheses of ControlPorts (handover). -/
theorem witness_ControlPorts_handover :
    ∃ (s : State) (m : Nat), alive s = true ∧ holder s = some m ∧ leaseLive s (1 - m) = true ∧ m ≠ preferred s :=
  ⟨{ setF powered TOP.CTL_STS_HOLDER 2 with ctl := { selv := [(0, { lease := .live })] } }, 1, by decide +kernel⟩

/-- A state and operands that meet the hypotheses of ControlPorts (handover_refused). -/
theorem witness_ControlPorts_handover_refused :
    ∃ (s : State) (m : Nat), alive s = true ∧ holder s = some m ∧ leaseLive s (1 - m) = false :=
  ⟨setF (setB powered (SELV.LINK_STS_UP 0) true) TOP.CTL_STS_HOLDER 1, 0, by decide +kernel⟩

/-- A state and operands that meet the hypotheses of ControlPorts (selvedgeLeaseCheck). -/
theorem witness_ControlPorts_selvedgeLeaseCheck :
    ∃ (s : State) (t : State), managed s = true ∧ atPeriodic s 3 65536 2048 = t ∧ leaseLive t 0 = true ∧ leaseLive t 1 = true :=
  ⟨{ setB powered (SELV.LINK_STS_UP 0) true with ctl := { selv := [(0, { lease := .live }), (1, { lease := .live })] } }, atPeriodic ({ setB powered (SELV.LINK_STS_UP 0) true with ctl := { selv := [(0, { lease := .live }), (1, { lease := .live })] } }) 3 65536 2048, by decide +kernel⟩

/-- A state and operands that meet the hypotheses of ControlPorts (selvedgeLeaseCheck_lost). -/
theorem witness_ControlPorts_selvedgeLeaseCheck_lost :
    ∃ (s : State) (t : State) (m : Nat), managed s = true ∧ atPeriodic s 3 65536 2048 = t ∧ holder t = some m ∧ leaseLive t 0 = false ∧ leaseLive t 1 = false ∧ (getSelv t 0).lease ≠ .live ∧ (getSelv t 1).lease ≠ .live :=
  ⟨setF (setB powered (SELV.LINK_STS_UP 0) true) TOP.CTL_STS_HOLDER 1, atPeriodic (setF (setB powered (SELV.LINK_STS_UP 0) true) TOP.CTL_STS_HOLDER 1) 3 65536 2048, 0, by decide +kernel⟩

/-- A state and operands that meet the hypotheses of ControlPorts (dualWindowClose). -/
theorem witness_ControlPorts_dualWindowClose :
    ∃ (s : State), managed s = true ∧ flag s TOP.CTL_STS_WINDOW = true :=
  ⟨setB powered TOP.CTL_STS_WINDOW true, by decide +kernel⟩

/-- A state and operands that meet the hypotheses of RegisterCommands (regRead). -/
theorem witness_RegisterCommands_regRead :
    ∃ (s : State) (f : SelvFrame) (u : State) (tag addr n : Nat) (fixed : Bool), managed s = true ∧ frameOk f = true ∧ noteSender s f = u ∧ selvUp u f.port = true ∧ f.words = 2 ∧ shapeStatus addr n fixed = 0 :=
  ⟨setB powered (SELV.LINK_STS_UP 0) true, { port := 0, src := 2, words := 2, len := 46 }, noteSender (setB powered (SELV.LINK_STS_UP 0) true) { port := 0, src := 2, words := 2, len := 46 }, 0, 0, 1, false, by decide +kernel⟩

/-- A state and operands that meet the hypotheses of RegisterCommands (regRead_refused). -/
theorem witness_RegisterCommands_regRead_refused :
    ∃ (s : State) (f : SelvFrame) (u : State) (tag addr n st : Nat) (fixed : Bool), managed s = true ∧ frameOk f = true ∧ noteSender s f = u ∧ selvUp u f.port = true ∧ f.words = 2 ∧ shapeStatus addr n fixed = st ∧ st ≠ 0 :=
  ⟨setB powered (SELV.LINK_STS_UP 0) true, { port := 0, src := 2, words := 2, len := 46 }, noteSender (setB powered (SELV.LINK_STS_UP 0) true) { port := 0, src := 2, words := 2, len := 46 }, 0, 0, 0, 8, false, by decide +kernel⟩

/-- A state and operands that meet the hypotheses of RegisterCommands (regRead_words). -/
theorem witness_RegisterCommands_regRead_words :
    ∃ (s : State) (f : SelvFrame) (u : State) (tag addr n : Nat) (fixed : Bool), managed s = true ∧ frameOk f = true ∧ noteSender s f = u ∧ selvUp u f.port = true ∧ f.words ≠ 2 :=
  ⟨setB powered (SELV.LINK_STS_UP 0) true, { port := 0, src := 2, words := 3, len := 46 }, noteSender (setB powered (SELV.LINK_STS_UP 0) true) { port := 0, src := 2, words := 3, len := 46 }, 0, 0, 1, false, by decide +kernel⟩

/-- A state and operands that meet the hypotheses of RegisterCommands (regWrite). -/
theorem witness_RegisterCommands_regWrite :
    ∃ (s : State) (f : SelvFrame) (u : State) (tag epoch addr v : Nat) (fixed : Bool), managed s = true ∧ frameOk f = true ∧ noteSender s f = u ∧ selvUp u f.port = true ∧ f.words = 3 ∧ shapeStatus addr 1 fixed = 0 ∧ writeStatus u f.port (epoch % 65536) addr (v % 2 ^ 32) = 0 ∧ oldWrite u f.port (epoch % 65536) = false ∧ startsReset u addr (v % 2 ^ 32) = false :=
  ⟨setF (setB powered (SELV.LINK_STS_UP 0) true) TOP.CTL_STS_HOLDER 1, { port := 0, src := 2, words := 3, len := 46 }, noteSender (setF (setB powered (SELV.LINK_STS_UP 0) true) TOP.CTL_STS_HOLDER 1) { port := 0, src := 2, words := 3, len := 46 }, 0, 0, 0, 0, false, by decide +kernel⟩

/-- A state and operands that meet the hypotheses of RegisterCommands (regWrite_refused). -/
theorem witness_RegisterCommands_regWrite_refused :
    ∃ (s : State) (f : SelvFrame) (u : State) (tag epoch addr v st : Nat) (fixed : Bool), managed s = true ∧ frameOk f = true ∧ noteSender s f = u ∧ selvUp u f.port = true ∧ f.words = 3 ∧ shapeStatus addr 1 fixed = 0 ∧ writeStatus u f.port (epoch % 65536) addr (v % 2 ^ 32) = st ∧ st ≠ 0 :=
  ⟨setB powered (SELV.LINK_STS_UP 0) true, { port := 0, src := 2, words := 3, len := 46 }, noteSender (setB powered (SELV.LINK_STS_UP 0) true) { port := 0, src := 2, words := 3, len := 46 }, 0, 0, 0, 0, 1, false, by decide +kernel⟩

/-- A state and operands that meet the hypotheses of RegisterCommands (regWrite_words). -/
theorem witness_RegisterCommands_regWrite_words :
    ∃ (s : State) (f : SelvFrame) (u : State) (tag epoch addr n : Nat) (fixed : Bool) (data : List Nat), managed s = true ∧ frameOk f = true ∧ noteSender s f = u ∧ selvUp u f.port = true ∧ (data.length ≠ n ∨ f.words ≠ n + 2) :=
  ⟨setB powered (SELV.LINK_STS_UP 0) true, { port := 0, src := 2, words := 2, len := 46 }, noteSender (setB powered (SELV.LINK_STS_UP 0) true) { port := 0, src := 2, words := 2, len := 46 }, 0, 0, 0, 1, false, [7], by decide +kernel⟩

/-- A state and operands that meet the hypotheses of RegisterCommands (registerWrite). -/
theorem witness_RegisterCommands_registerWrite :
    ∃ (s : State) (addr v p o : Nat) (b : Block) (n : Nat) (d : RegDesc), alive s = true ∧ addr / 4096 % 65536 = p ∧ addr % 4096 / 4 * 4 = o ∧ pageBlock p = some (b, n) ∧ pageOpen s p = true ∧ regAt s p o = some d ∧ v < 2 ^ 32 ∧ ((actionBits b o).filter v.testBit).length ≤ 1 :=
  ⟨powered, 0x8044, 700, 8, 0x44, .pwr, 0, (regAt powered 8 0x44).getD ⟨.plain, []⟩, by decide +kernel⟩

/-- A state and operands that meet the hypotheses of RegisterCommands (pageEvtClear). -/
theorem witness_RegisterCommands_pageEvtClear :
    ∃ (s : State) (page v same : Nat), alive s = true ∧ page < 65536 ∧ pageOpen s page = true ∧ v < 2 ^ 32 ∧ v / 2 ^ pageNevt page = 0 ∧ pageNevt page ≠ 0 :=
  ⟨powered, 0, 1, 0, by decide +kernel⟩

/-- A state and operands that meet the hypotheses of RegisterCommands (pageEvtEnWrite). -/
theorem witness_RegisterCommands_pageEvtEnWrite :
    ∃ (s : State) (page v : Nat) (b : Block) (n : Nat) (d : RegDesc), alive s = true ∧ page < 65536 ∧ pageBlock page = some (b, n) ∧ pageOpen s page = true ∧ headerViews page 0x018 = some d ∧ v < 2 ^ 32 ∧ actionBits b 0x018 = [] :=
  ⟨powered, 0, 1, .top, 0, (headerViews 0 0x018).getD ⟨.plain, []⟩, by decide +kernel⟩

/-- A state and operands that meet the hypotheses of RegisterCommands (msgHoldWrite). -/
theorem witness_RegisterCommands_msgHoldWrite :
    ∃ (s : State) (page v : Nat) (b : Block) (n : Nat) (d : RegDesc), alive s = true ∧ page < 65536 ∧ pageBlock page = some (b, n) ∧ pageOpen s page = true ∧ headerViews page 0x00C = some d ∧ v < 2 ^ 32 ∧ actionBits b 0x00C = [] :=
  ⟨powered, 0, 1, .top, 0, (headerViews 0 0x00C).getD ⟨.plain, []⟩, by decide +kernel⟩

/-- A state and operands that meet the hypotheses of RegisterCommands (faultPop). -/
theorem witness_RegisterCommands_faultPop :
    ∃ (s : State) (e : FaultEntry) (l : List FaultEntry), alive s = true ∧ s.log = e :: l :=
  ⟨faultEntry powered 20 1 none 0 0 0, ((faultEntry powered 20 1 none 0 0 0).log.head?).getD ⟨0, 0, false, false, 0, none, 0, 0, 0, 0⟩, [], by decide +kernel⟩

/-- A state and operands that meet the hypotheses of RegisterCommands (clearLost). -/
theorem witness_RegisterCommands_clearLost :
    ∃ (s : State), alive s = true :=
  ⟨powered, by decide +kernel⟩

/-- A state and operands that meet the hypotheses of RegisterCommands (idcode). -/
theorem witness_RegisterCommands_idcode :
    ∃ (s : State), tapOn s = true :=
  ⟨tapped, by decide +kernel⟩

/-- A state and operands that meet the hypotheses of RegisterCommands (bypass). -/
theorem witness_RegisterCommands_bypass :
    ∃ (s : State) (code : Nat), tapOn s = true ∧ code % 256 ≠ 0x01 ∧ code % 256 ≠ 0x10 ∧ code % 256 ≠ 0x20 :=
  ⟨tapped, 0, by decide +kernel⟩

/-- A state and operands that meet the hypotheses of RegisterCommands (msg). -/
theorem witness_RegisterCommands_msg :
    ∃ (s : State) (word w : Nat) (l : List Nat), tapOn s = true ∧ s.dbg.outWords = w :: l :=
  ⟨{ tapped with dbg := { outWords := [5] } }, 0, 5, [], by decide +kernel⟩

/-- A state and operands that meet the hypotheses of RegisterCommands (msg_in). -/
theorem witness_RegisterCommands_msg_in :
    ∃ (s : State) (word : Nat), tapOn s = true ∧ s.dbg.outWords = [] ∧ s.dbg.inWords = [] :=
  ⟨tapped, 0, by decide +kernel⟩

/-- A state and operands that meet the hypotheses of RegisterCommands (scan). -/
theorem witness_RegisterCommands_scan :
    ∃ (s : State), tapOn s = true ∧ getF s SEC.DEBUG_LEVEL = 2 :=
  ⟨setF tapped SEC.DEBUG_LEVEL 2, by decide +kernel⟩

/-- A state and operands that meet the hypotheses of StepRunsTheFrontCommand (front). -/
theorem witness_StepRunsTheFrontCommand_front :
    ∃ (s : State) (c : Instr) (l : List Instr), s.pending = c :: l :=
  ⟨{ State.reset with pending := [.ftLoad] }, .ftLoad, [], by decide +kernel⟩

/-- A state and operands that meet the hypotheses of StepRunsTheFrontCommand (empty). -/
theorem witness_StepRunsTheFrontCommand_empty :
    ∃ (s : State), s.pending = [] :=
  ⟨State.reset, by decide +kernel⟩

/-- A state and operands that meet the hypotheses of StepAnswersAndTakesOneCommand (step). -/
theorem witness_StepAnswersAndTakesOneCommand_step :
    ∃ (s : State), Inv s :=
  ⟨State.reset, by exact ⟨by decide +kernel, by unfold regsRising; decide +kernel, ⟨by decide +kernel, by decide +kernel⟩, by intro e h; cases h⟩⟩

/-- A state and operands that meet the hypotheses of StepKeepsTheInvariant (step). -/
theorem witness_StepKeepsTheInvariant_step :
    ∃ (s : State) (t : State), Inv s ∧ step s = .next t :=
  ⟨State.reset, idle State.reset, by exact ⟨by decide +kernel, by unfold regsRising; decide +kernel, ⟨by decide +kernel, by decide +kernel⟩, by intro e h; cases h⟩, rfl⟩

/-- A state and operands that meet the hypotheses of EveryRunIsSafe (run). -/
theorem witness_EveryRunIsSafe_run :
    ∃ (s : State) (n : Nat), Inv s :=
  ⟨State.reset, 0, by exact ⟨by decide +kernel, by unfold regsRising; decide +kernel, ⟨by decide +kernel, by decide +kernel⟩, by intro e h; cases h⟩⟩

/-- A state and operands that meet the hypotheses of BlownFusesStayBlown (step). -/
theorem witness_BlownFusesStayBlown_step :
    ∃ (s : State) (t : State), Inv s ∧ step s = .next t :=
  ⟨State.reset, idle State.reset, by exact ⟨by decide +kernel, by unfold regsRising; decide +kernel, ⟨by decide +kernel, by decide +kernel⟩, by intro e h; cases h⟩, rfl⟩

/-- A state and operands that meet the hypotheses of BlownFusesStayBlown (others). -/
theorem witness_BlownFusesStayBlown_others :
    ∃ (s : State) (c : Instr) (t : State), Inv s ∧ blowsFuse c = false ∧ exec c s = .next t :=
  ⟨State.reset, .ftLoad, whenAlive State.reset doFtLoad, by exact ⟨by decide +kernel, by unfold regsRising; decide +kernel, ⟨by decide +kernel, by decide +kernel⟩, by intro e h; cases h⟩, rfl, rfl⟩

/-- A state and operands that meet the hypotheses of CommandsThatStoreNothing (frame). -/
theorem witness_CommandsThatStoreNothing_frame :
    ∃ (s : State) (c : Instr) (t : State) (a : Nat), Inv s ∧ storesMemory c = false ∧ exec c s = .next t :=
  ⟨State.reset, .ftLoad, whenAlive State.reset doFtLoad, 0, by exact ⟨by decide +kernel, by unfold regsRising; decide +kernel, ⟨by decide +kernel, by decide +kernel⟩, by intro e h; cases h⟩, rfl, rfl⟩

/-- A state and operands that meet the hypotheses of StoppedModuleIgnoresCommands (unmanaged). -/
theorem witness_StoppedModuleIgnoresCommands_unmanaged :
    ∃ (s : State) (c : Instr), managed s = false ∧ actsUnmanaged c = false :=
  ⟨{ State.reset with input := { vaux := false } }, .ftLoad, by decide +kernel⟩

/-- A state and operands that meet the hypotheses of StoppedModuleIgnoresCommands (latched). -/
theorem witness_StoppedModuleIgnoresCommands_latched :
    ∃ (s : State) (c : Instr), latched s = true ∧ actsLatched c = false :=
  ⟨setB powered FAULT.LOG_STS_LATCHED true, .ftLoad, by decide +kernel⟩

/-- A state and operands that meet the hypotheses of FramesOfControlCommands (controlsOnly). -/
theorem witness_FramesOfControlCommands_controlsOnly :
    ∃ (s : State) (c : Instr) (t : State), controlsOnly c = true ∧ exec c s = .next t :=
  ⟨State.reset, .ftLoad, whenAlive State.reset doFtLoad, rfl, rfl⟩

/-- A state and operands that meet the hypotheses of FramesOfControlCommands (securesOnly). -/
theorem witness_FramesOfControlCommands_securesOnly :
    ∃ (s : State) (c : Instr) (t : State), securesOnly c = true ∧ exec c s = .next t :=
  ⟨State.reset, .fwVerify, whenAlive State.reset doFwVerify, rfl, rfl⟩

/-- A state and operands that meet the hypotheses of StoredValuesReadBack (field). -/
theorem witness_StoredValuesReadBack_field :
    ∃ (s : State) (f g : Fld) (v : Nat), Store.rising s.regs = true :=
  ⟨State.reset, TOP.CTL_STS_HOLDER, TOP.CTL_STS_EPOCH, 0, by decide +kernel⟩

/-- A state and operands that meet the hypotheses of StoredValuesReadBack (memory). -/
theorem witness_StoredValuesReadBack_memory :
    ∃ (s : State) (a n v b : Nat), Memory.wf s.mem = true :=
  ⟨State.reset, 0, 0, 0, 0, by decide +kernel⟩

/-- A state and operands that meet the hypotheses of PlacesStayInThePartition (dram). -/
theorem witness_PlacesStayInThePartition_dram :
    ∃ (s : State) (pt ppa c off : Nat), placeOf s pt ppa = some (.dram c off) :=
  ⟨mapped, 0, 0, 0, 0, by decide +kernel⟩

/-- A state and operands that meet the hypotheses of PlacesStayInThePartition (tier). -/
theorem witness_PlacesStayInThePartition_tier :
    ∃ (s : State) (pt ppa a : Nat), placeOf s pt ppa = some (.tier a) :=
  ⟨slotReady, 0, 2 ^ 47, 0, by decide +kernel⟩

/-- A state and operands that meet the hypotheses of PlacesStayInThePartition (interleaved). -/
theorem witness_PlacesStayInThePartition_interleaved :
    ∃ (s : State) (pt p q c off : Nat), s.parts.home = [] ∧ p < 2 ^ 40 ∧ q < 2 ^ 40 ∧ placeOf s pt (2 ^ 46 + p) = some (.dram c off) ∧ placeOf s pt (2 ^ 46 + q) = some (.dram c off) :=
  ⟨mapped, 0, 0, 0, 0, 0, by decide +kernel⟩

/-- A state and operands that meet the hypotheses of FencedRequestsAreNotStored (stored). -/
theorem witness_FencedRequestsAreNotStored_stored :
    ∃ (s : State) (port : Nat) (p : Packet) (r : Req), r ∈ (allow s port p).net.store :=
  ⟨{ powered with net := { store := [{}] } }, 0, {}, {}, by decide +kernel⟩

/-- A state and operands that meet the hypotheses of FaultPlacement (general). -/
theorem witness_FaultPlacement_general :
    ∃ (s : State) (cls code : Nat) (pt : Option Nat) (page unit info : Nat), generalUsed s < 496 :=
  ⟨powered, 0, 0, none, 0, 0, 0, by decide +kernel⟩

/-- A state and operands that meet the hypotheses of FaultPlacement (lost). -/
theorem witness_FaultPlacement_lost :
    ∃ (s : State) (cls code : Nat) (pt : Option Nat) (page unit info : Nat), Store.rising s.regs = true ∧ 496 ≤ generalUsed s ∧ critical cls = false :=
  ⟨{ powered with log := List.replicate 496 ⟨0, 20, false, false, 0, none, 0, 0, 0, 0⟩ }, 20, 0, none, 0, 0, 0, by decide +kernel⟩

/-- A state and operands that meet the hypotheses of FaultPlacement (reserved). -/
theorem witness_FaultPlacement_reserved :
    ∃ (s : State) (cls code : Nat) (pt : Option Nat) (page unit info : Nat), 496 ≤ generalUsed s ∧ critical cls = true ∧ reservedUsed s < 16 :=
  ⟨{ powered with log := List.replicate 496 ⟨0, 20, false, false, 0, none, 0, 0, 0, 0⟩ }, 1, 0, none, 0, 0, 0, by decide +kernel⟩

/-- A state and operands that meet the hypotheses of FaultPlacement (overflow). -/
theorem witness_FaultPlacement_overflow :
    ∃ (s : State) (cls code : Nat) (pt : Option Nat) (page unit info : Nat), Store.rising s.regs = true ∧ 496 ≤ generalUsed s ∧ critical cls = true ∧ 16 ≤ reservedUsed s ∧ latched s = false :=
  ⟨{ powered with log := List.replicate 496 ⟨0, 20, false, false, 0, none, 0, 0, 0, 0⟩ ++ List.replicate 16 ⟨0, 1, true, false, 0, none, 0, 0, 0, 0⟩ }, 1, 0, none, 0, 0, 0, by decide +kernel⟩

/-- A state and operands that meet the hypotheses of EventMessages (raised). -/
theorem witness_EventMessages_raised :
    ∃ (s : State) (p i : Nat), pagePresent s p = true ∧ bitF s (HDR.EVT p) i = false :=
  ⟨powered, 0, 0, by decide +kernel⟩

/-- A state and operands that meet the hypotheses of EventMessages (sticky). -/
theorem witness_EventMessages_sticky :
    ∃ (s : State) (p i : Nat), bitF s (HDR.EVT p) i = true :=
  ⟨setBitF powered (HDR.EVT 0) 0 true, 0, 0, by decide +kernel⟩

/-- A state and operands that meet the hypotheses of EventMessages (enabled). -/
theorem witness_EventMessages_enabled :
    ∃ (s : State) (p v i : Nat), bitF s (HDR.EVT p) i = true ∧ bitF s (HDR.EVT_EN p) i = false ∧ bitF (setF s (HDR.EVT_EN p) v) (HDR.EVT_EN p) i = true ∧ Store.rising s.regs = true :=
  ⟨setF (setBitF powered (HDR.EVT 0) 0 true) (HDR.EVT_EN 0) 0, 0, 1, 0, by decide +kernel⟩

/-- A state and operands that meet the hypotheses of EventMessages (none_gained). -/
theorem witness_EventMessages_none_gained :
    ∃ (s : State) (p v : Nat), (∀ i, (evtLive (setF s (HDR.EVT_EN p) v) p).testBit i = true → (evtLive s p).testBit i = true) :=
  ⟨powered, 0, 1, by
    intro i; have : evtLive (setF powered (HDR.EVT_EN 0) 1) 0 = 0 := by decide +kernel
    simp [this]⟩

/-- A state and operands that meet the hypotheses of EventMessages (same_cycle). -/
theorem witness_EventMessages_same_cycle :
    ∃ (s : State) (p v same i : Nat), Store.rising s.regs = true ∧ i < pageNevt p ∧ v.testBit i = true ∧ same.testBit i = true ∧ bitF s (HDR.EVT p) i = true ∧ bitF s (HDR.EVT_EN p) i = true :=
  ⟨setBitF powered (HDR.EVT 0) 0 true, 0, 1, 1, 0, by decide +kernel⟩

/-- A state and operands that meet the hypotheses of EventMessages (released). -/
theorem witness_EventMessages_released :
    ∃ (s : State) (p v : Nat), flag s (HDR.MSG_HOLD p) = true ∧ flag (setF s (HDR.MSG_HOLD p) v) (HDR.MSG_HOLD p) = false ∧ evtLive (setF s (HDR.MSG_HOLD p) v) p ≠ 0 :=
  ⟨setF (setBitF powered (HDR.EVT 0) 0 true) (HDR.MSG_HOLD 0) 1, 0, 0, by decide +kernel⟩

/-- A state and operands that meet the hypotheses of EventMessages (held). -/
theorem witness_EventMessages_held :
    ∃ (s : State) (p : Nat), flag s (HDR.MSG_HOLD p) = true :=
  ⟨setF powered (HDR.MSG_HOLD 0) 1, 0, by decide +kernel⟩

/-- A state and operands that meet the hypotheses of EventMessages (formed). -/
theorem witness_EventMessages_formed :
    ∃ (s : State) (p : Nat), flag s (HDR.MSG_HOLD p) = false :=
  ⟨powered, 0, by decide +kernel⟩

/-- A state and operands that meet the hypotheses of EventQueue (coalesced). -/
theorem witness_EventQueue_coalesced :
    ∃ (s : State) (x : EvtMsg) (m : Nat), (getSelv s m).queue.any (fun y => y.page == x.page) = true :=
  ⟨{ powered with ctl := { selv := [(0, { queue := [⟨0, false, 1, 1, 0⟩] })] } }, ⟨0, false, 1, 1, 0⟩, 0, by decide +kernel⟩

/-- A state and operands that meet the hypotheses of EventQueue (full). -/
theorem witness_EventQueue_full :
    ∃ (s : State) (x : EvtMsg) (m : Nat), (getSelv s m).queue.any (fun y => y.page == x.page) = false ∧ 64 ≤ (getSelv s m).queue.length :=
  ⟨{ powered with ctl := { selv := [(0, { queue := List.replicate 64 ⟨0, false, 1, 1, 0⟩ })] } }, ⟨1, false, 1, 1, 0⟩, 0, by decide +kernel⟩

/-- A state and operands that meet the hypotheses of EventQueue (joined). -/
theorem witness_EventQueue_joined :
    ∃ (s : State) (x : EvtMsg) (m : Nat), (getSelv s m).queue.any (fun y => y.page == x.page) = false ∧ (getSelv s m).queue.length < 64 :=
  ⟨powered, ⟨0, false, 1, 1, 0⟩, 0, by decide +kernel⟩

/-- A state and operands that meet the hypotheses of EventQueue (sent). -/
theorem witness_EventQueue_sent :
    ∃ (s : State) (x : EvtMsg) (l : List EvtMsg) (m : Nat), (getSelv s m).queue = x :: l ∧ selvUp s m = true :=
  ⟨{ setB powered (SELV.LINK_STS_UP 0) true with ctl := { selv := [(0, { queue := [⟨0, false, 1, 1, 0⟩] })] } }, ⟨0, false, 1, 1, 0⟩, [], 0, by decide +kernel⟩

/-- A state and operands that meet the hypotheses of WhoMayWrite (applied). -/
theorem witness_WhoMayWrite_applied :
    ∃ (s : State) (m epoch addr v : Nat), writeStatus s m epoch addr v = 0 :=
  ⟨setF powered TOP.CTL_STS_HOLDER 1, 0, 0, 0x8044, 0, by decide +kernel⟩

/-- A state and operands that meet the hypotheses of WhoMayWrite (stale). -/
theorem witness_WhoMayWrite_stale :
    ∃ (s : State) (m epoch addr v : Nat), holder s = some m ∧ epoch ≠ getF s TOP.CTL_STS_EPOCH ∧ oldWrite s m epoch = false :=
  ⟨setF powered TOP.CTL_STS_HOLDER 1, 0, 1, 0, 0, by decide +kernel⟩

/-- A state and operands that meet the hypotheses of WhoMayWrite (uncovered). -/
theorem witness_WhoMayWrite_uncovered :
    ∃ (s : State) (m epoch addr v : Nat), oldWrite s m epoch = true ∧ epoch ≠ getF s TOP.CTL_STS_EPOCH ∧ noOldWrite addr = true :=
  ⟨{ setF (setB powered TOP.CTL_STS_WINDOW true) TOP.CTL_STS_EPOCH 1 with ctl := { prevHolder := 1, windowEnd := 9 } }, 0, 0, 0x40, 0, by decide +kernel⟩

/-- A state and operands that meet the hypotheses of WhoMayWrite (closed). -/
theorem witness_WhoMayWrite_closed :
    ∃ (s : State) (m epoch addr v : Nat), windowOpen s = false ∧ s.ctl.prevHolder = m + 1 ∧ epoch = s.ctl.prevEpoch ∧ epoch ≠ getF s TOP.CTL_STS_EPOCH :=
  ⟨{ setF powered TOP.CTL_STS_EPOCH 1 with ctl := { prevHolder := 1 } }, 0, 0, 0, 0, by decide +kernel⟩

/-- A state and operands that meet the hypotheses of WhoMayWrite (notHolder). -/
theorem witness_WhoMayWrite_notHolder :
    ∃ (s : State) (m epoch addr v : Nat), holder s ≠ some m ∧ s.ctl.prevHolder ≠ m + 1 :=
  ⟨powered, 0, 0, 0, 0, by decide +kernel⟩

/-- A state and operands that meet the hypotheses of OtherPortsReadWithoutEffect (regRead_other). -/
theorem witness_OtherPortsReadWithoutEffect_regRead_other :
    ∃ (s : State) (f : SelvFrame) (tag addr n : Nat) (fixed : Bool) (t : State), holder s ≠ some f.port.val ∧ exec (.regRead f tag addr n fixed) s = .next t :=
  ⟨setB powered (SELV.LINK_STS_UP 0) true, ⟨0, 2, 0x88B5, true, 2, 46⟩, 0, 0, 1, false, _, by decide +kernel, rfl⟩

/-- A state and operands that meet the hypotheses of BelowD2TheProbeWritesNothing (msg_below). -/
theorem witness_BelowD2TheProbeWritesNothing_msg_below :
    ∃ (s : State) (word : Nat) (valid : Bool) (t : State) (f : Fld), Store.rising s.regs = true ∧ getF s SEC.DEBUG_LEVEL ≠ 2 ∧ exec (.msg word valid) s = .next t :=
  ⟨tapped, 0x20, true, doMsg tapped 0x20 true, TOP.CTL_STS_HOLDER, by decide +kernel, by decide +kernel, rfl⟩

/-- A state and operands that meet the hypotheses of BelowD2TheProbeWritesNothing (scan_below). -/
theorem witness_BelowD2TheProbeWritesNothing_scan_below :
    ∃ (s : State), getF s SEC.DEBUG_LEVEL ≠ 2 :=
  ⟨powered, by decide +kernel⟩

/-- A state and operands that meet the hypotheses of SeveralActionsAreIgnored (several). -/
theorem witness_SeveralActionsAreIgnored_several :
    ∃ (s : State) (p v i j : Nat) (b : Block) (n o : Nat) (acts : List Nat), alive s = true ∧ p < 65536 ∧ o < 4096 ∧ o % 4 = 0 ∧ pageBlock p = some (b, n) ∧ pageOpen s p = true ∧ (b, o, acts) ∈ [(Block.ging, 0x040, [0, 1]), (Block.part, 0x400, [4, 5]), (Block.part, 0x514, [0, 1, 2]), (Block.part, 0x608, [0, 1]),
    (Block.part, 0x644, [4, 5]), (Block.xlt, 0x090, [0, 1]), (Block.xlt, 0x168, [4, 5]), (Block.sec, 0x058, [0, 1, 2]),
    (Block.att, 0x0C4, [6, 7]), (Block.key, 0x0C4, [6, 7, 8]), (Block.edac, 0x0A4, [0, 1, 2])] ∧ i ∈ acts ∧ j ∈ acts ∧ i ≠ j ∧ v < 2 ^ 32 ∧ v.testBit i = true ∧ v.testBit j = true :=
  ⟨powered, 0x11, 3, 0, 1, .ging, 0, 0x40, [0, 1], by decide +kernel⟩

/-- A state and operands that meet the hypotheses of SeveralActionsAreIgnored (faultCmd). -/
theorem witness_SeveralActionsAreIgnored_faultCmd :
    ∃ (s : State), alive s = true ∧ pageOpen s 0x0040 = true :=
  ⟨powered, by decide +kernel⟩

/-- A state and operands that meet the hypotheses of ResetsEndControl (warm). -/
theorem witness_ResetsEndControl_warm :
    ∃ (s : State), Inv s :=
  ⟨State.reset, by exact ⟨by decide +kernel, by unfold regsRising; decide +kernel, ⟨by decide +kernel, by decide +kernel⟩, by intro e h; cases h⟩⟩

/-! Each check of WellFormed refuses an ill-formed term. -/

/-- Commands with one operand that does not fit, part 1: none is well formed. -/
theorem test_ill_formed_1 : (([
    .timeSync ⟨0, 2, 0x88B5, true, 2, 46⟩ (2 ^ 65) 0 0, .timeSync ⟨0, 2, 0x88B5, true, 2, 46⟩ 0 0 (2 ^ 32),
    .timeSync ⟨0, 2 ^ 48, 0x88B5, true, 2, 46⟩ 0 0 0, .delayRsp ⟨0, 2, 0x88B5, true, 2, 46⟩ (2 ^ 65),
    .delayRsp ⟨0, 2 ^ 48, 0x88B5, true, 2, 46⟩ 0, .gingEntData (2 ^ 32), .detModeWrite (2 ^ 32),
    .tblCommit (2 ^ 3), .tblRead (2 ^ 3), .xltInvalidate 0 (2 ^ 2) false, .pxcWaysWrite 0 (2 ^ 16),
    .rdShared 0 (2 ^ 16) [], .rdOwn 0 (2 ^ 16) [], .upgrade 0 (2 ^ 16) [], .rdOnce 0 (2 ^ 16) [],
    .wrFull 0 (2 ^ 16) [], .wrPart 0 (2 ^ 16) [], .wb 0 (2 ^ 16), .evict 0 (2 ^ 16), .atomic 0 (2 ^ 16) [],
    .publish 0 (2 ^ 16) [], .rdVersion 0 (2 ^ 16) [], .invAck 0 0 (2 ^ 36), .snpAck 0 0 (2 ^ 36) false,
    .snpData 0 0 (2 ^ 36) false 0, .snpData 0 0 0 false (2 ^ 1024), .snpFwded 0 0 (2 ^ 36) none,
    .snpFwded 0 0 0 (some (2 ^ 1024))] : List Instr).any Instr.wellFormed) = false := by decide +kernel

/-- Commands with one operand that does not fit, part 2: none is well formed. -/
theorem test_ill_formed_2 : (([
    .wbPending 0 0 (2 ^ 36), .compAck 0 0 (2 ^ 36), .pushAck 0 0 (2 ^ 36), .pushDecline 0 0 (2 ^ 36),
    .leaseRenew ⟨0, 0⟩ (2 ^ 32), .unknownOpcode 0 0 (2 ^ 8) 0, .unknownOpcode 0 0 0 (2 ^ 36),
    .rgnCtlWrite 0 (2 ^ 32), .rgnVerWrite 0 false (2 ^ 32), .cmdWriteDesc 0 (2 ^ 16) [],
    .cmdRead 0 (2 ^ 16) [], .cmdWriteFlush 0 (2 ^ 16) [], .tierHint 0 false (2 ^ 32) 0,
    .tierHint 0 false 0 (2 ^ 57), .segmentReport 0 0 (2 ^ 32), .rootCompute ⟨0, 0⟩ (2 ^ 32) false,
    .collPut 0 0 (2 ^ 32) 0 0, .collPut 0 0 0 (2 ^ 5) 0, .collPut 0 0 0 0 (2 ^ 1024),
    .chkInject 0 0 (2 ^ 32), .dramRequest 0 (2 ^ 36) 0 0 false false, .dramReadData 0 (2 ^ 36) 0 [],
    .dramReadData 0 0 0 [(144, 0)], .dramReadData 0 0 0 [(0, 256)], .maintSlot 0 [64] [],
    .maintSlot 0 [] [(2 ^ 36, [])], .maintSlot 0 [] [(0, [(144, 0)])], .maintSlot 0 [] [(0, [(0, 256)])]] : List Instr).any Instr.wellFormed) = false := by decide +kernel

/-- Commands with one operand that does not fit, part 3: none is well formed. -/
theorem test_ill_formed_3 : (([
    .remapRequest 0 (2 ^ 32), .bistDone 0 [(2 ^ 36, [])], .bistDone 0 [(0, [(144, 0)])],
    .bistDone 0 [(0, [(0, 256)])], .tierAccess 0 (2 ^ 16), .tierWayWait 0 (2 ^ 16),
    .evictRecallDone 0 (2 ^ 20) 0, .evictRecallDone 0 0 (2 ^ 3), .fillComplete 0 (2 ^ 20) 0,
    .fillComplete 0 0 (2 ^ 3), .writebackComplete 0 (2 ^ 20) 0 0, .writebackComplete 0 0 (2 ^ 3) 0,
    .nvmeTimeout 0 (2 ^ 20) 0 0, .nvmeTimeout 0 0 (2 ^ 3) 0, .nvmeCommandFail 0 (2 ^ 20) 0 0,
    .nvmeCommandFail 0 0 (2 ^ 3) 0, .ptCacheWrite 0 (2 ^ 6), .driveAssign 0 (2 ^ 32),
    .driveReady 0 (2 ^ 3) 0 false {} 0, .driveReady 0 0 (2 ^ 5) false {} 0,
    .driveReady 0 0 0 false {} (2 ^ 64), .driveReady 0 0 0 false { mdtsKiB := 2 ^ 32 } 0,
    .tseq 0 0 (2 ^ 256) none, .ts1 0 0 (2 ^ 256), .ts2 0 (2 ^ 256), .ts3 0 (2 ^ 256),
    .laneSerLimit 0 0 (2 ^ 32), .fecUncorrectableLimit 0 (2 ^ 32)] : List Instr).any Instr.wellFormed) = false := by decide +kernel

/-- Commands with one operand that does not fit, part 4: none is well formed. -/
theorem test_ill_formed_4 : (([
    .lwcRequest 0 (2 ^ 2), .lwcReq 0 (2 ^ 2), .lwcGo 0 (2 ^ 2) 0, .lwcGo 0 0 (2 ^ 5), .flit 0 (2 ^ 2048),
    .creditCheck 0 [0], .creditCheck 0 [65536, 0, 0, 0, 0, 0, 0, 0],
    .packetArrival 0 { opcode := 256 } false, .routeReturn (2 ^ 6) {}, .routeReturn 0 { opcode := 256 },
    .routeTblData (2 ^ 32), .e2eLimitWrite (2 ^ 32), .mcGroupWrite 0 (2 ^ 32), .fwData (2 ^ 32),
    .relData (2 ^ 32), .debugLevelWrite (2 ^ 2), .offer 0 (2 ^ 16) 0, .offer 0 0 1, .accept 0 (2 ^ 16) 0,
    .accept 0 0 1, .confirm 0 (2 ^ 16) 0, .confirm 0 0 1, .nonce 0 (2 ^ 16) 0, .nonce 0 0 1,
    .rotOffer 0 (2 ^ 16) 0, .rotOffer 0 0 1, .rotAccept 0 (2 ^ 16) 0, .rotAccept 0 0 1] : List Instr).any Instr.wellFormed) = false := by decide +kernel

/-- Commands with one operand that does not fit, part 5: none is well formed. -/
theorem test_ill_formed_5 : (([
    .ready 0 (2 ^ 16) 0, .ready 0 0 1, .fillerWindow 0 17, .internalResetRelease (2 ^ 10),
    .chipFatal (2 ^ 16) 0, .chipFatal 0 (2 ^ 64), .m6DramTraining [(0, 64)], .m7DramTest [(0, 2 ^ 36)],
    .stepFail (2 ^ 8) 0, .hello ⟨0, 2, 0x88B5, true, 2, 46⟩ (2 ^ 8) 0,
    .hello ⟨0, 2, 0x88B5, true, 2, 46⟩ 0 (2 ^ 8), .hello ⟨0, 2 ^ 48, 0x88B5, true, 2, 46⟩ 0 0,
    .renew ⟨0, 2, 0x88B5, true, 2, 46⟩ (2 ^ 32), .renew ⟨0, 2 ^ 48, 0x88B5, true, 2, 46⟩ 0,
    .claim ⟨0, 2, 0x88B5, true, 2, 46⟩ (2 ^ 16), .claim ⟨0, 2 ^ 48, 0x88B5, true, 2, 46⟩ 0,
    .regRead ⟨0, 2, 0x88B5, true, 2, 46⟩ (2 ^ 16) 0 0 false,
    .regRead ⟨0, 2, 0x88B5, true, 2, 46⟩ 0 (2 ^ 32) 0 false,
    .regRead ⟨0, 2, 0x88B5, true, 2, 46⟩ 0 0 (2 ^ 7) false,
    .regRead ⟨0, 2 ^ 48, 0x88B5, true, 2, 46⟩ 0 0 0 false,
    .regWrite ⟨0, 2, 0x88B5, true, 2, 46⟩ (2 ^ 16) 0 0 0 false [],
    .regWrite ⟨0, 2, 0x88B5, true, 2, 46⟩ 0 (2 ^ 16) 0 0 false [],
    .regWrite ⟨0, 2, 0x88B5, true, 2, 46⟩ 0 0 (2 ^ 32) 0 false [],
    .regWrite ⟨0, 2, 0x88B5, true, 2, 46⟩ 0 0 0 (2 ^ 7) false [],
    .regWrite ⟨0, 2 ^ 48, 0x88B5, true, 2, 46⟩ 0 0 0 0 false [],
    .regWrite ⟨0, 2, 0x88B5, true, 2, 46⟩ 0 0 0 0 false [2 ^ 32], .registerWrite (2 ^ 28) 0,
    .registerWrite 0 (2 ^ 32)] : List Instr).any Instr.wellFormed) = false := by decide +kernel

/-- Commands with one operand that does not fit, part 6: none is well formed. -/
theorem test_ill_formed_6 : (([
    .pageEvtClear (2 ^ 16) 0 0, .pageEvtClear 0 (2 ^ 32) 0, .pageEvtClear 0 0 (2 ^ 32),
    .pageEvtEnWrite (2 ^ 16) 0, .pageEvtEnWrite 0 (2 ^ 32), .msgHoldWrite (2 ^ 16) 0,
    .msgHoldWrite 0 (2 ^ 32), .msg (2 ^ 32) false, .bypass (2 ^ 8), .fieldProgram (2 ^ 16)] : List Instr).any Instr.wellFormed) = false := by decide +kernel

/-- Frames with one field that does not fit: none is well formed. -/
theorem test_ill_formed_SelvFrame : (([
    ⟨0, 2 ^ 48, 0, true, 0, 0⟩, ⟨0, 0, 2 ^ 16, true, 0, 0⟩, ⟨0, 0, 0, true, 2 ^ 8, 0⟩,
    ⟨0, 0, 0, true, 0, 1501⟩] : List SelvFrame).any SelvFrame.wellFormed) = false := by decide +kernel

/-- Drives with one field that does not fit: none is well formed. -/
theorem test_ill_formed_DriveId : (([
    { lbaBytes := 2 ^ 32 }, { metadata := 2 ^ 16 }, { adminPairs := 2 ^ 16 }, { ioPairs := 2 ^ 16 },
    { entries := 2 ^ 17 }, { mdtsKiB := 2 ^ 32 }] : List DriveId).any DriveId.wf) = false := by decide +kernel

/-- Packets with one field that does not fit: none is well formed. -/
theorem test_ill_formed_Packet : (([
    { opcode := 2 ^ 8 }, { cls := 2 ^ 3 }, { dst := 2 ^ 16 }, { src := 2 ^ 16 }, { srcPid := 2 ^ 12 },
    { tag := 2 ^ 16 }, { status := 2 ^ 6 }, { epoch := 2 ^ 2 }, { lslot := 2 ^ 6 }, { len := 2 ^ 8 },
    { auxPid := 2 ^ 12 }, { addr := 2 ^ 64 }, { auxNode := 2 ^ 16 }, { auxTag := 2 ^ 16 },
    { ecred := 2 ^ 16 }, { len := 1, payload := 256 }] : List Packet).any Packet.wellFormed) = false := by decide +kernel

/-- Commands with operands that fit are well formed. -/
theorem test_well_formed : (([.timeSync ⟨0, 2, 0x88B5, true, 2, 46⟩ 1 0 5, .regWrite ⟨0, 2, 0x88B5, true, 2, 46⟩ 1 0 0x8044 1 false [7],
    .ts1 0 0 7, .flit 0 7, .packetArrival 0 { opcode := 1 } false, .bypass 255, .nonce 0 36 9] : List Instr).all
    Instr.wellFormed) = true := by
  decide +kernel

/-! Small tests of one step each; the expected values are the spec's. -/

/-- IDCODE of the model's part: stepping 0xB0, 0x960 for the VPF-P960 (Table 17-8). -/
theorem test_idcode : idcodeNow State.reset = 0xB0960001 := by decide +kernel

/-- A RENEW on a port that is up starts its lease at the present time (R447). -/
theorem test_renew_starts_lease :
    (match exec (.renew ⟨0, 2, 0x88B5, true, 1, 46⟩ 7) (setB powered (SELV.LINK_STS_UP 0) true) with
      | .next t => (getSelv t 0).lease == .live && (getSelv t 0).start == t.time.elapsed
      | _ => false) = true := by decide +kernel

/-- With no holder and a live lease a CLAIM of the epoch in force is accepted, one of another epoch is STALE_EPOCH (R449). -/
theorem test_claim_status :
    claimStatus { powered with ctl := { selv := [(0, { lease := .live })] } } 0 0 = 0 ∧
      claimStatus { powered with ctl := { selv := [(0, { lease := .live })] } } 0 5 = 2 := by decide +kernel

/-- A CLAIM while the other port holds control is answered HOLDER_LIVE and changes no holder (R449). -/
theorem test_claim_holder_live :
    (match exec (.claim ⟨1, 2, 0x88B5, true, 1, 46⟩ 0) (setF (setB powered (SELV.LINK_STS_UP 1) true) TOP.CTL_STS_HOLDER 1) with
      | .next t => (getSelv t 1).out == [.claimRsp 3 0] && holder t == some 0
      | _ => false) = true := by decide +kernel

/-- A write of PAGE_EVT_EN that masks every event of TOP, then an event: no message is queued (R484). -/
theorem test_masked_event :
    (match exec (.pageEvtEnWrite 0 0) (setB powered (SELV.LINK_STS_UP 0) true) with
      | .next t => (getSelv (raise t 0 0) 0).queue == [] && bitF (raise t 0 0) (HDR.EVT 0) 0
      | _ => false) = true := by decide +kernel

/-- The frame and the slot of Fabric Time 4096 + 65 are 1 and 1 (R10). -/
theorem test_frame_and_slot :
    frameOf { State.reset with time := { ft := 4161 } } = 1 ∧ slotOf { State.reset with time := { ft := 4161 } } = 1 := by
  decide +kernel

/-- Interleaved granule 3 of a view of two cores lies in the second one at offset 65,536 (R81). -/
theorem test_interleaved_place :
    placeOf { powered with parts := { owner := [(2, 1), (5, 1)] } } 0 (2 ^ 46 + 3 * 65536 + 7) = some (.dram 5 65543) := by
  decide +kernel

/-- No word of the table spells a command: the table gives no row bits (log 119). -/
theorem test_no_word : decodeTableWord 0 0 = none ∧ State.reset.withFetchWord 32 5 = State.reset := by
  exact ⟨rfl, rfl⟩

end Sys2Proof.Machine
end

section
/-!
PROOFS. Memory and register fields: what a write reads back as, and what the commands that store nothing leave alone.
-/

namespace Sys2Proof.Machine

variable {M : Store Byte → Prop} {F : Store Nat → Prop} {s t : State} {m : Store Byte}

/-! The frame of a state that meets the invariant. -/

/-- A state that meets the invariant meets the frame for every predicate that its own memory and fuses satisfy. -/
theorem Inv.fr (h : Inv s) (hM : M s.mem) (hF : F s.sec.fuses) : Fr s.pending M F s := by
  obtain ⟨_, hregs, hlog, hselv⟩ := h
  exact ⟨rfl, hM, hF, hregs, hlog, hselv⟩

/-- The predicate that says nothing of the fuses. -/
theorem blown_true : Blown fun _ => True := fun _ _ _ _ => trivial

/-- The frame instantiated with "memory is that of `s`": a command that stores nothing in memory keeps all of it. -/
theorem exec_mem_of_storesMemory_eq_false {c : Instr} (hs : Inv s) (hc : storesMemory c = false)
    (e : exec c s = .next t) : t.mem = s.mem :=
  have hfr : Fr s.pending (· = s.mem) (fun _ => True) s := hs.fr rfl trivial
  (exec_mem_fr blown_true hc hfr e).mem

/-- A byte is read from memory alone. -/
theorem memByte_congr (h : t.mem = s.mem) (a : Nat) : memByte t a = memByte s a := by
  unfold memByte; rw [h]

/-! `memPut` byte by byte. -/

@[simp] theorem memPut_zero (a v : Nat) : memPut m a 0 v = m := rfl

/-- The bytes are written from the lowest address up. -/
theorem memPut_succ (a n v : Nat) :
    memPut m a (n + 1) v = setByte (memPut m a n v) (a + n) (BitVec.ofNat 8 (v / 256 ^ n)) := by
  simp [memPut, upTo, List.range_succ]

theorem get_setByte_self (h : MemOk m) (a : Nat) (b : Byte) : Store.get 0 (setByte m a b) a = b :=
  Store.get_set_self (Store.rising_of_wf h)

theorem get_setByte_of_ne (h : MemOk m) {a k : Nat} (hk : k ≠ a) (b : Byte) :
    Store.get 0 (setByte m a b) k = Store.get 0 m k :=
  Store.get_set_of_ne hk (Store.rising_of_wf h)

/-- Inside the range written a read gives the number's byte of that place, outside it what was there. -/
theorem get_memPut (h : MemOk m) (a n v b : Nat) :
    Store.get 0 (memPut m a n v) b =
      if a ≤ b ∧ b < a + n then BitVec.ofNat 8 (v / 256 ^ (b - a)) else Store.get 0 m b := by
  induction n with
  | zero => rw [memPut_zero, if_neg (by omega)]
  | succ n ih =>
    have hn : MemOk (memPut m a n v) := memPut_ok h a n v
    rw [memPut_succ]
    by_cases hb : b = a + n
    · subst hb
      rw [get_setByte_self hn, if_pos (by omega), Nat.add_sub_cancel_left]
    · have hrange : (a ≤ b ∧ b < a + (n + 1)) ↔ (a ≤ b ∧ b < a + n) := by omega
      rw [get_setByte_of_ne hn hb, ih]
      simp only [hrange]

/-! The obligations. -/

/-- Settles O47: the frame over every command outside `storesMemory`, for the predicate that memory is as it was. -/
theorem commandsThatStoreNothing : Obligations.CommandsThatStoreNothing := by
  unfold Obligations.CommandsThatStoreNothing
  intro s c t a hs hc e
  have hmem : t.mem = s.mem := exec_mem_of_storesMemory_eq_false hs hc e
  exact ⟨hmem, memByte_congr hmem a⟩

/-- Settles O50: the register field by the laws of the sparse store, the bytes by induction on how many are written. -/
theorem storedValuesReadBack : Obligations.StoredValuesReadBack := by
  unfold Obligations.StoredValuesReadBack
  constructor
  · intro s f g v hr
    exact ⟨getF_setF_self hr, getF_setF_of_ne hr, regsRising_setF hr⟩
  · intro s a n v b hm
    exact ⟨memPut_ok hm a n v, get_memPut hm a n v b⟩

end Sys2Proof.Machine
end

section
/-!
PROOFS. A command whose meaning stands behind a guard does that meaning's work where the guard holds.
-/

namespace Sys2Proof.Machine

variable {s t : State} {f : State → State} {i : Instr}

/-- A command of a module that is alive leads where its meaning does. -/
theorem exec_of_alive (hi : exec i s = .next (whenAlive s f)) (ha : alive s = true) (hf : f s = t) :
    exec i s = .next t := by
  rw [hi, whenAlive_of ha, hf]

/-- A command of a managed module leads where its meaning does. -/
theorem exec_of_managed (hi : exec i s = .next (whenManaged s f)) (hm : managed s = true) (hf : f s = t) :
    exec i s = .next t := by
  rw [hi, whenManaged_of hm, hf]

end Sys2Proof.Machine
end

section
/-!
PROOFS. Coherence: a stored request that wins its tie on a line in a stable state (R105, R114, R123).
-/

namespace Sys2Proof.Machine

variable {s u t : State} {ops ties : List Nat} {op pid tag line : Nat} {r : Req}

/-- A request that `findReq` selects has one of the opcodes asked for. -/
theorem op_mem_of_findReq (h : findReq s pid tag ops = some r) : r.op ∈ ops := by
  have hp := List.find?_some h
  simp only [Bool.and_eq_true, List.contains_iff_mem] at hp
  exact hp.1.2

/-- On a line without a transaction a request is handled in the state after the lookup in the directory cache (R112),
unless its entry awaits a repair (R272). -/
theorem takeReq_of_stable (htxn : txnOf s line = none) (hroom : lookupDc s line = some t)
    (hentry : entryAwaits s line = false) : takeReq s line r = handleStable t line r := by
  simp [takeReq, htxn, hroom, hentry]

/-- A request that is served passes every guard of `serialize`, and its slice takes it on a stable line. -/
theorem serialize_of_serves (h : Serves s ops pid tag ties r line u t) (hok : r.op = 0x09 → atomicBad r = false) :
    serialize ops pid tag ties s = handleStable t line { r with taken := true } := by
  obtain ⟨⟨hfind, hline, hfailing, hmoving, hup, hlink, hwins⟩, htxn, hroom, htxn', hroom', hentry, hentry'⟩ := h
  obtain ⟨at', hat, rfl⟩ := Option.map_eq_some_iff.mp hlink
  have hgood : ¬(r.op = 0x09 ∧ atomicBad r = true) := fun hb => by simp [hok hb.1] at hb
  have htake := takeReq_of_stable (r := { r with taken := true }) htxn' hroom' hentry'
  simpa [serialize, hfind, hline, hfailing, hmoving, hup, hat, hwins, htxn, Option.isNone_eq_false_iff.mpr hroom, hentry,
    hgood, taking] using htake

/-- A command that serializes a request of opcode `op` serves it. -/
theorem exec_of_serves {i : Instr} (hi : exec i s = .next (whenAlive s (serialize [op] pid tag ties)))
    (ha : alive s = true) (h : Serves s [op] pid tag ties r line u t) (hok : r.op = 0x09 → atomicBad r = false) :
    exec i s = .next (handleStable t line { r with taken := true }) :=
  exec_of_alive hi ha (serialize_of_serves h hok)

/-- The check of R223 on an ATOMIC holds nothing against a request served under another opcode. -/
theorem atomicBad_eq_false_of_serves (h : Serves s [op] pid tag ties r line u t) (hop : op ≠ 0x09) :
    r.op = 0x09 → atomicBad r = false := by
  obtain ⟨⟨hfind, _⟩, _⟩ := h
  have heq : r.op = op := List.mem_singleton.mp (op_mem_of_findReq hfind)
  exact fun h9 => absurd (heq.symm.trans h9) hop

/-- Settles O7: each of the nine commands serializes the requests of its own opcode. -/
theorem requestsAreServed : Obligations.RequestsAreServed := by
  unfold Obligations.RequestsAreServed
  refine ⟨?rdShared, ?rdOwn, ?upgrade, ?rdOnce, ?wrFull, ?wrPart, ?wb, ?evict, ?atomic⟩
  case rdShared => exact fun _ _ _ _ _ _ _ _ ha h => exec_of_serves rfl ha h (atomicBad_eq_false_of_serves h (by decide))
  case rdOwn => exact fun _ _ _ _ _ _ _ _ ha h => exec_of_serves rfl ha h (atomicBad_eq_false_of_serves h (by decide))
  case upgrade => exact fun _ _ _ _ _ _ _ _ ha h => exec_of_serves rfl ha h (atomicBad_eq_false_of_serves h (by decide))
  case rdOnce => exact fun _ _ _ _ _ _ _ _ ha h => exec_of_serves rfl ha h (atomicBad_eq_false_of_serves h (by decide))
  case wrFull => exact fun _ _ _ _ _ _ _ _ ha h => exec_of_serves rfl ha h (atomicBad_eq_false_of_serves h (by decide))
  case wrPart => exact fun _ _ _ _ _ _ _ _ ha h => exec_of_serves rfl ha h (atomicBad_eq_false_of_serves h (by decide))
  case wb => exact fun _ _ _ _ _ _ _ ha h => exec_of_serves rfl ha h (atomicBad_eq_false_of_serves h (by decide))
  case evict => exact fun _ _ _ _ _ _ _ ha h => exec_of_serves rfl ha h (atomicBad_eq_false_of_serves h (by decide))
  case atomic => exact fun _ _ _ _ _ _ _ _ ha h hok => exec_of_serves rfl ha h hok

end Sys2Proof.Machine
end

section
/-!
PROOFS. Partitions: what each command of R395, R517 and R518 does once its checks have passed, and where it is refused.
-/

namespace Sys2Proof.Machine

variable {s : State} {f g : State → State} {pt pid p q : Nat}

/-- `noteState` sees of a change only what it makes of the present state. -/
theorem noteState_congr (h : f s = g s) : noteState pt f s = noteState pt g s := by
  simp only [noteState, h]

theorem forAll_singleton {α : Type} (x : α) (f : State → α → State) : forAll [x] f s = f s x := rfl

/-! Quiesce and resume (R395). -/

theorem doQuiesce_of_running (hrun : runOpen s pt = false) (h0 : ptState s pt ≠ 0) (h5 : ptState s pt ≠ 5)
    (h4 : ptState s pt ≠ 4) :
    doQuiesce s pt = setB (setF s (PART.PT_STS_QRESULT pt) 0) (PART.PT_STS_QUIESCING pt) true := by
  simp [doQuiesce, hrun, h0, h5, h4]

theorem doQuiesced_of_drained (hq : flag s (PART.PT_STS_QUIESCING pt) = true) (hd : ptDrained s pt = true) :
    doQuiesced s pt = (let s1 := setB s (PART.PT_STS_QUIESCING pt) false
      raise { s1 with parts := { s1.parts with quiesced := setBit16 s1.parts.quiesced pt true } } 0x0030 4) := by
  simp [doQuiesced, hq, hd]

theorem doResume_of_quiesced (hscrub : scrubbing s pt = false) (hcopy : copyingPt s pt = false)
    (hq : flag s (PART.PT_STS_QUIESCING pt) = true ∨ s.parts.quiesced.getLsbD pt = true) :
    doResume s pt = (let s1 := setB (setF s (PART.PT_STS_QRESULT pt) 0) (PART.PT_STS_QUIESCING pt) false
      { s1 with parts := { s1.parts with quiesced := setBit16 s1.parts.quiesced pt false } }) := by
  have hheld : (flag s (PART.PT_STS_QUIESCING pt) || s.parts.quiesced.getLsbD pt) = true := by simpa using hq
  simp [doResume, hscrub, hcopy, hheld]

/-- Out of IDLE, RESUME is that of the partition alone (R438). -/
theorem doResumeCmd_of_not_idle (h : getF s PWR.PWR_STS_STATE ≠ 2) :
    doResumeCmd s = noteState (selPt s) (doResume · (selPt s)) s := by
  simp [doResumeCmd, h]

/-! Configuration and fail-over (R24, R517). -/

theorem doCfg_of_refused (h : cfgResult s pt ≠ 0) : doCfg s pt = setF s (PART.CFG_STS_RESULT pt) (cfgResult s pt) := by
  simp [doCfg, h]

/-- A lost region whose secondary answers is moved there (R24). -/
theorem failover_of_survivor (hsec : secondaryOf s p = some q) (hlost : lostCore s p = true) (hup : coreUp s q = true) :
    failover s p = (let s1 := { s with parts := { s.parts with
        failing := s.parts.failing &&& ~~~ BitVec.ofNat 16 (2 ^ p) } }
      let s2 := noteBusy (moveRegion s1 p q) q
      { s2 with parts := { s2.parts with home := Store.set 0 s2.parts.home p (q + 1) } }) := by
  simp [failover, hsec, hlost, hup]

/-! Binding (R518). -/

/-- The checks of BIND pass for a PID that is unbound or fenced, has a route, and whose LIMIT fits a partition with
cores. -/
theorem doBind_of_fits (hpid : getF s PART.BIND_PID_PID = pid) (hst : pidState s pid = 0 ∨ pidState s pid = 4)
    (hroute : flag s (ROUTE.PTAB_DATA_V pid) = true) (hcores : coresOf s pt ≠ [])
    (hfits : limitSum s pt pid + getF s (SHAPE.E2E_DATA_LIMIT pid) ≤ 4096 * (viewCores s pt).length) :
    doBind s pt = freshBinding (setF (setF (setF s (PART.BIND_STS_RESULT 0) 0) (PART.FENCE_STS_STATE pid) 1)
      (PART.BIND_STS_PT pid) pt) pid := by
  subst hpid
  have hstate : ¬(pidState s (getF s PART.BIND_PID_PID) ≠ 0 ∧ pidState s (getF s PART.BIND_PID_PID) ≠ 4) := by omega
  simp only [doBind, if_neg hstate, hroute, List.isEmpty_eq_false_iff.mpr hcores, if_neg (Nat.not_lt.mpr hfits)]
  rfl

theorem doUnbind_of_fenced (hpid : getF s PART.BIND_PID_PID = pid) (hst : pidState s pid = 4) :
    doUnbind s = setF (setF (setF s (PART.BIND_STS_RESULT 0) 0) (PART.FENCE_STS_STATE pid) 0) (PART.BIND_STS_PT pid) 0 := by
  simp [doUnbind, hpid, hst]

theorem doUnbind_of_refused (hpid : getF s PART.BIND_PID_PID = pid) (hst : pidState s pid ≠ 4) :
    doUnbind s = setF s (PART.BIND_STS_RESULT 0) 1 := by
  simp [doUnbind, hpid, hst]

/-- Settles O33: each clause is the command's own rule under the guard that the module is alive. -/
theorem partitions : Obligations.Partitions := by
  unfold Obligations.Partitions
  refine ⟨?quiesce, ?quiesced, ?resume, ?cfgGo, ?cfgRefused, ?pairCopyDone, ?failoverDone, ?bind, ?unbind,
    ?unbindRefused⟩
  case quiesce =>
    rintro s _ ha rfl hrun h0 h5 h4
    exact exec_of_alive rfl ha
      (doQuiesce_of_running hrun (ne_of_beq_false h0) (ne_of_beq_false h5) (ne_of_beq_false h4))
  case quiesced =>
    exact fun s pt ha hq hd => exec_of_alive rfl ha (noteState_congr (doQuiesced_of_drained hq hd))
  case resume =>
    rintro s _ ha rfl hidle hscrub hcopy hq
    have hcmd := doResumeCmd_of_not_idle (ne_of_beq_false hidle)
    exact exec_of_alive rfl ha (hcmd.trans (noteState_congr (doResume_of_quiesced hscrub hcopy hq)))
  case cfgGo =>
    rintro s _ ha rfl hok
    refine exec_of_alive rfl ha ?_
    simp only [doCfg, hok]
    rfl
  case cfgRefused =>
    rintro s _ _ ha rfl rfl hr
    exact exec_of_alive rfl ha (doCfg_of_refused hr)
  case pairCopyDone =>
    rintro s pt _ ha rfl hps
    refine exec_of_alive rfl ha (noteState_congr ?_)
    simp only [doPairCopyDone, List.isEmpty_eq_false_iff.mpr hps]
    rfl
  case failoverDone =>
    intro s pt p q ha hone hsec hlost hup
    refine exec_of_alive rfl ha ?_
    rw [doMirrorFailoverDone, hone, forAll_singleton, failover_of_survivor hsec hlost hup]
  case bind =>
    exact fun s pt pid ha hpid hst hroute hcores hfits =>
      exec_of_alive rfl ha (doBind_of_fits hpid hst hroute hcores hfits)
  case unbind => exact fun s pid ha hpid hst => exec_of_alive rfl ha (doUnbind_of_fenced hpid hst)
  case unbindRefused => exact fun s pid ha hpid hst => exec_of_alive rfl ha (doUnbind_of_refused hpid hst)

end Sys2Proof.Machine
end

section
/-!
PROOFS. Power: the commands of PWR_CMD (R436 to R438), what an input shutdown keeps, and lost phases (R30).
-/

namespace Sys2Proof.Machine

variable {s : State}

/-! Taking the Selvedge links down leaves the security state alone. -/

/-- What every step of `forAll` leaves alone, all of them do. -/
theorem forAll_keeps {α β : Type} {π : State → β} {f : State → α → State} (hf : ∀ s x, π (f s x) = π s)
    (l : List α) (s : State) : π (forAll l f s) = π s := by
  induction l generalizing s with
  | nil => rfl
  | cons x l ih => exact (ih (f s x)).trans (hf s x)

@[simp] theorem setSelv_sec (m : Nat) (p : SelvPort) : (setSelv s m p).sec = s.sec := rfl

@[simp] theorem queueEvt_sec (x : EvtMsg) (m : Nat) : (queueEvt x s m).sec = s.sec := by
  simp only [queueEvt]
  split
  · rfl
  · split <;> rfl

@[simp] theorem formEvt_sec (page : Nat) : (formEvt s page).sec = s.sec := by
  simp only [formEvt]
  split
  · rfl
  · exact forAll_keeps (fun _ _ => queueEvt_sec ..) _ _

@[simp] theorem raise_sec (page i : Nat) : (raise s page i).sec = s.sec := by
  simp only [raise]
  split
  · split
    · rfl
    · split <;> simp
  · rfl

@[simp] theorem endLease_sec (m : Nat) : (endLease s m).sec = s.sec := by
  simp only [endLease]
  split <;> simp

@[simp] theorem selvDown_sec (m : Nat) : (selvDown s m).sec = s.sec := by
  simp only [selvDown]
  split <;> simp

/-- OFF loses the keys and keeps the fuses. -/
theorem enterOff_fuses : (enterOff s).sec.fuses = s.sec.fuses := by
  have hsec : (forAll [0, 1] selvDown s).sec = s.sec := forAll_keeps (fun _ m => selvDown_sec m) [0, 1] s
  simp only [enterOff, setF_sec, hsec]

/-! The power states (R438). -/

theorem doPwrIdle_of_quiet (hst : getF s PWR.PWR_STS_STATE ≤ 1) (hq : allQuiet s = true) :
    doPwrIdle s = forAll (upTo 16) updateClock (setPwrState (pwrResult s 0) 2) := by
  simp [doPwrIdle, hst, hq]

theorem doPwrIdle_of_refused (h : 1 < getF s PWR.PWR_STS_STATE ∨ allQuiet s = false) : doPwrIdle s = pwrResult s 1 := by
  rcases h with hst | hq
  · simp [doPwrIdle, Nat.not_le.mpr hst]
  · simp [doPwrIdle, hq]

theorem doPwrRun_of_idle (h : getF s PWR.PWR_STS_STATE = 2) : doPwrRun s = leaveIdle (pwrResult s 0) := by
  simp [doPwrRun, h]

theorem doPwrRun_of_hibernate (h : getF s PWR.PWR_STS_STATE = 3) :
    doPwrRun s = (let sleeping := sleepRails.filter fun r => decide (phasesLost (pwrResult s 0) r ≤ 2)
      let s0 := setRails (pwrResult s 0) sleeping false
      let s1 := { s0 with pwr := { s0.pwr with selfRef := false } }
      setPwrState (trainEnabled (forAll (coresUp s1) calibrate s1)) 2) := by
  simp only [doPwrRun, h]
  rfl

theorem doPwrHibernate_of_idle (hst : getF s PWR.PWR_STS_STATE = 2) (hlive : anyLive s = false)
    (hrun : anyRun s = false) :
    doPwrHibernate s = (let s0 := portsOff (lockOpenSlots (setF s PWR.PWR_STS_RESULT 0))
      let s1 := setPwrState (setRails s0 sleepRails true) 3
      { s1 with pwr := { s1.pwr with selfRef := true }, sec := { s1.sec with linkKey := [], linkNext := [] } }) := by
  simp [doPwrHibernate, pwrResult, hst, hlive, hrun]

theorem doPwrOff_of_asleep (h : getF s PWR.PWR_STS_STATE = 2 ∨ getF s PWR.PWR_STS_STATE = 3) :
    doPwrOff s = enterOff (pwrResult s 0) := by
  simp [doPwrOff, h]

/-! Lost phases (R30). -/

/-- A phase is noted as lost. -/
def notePhase (s : State) (rail phase : Nat) : State :=
  { s with pwr := { s.pwr with lost := s.pwr.lost ++ [(rail, phase)] } }

/-- The report of a lost phase: the count left in service, a fault-log entry and the event. -/
def reportPhase (s : State) (rail phase req : Nat) : State :=
  let s1 := notePhase s rail phase
  let s2 := setF s1 (PWR.RAIL_STS_PHASES_OK rail) (req + 2 - phasesLost s1 rail)
  raise (faultEntry s2 24 1 none 0x0008 rail phase) 0x0008 2

theorem phasesLost_notePhase (rail phase : Nat) : phasesLost (notePhase s rail phase) rail = phasesLost s rail + 1 := by
  simp [phasesLost, notePhase]

theorem phasesReq_of_stack {rail : Nat} (h : rail < 16) : phasesReq rail = 2 := by
  simp [phasesReq, h]

/-- Up to two lost phases of a rail are reported alone. -/
theorem phaseGone_of_spare {rail phase req : Nat} (h : phasesLost s rail < 2) :
    phaseGone s rail phase req = reportPhase s rail phase req := by
  have hleft : req ≤ req + 2 - phasesLost (notePhase s rail phase) rail := by
    rw [phasesLost_notePhase]; omega
  exact if_pos hleft

/-- The third lost phase of a stack rail shuts it down and loses its core. -/
theorem phaseGone_of_stack {rail phase req : Nat} (hreq : 0 < req) (h : phasesLost s rail = 2) (hr : rail < 16) :
    phaseGone s rail phase req =
      declareLost (setB (reportPhase s rail phase req) (PWR.RAIL_STS_SHUT rail) true) rail 1 := by
  have hleft : ¬ req ≤ req + 2 - phasesLost (notePhase s rail phase) rail := by
    rw [phasesLost_notePhase, h]; omega
  exact (if_neg hleft).trans (if_pos hr)

/-- A phase that the rail has and that is not yet lost is lost. -/
theorem exec_phaseLost {rail : Fin 20} {phase : Nat} (hm : managed s = true)
    (hnew : s.pwr.lost.contains (rail.val, phase) = false) (hphase : phase < phasesReq rail + 2) :
    exec (.phaseLost rail phase) s = .next (phaseGone s rail phase (phasesReq rail)) := by
  have hguard : ¬(s.pwr.lost.contains (rail.val, phase) || decide (phasesReq rail + 2 ≤ phase)) = true := by
    rw [hnew, Bool.false_or, decide_eq_true_iff]
    exact Nat.not_le.mpr hphase
  exact exec_of_managed rfl hm (if_neg hguard)

/-- Settles O36: each clause is the command's own rule under its guard. -/
theorem powerStates : Obligations.PowerStates := by
  unfold Obligations.PowerStates
  refine ⟨?idle, ?idleRefused, ?run, ?wake, ?hibernate, ?off, ?enClear, ?inputLow, ?inputLowClear, ?shutdown, ?phase,
    ?thirdPhase, ?railOut, ?trip, ?chipFatal⟩
  case idle => exact fun s ha hst hq => exec_of_alive rfl ha (doPwrIdle_of_quiet hst hq)
  case idleRefused => exact fun s ha h => exec_of_alive rfl ha (doPwrIdle_of_refused h)
  case run => exact fun s ha h => exec_of_alive rfl ha (doPwrRun_of_idle h)
  case wake => exact fun s ha h => exec_of_alive rfl ha (doPwrRun_of_hibernate h)
  case hibernate =>
    exact fun s ha hst hlive hrun => exec_of_alive rfl ha (doPwrHibernate_of_idle hst hlive hrun)
  case off => exact fun s ha h => exec_of_alive rfl ha (doPwrOff_of_asleep h)
  case enClear => exact fun s ha => exec_of_alive rfl ha rfl
  case inputLow => exact fun s hm => exec_of_managed rfl hm rfl
  case inputLowClear => exact fun s hm => exec_of_managed rfl hm rfl
  case shutdown =>
    exact fun s => ⟨_, rfl, rfl, rfl, rfl, rfl, rfl, rfl, rfl, rfl, rfl, rfl, rfl, enterOff_fuses⟩
  case phase =>
    intro s rail phase hm hnew hphase hlost
    exact (exec_phaseLost hm hnew hphase).trans (congrArg _ (phaseGone_of_spare hlost))
  case thirdPhase =>
    intro s rail phase hm hnew hphase hlost hr
    have hreq : 0 < phasesReq rail := by rw [phasesReq_of_stack hr]; decide
    exact (exec_phaseLost hm hnew hphase).trans (congrArg _ (phaseGone_of_stack hreq hlost hr))
  case railOut => exact fun s core hm => exec_of_managed rfl hm rfl
  case trip => exact fun s sensor hm => exec_of_managed rfl hm rfl
  case chipFatal => exact fun s page detail hm => exec_of_managed rfl hm rfl

end Sys2Proof.Machine
end

section
/-!
PROOFS. Leases and fencing: what each command of R129 to R133 and R141 does in the case that its guards leave.
-/

namespace Sys2Proof.Machine

variable {s : State} {pid seq port pt : Nat}

/-! LEASE_RENEW by the state of its PID (R129, R43). -/

theorem doLeaseRenew_of_live (hst : pidState s pid = 1) (hadm : s.boot.admitted = true) :
    doLeaseRenew s pid seq port = sendMgmt (startLease s pid) pid 0x71 16 (leaseAck s pid seq) := by
  simp [doLeaseRenew, hst, hadm]

theorem doLeaseRenew_of_early (hst : pidState s pid = 1) (hadm : s.boot.admitted = false) :
    doLeaseRenew s pid seq port = respond s { pid := pid } 16 0x48 3 8 0 s.time.ft none := by
  simp [doLeaseRenew, hst, hadm]

theorem doLeaseRenew_of_fenced (hst : 2 ≤ pidState s pid) :
    doLeaseRenew s pid seq port = respond s { pid := pid } 16 0x48 7 8 0 s.time.ft none := by
  unfold doLeaseRenew
  split
  next h0 => exact absurd h0 (by omega)
  next h1 => exact absurd h1 (by omega)
  next => rfl

theorem doLeaseRenew_of_unbound (hst : pidState s pid = 0) :
    doLeaseRenew s pid seq port =
      respond (faultEntry s 23 1 none (0x0600 + port) port pid) { pid := pid } 16 0x48 2 8 0 s.time.ft none := by
  simp [doLeaseRenew, hst]

/-! The lease check (R130). -/

/-- The state with the lease configuration of the sixteen partitions taken into force. -/
def takeLeaseCfg (s : State) : State :=
  { s with coh := { s.coh with cfg := (upTo 16).foldl (fun c pt => Store.set 2000 c pt
      (getF s (PART.LEASE_CFG_LEN_US pt) + getF s (PART.LEASE_CFG_REVERT pt) * 65536)) s.coh.cfg } }

/-- Once the module admits partners, the check fences those whose leases are over under the configuration just taken. -/
theorem doPartnerLeaseCheck_of_admitted (hadm : (atPeriodic s 2 65536 2048).boot.admitted = true) :
    doPartnerLeaseCheck s = (let u := takeLeaseCfg (atPeriodic s 2 65536 2048)
      forAll ((upTo 4096).filter fun p => pidLive u p && leaseOver u p) fencePid u) :=
  if_pos hadm

/-! The commands of FENCE_CMD (R130, R133). -/

theorem doFence_of_live (hlive : pidLive s (getF s PART.FENCE_PID_PID) = true) :
    doFence s = setF (fencePid s (getF s PART.FENCE_PID_PID)) (PART.FENCE_STS_RESULT 0) 0 :=
  if_pos hlive

theorem doRelease_of_fenced (hpid : getF s PART.FENCE_PID_PID = pid) (hst : pidState s pid = 2)
    (hrun : runOpen s (pidPt s pid) = false) :
    doRelease s = startSweep (setF (setF s (PART.FENCE_STS_RESULT 0) 0) (PART.FENCE_STS_STATE pid) 3) (pidPt s pid) := by
  simp [doRelease, hpid, hst, hrun]

theorem doUnfence_of_released (hpid : getF s PART.FENCE_PID_PID = pid) (hst : pidState s pid = 4) :
    doUnfence s = freshBinding (setF (setF s (PART.FENCE_STS_RESULT 0) 0) (PART.FENCE_STS_STATE pid) 1) pid := by
  simp [doUnfence, hpid, hst]

/-! The end of a sweep (R133). -/

/-- The swept PIDs `ps` are counted and taken out of the entries of the partition's stable lines. -/
def sweepLines (s : State) (pt : Nat) (ps : List Nat) : State :=
  let s0 := forAll ps (fun s p => setF s (PART.FENCE_LINES_LINES p) 0) s
  forAll (s0.coh.dir.filter fun e => (coresOf s pt).contains (lineCore e.1) && (txnOf s e.1).isNone) (fun s e =>
    forAll (sweepEntry ps e.2).2 (fun s p => bumpF s (PART.FENCE_LINES_LINES p)) (setDir s e.1 (sweepEntry ps e.2).1)) s0

/-- The swept PIDs that still are SWEEPING are RELEASED. -/
def releaseSwept (s : State) (ps : List Nat) : State :=
  forAll ps (fun s p => if pidState s p = 3 then setF s (PART.FENCE_STS_STATE p) 4 else s) s

/-- The sweep that runs ends: its PIDs are swept and released, event 2 is raised and the next sweep starts. -/
theorem doSweepDone_of_running {ps : List Nat} (hps : Store.get [] s.coh.sweeps pt = ps) (hne : ps ≠ []) :
    doSweepDone s pt = (let t := releaseSwept (sweepLines s pt ps) ps
      startSweep (raise { t with coh := { t.coh with sweeps := Store.del t.coh.sweeps pt } } 0x0030 2) pt) := by
  obtain ⟨p, l, rfl⟩ := List.exists_cons_of_ne_nil hne
  simp only [doSweepDone, hps]
  rfl

/-! FENCE_POP (R141). -/

theorem readFencePop_of_entry (h : s.coh.fences ≠ []) :
    readFencePop s = { s with coh := { s.coh with fences := s.coh.fences.tail, fenceLost := false } } := by
  simp [readFencePop, h]

/-- Settles O11: each clause is the command's own rule under its guard. -/
theorem leasesAndFencing : Obligations.LeasesAndFencing := by
  unfold Obligations.LeasesAndFencing
  refine ⟨?renew, ?renewEarly, ?renewFenced, ?renewUnbound, ?leaseCheck, ?fence, ?release, ?sweepDone, ?unfence,
    ?fencePop⟩
  case renew => exact fun s pid seq port ha hst hadm => exec_of_alive rfl ha (doLeaseRenew_of_live hst hadm)
  case renewEarly => exact fun s pid seq port ha hst hadm => exec_of_alive rfl ha (doLeaseRenew_of_early hst hadm)
  case renewFenced => exact fun s pid seq port ha hst => exec_of_alive rfl ha (doLeaseRenew_of_fenced hst)
  case renewUnbound => exact fun s pid seq port ha hst => exec_of_alive rfl ha (doLeaseRenew_of_unbound hst)
  case leaseCheck =>
    rintro s _ ha rfl hadm
    exact exec_of_alive rfl ha (doPartnerLeaseCheck_of_admitted hadm)
  case fence => exact fun s ha hlive => exec_of_alive rfl ha (doFence_of_live hlive)
  case release => exact fun s ha hst hrun => exec_of_alive rfl ha (doRelease_of_fenced rfl hst hrun)
  case sweepDone => exact fun s pt ps ha hps hne => exec_of_alive rfl ha (doSweepDone_of_running hps hne)
  case unfence => exact fun s ha hst => exec_of_alive rfl ha (doUnfence_of_released rfl hst)
  case fencePop => exact fun s hm hne => exec_of_managed rfl hm (readFencePop_of_entry hne)

end Sys2Proof.Machine
end

section
/-!
PROOFS. The frame of the control commands: time, the gingham table, deterministic mode, power, control and the contacts.
-/

namespace Sys2Proof.Machine

variable {s t u : State} {fld : Fld} {v i c m pt : Nat} {b : Bool} {α β : Type} {π : State → β} {g : State → State}

/-! What a guarded meaning keeps. -/

theorem keeps_of_next (hu : π u = π s) (e : Host.Outcome.next (φ := Fault) (ρ := Refusal) u = .next t) : π t = π s := by
  injection e with e
  rw [← e, hu]

theorem whenManaged_keeps (hg : ∀ s, π (g s) = π s) : π (whenManaged s g) = π s := by
  unfold whenManaged
  split
  · exact hg s
  · rfl

theorem whenAlive_keeps (hg : ∀ s, π (g s) = π s) : π (whenAlive s g) = π s := by
  unfold whenAlive
  split
  · exact hg s
  · rfl

theorem onFrame_keeps (hn : ∀ s f, π (noteSender s f) = π s) (hg : ∀ s, π (g s) = π s) (f : SelvFrame) :
    π (onFrame f g s) = π s := by
  unfold onFrame
  split
  · rw [hg, hn]
  · rfl

/-- A command that acts while the module is alive keeps what its meaning keeps. -/
theorem keeps_of_alive (hg : ∀ s, π (g s) = π s)
    (e : Host.Outcome.next (φ := Fault) (ρ := Refusal) (whenAlive s g) = .next t) : π t = π s :=
  keeps_of_next (whenAlive_keeps hg) e

/-- A command that acts while the module is managed keeps what its meaning keeps. -/
theorem keeps_of_managed (hg : ∀ s, π (g s) = π s)
    (e : Host.Outcome.next (φ := Fault) (ρ := Refusal) (whenManaged s g) = .next t) : π t = π s :=
  keeps_of_next (whenManaged_keeps hg) e

/-! The data path of a state, with every operation that keeps it. -/

/-- The state with all that `OnlyControl` lets change blanked out. -/
def dataPath (s : State) : State :=
  { s with regs := [], freeCtr := 0, pwr := {}, ctl := {}, dbg := {}, input := {}, log := [], boot := {}, time := {},
           ging := {}, runs := [] }

theorem onlyControl_of_dataPath (h : dataPath t = dataPath s) : OnlyControl s t := by
  cases s; cases t
  simp only [dataPath, State.mk.injEq] at h
  simp only [OnlyControl, h]

/-- A record update of what `dataPath` blanks out. (The parentheses keep `simp` from taking the law as
definitional: it could not then use it to discharge a hypothesis about every state.) -/
theorem dataPath_upd {regs freeCtr pwr ctl dbg input log boot time ging runs} :
    dataPath { s with regs := regs, freeCtr := freeCtr, pwr := pwr, ctl := ctl, dbg := dbg, input := input, log := log,
                      boot := boot, time := time, ging := ging, runs := runs } = dataPath s := (rfl)

@[simp] theorem dataPath_ite {p : Prop} [Decidable p] :
    dataPath (if p then s else t) = if p then dataPath s else dataPath t := apply_ite ..

@[simp] theorem dataPath_forAll {f : State → α → State} (hf : ∀ s x, dataPath (f s x) = dataPath s) (l : List α) :
    dataPath (forAll l f s) = dataPath s := forAll_keeps hf l s

@[simp] theorem dataPath_setF : dataPath (setF s fld v) = dataPath s := dataPath_upd
@[simp] theorem dataPath_setB : dataPath (setB s fld b) = dataPath s := dataPath_setF
@[simp] theorem dataPath_bumpF : dataPath (bumpF s fld) = dataPath s := dataPath_setF
@[simp] theorem dataPath_wrapF : dataPath (wrapF s fld v) = dataPath s := dataPath_setF
@[simp] theorem dataPath_setBitF : dataPath (setBitF s fld i b) = dataPath s := dataPath_setF
@[simp] theorem dataPath_ignored : dataPath (ignored s i) = dataPath s := dataPath_setB
@[simp] theorem dataPath_bumpConfigGen : dataPath (bumpConfigGen s pt) = dataPath s := dataPath_wrapF
@[simp] theorem dataPath_freeNat : dataPath (freeNat s v).2 = dataPath s := dataPath_upd

@[simp] theorem dataPath_bumpAll : dataPath (bumpAll s) = dataPath s := by
  simp [bumpAll]

@[simp] theorem dataPath_noteChip (hg : ∀ s, dataPath (g s) = dataPath s) : dataPath (noteChip g s) = dataPath s := by
  simp [noteChip, hg]

/-! The clocks. -/

@[simp] theorem dataPath_countReason (t dt : Nat) : dataPath (countReason t dt s i) = dataPath s := by
  simp [countReason, ↓dataPath_upd]

@[simp] theorem dataPath_countStretch (dt : Nat) : dataPath (countStretch dt s c) = dataPath s := by
  simp [countStretch]

@[simp] theorem dataPath_advanceBy (dt dft : Nat) : dataPath (advanceBy s dt dft) = dataPath s := by
  simp [advanceBy, ↓dataPath_upd]

@[simp] theorem dataPath_advanceFt : dataPath (advanceFt s v) = dataPath s := by
  simp [advanceFt]

@[simp] theorem dataPath_advanceEl : dataPath (advanceEl s v) = dataPath s := by
  simp [advanceEl]

@[simp] theorem dataPath_toFrameStart : dataPath (toFrameStart s) = dataPath s := dataPath_advanceFt

@[simp] theorem dataPath_atPeriodic (id period place : Nat) : dataPath (atPeriodic s id period place) = dataPath s := by
  simp [atPeriodic, ↓dataPath_upd]

/-! Selvedge ports, events and the fault log. -/

@[simp] theorem dataPath_setSelv (p : SelvPort) : dataPath (setSelv s m p) = dataPath s := dataPath_upd

@[simp] theorem dataPath_noteSender (f : SelvFrame) : dataPath (noteSender s f) = dataPath s := dataPath_setSelv _

@[simp] theorem dataPath_onFrame (hg : ∀ s, dataPath (g s) = dataPath s) (f : SelvFrame) :
    dataPath (onFrame f g s) = dataPath s := onFrame_keeps (fun _ _ => dataPath_noteSender _) hg f

@[simp] theorem dataPath_sendSelv (x : SelvMsg) : dataPath (sendSelv s m x) = dataPath s := by
  simp [sendSelv]

@[simp] theorem dataPath_queueEvt (x : EvtMsg) : dataPath (queueEvt x s m) = dataPath s := by
  simp [queueEvt]

@[simp] theorem dataPath_formEvt : dataPath (formEvt s i) = dataPath s := by
  simp [formEvt]

@[simp] theorem dataPath_raise (page : Nat) : dataPath (raise s page i) = dataPath s := by
  simp [raise]

@[simp] theorem dataPath_resync : dataPath (resync s m) = dataPath s := by
  simp [resync]

@[simp] theorem dataPath_latch (cause cls : Nat) : dataPath (latch s cause cls) = dataPath s := by
  simp [latch, ↓dataPath_upd]

@[simp] theorem dataPath_logEntry (rsv : Bool) (cls code : Nat) (pt : Option Nat) (page unit info : Nat) :
    dataPath (logEntry s rsv cls code pt page unit info) = dataPath s := by
  simp [logEntry, ↓dataPath_upd]

@[simp] theorem dataPath_faultEntry (cls code : Nat) (pt : Option Nat) (page unit info : Nat) :
    dataPath (faultEntry s cls code pt page unit info) = dataPath s := by
  simp [faultEntry, ↓dataPath_upd]

@[simp] theorem dataPath_recordDx : dataPath (recordDx i s pt) = dataPath s := by
  simp [recordDx]

/-! The time unit (R46 to R53). -/

@[simp] theorem dataPath_openExchange : dataPath (openExchange s) = dataPath s := by
  simp [openExchange, ↓dataPath_upd]

@[simp] theorem dataPath_setAligned : dataPath (setAligned s b) = dataPath s := by
  simp [setAligned]

@[simp] theorem dataPath_setSlew (q : Int) : dataPath (setSlew s q) = dataPath s := dataPath_upd

@[simp] theorem dataPath_setRefused : dataPath (setRefused s b) = dataPath s := dataPath_upd

@[simp] theorem dataPath_applyStep (q : Int) : dataPath (applyStep s q) = dataPath s := by
  simp [applyStep, newRate]

@[simp] theorem dataPath_enterLocked : dataPath (enterLocked s) = dataPath s := by
  simp [enterLocked]

@[simp] theorem dataPath_refuseStep (q : Int) : dataPath (refuseStep s q) = dataPath s := by
  simp [refuseStep]

@[simp] theorem dataPath_applyOffset (q : Int) : dataPath (applyOffset s q) = dataPath s := by
  simp only [applyOffset]
  split <;> simp [↓dataPath_upd]

@[simp] theorem dataPath_enterHoldover : dataPath (enterHoldover s) = dataPath s := by
  simp [enterHoldover, ↓dataPath_upd]

@[simp] theorem dataPath_enterFreerun : dataPath (enterFreerun s) = dataPath s := by
  simp [enterFreerun]

@[simp] theorem dataPath_doFtLoad : dataPath (doFtLoad s) = dataPath s := by
  simp [doFtLoad, ↓dataPath_upd]

/-! The gingham table (R56 to R60). -/

@[simp] theorem dataPath_setGing (bank : Nat) (e : Nat × Nat) : dataPath (setGing bank s e) = dataPath s := dataPath_upd

@[simp] theorem dataPath_gingDigest (bank : Nat) : dataPath (gingDigest s bank) = dataPath s := dataPath_setF

@[simp] theorem dataPath_doGingFlip : dataPath (doGingFlip s) = dataPath s := by
  simp [doGingFlip, ↓dataPath_upd]

@[simp] theorem dataPath_doGingCopy : dataPath (doGingCopy s) = dataPath s := by
  simp [doGingCopy, ↓dataPath_upd]

@[simp] theorem dataPath_flipDigest : dataPath (flipDigest s) = dataPath s := by
  simp [flipDigest]

@[simp] theorem dataPath_doEntData : dataPath (doEntData s v) = dataPath s := by
  simp [doEntData]

/-! Core clocks (R419). -/

@[simp] theorem dataPath_setVstk : dataPath (setVstk s c v) = dataPath s := dataPath_upd

@[simp] theorem dataPath_setFreq : dataPath (setFreq s c v) = dataPath s := dataPath_upd

@[simp] theorem dataPath_holdStep : dataPath (holdStep s c v) = dataPath s := dataPath_upd

@[simp] theorem dataPath_stepDown : dataPath (stepDown s c) = dataPath s := by
  simp [stepDown]

@[simp] theorem dataPath_stepUp : dataPath (stepUp s c) = dataPath s := by
  simp [stepUp]

@[simp] theorem dataPath_deferChange : dataPath (deferChange s c) = dataPath s := by
  simp [deferChange]

@[simp] theorem dataPath_applyClock : dataPath (applyClock s c) = dataPath s := by
  simp [applyClock]

@[simp] theorem dataPath_updateClock : dataPath (updateClock s c) = dataPath s := by
  simp [updateClock]

/-! Deterministic mode and runs (R65, R71). -/

@[simp] theorem dataPath_doDetWrite : dataPath (doDetWrite s v) = dataPath s := by
  simp [doDetWrite]

@[simp] theorem dataPath_doDetEffect : dataPath (doDetEffect s) = dataPath s := by
  simp [doDetEffect]

@[simp] theorem dataPath_remapSts : dataPath (remapSts s c) = dataPath s := by
  simp [remapSts]

@[simp] theorem dataPath_doDrunOpen : dataPath (doDrunOpen s pt) = dataPath s := by
  simp [doDrunOpen, ↓dataPath_upd]

@[simp] theorem dataPath_doRunFrame0 : dataPath (doRunFrame0 s pt) = dataPath s := by
  simp only [doRunFrame0]
  split <;> simp [↓dataPath_upd]

/-! Control (R444 to R454). -/

@[simp] theorem dataPath_endLease : dataPath (endLease s m) = dataPath s := by
  simp [endLease]

@[simp] theorem dataPath_checkLease : dataPath (checkLease s m) = dataPath s := by
  simp [checkLease]

@[simp] theorem dataPath_selvDown : dataPath (selvDown s m) = dataPath s := by
  simp [selvDown]

@[simp] theorem dataPath_controlChange (cause : Nat) : dataPath (controlChange s cause) = dataPath s := by
  simp [controlChange]

@[simp] theorem dataPath_install (cause code : Nat) : dataPath (install s m cause code) = dataPath s := by
  simp [install, ↓dataPath_upd]

@[simp] theorem dataPath_doHandover : dataPath (doHandover s) = dataPath s := by
  simp only [doHandover]
  split <;> simp

@[simp] theorem dataPath_noHolderCheck : dataPath (noHolderCheck s) = dataPath s := by
  simp [noHolderCheck, ↓dataPath_upd]

@[simp] theorem dataPath_autoReturn : dataPath (autoReturn s) = dataPath s := by
  simp [autoReturn]

@[simp] theorem dataPath_holdOutputs : dataPath (holdOutputs s) = dataPath s := dataPath_upd

@[simp] theorem dataPath_dropHolder : dataPath (dropHolder s m) = dataPath s := by
  simp [dropHolder]

@[simp] theorem dataPath_checkHolder : dataPath (checkHolder s) = dataPath s := by
  simp only [checkHolder]
  split <;> simp

/-! Power (chapter 14). -/

@[simp] theorem dataPath_recordThrottle : dataPath (recordThrottle s) = dataPath s := by
  simp [recordThrottle]

@[simp] theorem dataPath_admission (old : Nat) : dataPath (admission old s) = dataPath s := dataPath_upd

@[simp] theorem dataPath_capFlag (old new : Nat) : dataPath (capFlag old new s) = dataPath s := by
  simp [capFlag]

@[simp] theorem dataPath_pwrResult : dataPath (pwrResult s v) = dataPath s := dataPath_setF

@[simp] theorem dataPath_setPwrState : dataPath (setPwrState s v) = dataPath s := by
  simp [setPwrState]

@[simp] theorem dataPath_chargeEnergy (cores : List Nat) (dramE fab aux input : Nat) :
    dataPath (chargeEnergy cores dramE fab aux input s) = dataPath s := by
  simp [chargeEnergy, chargeQueue, ↓dataPath_upd]

@[simp] theorem dataPath_doPwrIdle : dataPath (doPwrIdle s) = dataPath s := by
  simp [doPwrIdle]

/-! The contacts and the input stage (R489, R507). -/

@[simp] theorem dataPath_tapLoad (ir dr : Nat) : dataPath (tapLoad s ir dr) = dataPath s := by
  simp [tapLoad, ↓dataPath_upd]

@[simp] theorem dataPath_doScan : dataPath (doScan s) = dataPath s := by
  simp [doScan]

@[simp] theorem dataPath_holdReset : dataPath (holdReset s) = dataPath s := by
  simp [holdReset, ↓dataPath_upd]

/-! Each command of `controlsOnly` keeps the data path. -/

theorem dataPath_execTimeSync {f : SelvFrame} {t1 turn : Nat} {sub : Fin 8}
    (e : execTimeSync f t1 sub turn s = .next t) : dataPath t = dataPath s :=
  keeps_of_managed (fun s => by simp [↓dataPath_upd]) e

theorem dataPath_execDelayRsp {f : SelvFrame} {t4 : Nat} (e : execDelayRsp f t4 s = .next t) :
    dataPath t = dataPath s := by
  refine keeps_of_managed (fun s => dataPath_onFrame (fun s => ?_) f) e
  split
  · rfl
  · simp [↓dataPath_upd]

theorem dataPath_execGingFlipFrame (e : execGingFlipFrame s = .next t) : dataPath t = dataPath s :=
  keeps_of_managed (fun s => by simp) e

theorem dataPath_execDetModeTakesEffect (e : execDetModeTakesEffect s = .next t) : dataPath t = dataPath s :=
  keeps_of_alive (fun s => by simp) e

theorem dataPath_execHello {f : SelvFrame} {vmin vmax : Nat} (e : execHello f vmin vmax s = .next t) :
    dataPath t = dataPath s :=
  keeps_of_managed (fun s => by simp) e

theorem dataPath_execRenew {f : SelvFrame} {seq : Nat} (e : execRenew f seq s = .next t) : dataPath t = dataPath s :=
  keeps_of_managed (fun s => by simp) e

theorem dataPath_execClaim {f : SelvFrame} {epoch : Nat} (e : execClaim f epoch s = .next t) :
    dataPath t = dataPath s :=
  keeps_of_managed (fun s => by simp) e

theorem dataPath_execCapLoopUpdate {avg dram fab aux input : Nat} {cores : List Nat}
    (e : execCapLoopUpdate avg cores dram fab aux input s = .next t) : dataPath t = dataPath s :=
  keeps_of_managed (fun s => by simp) e

theorem dataPath_execDroopStretch {core : Core} (e : execDroopStretch core s = .next t) : dataPath t = dataPath s := by
  refine keeps_of_managed (fun s => ?_) e
  split
  · dsimp only
    split <;> simp
  · rfl

theorem dataPath_execDeferEnd {core : Core} (e : execDeferEnd core s = .next t) : dataPath t = dataPath s :=
  keeps_of_managed (fun s => by simp [↓dataPath_ite]) e

theorem dataPath_execResetNLow {ns : Nat} (e : execResetNLow ns s = .next t) : dataPath t = dataPath s :=
  keeps_of_next (by simp) e

/-- Every command of `controlsOnly` keeps the data path. -/
theorem exec_dataPath {i : Instr} (hi : controlsOnly i = true) (e : exec i s = .next t) : dataPath t = dataPath s := by
  cases i
  case timeSync => exact dataPath_execTimeSync e
  case delayRsp => exact dataPath_execDelayRsp e
  case missedExchange => exact keeps_of_managed (fun s => by simp) e
  case holdoverLimit => exact keeps_of_managed (fun s => by simp) e
  case tclkLossOfLock => exact keeps_of_managed (fun s => by simp) e
  case ftLoad => exact keeps_of_alive (fun _ => dataPath_doFtLoad) e
  case loadTakesEffect => exact keeps_of_managed (fun s => by simp [↓dataPath_upd]) e
  case gingFlip => exact keeps_of_alive (fun _ => dataPath_doGingFlip) e
  case gingCopy => exact keeps_of_alive (fun _ => dataPath_doGingCopy) e
  case gingFlipFrame => exact dataPath_execGingFlipFrame e
  case gingEntData => exact keeps_of_alive (fun _ => dataPath_doEntData) e
  case detModeWrite => exact keeps_of_alive (fun _ => dataPath_noteChip fun _ => dataPath_doDetWrite) e
  case detModeTakesEffect => exact dataPath_execDetModeTakesEffect e
  case drunOpen => exact keeps_of_alive (fun _ => dataPath_doDrunOpen) e
  case runFrame0 => exact keeps_of_alive (fun _ => dataPath_doRunFrame0) e
  case hello => exact dataPath_execHello e
  case selvLinkUp => exact keeps_of_managed (fun s => by simp) e
  case selvLinkDown => exact keeps_of_managed (fun _ => dataPath_selvDown) e
  case renew => exact dataPath_execRenew e
  case claim => exact dataPath_execClaim e
  case handover => exact keeps_of_alive (fun _ => dataPath_doHandover) e
  case selvedgeLeaseCheck => exact keeps_of_managed (fun s => by simp) e
  case dualWindowClose => exact keeps_of_managed (fun s => by simp) e
  case faultPop => exact keeps_of_alive (fun _ => dataPath_upd) e
  case clearLost => exact keeps_of_alive (fun _ => dataPath_setB) e
  case capLoopUpdate => exact dataPath_execCapLoopUpdate e
  case fastLimit => exact keeps_of_managed (fun s => by simp) e
  case droopStretch => exact dataPath_execDroopStretch e
  case stretchEnd => exact keeps_of_managed (fun s => by simp [↓dataPath_upd]) e
  case deferEnd => exact dataPath_execDeferEnd e
  case monitorAlarm => exact keeps_of_managed (fun s => by simp) e
  case monitorStepUp => exact keeps_of_managed (fun s => by simp) e
  case fillerWindow => exact keeps_of_alive (fun s => by simp [↓dataPath_upd]) e
  case pwrIdle => exact keeps_of_alive (fun _ => dataPath_doPwrIdle) e
  case enClear => exact keeps_of_alive (fun _ => dataPath_upd) e
  case inputLow => exact keeps_of_managed (fun s => by simp [↓dataPath_upd]) e
  case inputLowClear => exact keeps_of_managed (fun _ => dataPath_upd) e
  case chipFatal => exact keeps_of_managed (fun s => by simp) e
  case attach => exact keeps_of_managed (fun s => by simp) e
  case detach => exact keeps_of_managed (fun s => by simp) e
  case idcode => exact keeps_of_next (by simp) e
  case bypass => exact keeps_of_next (by simp) e
  case scan => exact keeps_of_next dataPath_doScan e
  case vinApplied => exact keeps_of_next (by simp [↓dataPath_upd]) e
  case vinGood => exact keeps_of_next (by simp [↓dataPath_upd]) e
  case resetNLow => exact dataPath_execResetNLow e
  all_goals cases hi

end Sys2Proof.Machine
end

section
/-!
PROOFS. The frame of the commands of the security root and of attestation.
-/

namespace Sys2Proof.Machine

variable {s t : State} {fld : Fld} {v i pt : Nat} {b : Bool} {g : State → State}

/-! The state outside the security state, with every operation of the security root that keeps it. -/

/-- The data path with the security state blanked out too. -/
def outsideSec (s : State) : State := dataPath { s with sec := {} }

theorem onlySecurity_of_outsideSec (h : outsideSec t = outsideSec s) : OnlySecurity s t := by
  have hdata : dataPath t = dataPath { s with sec := t.sec } := by
    cases s; cases t
    simp only [outsideSec, dataPath, State.mk.injEq] at h
    simp only [dataPath, h]
  exact onlyControl_of_dataPath hdata

/-- What keeps the data path keeps the part of it outside the security state. -/
theorem outsideSec_of_dataPath (h : dataPath t = dataPath s) : outsideSec t = outsideSec s := by
  cases s; cases t
  simp only [dataPath, State.mk.injEq] at h
  simp only [outsideSec, dataPath, h]

/-- A record update of what `outsideSec` blanks out. -/
theorem outsideSec_upd {regs freeCtr sec pwr ctl dbg input log boot time ging runs} :
    outsideSec { s with regs := regs, freeCtr := freeCtr, sec := sec, pwr := pwr, ctl := ctl, dbg := dbg,
                        input := input, log := log, boot := boot, time := time, ging := ging, runs := runs } = outsideSec s := (rfl)

@[simp] theorem outsideSec_ite {p : Prop} [Decidable p] :
    outsideSec (if p then s else t) = if p then outsideSec s else outsideSec t := apply_ite ..

@[simp] theorem outsideSec_setF : outsideSec (setF s fld v) = outsideSec s := outsideSec_upd
@[simp] theorem outsideSec_setB : outsideSec (setB s fld b) = outsideSec s := outsideSec_setF
@[simp] theorem outsideSec_wrapF : outsideSec (wrapF s fld v) = outsideSec s := outsideSec_setF
@[simp] theorem outsideSec_bumpConfigGen : outsideSec (bumpConfigGen s pt) = outsideSec s := outsideSec_wrapF
@[simp] theorem outsideSec_bumpAll : outsideSec (bumpAll s) = outsideSec s := outsideSec_of_dataPath dataPath_bumpAll

@[simp] theorem outsideSec_noteChip (hg : ∀ s, outsideSec (g s) = outsideSec s) :
    outsideSec (noteChip g s) = outsideSec s := by
  simp [noteChip, hg]

@[simp] theorem outsideSec_raise (page : Nat) : outsideSec (raise s page i) = outsideSec s :=
  outsideSec_of_dataPath (dataPath_raise page)

@[simp] theorem outsideSec_advanceFt : outsideSec (advanceFt s v) = outsideSec s :=
  outsideSec_of_dataPath dataPath_advanceFt

@[simp] theorem outsideSec_toFrameStart : outsideSec (toFrameStart s) = outsideSec s := outsideSec_advanceFt

/-! Fuses, lifecycle and debug level. -/

@[simp] theorem outsideSec_blow (w bits : Nat) : outsideSec (blow s w bits) = outsideSec s := outsideSec_upd

@[simp] theorem outsideSec_showLifecycle : outsideSec (showLifecycle s) = outsideSec s := by
  simp [showLifecycle]

@[simp] theorem outsideSec_zeroise : outsideSec (zeroise s) = outsideSec s := outsideSec_upd

@[simp] theorem outsideSec_lcStart (r : Nat) : outsideSec (lcStart s r) = outsideSec s := outsideSec_upd

theorem outsideSec_doFwData : outsideSec (doFwData s v) = outsideSec s := by
  simp [doFwData, ↓outsideSec_upd]

theorem outsideSec_doFwVerify : outsideSec (doFwVerify s) = outsideSec s := by
  simp [doFwVerify]

theorem outsideSec_doFwDiscard : outsideSec (doFwDiscard s) = outsideSec s := by
  simp [doFwDiscard]

theorem outsideSec_doSvnCommit : outsideSec (doSvnCommit s) = outsideSec s := by
  simp [doSvnCommit]

theorem outsideSec_doLcRma : outsideSec (doLcRma s) = outsideSec s := by
  simp [doLcRma]

theorem outsideSec_doDebugWrite : outsideSec (doDebugWrite s v) = outsideSec s := by
  simp [doDebugWrite, ↓outsideSec_upd]

theorem outsideSec_doFieldProgram : outsideSec (doFieldProgram s v) = outsideSec s := by
  simp [doFieldProgram]

theorem outsideSec_doTrngFail : outsideSec (doTrngFail s v) = outsideSec s :=
  outsideSec_of_dataPath (by simp [doTrngFail])

/-! Quotes, key release, key slots and images. -/

@[simp] theorem outsideSec_quoteRefused : outsideSec (quoteRefused s v) = outsideSec s := outsideSec_setF

@[simp] theorem outsideSec_quoteStart (bytes : List Nat) : outsideSec (quoteStart s bytes) = outsideSec s := by
  simp [quoteStart, ↓outsideSec_upd]

@[simp] theorem outsideSec_dropRelease : outsideSec (dropRelease s pt) = outsideSec s := outsideSec_upd

@[simp] theorem outsideSec_dropImageKey (k : Nat) : outsideSec (dropImageKey s k) = outsideSec s := outsideSec_upd

@[simp] theorem outsideSec_setSlotResult (k : Nat) : outsideSec (setSlotResult s k v) = outsideSec s := outsideSec_setF

theorem outsideSec_doQuote : outsideSec (doQuote s pt) = outsideSec s := by
  simp [doQuote, draw, ↓outsideSec_upd]

theorem outsideSec_doAkCertificate : outsideSec (doAkCertificate s) = outsideSec s := by
  simp [doAkCertificate]

theorem outsideSec_doDikPublicKey : outsideSec (doDikPublicKey s) = outsideSec s := by
  simp [doDikPublicKey]

theorem outsideSec_readQbuf : outsideSec (readQbuf s) = outsideSec s := by
  simp [readQbuf]

theorem outsideSec_doRelData : outsideSec (doRelData s v) = outsideSec s := by
  simp [doRelData, ↓outsideSec_upd]

theorem outsideSec_doKeyRelease : outsideSec (doKeyRelease s) = outsideSec s := by
  simp [doKeyRelease, ↓outsideSec_upd]

theorem outsideSec_doSlotClear : outsideSec (doSlotClear s) = outsideSec s := by
  simp [doSlotClear]

theorem outsideSec_doImgUnbind : outsideSec (doImgUnbind s) = outsideSec s := by
  simp [doImgUnbind]

/-! Each command of `securesOnly` keeps the state outside the security state. -/

theorem outsideSec_execFwStaged (e : execFwStaged s = .next t) : outsideSec t = outsideSec s :=
  keeps_of_managed (fun s => by simp [↓outsideSec_upd]) e

theorem outsideSec_execLcDone (e : execLcDone s = .next t) : outsideSec t = outsideSec s := by
  refine keeps_of_managed (fun s => ?_) e
  split
  · rfl
  · simp [↓outsideSec_upd]

theorem outsideSec_execDebugLevelTakesEffect (e : execDebugLevelTakesEffect s = .next t) :
    outsideSec t = outsideSec s := by
  refine keeps_of_managed (fun s => ?_) e
  split
  · rfl
  · simp [↓outsideSec_upd]

theorem outsideSec_execQuoteDone (e : execQuoteDone s = .next t) : outsideSec t = outsideSec s :=
  keeps_of_managed (fun s => by simp [↓outsideSec_upd]) e

theorem outsideSec_execReleasePairExpiry {pt : Ptn} (e : execReleasePairExpiry pt s = .next t) :
    outsideSec t = outsideSec s := by
  refine keeps_of_managed (fun s => ?_) e
  split
  · simp
  · rfl

theorem outsideSec_execRelDone (e : execRelDone s = .next t) : outsideSec t = outsideSec s :=
  keeps_of_managed (fun s => by simp [↓outsideSec_upd]) e

theorem outsideSec_execImgDone {slot : Fin 16} (e : execImgDone slot s = .next t) : outsideSec t = outsideSec s := by
  refine keeps_of_alive (fun s => ?_) e
  split
  · rfl
  · simp [↓outsideSec_upd]

/-- Every command of `securesOnly` keeps the state outside the security state. -/
theorem exec_outsideSec {i : Instr} (hi : securesOnly i = true) (e : exec i s = .next t) :
    outsideSec t = outsideSec s := by
  cases i
  case trngFail => exact keeps_of_managed (fun _ => outsideSec_doTrngFail) e
  case fwData => exact keeps_of_alive (fun _ => outsideSec_doFwData) e
  case fwVerify => exact keeps_of_alive (fun _ => outsideSec_doFwVerify) e
  case fwStaged => exact outsideSec_execFwStaged e
  case fwDiscard => exact keeps_of_alive (fun _ => outsideSec_doFwDiscard) e
  case svnCommit => exact keeps_of_alive (fun _ => outsideSec_doSvnCommit) e
  case lcRma => exact keeps_of_alive (fun _ => outsideSec_doLcRma) e
  case lcDone => exact outsideSec_execLcDone e
  case debugLevelWrite => exact keeps_of_alive (fun _ => outsideSec_doDebugWrite) e
  case debugLevelTakesEffect => exact outsideSec_execDebugLevelTakesEffect e
  case quote => exact keeps_of_alive (fun _ => outsideSec_doQuote) e
  case akCertificate => exact keeps_of_alive (fun _ => outsideSec_doAkCertificate) e
  case dikPublicKey => exact keeps_of_alive (fun _ => outsideSec_doDikPublicKey) e
  case quoteDone => exact outsideSec_execQuoteDone e
  case qbufData => exact keeps_of_managed (fun _ => outsideSec_readQbuf) e
  case releasePairExpiry => exact outsideSec_execReleasePairExpiry e
  case relData => exact keeps_of_alive (fun _ => outsideSec_doRelData) e
  case keyRelease => exact keeps_of_alive (fun _ => outsideSec_doKeyRelease) e
  case relDone => exact outsideSec_execRelDone e
  case kslotClear => exact keeps_of_alive (fun _ => outsideSec_doSlotClear) e
  case imgDone => exact outsideSec_execImgDone e
  case imgUnbind => exact keeps_of_alive (fun _ => outsideSec_doImgUnbind) e
  case fieldProgram => exact keeps_of_alive (fun _ => outsideSec_doFieldProgram) e
  all_goals cases hi

/-- Settles O49: the commands of either list keep the state with what they may change blanked out. -/
theorem framesOfControlCommands : Obligations.FramesOfControlCommands := by
  unfold Obligations.FramesOfControlCommands
  constructor
  · exact fun s i t hi e => onlyControl_of_dataPath (exec_dataPath hi e)
  · exact fun s i t hi e => onlySecurity_of_outsideSec (exec_outsideSec hi e)

end Sys2Proof.Machine
end

section
/-!
PROOFS. The time unit: what each command of R46 to R51 does under the guards of its clause.
-/

namespace Sys2Proof.Machine

variable {s u : State} {g : State → State} {f : SelvFrame} {t1 t2 t3 t4 turn : Nat} {sub : Fin 8}

/-- A message in a valid frame is taken in the state in which its sender is noted (R498). -/
theorem onFrame_of_ok (hf : frameOk f = true) : onFrame f g s = g (noteSender s f) := if_pos hf

/-- The sender of a frame does not decide where time is taken from. -/
theorem timeSource_noteSender (m : Nat) : timeSource (noteSender s f) m = timeSource s m := rfl

/-- From Selvedge 1.2 on a TIME_SYNC of the time source is stamped in half nanoseconds (R46, R47, R446). -/
theorem exec_timeSync_of_source (hm : managed s = true) (hf : frameOk f = true) (hsrc : timeSource s f.port = true)
    (hu : openExchange (noteSender s f) = u) (hver : 3 ≤ getF u (SELV.LINK_STS_VER f.port)) :
    exec (.timeSync f t1 sub turn) s = .next (sendSelv { u with time :=
      { u.time with exch := some (f.port.val, t1, 2 * u.time.ft + sub.val, 2 * u.time.ft + sub.val + turn) } }
      f.port .delayReq) := by
  subst hu
  refine exec_of_managed rfl hm ((onFrame_of_ok hf).trans ?_)
  simp only [timeSource_noteSender, hsrc, hver, if_true, decide_true]

/-- DELAY_RSP of the source that the exchange waits for gives offset and path (R47, R48). -/
theorem exec_delayRsp_of_source (hm : managed s = true) (hf : frameOk f = true) (hu : noteSender s f = u)
    (hsrc : timeSource s f.port = true) (hx : s.time.exch = some (f.port.val, t1, t2, t3)) :
    exec (.delayRsp f t4) s = .next (applyOffset
      (setF (setF { u with time := { u.time with exch := none, heard := u.time.ft } }
        FT.OFFSET_OFFSET (twos32 ((((t2 : Int) - t1) - (t4 - t3)).tdiv 4)))
        FT.PATH_PATH (twos32 ((((t2 : Int) - t1) + (t4 - t3)).tdiv 4)))
      (((t2 : Int) - t1) - (t4 - t3))) := by
  subst hu
  refine exec_of_managed rfl hm ((onFrame_of_ok hf).trans ?_)
  have hx' : (noteSender s f).time.exch = some (f.port.val, t1, t2, t3) := hx
  simp only [hx', timeSource_noteSender, hsrc, and_self, if_true]

/-- Outside HOLDOVER HOLD_ELAPSED is the value kept (R51). -/
theorem holdElapsed_of_locked (h : ftState s = 2) : holdElapsed s = getF s FT.HOLD_ELAPSED_FRAMES := by
  simp [holdElapsed, h]

/-- From LOCKED into HOLDOVER: only the slew of a refused exchange goes on (R50). -/
theorem enterHoldover_of_locked (h : ftState s = 2) :
    enterHoldover s = raise (let s1 := setF s FT.FT_STS_STATE 3
      { s1 with time := { s1.time with
        slew := if s.time.refused then s.time.slew else 0,
        slewAt := if s.time.refused then s.time.slewAt else s.time.elapsed,
        holdAt := (s.time.elapsed : Int) - 4096 * getF s FT.HOLD_ELAPSED_FRAMES } }) 0x0010 1 := by
  simp only [enterHoldover, holdElapsed_of_locked h]
  cases s.time.refused <;> rfl

theorem doFtLoad_of_valid (hst : ftState s = 0 ∨ ftState s = 4) (h0 : getF s FT.LOAD % 4096 = 0)
    (hlt : s.time.ft < getF s FT.LOAD) :
    doFtLoad s = (let s1 := setB s FT.FT_STS_LOAD_PENDING true
      { s1 with time := { s1.time with loadVal := getF s FT.LOAD, loadAt := (s.time.ft / 4096 + 1) * 4096 } }) := by
  have hload : loadable s = true := by simpa [loadable] using hst
  exact if_pos ⟨hload, h0, hlt⟩

/-- In UNSET the load becomes the time at its boundary, and UNSET becomes ACQUIRE (R51). -/
theorem exec_loadTakesEffect_of_unset (hm : managed s = true) (hp : flag s FT.FT_STS_LOAD_PENDING = true)
    (hst : ftState s = 0) (hu : setB (advanceFt s s.time.loadAt) FT.FT_STS_LOAD_PENDING false = u) :
    exec .loadTakesEffect s = .next (setF { u with time :=
      { u.time with ft := u.time.loadVal + (u.time.ft - u.time.loadAt), within := 0 } } FT.FT_STS_STATE 1) := by
  subst hu
  have hload : loadable s = true := by simp [loadable, hst]
  refine exec_of_managed rfl hm ?_
  simp only [hp, hload, hst, if_true]

/-- In LOCKED no load takes effect (R49, R53). -/
theorem exec_loadTakesEffect_of_locked (hm : managed s = true) (hp : flag s FT.FT_STS_LOAD_PENDING = true)
    (hst : ftState s = 2) :
    exec .loadTakesEffect s = .next (setB (advanceFt s s.time.loadAt) FT.FT_STS_LOAD_PENDING false) := by
  have hload : loadable s = false := by simp [loadable, hst]
  refine exec_of_managed rfl hm ?_
  simp only [hp, hload, if_true, Bool.false_eq_true, if_false]

/-- Settles O1: each clause is the command's own rule under its guard. -/
theorem timeUnitCommands : Obligations.TimeUnitCommands := by
  unfold Obligations.TimeUnitCommands
  refine ⟨?timeSync, ?delayRsp, ?missed, ?tclkLoss, ?holdLimit, ?load, ?loadTaken, ?loadDropped⟩
  case timeSync => exact fun s f t1 sub turn u hm hf hsrc hu hver => exec_timeSync_of_source hm hf hsrc hu hver
  case delayRsp => exact fun s f t1 t2 t3 t4 u hm hf hu hsrc hx => exec_delayRsp_of_source hm hf hu hsrc hx
  case missed =>
    rintro s _ hm hst rfl hu
    exact exec_of_managed rfl hm ((if_pos hst).trans (enterHoldover_of_locked hu))
  case tclkLoss =>
    rintro s _ hm hst rfl hu
    exact exec_of_managed rfl hm ((if_pos hst).trans (enterHoldover_of_locked hu))
  case holdLimit => exact fun s hm hst => exec_of_managed rfl hm (if_pos hst)
  case load => exact fun s ha hst h0 hlt => exec_of_alive rfl ha (doFtLoad_of_valid hst h0 hlt)
  case loadTaken => exact fun s u hm hp hst hu => exec_loadTakesEffect_of_unset hm hp hst hu
  case loadDropped => exact fun s hm hp hst => exec_loadTakesEffect_of_locked hm hp hst

end Sys2Proof.Machine
end

section
/-!
PROOFS. The gingham table: what each command of R56 to R60 does under the guards of its clause.
-/

namespace Sys2Proof.Machine

variable {s : State} {v : Nat}

/-- A flip whose check passes is armed (R58, R59). -/
theorem doGingFlip_of_passed (h : checkBank s (1 - gingActive s) = (0, 0, 0)) :
    doGingFlip s = (
      let s1 := setF (setF (setF s GING.GING_STS_RESULT 0) GING.GING_STS_FAIL_SLOT 0) GING.GING_STS_FAIL_COL 0
      let s2 := setB s1 GING.GING_STS_FLIP_PENDING true
      { s2 with ging := { s2.ging with flipAt := getF s GING.FLIP_FRAME } }) := by
  simp only [doGingFlip, h, if_true]

theorem doGingCopy_of_idle (h : flipPending s = false) :
    doGingCopy s = { s with ging := { s.ging with bank := copyBank s.ging.bank (gingActive s) } } := by
  simp only [doGingCopy, h, Bool.false_eq_true, if_false]

/-- A write of ENT_DATA at an aligned index with AUTOINC (R56). -/
theorem doEntData_of_autoinc (hp : flipPending s = false) (hinc : flag s GING.ENT_ADDR_AUTOINC = true)
    (halign : getF s GING.ENT_ADDR_INDEX % 4 = 0) :
    doEntData s v = setF (forAll ((upTo 4).map fun k => (getF s GING.ENT_ADDR_INDEX + k, v / 256 ^ k % 256))
      (setGing (1 - gingActive s)) s) GING.ENT_ADDR_INDEX (getF s GING.ENT_ADDR_INDEX + 4) := by
  have hidx : getF s GING.ENT_ADDR_INDEX / 4 * 4 = getF s GING.ENT_ADDR_INDEX :=
    Nat.div_mul_cancel (Nat.dvd_of_mod_eq_zero halign)
  simp only [doEntData, hp, hinc, hidx, Bool.false_eq_true, if_false, if_true]

/-- The frame of a pending flip: the digest first, then the banks change (R59, R60). -/
theorem exec_gingFlipFrame_of_pending (hm : managed s = true) (hp : flipPending s = true) :
    exec .gingFlipFrame s = .next (forAll (upTo 16) (fun s pt => bumpConfigGen (recordDx 7 s pt) pt)
      (raise (setF (setB (advanceFt (flipDigest s) (s.ging.flipAt * 4096)) GING.GING_STS_FLIP_PENDING false)
        GING.GING_STS_ACTIVE (1 - gingActive s)) 0x0011 1)) :=
  exec_of_managed rfl hm (if_pos hp)

/-- Settles O2: each clause is the command's own rule under its guard. -/
theorem ginghamCommands : Obligations.GinghamCommands := by
  unfold Obligations.GinghamCommands
  refine ⟨?flip, ?copy, ?flipFrame, ?entData⟩
  case flip => exact fun s ha h => exec_of_alive rfl ha (doGingFlip_of_passed h)
  case copy => exact fun s ha h => exec_of_alive rfl ha (doGingCopy_of_idle h)
  case flipFrame =>
    intro s hm hp
    simpa only [flipDigest, gingDigest] using exec_gingFlipFrame_of_pending hm hp
  case entData => exact fun s v ha hp hinc halign => exec_of_alive rfl ha (doEntData_of_autoinc hp hinc halign)

end Sys2Proof.Machine
end

section
/-!
PROOFS. Deterministic mode, runs and heartbeats: what each command of R63, R65, R71 and R73 does under the guards of its
clause.
-/

namespace Sys2Proof.Machine

variable {s : State} {g h : State → State} {v pt f c : Nat}

/-- `noteChip` sees of a change only what it makes of the present state. -/
theorem noteChip_congr (hgh : g s = h s) : noteChip g s = noteChip h s := by
  simp only [noteChip, hgh]

/-! DET_MODE (R65). -/

theorem doDetWrite_of_idle (hlock : flag s TOP.DET_MODE_LOCK = false) (hidle : machineIdle s = true)
    (hrun : anyRun s = false) :
    doDetWrite s v = setB (setB (setB s TOP.DET_MODE_REFUSED false) TOP.DET_MODE_EN (v.testBit 0)) TOP.DET_MODE_LOCK
      (v.testBit 1) := by
  simp [doDetWrite, hlock, hidle, hrun]

theorem doDetEffect_of_change (hne : flag s TOP.DET_MODE_EN ≠ flag s TOP.DET_MODE_ACTIVE) :
    doDetEffect s = bumpAll (setB (toFrameStart s) TOP.DET_MODE_ACTIVE (flag s TOP.DET_MODE_EN)) := by
  simp [doDetEffect, hne]

/-! Runs (R71). -/

theorem doDrunOpen_of_ready (hdet : detOn s = true) (hal : flag s FT.FT_STS_ALIGNED = true)
    (hrun : runOpen s pt = false) (hcores : coresOf s pt ≠ []) (hstart : s.time.ft / 4096 + 2 ≤ getF s PART.DRUN_START) :
    doDrunOpen s pt = (
      let s0 : State := { s with runs := Store.set none s.runs pt (some ⟨getF s PART.DRUN_START, 0⟩) }
      let s1 := setBitF s0 PART.DRUN_OPEN_OPEN pt true
      let s2 := bumpConfigGen (setF (setF s1 (PART.DX_CAUSE_CAUSE pt) 0) (PART.DX_COUNT_COUNT pt) 0) pt
      forAll (coresOf s2 pt) remapSts s2) := by
  simp only [doDrunOpen, hdet, hal, hrun, hstart, List.isEmpty_eq_false_iff.mpr hcores, Bool.not_false, Bool.and_self,
    decide_true, Bool.not_true, Bool.false_eq_true, if_false]

theorem doColdStart_of_opened (hr : Store.get none s.runs pt = some { frame := f, phase := 0 }) :
    doColdStart s pt = (let s1 := advanceFt s (f * 4096)
      let s2 := flushDc { s1 with runs := Store.set none s1.runs pt (some { frame := f, phase := 1 }) } (coresOf s1 pt)
      invalidatePt (forAll (coresOf s1 pt) clearStaging s2) pt) := by
  simp [doColdStart, hr]

theorem doRunFrame0_of_started (hr : Store.get none s.runs pt = some { frame := f, phase := 1 }) :
    doRunFrame0 s pt = (let s1 := advanceFt s ((f + 16) * 4096)
      { s1 with runs := Store.set none s1.runs pt (some { frame := f, phase := 2 }) }) := by
  simp [doRunFrame0, hr]

theorem doDxUnaligned_of_unaligned (hal : flag (atPeriodic s 5 4096 0) FT.FT_STS_ALIGNED = false) :
    doDxUnaligned s = forAll (upTo 16) (recordDx 0) (atPeriodic s 5 4096 0) := by
  simp [doDxUnaligned, hal]

/-! Heartbeats (R19, R63). -/

theorem doHeartbeat_nil : doHeartbeat s [] = beatStart s := ite_self _

/-- Outside HIBERNATE the one core that misses a heartbeat is noted (R438). -/
theorem doHeartbeat_singleton (hst : getF (beatStart s) PWR.PWR_STS_STATE ≠ 3) :
    doHeartbeat s [c] = missBeat (beatStart s) c := if_neg hst

/-- A core that did not miss the heartbeat of the frame before is kept. -/
theorem missBeat_of_first (hne : Store.get 0 s.time.missed c ≠ s.time.ft / 4096) :
    missBeat s c = { s with time := { s.time with missed := Store.set 0 s.time.missed c (s.time.ft / 4096 + 1) } } := by
  simp [missBeat, hne]

/-- A core that missed the heartbeat of the frame before too is lost. -/
theorem missBeat_of_second (hup : coreUp s c = true) (hpos : 0 < s.time.ft / 4096)
    (heq : Store.get 0 s.time.missed c = s.time.ft / 4096) :
    missBeat s c = declareLost
      { s with time := { s.time with missed := Store.set 0 s.time.missed c (s.time.ft / 4096 + 1) } } c 3 := by
  simp only [missBeat, hup, hpos, heq, decide_true, beq_self_eq_true, Bool.and_self, if_true]

/-- Settles O3: each clause is the command's own rule under the guard that the module is alive. -/
theorem deterministicCommands : Obligations.DeterministicCommands := by
  unfold Obligations.DeterministicCommands
  refine ⟨?detWrite, ?detEffect, ?runOpen, ?coldStart, ?frame0, ?runClose, ?unaligned, ?noneMissing, ?firstMiss,
    ?secondMiss⟩
  case detWrite =>
    exact fun s v ha hlock hidle hrun => exec_of_alive rfl ha (noteChip_congr (doDetWrite_of_idle hlock hidle hrun))
  case detEffect =>
    intro s ha hne
    refine exec_of_alive rfl ha ?_
    rw [doDetEffect_of_change hne]
  case runOpen =>
    exact fun s pt ha hdet hal hrun hcores hstart =>
      exec_of_alive rfl ha (doDrunOpen_of_ready hdet hal hrun hcores hstart)
  case coldStart => exact fun s pt f ha hr => exec_of_alive rfl ha (doColdStart_of_opened hr)
  case frame0 => exact fun s pt f ha hr => exec_of_alive rfl ha (doRunFrame0_of_started hr)
  case runClose => exact fun s pt ha hopen => exec_of_alive rfl ha (if_pos hopen)
  case unaligned => exact fun s ha hal => exec_of_alive rfl ha (doDxUnaligned_of_unaligned hal)
  case noneMissing => exact fun s ha => exec_of_alive rfl ha doHeartbeat_nil
  case firstMiss =>
    rintro s core _ ha rfl hst hne
    exact exec_of_alive rfl ha ((doHeartbeat_singleton hst).trans (missBeat_of_first hne))
  case secondMiss =>
    rintro s core _ ha rfl hst hup hpos heq
    exact exec_of_alive rfl ha ((doHeartbeat_singleton hst).trans (missBeat_of_second hup hpos heq))

end Sys2Proof.Machine
end

section
/-!
PROOFS. Packets at the ports: arrival, processing in slots, returns, ports out of service and launches (R355 to R374).
-/

namespace Sys2Proof.Machine

section
variable {α : Type} [DecidableEq α] {d e e' : α} {m : Store α} {a b j k : Nat} {v w : α}

/-- A write above the first key goes into the rest of the list. -/
theorem Store.set_cons_of_lt (hjk : j < k) : Store.set d ((j, v) :: m) k w = (j, v) :: Store.set d m k w := by
  have hne : ¬ k = j := by omega
  have hle : ¬ k < j := by omega
  simp only [Store.set, Store.del, Store.ins, if_neg hne, if_neg hle]
  split <;> rfl

/-- A listed key `b` shields the keys below it, in any list: a read of such a key stops at `b`, and a write above `b`
lands behind it. -/
theorem Store.get_set_below_listed (hab : a < b) (hbk : b < k) (hb : Store.get e m b ≠ e) :
    Store.get d (Store.set e' m k w) a = Store.get d m a := by
  induction m with
  | nil => exact absurd rfl hb
  | cons first m ih =>
    obtain ⟨j, v⟩ := first
    rcases Nat.lt_trichotomy b j with hbj | rfl | hjb
    · exact absurd (by simp [Store.get, hbj, hbj.ne]) hb
    · simp [Store.set_cons_of_lt hbk, Store.get, hab, hab.ne]
    · have hrest : Store.get e m b ≠ e := by simpa [Store.get, hjb.ne', hjb.not_gt] using hb
      simp only [Store.set_cons_of_lt (hjb.trans hbk), Store.get, ih hrest]

end

variable {s t : State} {f g lit : Fld} {v port d status k c : Nat} {p : Packet} {replayed : Bool} {x : Sending}
  {l : List Sending}

/-- A field that does not read as its reset value keeps the fields below it apart from writes above it. -/
theorem getF_setF_below_lit (hg : g.key < lit.key) (hf : lit.key < f.key) (hlit : getF s lit ≠ lit.reset) :
    getF (setF s f v) g = getF s g :=
  Store.get_set_below_listed hg hf hlit

/-! PACKET_ARRIVAL (R355, R68). -/

/-- The counter of received packets lies above the state of its port's link, and that above DET_MODE: on a port that is
up the count leaves the mode as it is. -/
theorem detOn_countRx (hup : portUp s port = true) : detOn (wrapF s (PORT.PKT_RX port) 1) = detOn s := by
  have hkeep : getF (wrapF s (PORT.PKT_RX port) 1) TOP.DET_MODE_ACTIVE = getF s TOP.DET_MODE_ACTIVE := by
    simp only [portUp, flag, Bool.or_eq_true, beq_iff_eq, bne_iff_ne] at hup
    rcases hup with hstate | hretrain
    · refine getF_setF_below_lit (lit := PORT.LINK_STS_STATE port) ?_ ?_ (by rw [hstate]; exact Nat.succ_ne_zero 6)
      · simp only [Fld.key, TOP.DET_MODE_ACTIVE, PORT.LINK_STS_STATE]; omega
      · simp only [Fld.key, PORT.PKT_RX, PORT.LINK_STS_STATE]; omega
    · refine getF_setF_below_lit (lit := PORT.LINK_STS_RETRAINING port) ?_ ?_ hretrain
      · simp only [Fld.key, TOP.DET_MODE_ACTIVE, PORT.LINK_STS_RETRAINING]; omega
      · simp only [Fld.key, PORT.PKT_RX, PORT.LINK_STS_RETRAINING]; omega
  simp only [detOn, flag, hkeep]

theorem detOn_countGot : detOn (countGot s port p) = detOn s := rfl

/-- With the mode off a packet is processed when it arrives. -/
theorem arrive_of_detOff (hdet : detOn s = false) : arrive s port p replayed = process s port p := by
  simp [arrive, hdet]

/-- A packet without ECE that the link has not kept is counted and arrives. -/
theorem doArrival_of_detOff (hup : portUp s port = true) (hdet : detOn s = false) (hece : p.ece = false)
    (hinbox : (getLink s port).inbox.head? ≠ some p) :
    doArrival s port p replayed = process (countGot (wrapF s (PORT.PKT_RX port) 1) port p) port p := by
  have hoff : detOn (countGot (wrapF s (PORT.PKT_RX port) 1) port p) = false := by
    rw [detOn_countGot, detOn_countRx hup, hdet]
  simp only [doArrival, hup, hece, hinbox, if_true, if_false, Bool.false_eq_true]
  exact arrive_of_detOff hoff

/-! PROCESSING_SLOT (R68), ROUTE_RETURN (R357) and PORT_OUT_OF_SERVICE (R358). -/

theorem doProcessingSlot_of_due
    (hd : leastBy id ((s.net.arrived.filter fun x => x.1 == port).filterMap (dueSlot s)) = some d) :
    doProcessingSlot s port = (let due := fun (x : Nat × Packet × Nat × Nat) => x.1 == port && dueSlot s x == some d
      let s1 := advanceFt { s with net := { s.net with arrived := s.net.arrived.filter fun x => !due x } } (d * 64)
      forAll (s.net.arrived.filter due) (fun s x =>
        process (if x.2.2.1 = 0 then lateCount s port x.2.1 else s) port x.2.1) s1) := by
  simp only [doProcessingSlot, hd]

/-- A packet that was sent once more is discarded. -/
theorem exec_routeReturn_of_resent (ha : alive s = true) (hagain : s.net.resent.contains p = true) :
    exec (.routeReturn status p) s = .next { s with net := { s.net with resent := s.net.resent.filter (· != p) } } :=
  exec_of_alive rfl ha (if_pos hagain)

theorem doPortOut_of_down (hdown : portUp s port = false) :
    doPortOut s port = forAll (queueKinds.flatMap (queueOf s port)) movePacket
      (forAll queueKinds (fun s k => setQueue s port k []) s) := by
  simp only [doPortOut, hdown, Bool.false_eq_true, if_false]

/-! EGRESS_LAUNCH with the mode off (R61, R371). -/

/-- With no MGMT packet ready, outside a MGMT slot, the flow that the scheduler picks launches. -/
theorem launchOff_of_flow {flow : Nat} (hmgmt : headOf s port 0 = none)
    (hslot : isKind (slotEntry s (slotOf s) port) 2 = false) (hpick : schedule s port = some (flow, t))
    (hhead : flowHead s port flow = some (k, c)) (hq : queueOf s port k = x :: l) :
    launchOff s port = clearEmpty (launch (spendShape t port flow c) port x) port flow := by
  simp only [launchOff, hmgmt, hslot, hpick, hhead, hq, Bool.false_eq_true, if_false]

/-- A MGMT packet that is ready launches first. -/
theorem launchOff_of_mgmt {head : Nat × Nat} (hmgmt : headOf s port 0 = some head) (hq : queueOf s port 0 = x :: l) :
    launchOff s port = launch s port x := by
  simp only [launchOff, hmgmt, hq]

/-- What waits before it has gone: a port with room launches. -/
theorem exec_egressLaunch_of_room {port : Port} (ha : alive s = true) (hroom : mayStart (flushLink s port) port = true)
    (hdet : detOn (flushLink s port) = false) :
    exec (.egressLaunch port) s = .next (launchOff (flushLink s port) port) := by
  refine exec_of_alive rfl ha ?_
  simp only [hroom, hdet, if_true, Bool.false_eq_true, if_false]

/-- Settles O26: each clause is the command's own rule under its guard. -/
theorem packetsAtPorts : Obligations.PacketsAtPorts := by
  unfold Obligations.PacketsAtPorts
  refine ⟨?arrival, ?slot, ?stale, ?resent, ?portOut, ?flow, ?mgmt⟩
  case arrival =>
    exact fun s port p replayed ha hup hdet hece hinbox =>
      exec_of_alive rfl ha (doArrival_of_detOff hup hdet hece hinbox)
  case slot => exact fun s port d ha hd => exec_of_alive rfl ha (doProcessingSlot_of_due hd)
  case stale =>
    intro s p ha hnew hsrc
    have hfresh : ¬ s.net.resent.contains p = true := by rw [hnew]; exact Bool.false_ne_true
    refine exec_of_alive rfl ha ((if_neg hfresh).trans ((if_pos ⟨rfl, hsrc⟩).trans ?_))
    cases partnerAt s p.dst <;> rfl
  case resent => exact fun s status p ha hagain => exec_routeReturn_of_resent ha hagain
  case portOut => exact fun s port ha hdown => exec_of_alive rfl ha (doPortOut_of_down hdown)
  case flow =>
    rintro s port _ t f k c x l ha rfl hroom hdet hmgmt hslot hpick hhead hq
    exact (exec_egressLaunch_of_room ha hroom hdet).trans (congrArg _ (launchOff_of_flow hmgmt hslot hpick hhead hq))
  case mgmt =>
    rintro s port _ head x l ha rfl hroom hdet hmgmt hq
    exact (exec_egressLaunch_of_room ha hroom hdet).trans (congrArg _ (launchOff_of_mgmt hmgmt hq))

end Sys2Proof.Machine
end

section
/-!
PROOFS. Where an address lies (R79 to R82, R85, R284): what `placeOf` says of a place in DRAM and of one in tier space.
-/

namespace Sys2Proof.Machine

variable {s : State} {pt ppa a b c d off p q : Nat}

/-- Address `a` of a partition's interleaved view names byte `off` of core `c` (R81): the view's 64 KiB granules go to
its cores in turn. -/
structure ViewPlace (s : State) (pt a c off : Nat) : Prop where
  granule_lt : a / 65536 < (viewCores s pt).length * 983040
  core_eq : c = serving s ((viewCores s pt).getD (a / 65536 % (viewCores s pt).length) 0)
  off_eq : off = a / 65536 / (viewCores s pt).length * 65536 + a % 65536

/-- PPA `ppa` of the direct view names byte `off` of core `c` (R80, R85). -/
structure DirectPlace (s : State) (pt ppa c off : Nat) : Prop where
  core_nameable : nameable s pt (bitsOf ppa 36 4) = true
  off_mappable : ppa % 2 ^ 36 < mappable
  core_eq : c = serving s (bitsOf ppa 36 4)
  off_eq : off = ppa % 2 ^ 36

/-- A place in DRAM comes from the interleaved view or from the direct one, by bit 46 of its PPA. -/
theorem placeOf_dram (h : placeOf s pt ppa = some (.dram c off)) :
    if ppa.testBit 46 then ViewPlace s pt (ppa % 2 ^ 40) c off else DirectPlace s pt ppa c off := by
  simp only [placeOf] at h
  split at h
  · split at h <;> simp at h
  · split at h
    · cases h
    · split at h
      next h46 =>
        rw [if_pos h46]
        split at h
        next hlt => cases h; exact ⟨hlt, rfl, rfl⟩
        next => cases h
      next h46 =>
        rw [if_neg h46]
        split at h
        next hok =>
          cases h
          obtain ⟨hname, hmap⟩ := Bool.and_eq_true_iff.mp hok
          exact ⟨hname, of_decide_eq_true hmap, rfl, rfl⟩
        next => cases h

/-- A place in tier space lies in a GiB of the partition's tier range. -/
theorem placeOf_tier (h : placeOf s pt ppa = some (.tier a)) : tierGiBOk s pt (a / 2 ^ 30) = true := by
  simp only [placeOf] at h
  split at h
  · split at h
    next hok => cases h; exact hok
    next => cases h
  · split at h
    · cases h
    · split at h <;> split at h <;> cases h

/-! The interleaved view. -/

theorem ownerOf_of_mem_coresOf (h : c ∈ coresOf s pt) : ownerOf s c = some pt := by
  simp only [coresOf, List.mem_filter, beq_iff_eq] at h
  exact h.2

theorem ownerOf_of_mem_viewCores (h : c ∈ viewCores s pt) : ownerOf s c = some pt :=
  ownerOf_of_mem_coresOf (List.mem_of_mem_filter h)

theorem viewCores_nodup : (viewCores s pt).Nodup := (List.nodup_range.filter _).filter _

theorem ViewPlace.position_lt (h : ViewPlace s pt a c off) :
    a / 65536 % (viewCores s pt).length < (viewCores s pt).length := by
  refine Nat.mod_lt _ (Nat.pos_of_ne_zero fun h0 => ?_)
  have hlt := h.granule_lt
  rw [h0, Nat.zero_mul] at hlt
  exact Nat.not_lt_zero _ hlt

theorem ViewPlace.core_eq_getElem (h : ViewPlace s pt a c off) :
    c = serving s ((viewCores s pt)[a / 65536 % (viewCores s pt).length]'h.position_lt) := by
  exact h.core_eq.trans (congrArg _ (List.getD_eq_getElem _ _ h.position_lt))

theorem ViewPlace.off_lt (h : ViewPlace s pt a c off) : off < mappable := by
  have hrow : a / 65536 / (viewCores s pt).length < 983040 := Nat.div_lt_of_lt_mul h.granule_lt
  have hoff := h.off_eq
  unfold mappable
  omega

theorem ViewPlace.served (h : ViewPlace s pt a c off) : ∃ d, ownerOf s d = some pt ∧ c = serving s d :=
  ⟨_, ownerOf_of_mem_viewCores (List.getElem_mem h.position_lt), h.core_eq_getElem⟩

theorem serving_of_home_nil (h : s.parts.home = []) : serving s c = c := by
  simp [serving, h, Store.get]

/-- Without a fail-over the core gives the position in the view and the offset the row and the byte of the granule, and
these give the address. -/
theorem ViewPlace.addr_eq (hhome : s.parts.home = []) (ha : ViewPlace s pt a c off) (hb : ViewPlace s pt b c off) :
    a = b := by
  have hcore := ha.core_eq_getElem.symm.trans hb.core_eq_getElem
  rw [serving_of_home_nil hhome, serving_of_home_nil hhome] at hcore
  have hpos := viewCores_nodup.getElem_inj_iff.mp hcore
  have hoff := ha.off_eq.symm.trans hb.off_eq
  have hrow : a / 65536 / (viewCores s pt).length = b / 65536 / (viewCores s pt).length := by omega
  have hgranule : a / 65536 = b / 65536 := by
    rw [← Nat.div_add_mod (a / 65536) (viewCores s pt).length, hrow, hpos, Nat.div_add_mod]
  omega

/-- A PPA of the interleaved view has bit 46 set, and its low 40 bits are the address. -/
theorem placeOf_view (hp : p < 2 ^ 40) (h : placeOf s pt (2 ^ 46 + p) = some (.dram c off)) : ViewPlace s pt p c off := by
  have h46 : (2 ^ 46 + p).testBit 46 = true := by
    rw [Nat.testBit_two_pow_add_eq, Nat.testBit_lt_two_pow (hp.trans (by decide))]; rfl
  have haddr : (2 ^ 46 + p) % 2 ^ 40 = p := by omega
  have hplace := placeOf_dram h
  rwa [if_pos h46, haddr] at hplace

/-! The direct view and tier space. -/

theorem DirectPlace.served (h : DirectPlace s pt ppa c off) : ∃ d, ownerOf s d = some pt ∧ c = serving s d := by
  have hname := h.core_nameable
  simp only [nameable, Bool.and_eq_true, beq_iff_eq] at hname
  exact ⟨_, hname.1, h.core_eq⟩

theorem DirectPlace.off_lt (h : DirectPlace s pt ppa c off) : off < mappable := h.off_eq ▸ h.off_mappable

/-- A window that is not empty for a partition is a drive assigned to it. -/
theorem assigned_of_windowGiB_pos {w g : Nat} (h : g < windowGiB s pt w) :
    flag s (TIER.DRIVE_EN w) = true ∧ getF s (TIER.DRIVE_PT w) = pt := by
  simp only [windowGiB] at h
  split at h
  · exact absurd h (Nat.not_lt_zero g)
  next hmine => simpa using hmine

/-- Settles O51: a place in DRAM by the view that its address is in, a place in tier space by its window. -/
theorem placesStayInThePartition : Obligations.PlacesStayInThePartition := by
  unfold Obligations.PlacesStayInThePartition
  refine ⟨?dram, ?tier, ?view⟩
  case dram =>
    intro s pt ppa c off h
    have hplace := placeOf_dram h
    split at hplace
    · exact ⟨hplace.off_lt, hplace.served⟩
    · exact ⟨hplace.off_lt, hplace.served⟩
  case tier =>
    intro s pt ppa a h
    have hgib := placeOf_tier h
    simp only [tierGiBOk, Bool.and_eq_true, decide_eq_true_eq] at hgib
    obtain ⟨hpool, hwindow⟩ := hgib
    exact ⟨by omega, assigned_of_windowGiB_pos hwindow⟩
  case view =>
    exact fun s pt p q c off hhome hp hq hplace hplace' =>
      (placeOf_view hp hplace).addr_eq hhome (placeOf_view hq hplace')

end Sys2Proof.Machine
end

section
/-!
PROOFS. The directory: what a request served on a stable line leaves as entry and transaction (R105, R120, R121, R125).
-/

namespace Sys2Proof.Machine

variable {s : State} {line o p : Nat} {d : DirState} {x : Txn} {r : Req} {upg : Bool}

/-! A packet to a partner changes the network and register fields, and leaves the directory alone. -/

@[simp] theorem freeReq_coh : (freeReq s r).coh = s.coh := by
  unfold freeReq
  split
  · dsimp only
    split <;> rfl
  · rfl

@[simp] theorem sendingGone_coh (y : Sending) : (sendingGone s y).coh = s.coh := by
  unfold sendingGone
  split
  · exact freeReq_coh
  · rfl

@[simp] theorem enqueue_coh (n : Nat) (y : Sending) : (enqueue s n y).coh = s.coh := rfl

@[simp] theorem countReturn_coh (n : Nat) : (countReturn s n).coh = s.coh := by
  unfold countReturn
  split <;> rfl

@[simp] theorem sendOwn_coh (y : Sending) : (sendOwn s y).coh = s.coh := by
  simp only [sendOwn]
  split
  · rfl
  · split
    · exact sendingGone_coh y
    · split
      · exact enqueue_coh _ _
      · split
        · rfl
        · rw [sendingGone_coh, countReturn_coh]

@[simp] theorem answer_coh (core opcode status len payload ready : Nat) :
    (answer s r core opcode status len payload ready).coh = s.coh := by
  unfold answer
  split
  · split <;> simp [respond, setReq]
  · rfl

theorem dirOf_answer (core opcode status len payload ready : Nat) :
    dirOf (answer s r core opcode status len payload ready) line = dirOf s line := by
  rw [dirOf, answer_coh, dirOf]

/-! An entry and a transaction read back. -/

@[simp] theorem dirOf_setDc (k : Nat) (l : List (Nat × Bool)) : dirOf (setDc s k l) line = dirOf s line := rfl

@[simp] theorem dirOf_spillEntry (l : Nat) : dirOf (spillEntry s l) line = dirOf s line := by
  simp only [spillEntry, memWrite]
  split
  · split <;> rfl
  · rfl

/-- An entry that a slice lists reads back as it was set. -/
theorem dirOf_setDir (hd : d ≠ .unc) : dirOf (setDir s line d) line = d := by
  have hset : Store.get .unc (Store.set .unc s.coh.dir line d) line = d := by
    rw [Store.set, if_neg hd, Store.get_ins_self]
  simp only [setDir]
  split
  next heq => exact heq
  next =>
    split
    · exact hset
    · exact (dirOf_spillEntry line).trans hset

theorem setDir_of_eq (h : dirOf s line = d) : setDir s line d = s := if_pos h

@[simp] theorem noteBusy_coh (c : Nat) : (noteBusy s c).coh = s.coh := by
  simp only [noteBusy]
  split <;> rfl

/-- A transaction that opens reads back. -/
theorem txnOf_setTxn : txnOf (setTxn s line (some x)) line = some x := by
  simp [txnOf, setTxn, Store.set, Store.get_ins_self]

/-! The outcome of `beginReq` in place (Table 05-6). -/

theorem txnOf_handleStable (h : (beginReq s line r (touched s (dirOf s line))).2.1 = some x) :
    txnOf (handleStable s line r) line = some x := by
  simp only [handleStable, h]
  exact txnOf_setTxn

/-! Entries whose partners are live are taken as they stand (R131). -/

@[simp] theorem touched_unc : touched s .unc = .unc := rfl

theorem touched_exc (hlive : pidLive s o = true) : touched s (.exc o) = .exc o := by
  simp [touched, hlive]

theorem touched_sh (hlive : pidLive s p = true) : touched s (.sh [p]) = .sh [p] := by
  simp [touched, hlive]

/-! A line in state UNC whose data can be read. -/

theorem beginReq_unc (hwb : isWb r.op = false) :
    beginReq s line r .unc = ((complete s line r .unc false).1, afterTxn r (complete s line r .unc false).2) := by
  simp [beginReq, serveNow, hwb]

/-- A request served to its end leaves its entry and no transaction. -/
theorem handleStable_of_done {u : State} (hdir : dirOf s line = .unc) (hwb : isWb r.op = false)
    (hc : complete s line r .unc false = (u, .done d)) : handleStable s line r = setDir u line d := by
  have hbegin : beginReq s line r (touched s (dirOf s line)) = (u, none, d) := by
    rw [hdir, touched_unc, beginReq_unc hwb, hc]
    rfl
  simp only [handleStable, hbegin]

/-- A grant of ownership leaves the line BUSY until COMP_ACK (R120). -/
theorem txnOf_handleStable_of_comp {u : State} (hdir : dirOf s line = .unc) (hwb : isWb r.op = false)
    (hc : complete s line r .unc false = (u, .comp)) :
    txnOf (handleStable s line r) line = some { req := r, comp := true } := by
  refine txnOf_handleStable ?_
  rw [hdir, touched_unc, beginReq_unc hwb, hc]
  rfl

theorem complete_rdShared (hop : r.op = 0x01) (hread : lineFails s line = false) :
    complete s line r .unc false =
      (answer s r (lineCore line) 0x40 0 128 (lineValue s line) (padded s r), .done (.sh [r.pid])) := by
  simp [complete, reqKind, addSharer, hop, hread]

theorem complete_rdOwn (hop : r.op = 0x02) (hread : lineFails s line = false) :
    complete s line r .unc false =
      (answer (dirtyTier s line) r (lineCore line) 0x41 0 128 (lineValue s line) (padded s r), .comp) := by
  simp [complete, reqKind, hop, hread]

theorem complete_rdOnce (hop : r.op = 0x04) (hread : lineFails s line = false) :
    complete s line r .unc false =
      (answer s r (lineCore line) 0x43 0 128 (lineValue s line) (padded s r), .done .unc) := by
  simp [complete, reqKind, hop, hread]

theorem dirOf_handleStable_rdShared (hdir : dirOf s line = .unc) (hread : lineFails s line = false) (hop : r.op = 0x01) :
    dirOf (handleStable s line r) line = .sh [r.pid] := by
  have hwb : isWb r.op = false := by rw [hop]; rfl
  rw [handleStable_of_done hdir hwb (complete_rdShared hop hread)]
  exact dirOf_setDir DirState.noConfusion

theorem txnOf_handleStable_rdOwn (hdir : dirOf s line = .unc) (hread : lineFails s line = false) (hop : r.op = 0x02) :
    txnOf (handleStable s line r) line = some { req := r, comp := true } :=
  have hwb : isWb r.op = false := by rw [hop]; rfl
  txnOf_handleStable_of_comp hdir hwb (complete_rdOwn hop hread)

theorem dirOf_handleStable_rdOnce (hdir : dirOf s line = .unc) (hread : lineFails s line = false) (hop : r.op = 0x04) :
    dirOf (handleStable s line r) line = .unc := by
  have hwb : isWb r.op = false := by rw [hop]; rfl
  have hkept : dirOf (answer s r (lineCore line) 0x43 0 128 (lineValue s line) (padded s r)) line = .unc :=
    (dirOf_answer ..).trans hdir
  rw [handleStable_of_done hdir hwb (complete_rdOnce hop hread), setDir_of_eq hkept, hkept]

/-! A line that another live partner holds. -/

/-- On a line held EXC the owner is snooped, and a snoop for another owner awaits the requester's COMP_ACK too. -/
theorem txnOf_handleStable_exc {snoop : Nat} (hdir : dirOf s line = .exc o) (hlive : pidLive s o = true)
    (hwb : isWb r.op = false) (hsnoop : ownerSnoop r o = snoop) :
    txnOf (handleStable s line r) line = some { req := r, snoop := snoop, owner := o, comp := snoop == 0x22 } := by
  refine txnOf_handleStable ?_
  rw [hdir, touched_exc hlive]
  simp [beginReq, hwb, hsnoop]

theorem txnOf_handleStable_rdShared_exc (hdir : dirOf s line = .exc o) (hlive : pidLive s o = true) (hne : r.pid ≠ o)
    (hop : r.op = 0x01) : txnOf (handleStable s line r) line = some { req := r, snoop := 0x21, owner := o } :=
  have hwb : isWb r.op = false := by rw [hop]; rfl
  txnOf_handleStable_exc hdir hlive hwb (by simp [ownerSnoop, reqKind, hop, hne])

theorem txnOf_handleStable_rdOwn_exc (hdir : dirOf s line = .exc o) (hlive : pidLive s o = true) (hne : r.pid ≠ o)
    (hop : r.op = 0x02) :
    txnOf (handleStable s line r) line = some { req := r, snoop := 0x22, owner := o, comp := true } :=
  have hwb : isWb r.op = false := by rw [hop]; rfl
  txnOf_handleStable_exc hdir hlive hwb (by simp [ownerSnoop, reqKind, hop, hne])

/-- The one other sharer of a line is all that RD_OWN invalidates (R113). -/
theorem invSet_sh_singleton (hlive : pidLive s p = true) (hne : r.pid ≠ p) :
    invSet s line (.sh [p]) (some r.pid) true = [p] := by
  simp [invSet, hlive, hne]

theorem txnOf_handleStable_shared (hdir : dirOf s line = .sh [p]) (hlive : pidLive s p = true)
    (hagent : r.agent = .partner) (hne : r.pid ≠ p) (hop : r.op = 0x02) :
    txnOf (handleStable s line r) line = some { req := r, invs := [p] } := by
  refine txnOf_handleStable ?_
  rw [hdir, touched_sh hlive]
  simp [beginReq, isWb, reqKind, hop, hagent, invSet_sh_singleton hlive hne]

/-- Settles O8: each clause is the command's rule as a request served, and the row of Table 05-6 for its entry. -/
theorem directoryTransitions : Obligations.DirectoryTransitions := by
  unfold Obligations.DirectoryTransitions
  refine ⟨?shared, ?own, ?once, ?sharedExc, ?ownExc, ?ownShared⟩
  case shared =>
    exact fun _ _ _ _ _ _ _ _ ha h _ hdir hread hop =>
      ⟨_, exec_of_serves rfl ha h (atomicBad_eq_false_of_serves h (by decide)), dirOf_handleStable_rdShared hdir hread hop⟩
  case own =>
    exact fun _ _ _ _ _ _ _ _ ha h _ hdir hread hop =>
      ⟨_, exec_of_serves rfl ha h (atomicBad_eq_false_of_serves h (by decide)), txnOf_handleStable_rdOwn hdir hread hop⟩
  case once =>
    exact fun _ _ _ _ _ _ _ _ ha h _ hdir hread hop =>
      ⟨_, exec_of_serves rfl ha h (atomicBad_eq_false_of_serves h (by decide)), dirOf_handleStable_rdOnce hdir hread hop⟩
  case sharedExc =>
    exact fun _ _ _ _ _ _ _ _ _ ha h _ hdir hlive hne hop =>
      ⟨_, exec_of_serves rfl ha h (atomicBad_eq_false_of_serves h (by decide)),
        txnOf_handleStable_rdShared_exc hdir hlive hne hop⟩
  case ownExc =>
    exact fun _ _ _ _ _ _ _ _ _ ha h _ hdir hlive hne hop =>
      ⟨_, exec_of_serves rfl ha h (atomicBad_eq_false_of_serves h (by decide)),
        txnOf_handleStable_rdOwn_exc hdir hlive hne hop⟩
  case ownShared =>
    exact fun _ _ _ _ _ _ _ _ _ ha h hagent hdir hlive hne hop =>
      ⟨_, exec_of_serves rfl ha h (atomicBad_eq_false_of_serves h (by decide)),
        txnOf_handleStable_shared hdir hlive hagent hne hop⟩

end Sys2Proof.Machine
end

section
/-!
PROOFS. The table window and the table digest: what each command of R86 and R89 does under the guards of its clause.
-/

namespace Sys2Proof.Machine

variable {s : State} {pt off e l r d n : Nat}

/-- An accepted commit is written at once, and its result 0 waits for TBL_COMMIT_DONE (R86). -/
theorem doTblCommit_of_accepted (hpt : getF s XLT.TBL_ADDR_PT = pt) (hoff : getF s XLT.TBL_ADDR_OFFSET * 8 = off)
    (he : getF s XLT.TBL_DATA = e) (hidle : flag s XLT.TBL_STS_BUSY = false) (hok : commitResult s pt off l e = 0) :
    doTblCommit s l = (let s1 := bumpConfigGen (applyCommit s pt off l e) pt
      { setB s1 XLT.TBL_STS_BUSY true with
        xlt := { s1.xlt with tblNext := 1, tblFrames := commitFrames s pt off l e } }) := by
  simp only [doTblCommit, hidle, hpt, hoff, he, hok, if_true, Bool.false_eq_true, if_false, Nat.zero_add]

/-- A refused commit changes no table: its result alone waits for TBL_COMMIT_DONE (R86). -/
theorem doTblCommit_of_refused (hpt : getF s XLT.TBL_ADDR_PT = pt) (hoff : getF s XLT.TBL_ADDR_OFFSET * 8 = off)
    (he : getF s XLT.TBL_DATA = e) (hidle : flag s XLT.TBL_STS_BUSY = false) (hr : commitResult s pt off l e ≠ 0) :
    doTblCommit s l = { setB s XLT.TBL_STS_BUSY true with
      xlt := { s.xlt with tblNext := commitResult s pt off l e + 1, tblFrames := [] } } := by
  simp only [doTblCommit, hidle, hpt, hoff, he, hr, Bool.false_eq_true, if_false]

theorem exec_tblCommitDone_of_ready (hm : managed s = true) (hnext : s.xlt.tblNext = r + 1)
    (hready : commitWaits s = false) :
    exec .tblCommitDone s = .next (setF (setB { s with xlt := { s.xlt with tblNext := 0, tblFrames := [] } }
      XLT.TBL_STS_BUSY false) XLT.TBL_STS_RESULT r) := by
  refine exec_of_managed rfl hm ?_
  simp only [hnext, hready, Bool.false_eq_true, if_false]

theorem doTblRead_of_valid (hpt : getF s XLT.TBL_ADDR_PT = pt) (hidle : flag s XLT.TBL_STS_BUSY = false)
    (hcores : coresOf s pt ≠ []) (hl : l ≤ 4) :
    doTblRead s l = setF (setF s XLT.TBL_STS_RESULT 0) XLT.TBL_DATA
      (tableEntry s pt (getF s XLT.TBL_ADDR_OFFSET * 8)) := by
  simp only [doTblRead, hidle, hpt, List.isEmpty_eq_false_iff.mpr hcores, Nat.not_lt.mpr hl, Bool.false_eq_true, if_false]

theorem doXltDigest_of_idle (hidle : flag s XLT.DIGEST_STS_BUSY = false) :
    doXltDigest s pt = { setB s XLT.DIGEST_STS_BUSY true with
      xlt := { s.xlt with digest := some (tableDigest s pt, (tableTree s pt).length) } } := by
  simp only [doXltDigest, hidle, Bool.false_eq_true, if_false]

theorem exec_xltDigestDone_of_running (hm : managed s = true) (hrun : s.xlt.digest = some (d, n)) :
    exec .xltDigestDone s = .next (
      let s1 := setB { s with xlt := { s.xlt with digest := none } } XLT.DIGEST_STS_BUSY false
      setF (setF s1 XLT.DIGEST d) XLT.DIGEST_STS_RECORDS (min n (2 ^ 24 - 1))) := by
  refine exec_of_managed rfl hm ?_
  simp only [hrun]

/-- Settles O4: each clause is the command's own rule under its guard. -/
theorem tableCommands : Obligations.TableCommands := by
  unfold Obligations.TableCommands
  refine ⟨?commit, ?refused, ?commitDone, ?read, ?digest, ?digestDone⟩
  case commit => exact fun s level ha hidle hok => exec_of_alive rfl ha (doTblCommit_of_accepted rfl rfl rfl hidle hok)
  case refused => exact fun s level ha hidle hr => exec_of_alive rfl ha (doTblCommit_of_refused rfl rfl rfl hidle hr)
  case commitDone => exact fun s r hm hnext hready => exec_tblCommitDone_of_ready hm hnext hready
  case read => exact fun s level ha hidle hcores hl => exec_of_alive rfl ha (doTblRead_of_valid rfl hidle hcores hl)
  case digest => exact fun s pt ha hidle => exec_of_alive rfl ha (doXltDigest_of_idle hidle)
  case digestDone => exact fun s d n hm hrun => exec_xltDigestDone_of_running hm hrun

end Sys2Proof.Machine
end

section
/-!
PROOFS. Invalidations and page moves: what each command of R94 to R97 and R105 does under the guards of its clause.
-/

namespace Sys2Proof.Machine

variable {s : State} {pt kind l off e va dst : Nat} {rcl : Bool}

theorem doXltInvalidate_of_accepted (hok : invResult s pt kind = 0) :
    doXltInvalidate s pt kind rcl = (
      let s1 := { s with xlt := { s.xlt with inv := some (invJob s pt kind rcl) } }
      let s2 := bumpConfigGen (setB s1 XLT.INV_STS_BUSY true) pt
      recallLines (dropCached s2 pt (removes s pt kind)) 1
        (frameLines s pt (invFrames s pt kind rcl).1 (invFrames s pt kind rcl).2)) :=
  if_neg (not_not.mpr hok)

/-- The guard of INV_DONE: the accesses translated before have finished and no recall of an invalidation runs (R95). -/
theorem invDone_ready {j : InvJob} (hold : oldFinished s j = true) (hrec : recalling s 1 = false) :
    (!oldFinished s j || recalling s 1) = false := by
  rw [hold, hrec]; rfl

/-- With no line of the range held, or after the one recall at the end, the invalidation ends (R95, R96). -/
theorem doInvDone_of_finished {j : InvJob} (hj : s.xlt.inv = some j) (hold : oldFinished s j = true)
    (hrec : recalling s 1 = false) (hend : (invHeld s j).isEmpty ∨ j.again = true) :
    doInvDone s = (
      let clear := fun (ks : List Nat) (m : Store FrameRec) => m.filter fun e => !(ks.contains e.1 && isRet e.2)
      let x := { s.xlt with inv := none, frames := clear j.frames s.xlt.frames, tframes := clear j.tframes s.xlt.tframes }
      raise (setF (setB { s with xlt := x } XLT.INV_STS_BUSY false) XLT.INV_STS_RESULT 0) 0x0400 0) := by
  have hlast : (!j.again && !(invHeld s j).isEmpty) = false := by
    rcases hend with hnone | hagain
    · rw [hnone, Bool.not_true, Bool.and_false]
    · rw [hagain, Bool.not_true, Bool.false_and]
  simp only [doInvDone, hj, invDone_ready hold hrec, hlast, Bool.false_eq_true, if_false]

/-- Lines that the old accesses have fetched meanwhile are recalled once (R96). -/
theorem doInvDone_of_fetched {j : InvJob} (hj : s.xlt.inv = some j) (hold : oldFinished s j = true)
    (hrec : recalling s 1 = false) (hheld : (invHeld s j).isEmpty = false) (hagain : j.again = false) :
    doInvDone s = recallLines { s with xlt := { s.xlt with inv := some { j with again := true } } } 1 (invHeld s j) := by
  simp only [doInvDone, hj, invDone_ready hold hrec, hheld, hagain, Bool.not_false, Bool.and_self, Bool.false_eq_true,
    if_false, if_true]

/-- The move that an accepted GO starts: the leaf's page, and where it goes (R105). -/
theorem doPageMove_of_accepted (hva : getF s XLT.MOVE_PVA * 65536 = va) (hdst : getF s XLT.MOVE_DST * 65536 = dst)
    (hok : moveResult s pt va dst = 0) (hleaf : leafOf s pt va = some (l, off, e)) :
    doPageMove s pt = (
      let size := 2 ^ levelShift l
      let job : MoveJob := ⟨va / size * size, size, off, l, dst⟩
      let s1 := setF s XLT.MOVE_STS_RESULT 0
      let s2 := { s1 with xlt := { s1.xlt with moves := Store.set none s1.xlt.moves pt (some job) } }
      recallLines (setBitF s2 XLT.MOVE_STS_BUSY pt true) (16 + pt) (pageLines s (leafPlaces s pt (ePpa e) l))) := by
  simp only [doPageMove, hva, hdst, hok, hleaf, ne_eq, not_true_eq_false, if_false]

/-- The page of a move is at rest: it is copied and mapped anew (R105). -/
theorem doMoveDone_of_atRest {j : MoveJob} (hj : Store.get none s.xlt.moves pt = some j)
    (hrest : pageAtRest s pt j (leafPlaces s pt (ePpa (tableEntry s pt j.off)) j.lvl) = true) :
    doMoveDone s pt = (
      let e := tableEntry s pt j.off
      let old := leafPlaces s pt (ePpa e) j.lvl
      let s1 := forAll (old.zip (leafPlaces s pt j.dst j.lvl)) (fun s p => copyPiece s p.1.2 p.2.2) s
      let s2 := bumpConfigGen (applyCommit s1 pt j.off j.lvl (withPpa e j.dst)) pt
      let s3 := forAll old (fun s p => if isRet (frameRec s p.2) then setFrame s p.2 .none else s) s2
      let s4 := reline (dropCached s3 pt (spanOverlaps j.pva (j.pva + j.size))) pt j
      let s5 := { s4 with xlt := { s4.xlt with moves := Store.del s4.xlt.moves pt } }
      raise (setBitF s5 XLT.MOVE_STS_BUSY pt false) 0x0400 1) := by
  simp only [doMoveDone, hj, hrest, Bool.not_true, Bool.false_eq_true, if_false]

/-- Settles O5: each clause is the command's own rule under the guard that the module is alive. -/
theorem invalidationAndMoveCommands : Obligations.InvalidationAndMoveCommands := by
  unfold Obligations.InvalidationAndMoveCommands
  refine ⟨?invalidate, ?invDone, ?invAgain, ?pageMove, ?moveDone⟩
  case invalidate => exact fun s pt kind rcl ha hok => exec_of_alive rfl ha (doXltInvalidate_of_accepted hok)
  case invDone =>
    exact fun s j ha hj hold hrec hend => exec_of_alive rfl ha (doInvDone_of_finished hj hold hrec hend)
  case invAgain =>
    exact fun s j ha hj hold hrec hheld hagain => exec_of_alive rfl ha (doInvDone_of_fetched hj hold hrec hheld hagain)
  case pageMove =>
    exact fun s pt l off e ha hok hleaf => exec_of_alive rfl ha (doPageMove_of_accepted rfl rfl hok hleaf)
  case moveDone => exact fun s pt j ha hj hrest => exec_of_alive rfl ha (doMoveDone_of_atRest hj hrest)

end Sys2Proof.Machine
end

section
/-!
PROOFS. Access counters, the hot list and PXC ways: what each command of R91, R103 and R104 does under its guards.
-/

namespace Sys2Proof.Machine

variable {s : State} {pt mask : Nat}

theorem readHotPop_of_entry {x : Nat × Nat} {l : List (Nat × Nat)} (h : s.xlt.hot = x :: l) :
    readHotPop s = { s with xlt := { s.xlt with hot := l, hotLost := false } } := by
  simp only [readHotPop, h, List.isEmpty_cons, List.drop_succ_cons, List.drop_zero, Bool.false_eq_true, if_false]

/-- A new mask outside a run that shares no way with another partition is taken (R91). -/
theorem doWaysWrite_of_free (hmask : mask < 65536)
    (hfree : ((upTo 16).any fun q => q != pt && (mask &&& pxcWays s q) != 0) = false)
    (hrun : bitF s PART.DRUN_OPEN_OPEN pt = false) (hnew : mask ≠ pxcWays s pt) :
    doWaysWrite s pt mask = (
      let gone := fun (e : CacheEnt) => e.pt == pt && !mask.testBit e.way
      let s1 := setF (setB s PXC.PXC_STS_REFUSED false) (PXC.WAYS_MASK pt) mask
      bumpConfigGen { s1 with xlt := { s1.xlt with pxc := s1.xlt.pxc.filter (fun e => !gone e),
                                                   walker := s1.xlt.walker.filter (fun e => !gone e) } } pt) := by
  simp only [doWaysWrite, Nat.mod_eq_of_lt hmask, hfree, hrun, hnew, Bool.false_and, Bool.or_false, Bool.false_eq_true,
    if_false]

/-- A mask that shares a way with another partition is refused (R91). -/
theorem doWaysWrite_of_clash (hclash : ((upTo 16).any fun q => q != pt && (mask % 65536 &&& pxcWays s q) != 0) = true) :
    doWaysWrite s pt mask = setB s PXC.PXC_STS_REFUSED true := by
  simp only [doWaysWrite, hclash, Bool.true_or, if_true]

/-- Settles O6: each clause is the command's own rule under its guard. -/
theorem accessCounterCommands : Obligations.AccessCounterCommands := by
  unfold Obligations.AccessCounterCommands
  refine ⟨?clear, ?clearAll, ?readAdvances, ?readKeeps, ?hotPop, ?ways, ?waysRefused⟩
  case clear => exact fun s core ha => exec_of_alive rfl ha rfl
  case clearAll => exact fun s ha => exec_of_alive rfl ha rfl
  case readAdvances => exact fun s hm hinc => exec_of_managed rfl hm (if_pos hinc)
  case readKeeps => exact fun s hm hinc => exec_of_managed rfl hm (if_neg (by rw [hinc]; exact Bool.false_ne_true))
  case hotPop => exact fun s x l hm hhot => exec_of_managed rfl hm (readHotPop_of_entry hhot)
  case ways =>
    exact fun s pt mask ha hmask hfree hrun hnew => exec_of_alive rfl ha (doWaysWrite_of_free hmask hfree hrun hnew)
  case waysRefused => exact fun s pt mask ha hclash => exec_of_alive rfl ha (doWaysWrite_of_clash hclash)

end Sys2Proof.Machine
end

section
/-!
PROOFS. Answers of partners to the directory: what each answer of Table 05-7 does to the transaction that awaits it
(R114, R120, R122, R126, R127).
-/

namespace Sys2Proof.Machine

variable {s : State} {line pid d : Nat} {isNew : Bool} {data : Option Nat} {t : Txn}

/-- An INV_ACK that is owed is counted (R122). -/
theorem doInvAck_of_owed (ht : txnOf s line = some t) (howed : t.invs.contains pid = true) :
    doInvAck s line pid = countInv s line t pid := by
  simp only [doInvAck, ht, howed, if_true]

/-- SNP_ACK answers an owner snoop that forwards nothing (R122, R124). -/
theorem doSnpAck_of_awaited (ht : txnOf s line = some t) (hown : awaitsOwner t pid = true) (h21 : t.snoop ≠ 0x21)
    (h22 : t.snoop ≠ 0x22) : doSnpAck s line pid isNew = ownerAnswered s line t isNew false none := by
  have hforward : ¬(t.snoop = 0x21 ∨ t.snoop = 0x22) := not_or.mpr ⟨h21, h22⟩
  simp only [doSnpAck, ht, hown, hforward, if_true, if_false]

/-- SNP_DATA answers the owner snoop with the line's data (R122). -/
theorem doSnpData_of_awaited (ht : txnOf s line = some t) (hown : awaitsOwner t pid = true) :
    doSnpData s line pid isNew d = ownerAnswered s line t isNew false (some d) := by
  simp only [doSnpData, ht, hown, if_true]

/-- SNP_FWDED says that the owner forwarded the line (R122). -/
theorem doSnpFwded_of_awaited (ht : txnOf s line = some t) (hown : awaitsOwner t pid = true) :
    doSnpFwded s line pid data = ownerAnswered s line t false true data := by
  simp only [doSnpFwded, ht, hown, if_true]

/-- WB_PENDING ahead of the crossing WB is noted (R127). -/
theorem doWbPending_of_awaited (ht : txnOf s line = some t) (hown : awaitsOwner t pid = true) (hheld : t.held = none) :
    doWbPending s line pid = setTxn s line (some { t with wbp := true }) := by
  simp only [doWbPending, ht, hown, hheld, if_true]

/-- COMP_ACK with no forward awaited makes the requester the exclusive owner (R120). -/
theorem doCompAck_of_awaited (ht : txnOf s line = some t) (hcomp : t.comp = true) (hpid : t.req.pid = pid)
    (hsnoop : t.snoop = 0) : doCompAck s line pid = settle (freeReq s t.req) line t.queue (.exc pid) := by
  simp only [doCompAck, ht, hcomp, hpid, hsnoop, beq_self_eq_true, Bool.and_self, if_true]

/-- COMP_ACK for a line with no transaction is a protocol breach (R124). -/
theorem doCompAck_of_idle (ht : txnOf s line = none) : doCompAck s line pid = breach s line pid 0x5D := by
  simp only [doCompAck, ht]

/-- A placed push leaves its target as the line's sharer (R126). -/
theorem doPushAnswer_of_placed (ht : txnOf s line = some t) (hpush : t.push = some pid) :
    doPushAnswer s line pid true =
      settle (bumpF s (DIR.PUSH_PLACED_COUNT (lineCore line))) line t.queue (.sh [pid]) := by
  simp only [doPushAnswer, ht, hpush, if_true]

/-- A declined push leaves the line UNC (R126). -/
theorem doPushAnswer_of_declined (ht : txnOf s line = some t) (hpush : t.push = some pid) :
    doPushAnswer s line pid false =
      settle (bumpF s (DIR.PUSH_DECLINED_COUNT (lineCore line))) line t.queue .unc := by
  simp only [doPushAnswer, ht, hpush, Bool.false_eq_true, if_true, if_false]

/-- Settles O9: each clause is the answer's own rule for the transaction that awaits it. -/
theorem answersToTheDirectory : Obligations.AnswersToTheDirectory := by
  unfold Obligations.AnswersToTheDirectory
  refine ⟨?invAck, ?snpAck, ?snpData, ?snpFwded, ?wbPending, ?compAck, ?compBreach, ?pushAck, ?pushDecline⟩
  case invAck => exact fun s core pid off t ha ht howed => exec_of_alive rfl ha (doInvAck_of_owed ht howed)
  case snpAck =>
    exact fun s core pid off isNew t ha ht hown h21 h22 => exec_of_alive rfl ha (doSnpAck_of_awaited ht hown h21 h22)
  case snpData =>
    exact fun s core pid off isNew data t ha ht hown => exec_of_alive rfl ha (doSnpData_of_awaited ht hown)
  case snpFwded => exact fun s core pid off data t ha ht hown => exec_of_alive rfl ha (doSnpFwded_of_awaited ht hown)
  case wbPending =>
    exact fun s core pid off t ha ht hown hheld => exec_of_alive rfl ha (doWbPending_of_awaited ht hown hheld)
  case compAck =>
    exact fun s core pid off t ha ht hcomp hpid hsnoop =>
      exec_of_alive rfl ha (doCompAck_of_awaited ht hcomp hpid hsnoop)
  case compBreach => exact fun s core pid off ha ht => exec_of_alive rfl ha (doCompAck_of_idle ht)
  case pushAck => exact fun s core pid off t ha ht hpush => exec_of_alive rfl ha (doPushAnswer_of_placed ht hpush)
  case pushDecline => exact fun s core pid off t ha ht hpush => exec_of_alive rfl ha (doPushAnswer_of_declined ht hpush)

end Sys2Proof.Machine
end

section
/-!
PROOFS. Version words: PUBLISH and RD_VERSION at the home slice (R136, R137), and the writes of RGN_CTL and RGN_VER
(R135).
-/

namespace Sys2Proof.Machine

variable {s u t : State} {op pid tag c b v : Nat} {ties : List Nat} {hi : Bool} {r : Req}

/-- A stored version request whose core answers is performed once it has crossed to its core and wins its tie (R137). -/
theorem serializeVersion_of_wins (hreq : findReq s pid tag [op] = some r) (hup : coreUp s (regionCore r.pva) = true)
    (hlink : (linkTime s (regionCore r.pva) r.pt s.time.ft).map (advanceFt s) = some u)
    (hwins : wins u (regionCore r.pva) r ties = (true, t)) :
    serializeVersion op pid tag ties s = serveVersion t r := by
  obtain ⟨ft, htime, rfl⟩ := Option.map_eq_some_iff.mp hlink
  simp only [serializeVersion, hreq, hup, htime, hwins, Bool.not_true, Bool.false_eq_true, if_true, if_false]

/-- The guard of a version request: the word is valid and of the request's partition (R135). -/
theorem versionWord_usable (hv : flag s (DIR.RGN_CTL_V c b) = true) (hpt : getF s (DIR.RGN_CTL_PT c b) = r.pt) :
    (!flag s (DIR.RGN_CTL_V c b) || getF s (DIR.RGN_CTL_PT c b) != r.pt) = false := by
  simp only [hv, hpt, Bool.not_true, Bool.false_or, bne_self_eq_false]

/-- PUBLISH on an unlocked word that holds the expected value stores the new one and answers it (R136). -/
theorem serveVersion_publish (hop : r.op = 0x0A) (hv : flag s (DIR.RGN_CTL_V (regionCore r.pva) (r.pva % 256)) = true)
    (hpt : getF s (DIR.RGN_CTL_PT (regionCore r.pva) (r.pva % 256)) = r.pt)
    (hlock : flag s (DIR.RGN_CTL_LOCK (regionCore r.pva) (r.pva % 256)) = false)
    (hver : getF s (DIR.RGN_VER (regionCore r.pva) (r.pva % 256)) = r.data % 2 ^ 64) :
    serveVersion s r = (let v := r.data / 2 ^ 64 % 2 ^ 64
      answer (setF s (DIR.RGN_VER (regionCore r.pva) (r.pva % 256)) v) r (regionCore r.pva) 0x47 0 8 v s.time.ft) := by
  have hnotRead : ¬ r.op = 0x0B := by rw [hop]; decide
  simp only [serveVersion, versionWord_usable hv hpt, hnotRead, hlock, hver, ne_eq, not_true_eq_false,
    Bool.false_eq_true, if_false]

/-- RD_VERSION answers the value (R136). -/
theorem serveVersion_rdVersion (hop : r.op = 0x0B) (hv : flag s (DIR.RGN_CTL_V (regionCore r.pva) (r.pva % 256)) = true)
    (hpt : getF s (DIR.RGN_CTL_PT (regionCore r.pva) (r.pva % 256)) = r.pt) :
    serveVersion s r = answer s r (regionCore r.pva) 0x47 0 8
      (getF s (DIR.RGN_VER (regionCore r.pva) (r.pva % 256))) s.time.ft := by
  simp only [serveVersion, versionWord_usable hv hpt, hop, Bool.false_eq_true, if_true, if_false]

/-- A write of RGN_CTL that makes a word that is not in use valid for the partition of its core (R135). -/
theorem doRgnCtl_of_free (hb : getF s (DIR.RGN_SEL_INDEX c) = b) (hfree : flag s (DIR.RGN_CTL_V c b) = false)
    (hset : v.testBit 0 = true) (howner : ownerOf s c = some (bitsOf v 2 4)) :
    doRgnCtl s c v = setF (setB (setB (setB s (DIR.RGN_STS_REFUSED c) false) (DIR.RGN_CTL_V c b) true)
      (DIR.RGN_CTL_LOCK c b) (v.testBit 1)) (DIR.RGN_CTL_PT c b) (bitsOf v 2 4) := by
  simp only [doRgnCtl, hb, hfree, hset, howner, bne_self_eq_false, Bool.false_and, Bool.and_false, Bool.or_self,
    Bool.false_eq_true, if_false]

/-- A half of a word that is not in use is written (R135). -/
theorem doRgnVer_of_free (hb : getF s (DIR.RGN_SEL_INDEX c) = b) (hfree : flag s (DIR.RGN_CTL_V c b) = false) :
    doRgnVer s c hi v = setF (setB s (DIR.RGN_STS_REFUSED c) false) (DIR.RGN_VER c b)
      (insertBits (getF s (DIR.RGN_VER c b)) (if hi then 32 else 0) 32 v) := by
  simp only [doRgnVer, hb, hfree, Bool.false_eq_true, if_false]

/-- A word in use keeps its value: its write is refused (R135). -/
theorem doRgnVer_of_valid (hvalid : flag s (DIR.RGN_CTL_V c (getF s (DIR.RGN_SEL_INDEX c))) = true) :
    doRgnVer s c hi v = setB s (DIR.RGN_STS_REFUSED c) true :=
  if_pos hvalid

/-- Settles O10: a version request is performed by its rule once it wins, and each register write acts by its own rule on
a core in service. -/
theorem versionWords : Obligations.VersionWords := by
  unfold Obligations.VersionWords
  refine ⟨?publish, ?rdVersion, ?ctl, ?ver, ?verRefused, ?unknown⟩
  case publish =>
    exact fun s pid tag ties r u t ha hreq hop hup hlink hwins hv hpt hlock hver =>
      exec_of_alive rfl ha ((serializeVersion_of_wins hreq hup hlink hwins).trans
        (serveVersion_publish hop hv hpt hlock hver))
  case rdVersion =>
    exact fun s pid tag ties r u t ha hreq hop hup hlink hwins hv hpt =>
      exec_of_alive rfl ha ((serializeVersion_of_wins hreq hup hlink hwins).trans (serveVersion_rdVersion hop hv hpt))
  case ctl =>
    exact fun s core v ha hup hfree hset howner =>
      exec_of_alive rfl ha ((if_pos hup).trans (doRgnCtl_of_free rfl hfree hset howner))
  case ver =>
    exact fun s core hi v ha hup hfree => exec_of_alive rfl ha ((if_pos hup).trans (doRgnVer_of_free rfl hfree))
  case verRefused =>
    exact fun s core hi v ha hup hvalid => exec_of_alive rfl ha ((if_pos hup).trans (doRgnVer_of_valid hvalid))
  case unknown =>
    exact fun s core pid opcode off ha hunknown =>
      exec_of_alive rfl ha (if_neg (Bool.eq_false_iff.mp hunknown))

end Sys2Proof.Machine
end

section
/-!
PROOFS. Commands of a stack core: what one of a core in service does, and what one over core links does once it begins
(R2, R54, R57).
-/

namespace Sys2Proof.Machine

variable {s t u : State} {f : State → State} {i : Instr} {c pt : Nat}

/-- A command of a core in service leads where its meaning does. -/
theorem exec_of_coreUp (hi : exec i s = .next (whenAlive s fun s => if coreUp s c then f s else s))
    (ha : alive s = true) (hup : coreUp s c = true) (hf : f s = t) : exec i s = .next t :=
  exec_of_alive hi ha ((if_pos hup).trans hf)

/-- What goes over core links acts in the state in which it begins, and then its walks end. -/
theorem slotted_of_crossed (h : Crossed s c pt u) : slotted s c pt f = walksEnd s (f u) pt := by
  obtain ⟨ft, htime, rfl⟩ := Option.map_eq_some_iff.mp h
  simp only [slotted, htime, walksEnd]

end Sys2Proof.Machine
end

section
/-!
PROOFS. Command apertures: a stored aperture message outside deterministic mode (R143 to R146, R520), and flushes
(R148).
-/

namespace Sys2Proof.Machine

variable {s : State} {pid tag op c n pt : Nat} {ties : List Nat} {r : Req}

/-- With the mode off a core processes a stored message of its command at once. -/
theorem aperture_of_detOff {sel : Req → Bool} {f : State → Req → State} (hreq : findReq s pid tag [op] = some r)
    (hsel : sel r = true) (hdet : detOn s = false) : aperture s pid tag op sel ties f = f s r := by
  simp only [aperture, hreq, hsel, hdet, Bool.not_true, Bool.false_eq_true, if_false]

/-- A read or write that names its register and lies below 2^16 is not refused for its offset. -/
theorem apOff_accepted {off : Nat} (hoff : apOff r = off) (hlow : r.pva < 2 ^ 16) :
    ¬(2 ^ 16 ≤ r.pva ∨ apOff r ≠ off) :=
  fun h => h.elim (Nat.not_le.mpr hlow) fun hne => hne hoff

theorem takeDesc_of_room (hok : apRefusal s r = none) (hoff : apOff r = 0) (hlow : r.pva < 2 ^ 16)
    (hroom : (fifoOf s (apCore r) r.pt).length < 32) :
    takeDesc s r = (let c := apCore r
      let n := acceptedOf s c
      let s1 := setFifo s c r.pt (fifoOf s c r.pt ++ [{ desc := r.data % 2 ^ 512, num := n }])
      apAnswer { s1 with eng := { s1.eng with accepted := Store.set 0 s1.eng.accepted c (n + 1) } } r 0 0) := by
  simp only [takeDesc, hok, if_neg (apOff_accepted hoff hlow), if_neg (Nat.not_le.mpr hroom)]

theorem takeDesc_of_full (hok : apRefusal s r = none) (hoff : apOff r = 0) (hlow : r.pva < 2 ^ 16)
    (hfull : 32 ≤ (fifoOf s (apCore r) r.pt).length) : takeDesc s r = apAnswer s r 32 0 := by
  simp only [takeDesc, hok, if_neg (apOff_accepted hoff hlow), if_pos hfull]

theorem takeRead_of_count (hok : apRefusal s r = none) (hoff : apOff r = 0x040) (hlow : r.pva < 2 ^ 16) :
    takeRead s r = apAnswer s r 0 (cmdqCount s (apCore r) r.pt) := by
  simp only [takeRead, hok, if_neg (apOff_accepted hoff hlow)]

theorem takeFlush_of_one (hok : apRefusal s r = none) (hlow : r.pva < 2 ^ 16) (hdata : r.data % 2 ^ 512 < 2)
    (hone : r.data % 2 = 1) : takeFlush s r = markFlush (apAnswer s r 0 0) (apCore r) false := by
  have hvalid : ¬(2 ^ 16 ≤ r.pva ∨ 2 ≤ r.data % 2 ^ 512) :=
    fun h => h.elim (Nat.not_le.mpr hlow) (Nat.not_le.mpr hdata)
  simp only [takeFlush, hok, if_neg hvalid, if_pos hone]

theorem doSeqFlush_of_owned (hup : coreUp s c = true) (howned : (ownerOf s c).isSome = true) :
    doSeqFlush s c = markFlush s c true :=
  if_pos (Bool.and_eq_true_iff.mpr ⟨hup, howned⟩)

/-- The flush that SEQ_CMD marked discards what its partition's FIFO held at the mark, counts it, and says so (R148). -/
theorem flushNow_of_command (hmark : flushMark s c = some n) (howner : ownerOf s c = some pt)
    (hcmd : Store.get false s.eng.markCmd c = true) :
    flushNow s c = (
      let s1 : State := { s with eng := { s.eng with
        mark := Store.del s.eng.mark c, markCmd := Store.del s.eng.markCmd c } }
      let l := fifoOf s1 c pt
      let gone := l.filter (·.num < n)
      let s2 := forAll gone (flushOne c pt) (setFifo s1 c pt (l.filter fun e => !(e.num < n)))
      raise (addF s2 (SCORE.FLUSHED_COUNT c) gone.length) (0x0100 + c) 4) := by
  have howner' : ownerOf { s with eng := { s.eng with
      mark := Store.del s.eng.mark c, markCmd := Store.del s.eng.markCmd c } } c = some pt := howner
  simp only [flushNow, hmark, howner', hcmd, if_true]

/-- Settles O12: with the mode off each aperture message is processed by its own rule, and a flush acts by its own. -/
theorem commandApertures : Obligations.CommandApertures := by
  unfold Obligations.CommandApertures
  refine ⟨?desc, ?descFull, ?count, ?flush, ?seqFlush, ?takesEffect⟩
  case desc =>
    exact fun s pid tag ties r ha hreq hoff hlow hdet hok hroom =>
      exec_of_alive rfl ha ((aperture_of_detOff hreq (by simp [hoff]) hdet).trans
        (takeDesc_of_room hok hoff hlow hroom))
  case descFull =>
    exact fun s pid tag ties r ha hreq hoff hlow hdet hok hfull =>
      exec_of_alive rfl ha ((aperture_of_detOff hreq (by simp [hoff]) hdet).trans
        (takeDesc_of_full hok hoff hlow hfull))
  case count =>
    exact fun s pid tag ties r ha hreq hoff hlow hdet hok =>
      exec_of_alive rfl ha ((aperture_of_detOff hreq rfl hdet).trans (takeRead_of_count hok hoff hlow))
  case flush =>
    exact fun s pid tag ties r ha hreq hoff hlow hdet hok hdata hone =>
      exec_of_alive rfl ha ((aperture_of_detOff hreq (by simp [hoff]) hdet).trans
        (takeFlush_of_one hok hlow hdata hone))
  case seqFlush => exact fun s core ha hup howned => exec_of_alive rfl ha (doSeqFlush_of_owned hup howned)
  case takesEffect =>
    exact fun s core n pt ha hidle hmark howner hcmd =>
      exec_of_alive rfl ha ((if_neg (Bool.eq_false_iff.mp hidle)).trans
        (congrArg pumpRecs (flushNow_of_command hmark howner hcmd)))

end Sys2Proof.Machine
end

section
/-!
PROOFS. The sequencer: reading, holding, fetching, spreading and reporting of descriptors (R147 to R158).
-/

namespace Sys2Proof.Machine

variable {s u : State} {c dest lead num pt seed d w v o : Nat} {e : FifoEnt} {rest : List FifoEnt} {h l : Share}
  {ws : List Nat}

/-! DESC_READ (R147, R151). -/

/-- A descriptor whose block is not fetched yet becomes a share, which ORDER may hold (R149). -/
theorem takeUp_of_unfetched (himg : e.img = none) (hwords : e.words = []) :
    takeUp s c pt e seed = (
      let h : Share := { job := s.eng.jobs + 1, core := c, lead := c, pt := pt, desc := e.desc, num := e.num,
                         seed := seed }
      let h1 := if dOrder e.desc && earlierOpen s c e.num then { h with phase := 0 } else releaseShare h
      learnLost { s with eng := { s.eng with jobs := s.eng.jobs + 1, shares := s.eng.shares ++ [h1] } } c) := by
  simp only [takeUp, himg, hwords, List.isEmpty_nil, Bool.not_true, Bool.false_eq_true, and_false, if_false]

/-- A descriptor without ORDER whose block was fetched ahead goes on to the static check (R155). -/
theorem takeUp_of_fetched (himg : e.img = none) (hwords : e.words ≠ []) (hpat : dPat e.desc ≠ 0)
    (horder : dOrder e.desc = false) :
    takeUp s c pt e seed = (
      let h : Share := { job := s.eng.jobs + 1, core := c, lead := c, pt := pt, desc := e.desc, num := e.num,
                         seed := seed, phase := 1 }
      takeBlock (learnLost { s with eng := { s.eng with jobs := s.eng.jobs + 1, shares := s.eng.shares ++ [h] } } c) h
        e.words) := by
  simp only [takeUp, releaseShare, himg, horder, if_neg hpat, List.isEmpty_eq_false_iff.mpr hwords, Bool.false_and,
    Bool.not_false, Bool.false_eq_true, and_self, if_true, if_false]

section
variable (howner : ownerOf s c = some pt) (hup : coreUp s c = true) (hactive : passive s c = false)
  (hflush : flushMark s c = none)
  (hidle : (s.eng.shares.any fun h => h.core == c && h.lead == c && h.phase ≤ 2) = false)
  (hfifo : fifoOf s c pt = e :: rest) (himg : e.img = none)
include howner hup hactive hflush hidle hfifo himg

/-- A sound descriptor in stage 0 whose seed is given is taken up. -/
theorem doDescRead_of_sound (hsound : badField e.desc c (runsFor s pt) = none) (hseed : dTrng e.desc = false) :
    doDescRead s c = takeUp (placeImages (setFifo s c pt rest)) c pt e (dSeed e.desc) := by
  simp only [doDescRead, howner, hup, hactive, hflush, hidle, hfifo, himg, hsound, hseed, Option.isSome_none,
    Bool.not_true, Bool.or_self, Bool.false_and, Bool.false_eq_true, if_false]

/-- One with a bad field ends with BAD_FIELD and the field's offset. -/
theorem doDescRead_of_bad (hbad : badField e.desc c (runsFor s pt) = some o) :
    doDescRead s c =
      pumpRecs (endEarly (placeImages (setFifo s c pt rest)) c pt e.num e.desc 32 o (seedGiven e.desc)) := by
  simp only [doDescRead, howner, hup, hactive, hflush, hidle, hfifo, himg, hbad, Option.isSome_none, Bool.not_true,
    Bool.or_self, Bool.false_eq_true, if_false]

end

/-! ORDER_RELEASE (R149). -/

theorem doOrderRelease_of_first
    (hheld : (pumpRecs s).eng.shares.find? (fun h => h.core == c && h.lead == c && h.phase == 0) = some h)
    (hfirst : earlierOpen (pumpRecs s) c h.num = false) :
    doOrderRelease s c = learnLost (putShare (pumpRecs s) (releaseShare h)) c := by
  simp only [doOrderRelease, hheld, hfirst, Bool.false_eq_true, if_false]

/-! PATTERN_FETCH_DONE (R155, R158). -/

/-- A block is its header and the words that the header counts. -/
theorem readBlock_of_reads {t : State} (hhead : seqRead s c seqEng pt (dPat d : Nat) 8 = (.ok w, t))
    (hbody : seqRead t c seqEng pt (dPat d : Nat) (8 * (w % 64 + 1)) = (.ok v, u)) :
    readBlock s c pt d = (.ok (elems 64 (w % 64 + 1) v), u) := by
  unfold readBlock
  simp only [hhead, hbody]

/-- A block that passes the static check starts to expand. -/
theorem takeBlock_of_sound (hsound : staticBreach ws = none) :
    takeBlock s h ws = learnLost (putShare s (beginExpand { h with words := ws })) h.core := by
  simp only [takeBlock, hsound]

theorem doPatternFetch_of_read
    (hfetch : s.eng.shares.find? (fun h => h.core == c && h.lead == c && h.phase == 1) = some h)
    (hread : readBlock s c h.pt h.desc = (.ok ws, u)) : doPatternFetch s c = takeBlock u h ws := by
  simp only [doPatternFetch, hfetch, hread]

/-- Where no descriptor read waits for its block, that of the descriptor in stage 0 is fetched (log 81). -/
theorem doPatternFetch_ahead
    (hnone : s.eng.shares.find? (fun h => h.core == c && h.lead == c && h.phase == 1) = none)
    (howner : ownerOf s c = some pt) (hahead : aheadOf s c pt = some e)
    (hread : readBlock s c pt e.desc = (.ok ws, u)) :
    doPatternFetch s c = setFifo u c pt
      ((fifoOf u c pt).map fun y => if y.num = e.num then { y with words := ws } else y) := by
  simp only [doPatternFetch, hnone, fetchAhead, howner, hahead, hread]

theorem exec_patternFetchDone_of_crossed {core : Core} {x t : State} (ha : alive s = true)
    (howner : ownerOf s core = some pt) (hx : Crossed s core pt x) (hf : doPatternFetch x core = t) :
    exec (.patternFetchDone core) s = .next (walksEnd s t pt) := by
  refine exec_of_alive rfl ha ?_
  simp only [howner, slotted_of_crossed hx, hf]

/-! SEGMENT (R152, R153) and SEGMENT_REPORT (R154). -/

theorem doSegment_of_room
    (hsend : s.eng.shares.find? (fun h => h.core == c && h.lead == c && h.toSend.contains dest) = some h)
    (hup : coreUp s dest = true) (hroom : (segQueue s dest).length < 32) :
    doSegment s c dest = (
      let g : Share := { job := h.job, core := dest, lead := c, pt := h.pt, desc := h.desc, num := h.num,
                         seed := h.seed }
      let s1 := putShare s { h with toSend := h.toSend.filter (· != dest) }
      { s1 with eng := { s1.eng with shares := s1.eng.shares ++ [g] } }) := by
  simp only [doSegment, hsend, hup, Nat.not_le.mpr hroom, decide_false, Bool.not_true, Bool.or_self, Bool.false_eq_true,
    if_false]

/-- A core without a COLLECTIVE has none to close. -/
theorem closeColl_of_none (h0 : collOf s h.core = none) : closeColl s h = s := by
  simp only [closeColl, isColl, h0, Bool.false_eq_true, if_false]

/-- A finished share of a spread descriptor goes to its lead on another core as a report, and is gone. -/
theorem doReport_of_segment
    (hdone : s.eng.shares.find? (fun h => h.core == c && h.lead == lead && h.num == num && h.phase == 3) = some h)
    (hidle : shareIdle s h = true) (hlong : dLong h.desc = true) (hne : c ≠ lead) (hcoll : collOf s h.core = none)
    (hlead : findShare s h.job lead = some l) :
    doReport s c lead num = (
      let r : Report := { job := h.job, core := c, fail := h.fail, mine := h.mine, flags := h.flags, tally := h.tally,
                          start := h.start, fin := h.fin }
      let s1 : State := { s with eng := { s.eng with reports := s.eng.reports ++ [r] } }
      settleLead { s1 with eng := { s1.eng with
        shares := s1.eng.shares.filter fun x => !(x.job == h.job && x.core == c) } } lead) := by
  simp only [doReport, hdone, hidle, hlong, closeColl_of_none hcoll, hlead, if_neg hne, Option.isSome_some,
    Bool.not_true, Bool.or_self, Bool.false_eq_true, if_true, if_false]

/-- Settles O13: each clause is the command's own rule, and a fetched block that passes the static check expands. -/
theorem descriptorsAreRead : Obligations.DescriptorsAreRead := by
  unfold Obligations.DescriptorsAreRead
  refine ⟨?read, ?readFetched, ?readBad, ?release, ?fetch, ?fetchAhead, ?segment, ?report⟩
  case read =>
    exact fun s core pt e rest ha howner hup hactive hflush hidle hfifo himg hwords hsound hseed =>
      exec_of_alive rfl ha ((doDescRead_of_sound howner hup hactive hflush hidle hfifo himg hsound hseed).trans
        (takeUp_of_unfetched himg hwords))
  case readFetched =>
    exact fun s core pt e rest ha howner hup hactive hflush hidle hfifo himg hwords hpat horder hsound hseed =>
      exec_of_alive rfl ha ((doDescRead_of_sound howner hup hactive hflush hidle hfifo himg hsound hseed).trans
        (takeUp_of_fetched himg hwords hpat horder))
  case readBad =>
    exact fun s core pt e rest o ha howner hup hactive hflush hidle hfifo himg hbad =>
      exec_of_alive rfl ha (doDescRead_of_bad howner hup hactive hflush hidle hfifo himg hbad)
  case release => exact fun s core h ha hheld hfirst => exec_of_alive rfl ha (doOrderRelease_of_first hheld hfirst)
  case fetch =>
    exact fun s core pt h w v x t u ha howner hx hfetch hhead hbody hsound =>
      exec_patternFetchDone_of_crossed ha howner hx
        ((doPatternFetch_of_read hfetch (readBlock_of_reads hhead hbody)).trans (takeBlock_of_sound hsound))
  case fetchAhead =>
    exact fun s core pt e ws x u ha howner hx hnone howner' hahead hread =>
      exec_patternFetchDone_of_crossed ha howner hx (doPatternFetch_ahead hnone howner' hahead hread)
  case segment =>
    exact fun s core dest h ha hsend hup hroom => exec_of_alive rfl ha (doSegment_of_room hsend hup hroom)
  case report =>
    exact fun s core lead num h l ha hdone hidle hlong hne hcoll hlead =>
      exec_of_alive rfl ha (doReport_of_segment hdone hidle hlong (Fin.val_ne_of_ne hne) hcoll hlead)

end Sys2Proof.Machine
end

section
/-!
PROOFS. Forming tiles: what a started share emits (R157), the index buffer (R159) and hints to the tier (R165, R296).
-/

namespace Sys2Proof.Machine

variable {s t : State} {c n va : Nat} {seg : Bool} {h k : Share}

/-! TILE_EMIT (R153, R157). -/

/-- A share that is begun reads nothing before it emits: it runs to its next tile at once. -/
theorem exec_tileEmit_of_begun {core : Core} (ha : alive s = true) (hup : coreUp s core = true)
    (hctx : ctxShare s core seg = some h) (hbegun : h.begun = true) (hf : doTileEmit s core seg = t) :
    exec (.tileEmit core seg) s = .next t := by
  refine exec_of_alive rfl ha ?_
  simp only [hup, hctx, hbegun, Bool.not_true, Bool.false_and, Bool.false_eq_true, if_false, hf]

theorem doTileEmit_of_tile {rs : List Rows} {w : Nat} {aux : List Nat} (hctx : ctxShare s c seg = some h)
    (hbegun : h.begun = true) (hrun : Share.patRun patBudget h = (k, .tile rs w aux)) :
    doTileEmit s c seg = settleLead (takeTile (putShare s h) k rs w aux) h.lead := by
  simp only [doTileEmit, hctx, hbegun, hrun, if_true]

/-- A share whose pattern ends is expanded. -/
theorem doTileEmit_of_fin (hctx : ctxShare s c seg = some h) (hbegun : h.begun = true)
    (hrun : Share.patRun patBudget h = (k, .fin)) :
    doTileEmit s c seg = settleLead (putShare (putShare s h) { k with phase := 3 }) h.lead := by
  simp only [doTileEmit, hctx, hbegun, hrun, if_true]

/-! INDEX_ARRIVAL (R159). -/

/-- An empty index buffer holds no line. -/
theorem filter_not_buffered_nil (ls : List Nat) : (ls.filter fun va => !buffered [] va) = ls :=
  List.filter_eq_self.mpr fun _ _ => rfl

/-- The lines of the index that a share with an empty buffer waits for come in, and those read ahead (log 139). -/
theorem doIndexArrival_of_empty {ahead : Nat} {a : Int} {m : Store Nat} (hctx : ctxShare s c seg = some k)
    (hwant : k.want = some (a, n)) (hbuf : k.ibuf = []) (hlines : rangeLines a.toNat n ≠ [])
    (hread : seqLines s c seqEng k.pt a n = (.ok m, t)) :
    doIndexArrival s c seg ahead = (
      let m0 := (rangeLines a.toNat n).foldl (fun b va => Store.ins b va (Store.get 0 m va)) []
      let next := ((upTo 32).map fun i => (a.toNat / 128 + i) * 128).take ((rangeLines a.toNat n).length + ahead)
      let f := fillIndex t c k.pt m0 next
      putShare f.2 { k with ibuf := f.1 }) := by
  simp only [doIndexArrival, hctx, hwant, hbuf, List.filter_nil, filter_not_buffered_nil,
    List.isEmpty_eq_false_iff.mpr hlines, hread, Bool.false_eq_true, and_false, if_false]

/-! TIER_HINT (R165, R296). -/

/-- A hint for a block of a tile within TIER_AHEAD goes to the tier controller where the block lies in tier space. -/
theorem doTierHintCmd_of_tier {x : Tile} {a : Nat}
    (htile : (readyOf s c seg.toNat).find? (fun x => x.t == n && x.rows.any fun r =>
      (rowVas r).any fun a => decide (a ≤ va ∧ va < a + r.bytes)) = some x)
    (hnear : n + 1 ≤ Store.get 0 s.eng.sent (x.job * 16 + c) + getF s (SCORE.TIER_AHEAD_TILES c))
    (hplace : pagePlace s c seqEng x.pt va 0 = (.ok (.tier a), t)) :
    doTierHintCmd s c seg n va = tierHint t x.pt ((a + va % 65536) / 4096) := by
  simp only [doTierHintCmd, htile, if_pos hnear, hplace]

/-- Settles O14: each clause is the command's own rule on a core in service. -/
theorem tilesAreFormed : Obligations.TilesAreFormed := by
  unfold Obligations.TilesAreFormed
  refine ⟨?emit, ?emitEnd, ?index, ?hint⟩
  case emit =>
    exact fun s core seg h k rs w aux ha hup hctx hbegun hrun =>
      exec_tileEmit_of_begun ha hup hctx hbegun (doTileEmit_of_tile hctx hbegun hrun)
  case emitEnd =>
    exact fun s core seg h k ha hup hctx hbegun hrun =>
      exec_tileEmit_of_begun ha hup hctx hbegun (doTileEmit_of_fin hctx hbegun hrun)
  case index =>
    intro s core seg ahead h k a n m x t ha hup hctx hx hctx' hwant hbuf hlines hread
    refine exec_of_alive rfl ha ?_
    simp only [hup, hctx, slotted_of_crossed hx, doIndexArrival_of_empty hctx' hwant hbuf hlines hread, Bool.not_true,
      Bool.false_eq_true, if_false]
  case hint =>
    exact fun s core seg n va a x t ha hup htile hnear hplace =>
      exec_of_coreUp rfl ha hup (doTierHintCmd_of_tier htile hnear hplace)

end Sys2Proof.Machine
end

section
/-!
PROOFS. Tiles in engines: dispatch (R160, R161), execution (R163, R166), attempts after detections (R206, R209), and the
end of a tile (R166).
-/

namespace Sys2Proof.Machine

variable {s t u v w : State} {c e k ctx found ahead : Nat} {bad : List Nat} {ties : Ties} {x y : Tile} {h : Share}
  {q : Coll} {m : Store Place} {ls : List (Nat × Nat)} {got : Store Nat} {hold : Nat → Nat → Bool}

/-- Where no COLLECTIVE runs none stops. -/
theorem collStopNow_of_none (hcoll : collOf s c = none) : collStopNow s c = s := by
  simp only [collStopNow, hcoll]

/-! TILE_DISPATCH (R160, R161). -/

/-- The state in which tile `x`, the head of context `ctx`, has gone to the engine that serves logical engine `k`. -/
def dispatched (s : State) (c ctx : Nat) (x : Tile) (k : Nat) : State :=
  let ce := engIdx c (engMap s c k)
  let s1 := setQueueAt (setReady s c ctx ((readyOf s c ctx).drop 1)) ce (queueAt s ce ++ [x])
  { s1 with eng := { s1.eng with turn := Store.set 0 s1.eng.turn c ((k + 1) % 8)
                                 sent := Store.set 0 s1.eng.sent (x.job * 16 + c) (x.t + 1) } }

@[simp] theorem collOf_dispatched : collOf (dispatched s c ctx x k) c = collOf s c := rfl

/-- The head tile that an engine has room for goes to it; a collective one reserves its slots. -/
theorem doTileDispatch_of_room (hstop : collStopNow s c = s)
    (hroom : ((readyHeads s c).findSome? fun p => (engineFor s c p.2).map fun k => (p.1, p.2, k)) = some (ctx, x, k)) :
    doTileDispatch s c = reserveSlots (dispatched s c ctx x k) c x := by
  simp only [doTileDispatch, hstop, hroom, dispatched]

theorem reserveSlots_of_none (hcoll : collOf s c = none) : reserveSlots s c x = s := by
  simp only [reserveSlots, hcoll]

/-- The slots of a tile of the COLLECTIVE that holds none yet are reserved, and its grants sent (R230). -/
theorem reserveSlots_of_new (hcoll : collOf s c = some q) (hjob : q.job = x.job)
    (hnew : (q.tiles.any fun y => y.t == x.t) = false) :
    reserveSlots s c x = sendGrants (setColl s c (some { q with tiles := q.tiles ++ [{ t := x.t }] })) q c x.t := by
  simp only [reserveSlots, hcoll, hjob, hnew, Bool.not_false, and_self, if_true]

/-! TILE_EXECUTE (R163, R166). -/

/-- An engine without a parity error in its TLB keeps it (Table 07-10). -/
theorem dropEngTlb_of_ne {i : Nat} (hne : found ≠ 10) : dropEngTlb s i found = s := if_neg hne

/-- A tile that goes on with its attempt takes no new injection; its share's start is noted. -/
theorem startTile_of_begun (hst : x.st = 0) (hbegun : x.begun = true) :
    startTile s e x = (x, onShare (putTile s e x) x.job x.core fun h =>
      { h with start := minStart h.start (some s.time.ft) }) := by
  have hne : ¬ x.st = 3 := by omega
  simp only [startTile, if_neg hne, hbegun, if_true]

/-- The attempt of a tile of an ordinary descriptor whose checks detect nothing starts to write its results. -/
theorem runTile_of_clean {keys : Store Nat} (hcore : x.core = c) (himg : h.img = none)
    (hclean : detection x found = none)
    (hgood : (tileResult s h x (joinBuf (residentOf s (engIdx c e) x.job) x.input)).bad = false) :
    runTile s e h x keys found bad hold = (
      let buf := joinBuf (residentOf s (engIdx c e) x.job) x.input
      let o := tileResult s h x buf
      let k := tileWrites s x keys o
      startWrites (castTile k.2 h x buf) e { x with
        out := k.1, flags := o.flags, tally := o.tally, hint := if dOp h.desc = 6 then o.hint else none }
        found bad hold) := by
  simp only [runTile, hcore, hclean, hgood, himg, Option.isSome_none, Bool.false_eq_true, if_false]

/-- The lines of the streams that a tile reads which engine `i` does not hold. -/
def missingReads (s : State) (i : Nat) (h : Share) (x : Tile) : List Nat :=
  linesMissing (joinBuf (residentOf s i x.job) x.input) (rowsOf x (readStreams h.desc))

/-- A tile whose pages translate and whose lines are reached and fetched runs, and the fetch unit runs ahead. -/
theorem fetchTile_of_fetched (hcore : x.core = c) (himg : h.img = none) (hop : dOp h.desc ≠ 13)
    (hpages : tilePages s e x (rowsOf x (readStreams h.desc)) (rowsOf x (writeStreams h.desc)) = (.ok m, t))
    (hreach : reachLines t c e x.pt ((firstOf (fun v => v) (missingReads t (engIdx c e) h x
      ++ linesOf (rowsOf x (writeStreams h.desc)))).map fun v => (v, linePlace m v)) = (.ok ls, u))
    (hhold : ((ls.filter fun p => (missingReads t (engIdx c e) h x).contains p.1).any fun p => hold p.2 p.1) = false)
    (hfetch : fetchLines u c e x.pt (ls.filter fun p => (missingReads t (engIdx c e) h x).contains p.1) = (.ok got, v))
    (hkeep : keepLines v (engIdx c e) h x got = (y, w)) :
    fetchTile s e h x found bad ahead hold =
      runAhead (runTile (putTile w e y) e h y (keyMap ls) found bad hold) c e ahead := by
  simp only [missingReads] at hreach hhold hfetch
  simp only [fetchTile, hcore, himg, hpages, hreach, hhold, hfetch, hkeep, if_neg hop, Option.isSome_none,
    Bool.false_eq_true, if_false]

/-- The head tile of an engine, of an ordinary descriptor and under way, goes on over the core's links. -/
theorem doTileExecute_of_head (hcoll : collOf s c = none) (hhead : (queueAt s (engIdx c e)).head? = some x)
    (hshare : findShare s x.job c = some h) (hst : x.st = 0) (hop : dOp h.desc ≠ 7) (hfound : found ≠ 10) :
    doTileExecute s c e found bad ahead ties = slotted s c x.pt fun s =>
      let p := startTile s e x
      fetchTile p.2 e h p.1 found bad ahead (yields p.2 ties (engIdx c e) p.1.pt) := by
  have hready : ¬(x.st ≠ 0 ∧ x.st ≠ 3) := fun hne => hne.1 hst
  have hother : ¬(dOp h.desc = 7 ∧ (!collFull s c x.t (collLines h.desc x.rows)) = true) := fun heq => hop heq.1
  simp only [doTileExecute, collStopNow_of_none hcoll, dropEngTlb_of_ne hfound, hhead, hshare, if_neg hready,
    if_neg hother]

/-! TILE_REEXECUTE and DET_LIMIT (R206, R209). -/

theorem doTileReexecute_of_detected (hhead : (queueAt s (engIdx c e)).head? = some x) (hst : x.st = 1) :
    doTileReexecute s c e = nextAttempt s e x := by
  simp only [doTileReexecute, hhead, if_pos hst]

/-- After a detection in attempt 1, below the limit, attempt 2 is on the same engine. -/
theorem nextAttempt_of_first (hattempt : x.attempt = 1)
    (hbelow : getF s (ENG.DET_SINCE_ST_COUNT (engIdx x.core e)) < 8) :
    nextAttempt s e x = putTile (bumpF (recordDx 3 s x.pt) (ENG.REEXEC_SECOND (engIdx x.core e))) e
      { x with attempt := 2, st := 0 } := by
  have hthird : ¬ x.attempt = 3 := by omega
  have hfails : ¬(x.attempt = 2 ∨ 8 ≤ getF s (ENG.DET_SINCE_ST_COUNT (engIdx x.core e))) := by omega
  simp only [nextAttempt, if_neg hthird, if_neg hfails]

/-- After one in attempt 2 the engine fails. -/
theorem nextAttempt_of_second (hattempt : x.attempt = 2) :
    nextAttempt s e x =
      engineFails (putTile (recordDx 3 s x.pt) e { x with attempt := 3, st := 3, input := [] }) x.core e false := by
  have hthird : ¬ x.attempt = 3 := by omega
  simp only [nextAttempt, if_neg hthird, if_pos (Or.inl hattempt)]

/-- After one in attempt 3 the tile fails. -/
theorem nextAttempt_of_third (hattempt : x.attempt = 3) : nextAttempt s e x = failTile (datapathEntry s e x) e x 35 0 :=
  if_pos hattempt

/-- An engine with no tile fails at the limit of detections. -/
theorem doDetLimit_of_idle (hlimit : 8 ≤ getF s (ENG.DET_SINCE_ST_COUNT (engIdx c e)))
    (hserves : engFailed s c e = false) (hidle : queueAt s (engIdx c e) = []) :
    doDetLimit s c e = engineFails s c e false := by
  simp only [doDetLimit, Nat.not_lt.mpr hlimit, hserves, hidle, List.head?_nil, Bool.false_eq_true, or_self, if_false]

/-! TILE_DONE (R166). -/

/-- A tile whose writes are all given to the slices and complete there is done. -/
theorem doTileDone_of_written (hhead : (queueAt s (engIdx c e)).head? = some x) (hshare : findShare s x.job c = some h)
    (hst : x.st = 2) (hfail : takeFail s (engIdx c e) = (none, t))
    (hissue : issueWrites c e x.pt x.hint (yields t ties (engIdx c e) x.pt) x.out t = ([], u))
    (hdone : x.lines.any (writePending (putTile u e { x with out := [] }) (engIdx c e)) = false) :
    doTileDone s c e ties = finishTile (putTile u e { x with out := [] }) e h x := by
  have hwrites : ¬(x.st ≠ 2 ∧ x.st ≠ 4) := fun hne => hne.1 hst
  have hfour : ¬ x.st = 4 := by omega
  simp only [doTileDone, hhead, hshare, if_neg hwrites, hfail, hissue, hdone, if_neg hfour, List.isEmpty_nil,
    Bool.not_true, Bool.or_self, Bool.false_eq_true, if_false]

/-- Settles O15: each clause is the command's own rule on a core in service; an execution is its start, its fetches and
its attempt in turn. -/
theorem tilesInEngines : Obligations.TilesInEngines := by
  unfold Obligations.TilesInEngines
  refine ⟨?dispatch, ?dispatchColl, ?execute, ?first, ?second, ?third, ?limit, ?done⟩
  case dispatch =>
    exact fun s core ctx x k ha hup hcoll hroom =>
      exec_of_coreUp rfl ha hup ((doTileDispatch_of_room (collStopNow_of_none hcoll) hroom).trans
        (reserveSlots_of_none (collOf_dispatched.trans hcoll)))
  case dispatchColl =>
    exact fun s core ctx x k q ha hup hstop hroom hcoll hjob hnew =>
      exec_of_coreUp rfl ha hup ((doTileDispatch_of_room hstop hroom).trans
        (reserveSlots_of_new (collOf_dispatched.trans hcoll) hjob hnew))
  case execute =>
    intro s core eng found bad ahead ties x y h m ls got a b t u v w ha hup hcoll hhead hshare hcore hst hbegun hop7
      hop13 himg hfound hx hstart hpages hreach hhold hfetch hkeep hcore' hclean hgood
    refine exec_of_coreUp rfl ha hup ((doTileExecute_of_head hcoll hhead hshare hst hop7 hfound).trans ?_)
    rw [slotted_of_crossed hx]
    simp only [startTile_of_begun hst hbegun, hcore, hstart,
      fetchTile_of_fetched hcore himg hop13 hpages hreach hhold hfetch hkeep, runTile_of_clean hcore' himg hclean hgood]
  case first =>
    exact fun s core eng x ha hup hhead hst hattempt hbelow =>
      exec_of_coreUp rfl ha hup ((doTileReexecute_of_detected hhead hst).trans (nextAttempt_of_first hattempt hbelow))
  case second =>
    exact fun s core eng x ha hup hhead hst hattempt =>
      exec_of_coreUp rfl ha hup ((doTileReexecute_of_detected hhead hst).trans (nextAttempt_of_second hattempt))
  case third =>
    exact fun s core eng x ha hup hhead hst hattempt =>
      exec_of_coreUp rfl ha hup ((doTileReexecute_of_detected hhead hst).trans (nextAttempt_of_third hattempt))
  case limit =>
    exact fun s core eng ha hup hlimit hserves hidle =>
      exec_of_coreUp rfl ha hup (doDetLimit_of_idle hlimit hserves hidle)
  case done =>
    exact fun s core eng ties x h t u ha hup hhead hshare hst hfail hissue hdone =>
      exec_of_coreUp rfl ha hup (doTileDone_of_written hhead hshare hst hfail hissue hdone)

end Sys2Proof.Machine
end

section
/-!
PROOFS. The self-test of engines and the injection of detections (R172, R174, R212).
-/

namespace Sys2Proof.Machine

variable {s t : State} {c e k b : Nat}

/-- A rotation step with a spare tests the next engine, whose work the spare takes over (R172). -/
theorem doRotationStep_of_spare (ht : t = atPeriodic s (16 + c) 268435456 ((4096 * c + 2048) * 4096 + 32 * 64))
    (hspare : getF t (SCORE.SPARE_STS_SPARE c) = 8) (hrot : flag t (SCORE.ST_CTL_ROT_EN c) = true)
    (hidle : testedEngine t c = none) (hnext : getF t (SCORE.SPARE_STS_NEXT_STEP c) = k) (hk : k < 8) :
    doRotationStep s c = (let s1 := setF t (SCORE.SPARE_STS_NEXT_STEP c) ((k + 1) % 9)
      let s2 := { s1 with eng := { s1.eng with testing := Store.set 0 s1.eng.testing c (k + 1) } }
      setF (setB (setMap s2 c k 8) (SCORE.SPARE_STS_STANDIN c) true) (SCORE.SPARE_STS_STANDIN_FOR c) k) := by
  simp only [doRotationStep, ← ht, hspare, hrot, hidle, hnext, if_neg (Nat.not_le.mpr hk), ne_eq, not_true_eq_false,
    Option.isSome_none, Bool.not_true, Bool.false_eq_true, or_self, if_false]

/-- The state in which the test of engine `e` has ended with the failing block `b`, or passed with 0: it is counted and
ST_LAST shows it. -/
def testEnded (s : State) (c e b : Nat) : State :=
  let s1 := setF (setB (bumpF s (ENG.ST_COUNT_RUNS (engIdx c e))) (SCORE.ST_LAST_PASS c) (b == 0))
    (SCORE.ST_LAST_UNIT c) e
  endTest (setF (setB s1 (SCORE.ST_LAST_ABORTED c) false) (SCORE.ST_LAST_BLOCK c) b) c

/-- A passed test of an engine that is not the spare clears its detections and ends the stand-in. -/
theorem doSelftestDone_of_passed (htest : testedEngine s c = some e) (hidle : queueAt s (engIdx c e) = [])
    (he : e ≠ 8) :
    doSelftestDone s c 0 = endStandin (setF (testEnded s c e 0) (ENG.DET_SINCE_ST_COUNT (engIdx c e)) 0) c := by
  simp only [doSelftestDone, htest, hidle, testEnded, if_neg he, List.isEmpty_nil, Bool.not_true, Bool.false_eq_true,
    if_true, if_false]

/-- A failed test is counted and logged, and fails the engine (R174). -/
theorem doSelftestDone_of_failed (htest : testedEngine s c = some e) (hidle : queueAt s (engIdx c e) = [])
    (hb : b ≠ 0) :
    doSelftestDone s c b = engineFails
      (engineEntry (bumpF (testEnded s c e b) (ENG.ST_COUNT_FAILS (engIdx c e))) c e 4 true) c e true := by
  simp only [doSelftestDone, htest, hidle, testEnded, if_neg hb, List.isEmpty_nil, Bool.not_true, Bool.false_eq_true,
    if_false]

/-- Settles O17: each clause is the command's own rule on a core in service. -/
theorem selfTestAndInjection : Obligations.SelfTestAndInjection := by
  unfold Obligations.SelfTestAndInjection
  refine ⟨?step, ?passed, ?failed, ?inject⟩
  case step =>
    exact fun s core t k ha hup ht hspare hrot hidle hnext hk =>
      exec_of_coreUp rfl ha hup (doRotationStep_of_spare ht hspare hrot hidle hnext hk)
  case passed =>
    exact fun s core e ha hup htest hidle he => exec_of_coreUp rfl ha hup (doSelftestDone_of_passed htest hidle he)
  case failed =>
    intro s core b e ha hup htest hidle hb
    have hfail : (b.val == 0) = false := beq_false_of_ne hb
    refine exec_of_coreUp rfl ha hup ((doSelftestDone_of_failed htest hidle hb).trans ?_)
    simp only [testEnded, hfail]
  case inject =>
    intro s core eng v ha hgo hfree hserves hup
    have hasked : ¬(!v.testBit 0) = true := by rw [hgo]; exact Bool.false_ne_true
    refine exec_of_coreUp rfl ha hup ((if_neg hasked).trans (if_neg ?_))
    rw [hfree, hserves]
    exact Bool.false_ne_true

end Sys2Proof.Machine
end

section
/-!
PROOFS. ROOT of a hash descriptor and the lines of a collective's contributors (R205, R207, R225, R231).
-/

namespace Sys2Proof.Machine

variable {s t u : State} {c e pt num v pid n j data : Nat} {found : Bool} {h : Share} {k : Coll} {x : CollTile}

/-! ROOT_COMPUTE (R225, R207). -/

section
variable (hdue : s.eng.shares.find? (fun h => h.core == c && h.lead == c && h.num == num && rootDue h) = some h)
  (hready : rootReady s h = true)
include hdue hready

/-- The leaves read back are hashed with the length, and the root may settle the descriptor. -/
theorem doRootCompute_of_read (hleaves : h.emitted ≠ 0) (himg : h.img = none)
    (hread : seqRead s c e h.pt h.leaf0 (64 * h.emitted) = (.ok v, t)) :
    doRootCompute s c e num false = settleLead (onShare t h.job c fun h' =>
      { h' with root := some (sha3 (Keccak.toBytes (64 * h.emitted) v ++ le 8 (rootTotal s h))) }) c := by
  have hstored : ¬(h.emitted = 0 ∨ h.img.isSome = true) := by simp [hleaves, himg]
  simp only [doRootCompute, hdue, hready, hread, if_neg hstored, Bool.not_true, Bool.false_eq_true, if_false]

/-- A detection in the sponge state is recorded on the engine and fails the descriptor as DATAPATH behind its last tile
(R207). -/
theorem doRootCompute_of_detected :
    doRootCompute s c e num true = (
      let f : TileFail := { tile := h.emitted, below := h.mine, status := 35, detail := 0, offset := 2 ^ 48 - 1 }
      let i := engIdx c e
      let s1 := onShare (faultEntry (noteDetection s i 7 1 false false) 17 1 (some h.pt) (0x0200 + i) i h.emitted)
        h.job c fun h => { h with fail := some f }
      let rs := s1.eng.reports.map fun r => if r.job = h.job ∧ r.core = c then { r with fail := some f } else r
      settleLead { s1 with eng := { s1.eng with reports := rs } } c) := by
  simp only [doRootCompute, hdue, hready, Bool.not_true, Bool.false_eq_true, if_true, if_false]

end

/-- ROOT_COMPUTE by an engine that its partition uses goes over core links. -/
theorem exec_rootCompute_of_crossed {core : Core} {eng : Eng} (ha : alive s = true) (hup : coreUp s core = true)
    (howner : ownerOf s core = some pt) (hmapped : (logicalOf s core eng).isSome = true) (hx : Crossed s core pt u)
    (hf : doRootCompute u core eng num found = t) :
    exec (.rootCompute ⟨core, eng⟩ num found) s = .next (walksEnd s t pt) := by
  refine exec_of_alive rfl ha ?_
  simp only [howner, hup, hmapped, slotted_of_crossed hx, hf, Bool.and_self, if_true]

/-! COLL_PUT (R231). -/

/-- A line that its tile expects and has not seen from this contributor is added into the tile's slots. -/
theorem doCollPut_of_expected (hcoll : collOf s c = some k) (htile : k.tiles.find? (·.t == n) = some x)
    (hshare : findShare s k.job c = some h) (hruns : k.stop = none) (hpid : k.pids.contains pid = true)
    (hline : j < collLines h.desc
      ((((heldTiles s c).find? fun y => y.job == k.job && y.t == n).map (·.rows)).getD []))
    (hnew : x.seen.contains (pid, j) = false) :
    doCollPut s c pid n j data = (
      let y := { collAdd h.desc j data x with seen := x.seen ++ [(pid, j)] }
      setColl s c (some { k with tiles := k.tiles.map fun z => if z.t = n then y else z })) := by
  simp only [doCollPut, hcoll, htile, hshare, hruns, hpid, hnew, Nat.not_le.mpr hline, Option.isSome_none,
    Bool.not_true, decide_false, Bool.or_self, Bool.false_eq_true, if_false]

/-- Where no COLLECTIVE runs a line is counted and discarded. -/
theorem doCollPut_of_none (hcoll : collOf s c = none) :
    doCollPut s c pid n j data = bumpF s (SCORE.COLL_DROPPED_COUNT c) := by
  simp only [doCollPut, hcoll]

/-- Settles O16: each clause is the command's own rule on a core in service, and ROOT_COMPUTE reads the leaves over core
links. -/
theorem rootAndCollectives : Obligations.RootAndCollectives := by
  unfold Obligations.RootAndCollectives
  refine ⟨?root, ?detected, ?put, ?dropped⟩
  case root =>
    exact fun s core eng pt num h v a t ha hup howner hmapped hx hdue hready hleaves himg hread =>
      exec_rootCompute_of_crossed ha hup howner hmapped hx (doRootCompute_of_read hdue hready hleaves himg hread)
  case detected =>
    exact fun s core eng pt num h a ha hup howner hmapped hx hdue hready =>
      exec_rootCompute_of_crossed ha hup howner hmapped hx (doRootCompute_of_detected hdue hready)
  case put =>
    exact fun s core pid n j data k x h ha hup hcoll htile hshare hruns hpid hline hnew =>
      exec_of_coreUp rfl ha hup (doCollPut_of_expected hcoll htile hshare hruns hpid hline hnew)
  case dropped =>
    exact fun s core pid n j data ha hup hcoll => exec_of_coreUp rfl ha hup (doCollPut_of_none hcoll)

end Sys2Proof.Machine
end

section
/-!
PROOFS. Scheduling of the DRAM: requests that enter their queues (R254, R255, R268), ages and data windows (R256), and
REFRESH slots (R260, R261, R438).
-/

namespace Sys2Proof.Machine

variable {s t : State} {f : State → State} {i : Instr} {c k pc : Nat} {r : DramReq}

/-- A command of a stack that takes commands leads where its meaning does. -/
theorem exec_of_stackLive (hi : exec i s = .next (whenAlive s fun s => if stackLive s c then f s else s))
    (ha : alive s = true) (hlive : stackLive s c = true) (hf : f s = t) : exec i s = .next t :=
  exec_of_alive hi ha ((if_pos hlive).trans hf)

theorem admitTag_of_room (hroom : dirRoom (pcQueue s k) r.write = true) : admitTag s k r = enterQueue s k r :=
  if_pos hroom

/-- The oldest uncounted request of a queue is counted at its age limit, and only once (R256). -/
theorem doAgeExpired_of_uncounted (hdet : detOn s = false)
    (hreq : (pcQueue s (pcKey c pc)).find? (fun r => !r.aged) = some r) :
    doAgeExpired s c pc = (let k := pcKey c pc
      let s1 := advanceEl s (r.since + getF s (DRC.AGE_LIMIT_NS c))
      bumpF (setPcQueue s1 k ((pcQueue s1 k).map fun x => if x = r then { x with aged := true } else x))
        (DRC.AGE_EXPIRED_COUNT c)) := by
  simp only [doAgeExpired, hdet, hreq, Bool.false_eq_true, if_false]

/-- Outside deterministic mode a window in a slot that is neither REFRESH nor MAINT goes by rank, while no BIST runs. -/
theorem doDataWindow_of_detOff (ht : t = atPeriodic s (4096 + pcKey c pc) 4 0) (hft : 48 ≤ t.time.ft)
    (hrefresh : isKind (coreEntry t c (ctlSlot t.time.ft)) 4 = false)
    (hmaint : isKind (coreEntry t c (ctlSlot t.time.ft)) 5 = false) (hbist : Store.get 0 t.dram.bist c = 0)
    (hdet : detOn t = false) : doDataWindow s c pc = windowOff t c pc t.time.ft := by
  simp only [doDataWindow, ← ht, decide_eq_false (Nat.not_lt.mpr hft), hrefresh, hmaint, hbist, hdet,
    bne_self_eq_false, Bool.or_self, Bool.false_eq_true, if_false]

/-- The request of the highest rank is transferred where the window does not turn the direction of the one just
before. -/
theorem windowOff_of_unturned {ft : Nat}
    (hfirst : firstBy (fun a b => offRank s (pcKey c pc) b < offRank s (pcKey c pc) a)
      ((pcQueue s (pcKey c pc)).filter (canGo s c pc ft)) = some r)
    (hdir : (Store.get (0, 0) s.dram.lastWr (pcKey c pc)).1 = 0 ∨
      (Store.get (0, 0) s.dram.lastWr (pcKey c pc)).1 = dirNow r ∨
      (Store.get (0, 0) s.dram.lastWr (pcKey c pc)).2 + 4 ≠ s.time.elapsed) :
    windowOff s c pc ft = transfer s c pc r := by
  have hstays : ¬((Store.get (0, 0) s.dram.lastWr (pcKey c pc)).1 ≠ 0 ∧
      (Store.get (0, 0) s.dram.lastWr (pcKey c pc)).1 ≠ dirNow r ∧
      (Store.get (0, 0) s.dram.lastWr (pcKey c pc)).2 + 4 = s.time.elapsed) := by
    rintro ⟨hset, hother, hjust⟩
    exact hdir.elim hset fun h => h.elim hother (absurd hjust)
  simp only [windowOff, hfirst, if_neg hstays]

/-- A REFRESH slot is counted, and a stack that takes commands refreshes its banks in it (R260, R438). -/
theorem doRefreshSlot_of_slot (hslot : toKind s c 4 (8192 + c) = some t) :
    doRefreshSlot s c = (let n := Store.get 0 t.dram.refresh c
      let u := { t with dram := { t.dram with refresh := Store.set 0 t.dram.refresh c (n + 1) } }
      if stackLive t c then refreshBanks u c n else u) := by
  simp only [doRefreshSlot, hslot]

/-- Settles O18: each clause is the command's own rule on a stack that takes commands; a REFRESH slot is counted on
every core in service. -/
theorem dramScheduling : Obligations.DramScheduling := by
  unfold Obligations.DramScheduling
  refine ⟨?request, ?age, ?window, ?refresh, ?off⟩
  case request =>
    exact fun s core off src port write part ha hlive hroom => exec_of_stackLive rfl ha hlive (admitTag_of_room hroom)
  case age =>
    exact fun s core pc r ha hlive hdet hreq => exec_of_stackLive rfl ha hlive (doAgeExpired_of_uncounted hdet hreq)
  case window =>
    exact fun s core pc t r ha hlive ht hft hrefresh hmaint hbist hdet hfirst hdir =>
      exec_of_stackLive rfl ha hlive ((doDataWindow_of_detOff ht hft hrefresh hmaint hbist hdet).trans
        (windowOff_of_unturned hfirst hdir))
  case refresh =>
    exact fun s core t ha hup hslot hlive =>
      exec_of_coreUp rfl ha hup ((doRefreshSlot_of_slot hslot).trans (if_pos hlive))
  case off =>
    exact fun s core t ha hup hslot hlive =>
      exec_of_coreUp rfl ha hup ((doRefreshSlot_of_slot hslot).trans (if_neg (Bool.eq_false_iff.mp hlive)))

end Sys2Proof.Machine
end

section
/-!
PROOFS. Correction of DRAM lines: reads that the decoder corrects or gives up (R267 to R271), write-back (R268), the
erasure of pins (R267), and MAINT slots (R262, R273).
-/

namespace Sys2Proof.Machine

variable {s t u : State} {c off src pc p : Nat} {es l : List (Nat × Nat)} {bad : List Nat}
  {again : List (Nat × List (Nat × Nat))} {e : WbEntry}

/-! DRAM_READ_DATA (R268, R270, R271). -/

section
variable (ht : t = (if es.isEmpty then s else setErrors s (memKey c (keptOff s c off)) es))
include ht

theorem doReadData_of_corrected (hread : readOutcome t (memKey c (keptOff s c off)) = some l) (hl : l ≠ []) :
    doReadData s c off src es = ceRead t (memKey c (keptOff s c off)) l false := by
  cases l with
  | nil => exact absurd rfl hl
  | cons x xs => simp only [doReadData, ← ht, hread]

/-- A read for the module's own structures that cannot be corrected is counted here and repaired (R271). -/
theorem doReadData_of_uncorrectable (hread : readOutcome t (memKey c (keptOff s c off)) = none) (hone : src ≠ 1)
    (hthree : src ≠ 3) :
    doReadData s c off src es =
      ueArea (ueRead t (memKey c (keptOff s c off)) false) (memKey c (keptOff s c off)) := by
  simp only [doReadData, ← ht, hread, hone, hthree, or_self, false_and, if_false]

end

/-! CORRECTED_WRITEBACK (R268) and PIN_ERASED (R267). -/

theorem doWriteback_of_detOff (hdet : detOn s = false) (hentry : (wbEntries s c).find? (fun e => !e.written) = some e) :
    doWriteback s c = (
      let s1 := setWb s c ((wbEntries s c).map fun x => if x = e then { x with written := true } else x)
      pushDram (rewriteLine s1 e.line) c (lineOff e.line) 5 0 true false) := by
  simp only [doWriteback, hdet, hentry, Bool.false_eq_true, if_false]

theorem doPinErased_of_auto (hauto : flag s (EDAC.REMAP_CTL_ERASE_AUTO c) = true)
    (hfree : flag s (EDAC.ERASE_EN c pc) = false)
    (hpin : (upTo 36).find? (fun p => decide (64 ≤ (Store.get [] s.dram.pinRows (bankKey c pc p)).length)) = some p) :
    doPinErased s c pc = raise (setB (setB (setF s (EDAC.ERASE_PIN c pc) p) (EDAC.ERASE_EN c pc) true)
      (EDAC.ERASE_AUTO_SET c pc) true) (0x0320 + c) 4 := by
  simp only [doPinErased, hauto, hfree, hpin, Bool.not_true, Bool.or_self, Bool.false_eq_true, if_false]

/-! MAINT_SLOT (R262, R273). -/

section
variable (hslot : toKind s c 5 (8208 + c) = some t) (hrepaired : remapSts (doRepairs t c) c = u)
  (hcopied : copyingEntry u c = none)
include hslot hrepaired hcopied

/-- Where no remap copies and training is due, a MAINT slot trains the stack. -/
theorem doMaintSlot_of_training (hdue : maintDue u c 0 = true) : doMaintSlot s c bad again = trainStack u c bad := by
  simp only [doMaintSlot, hslot, hrepaired, hcopied, hdue, Bool.true_or, if_true]

/-- Where no remap copies and neither training nor calibration is due, a MAINT slot scrubs. -/
theorem doMaintSlot_of_idle (htrained : maintDue u c 0 = false) (hcalibrated : maintDue u c 1 = false)
    (hfailed : u.dram.failed = []) : doMaintSlot s c bad again = scrubStep u c again := by
  simp only [doMaintSlot, hslot, hrepaired, hcopied, htrained, hcalibrated, hfailed, List.any_nil, Bool.or_self,
    Bool.false_eq_true, if_false]

end

/-- Settles O19: each clause is the command's own rule on a stack that takes commands; reads and MAINT slots end with
the check for three channels (R19). -/
theorem dramCorrection : Obligations.DramCorrection := by
  unfold Obligations.DramCorrection
  refine ⟨?corrected, ?bad, ?writeback, ?pin, ?scrub, ?train⟩
  case corrected =>
    exact fun s core off src es l t ha hlive ht hread hl =>
      exec_of_stackLive rfl ha hlive (congrArg (checkChannels · core) (doReadData_of_corrected ht hread hl))
  case bad =>
    exact fun s core off es t ha hlive ht hread =>
      exec_of_stackLive rfl ha hlive
        (congrArg (checkChannels · core) (doReadData_of_uncorrectable ht hread (by decide) (by decide)))
  case writeback =>
    exact fun s core e ha hlive hdet hentry => exec_of_stackLive rfl ha hlive (doWriteback_of_detOff hdet hentry)
  case pin =>
    exact fun s core pc p ha hlive hauto hfree hpin =>
      exec_of_stackLive rfl ha hlive (doPinErased_of_auto hauto hfree hpin)
  case scrub =>
    exact fun s core bad again t u ha hlive hslot hrepaired hcopied htrained hcalibrated hfailed =>
      exec_of_stackLive rfl ha hlive (congrArg (checkChannels · core)
        (doMaintSlot_of_idle hslot hrepaired hcopied htrained hcalibrated hfailed))
  case train =>
    exact fun s core bad again t u ha hlive hslot hrepaired hcopied hdue =>
      exec_of_stackLive rfl ha hlive
        (congrArg (checkChannels · core) (doMaintSlot_of_training hslot hrepaired hcopied hdue))

end Sys2Proof.Machine
end

section
/-!
PROOFS. Remap requests (R275, R277), BIST (R264) and the checker test mode (R278).
-/

namespace Sys2Proof.Machine

variable {s u : State} {c v k kind : Nat} {errors : List (Nat × List (Nat × Nat))} {f : State → Nat → State}

theorem doRemapRequest_of_accepted (hok : remapResult s c (RemapReq.ofWord v) = 0) :
    doRemapRequest s c v = acceptRemap (setF s (EDAC.REMAP_RES_RESULT c) 0) c (RemapReq.ofWord v) := by
  simp only [doRemapRequest, hok, if_true]

/-- A request takes its entries where none copies. -/
theorem acceptRemap_of_first {r : RemapReq} (hfirst : copyingEntry s c = none) : acceptRemap s c r = takeEntry s c r :=
  if_neg (by rw [hfirst]; exact Bool.false_ne_true)

theorem doBistStart_of_unowned (hfree : ownerOf s c = none) (hidle : flag s (HPHY.BIST_STS_BUSY c) = false) :
    doBistStart s c kind =
      setB { s with dram := { s.dram with bist := Store.set 0 s.dram.bist c (kind + 1) } } (HPHY.BIST_STS_BUSY c)
        true := by
  simp only [doBistStart, hfree, hidle, Bool.not_false, Bool.and_self, if_true]

/-! BIST_DONE (R264). -/

/-- The state in which BIST has shown the errors that it finds. -/
def bistShown (s : State) (c : Nat) (errors : List (Nat × List (Nat × Nat))) : State :=
  forAll errors (fun u x => setErrors u (memKey c (keptOff u c (lineOffArg x.1))) x.2) s

/-- The lines of a stack with errors, on the channels that are up. -/
def bistLines (s : State) (c : Nat) : List Nat :=
  (s.dram.faults.map (·.1)).filter fun l => lineCore l == c && !chanDown s l

/-- The lines that BIST counts as failed: the uncorrectable ones, and all of the channels that are down. -/
def bistBad (s : State) (c : Nat) : Nat :=
  ((bistLines s c).filter fun l => (decodeLine s l).isNone).length + (downChannels s c).length * 2 ^ 24

/-- BIST ends with `bad` failed lines: every bank has been activated, BIST_STS shows the result, event 2 is raised. -/
def bistEnds (s : State) (c bad : Nat) : State :=
  let s3 := forAll (upTo 4096) (fun s b => noteActAt s c (b / 64) (b % 64))
    { s with dram := { s.dram with bist := Store.del s.dram.bist c } }
  let s4 := setB (setF s3 (HPHY.BIST_STS_RESULT c) (if bad = 0 then 0 else 1)) (HPHY.BIST_STS_BUSY c) false
  raise (setF s4 (HPHY.BIST_STS_FAIL_LINES c) (min bad 65535)) (0x0310 + c) 2

/-- READ reads the lines with errors as scrub does, and the down channels once. -/
theorem doBistDone_of_read (hrun : Store.get 0 s.dram.bist c = 1) :
    doBistDone s c errors = (let s1 := bistShown s c errors
      bistEnds (downReads (forAll (bistLines s1 c) scrubRead s1) c 1) c (bistBad s1 c)) := by
  rw [doBistDone, hrun]
  rfl

/-- PATTERN rewrites the stack first, and comes to the down channels four times. -/
theorem doBistDone_of_pattern (hrun : Store.get 0 s.dram.bist c = 2) :
    doBistDone s c errors = (let s1 := bistShown (wipeStack s c) c errors
      bistEnds (downReads s1 c 4) c (bistBad s1 c)) := by
  rw [doBistDone, hrun]
  rfl

/-! The checker test mode (R278). -/

section
variable (hfree : ownerOf s c = none)
  (hact : noteAct (setB s (EDAC.TEST_STS_REFUSED c) false) c (lineOff (testLine s c)) = u)
  (hup : chanDown u (testLine s c) = false)
include hfree hact hup

/-- A test command on an unowned core, on a channel that is up, activates the bank, works on its line and raises
event 6. -/
theorem testCommand_of_up : testCommand s c f = raise (f u (testLine s c)) (0x0320 + c) 6 := by
  simp only [testCommand, hfree, hact, hup, Option.isSome_none, Bool.false_eq_true, if_false]

/-- TEST_WRITE stores what the test registers hold. -/
theorem doTestWrite_of_up :
    doTestWrite s c =
      raise (storeRaw u (testLine s c) (getF u (EDAC.TEST_DATA c)) (getF u (EDAC.TEST_CHK c))) (0x0320 + c) 6 := by
  rw [doTestWrite, testCommand_of_up hfree hact hup, if_neg (Bool.eq_false_iff.mp hup)]

end

/-- A test command is refused while a partition owns the core. -/
theorem testCommand_of_owned (howned : (ownerOf s c).isSome = true) :
    testCommand s c f = setB s (EDAC.TEST_STS_REFUSED c) true :=
  if_pos howned

/-- Settles O20: each clause is the command's own rule on a core in service, or on a stack that takes commands. -/
theorem dramRepairAndTest : Obligations.DramRepairAndTest := by
  unfold Obligations.DramRepairAndTest
  refine ⟨?remap, ?start, ?read, ?pattern, ?testWrite, ?testRead, ?testReadRaw, ?refused⟩
  case remap =>
    exact fun s core v ha hup hok hfirst =>
      exec_of_coreUp rfl ha hup ((doRemapRequest_of_accepted hok).trans (acceptRemap_of_first hfirst))
  case start =>
    exact fun s core kind ha hlive hfree hidle => exec_of_stackLive rfl ha hlive (doBistStart_of_unowned hfree hidle)
  case read =>
    exact fun s core errors ha hlive hrun =>
      exec_of_stackLive rfl ha hlive (congrArg (checkChannels · core) (doBistDone_of_read hrun))
  case pattern =>
    rintro s core errors _ ha hlive hrun rfl
    exact exec_of_stackLive rfl ha hlive (congrArg (checkChannels · core) (doBistDone_of_pattern hrun))
  case testWrite =>
    exact fun s core u ha hlive hfree hact hup => exec_of_stackLive rfl ha hlive (doTestWrite_of_up hfree hact hup)
  case testRead =>
    exact fun s core u ha hlive hfree hact hup => exec_of_stackLive rfl ha hlive (testCommand_of_up hfree hact hup)
  case testReadRaw =>
    exact fun s core u ha hlive hfree hact hup => exec_of_stackLive rfl ha hlive (testCommand_of_up hfree hact hup)
  case refused =>
    exact fun s core ha hlive howned => exec_of_stackLive rfl ha hlive (testCommand_of_owned howned)

end Sys2Proof.Machine
end

section
/-!
PROOFS. The flash tier at work: accesses that find their block (R289 to R292), evictions, fills and write-backs that end
(R293, R294), and the first failure of a command (R298).
-/

namespace Sys2Proof.Machine

variable {s t u : State} {pid tag k drive : Nat} {r : Req} {o : TierOp} {timeout : Bool}

/-- An access whose block is resident goes on to its line of the way. -/
theorem doTierAccess_of_resident
    (hreq : s.net.store.find?
      (fun r => r.pid == pid && r.tag == tag && !r.taken && r.tier.isSome && r.line.isNone) = some r)
    (hlook : tierLook s r.pt (r.tier.getD 0 / 4096) (.req pid tag) = (.way k, t)) :
    doTierAccess s pid tag = setReq t { r with line := some (wayLine t r.pt k + lineOf (r.tier.getD 0 % 4096)) } := by
  simp only [doTierAccess, hreq, hlook]

/-! EVICT_RECALL_DONE (R293). -/

/-- A way under eviction is emptied once its recalls and its operations have ended: by a write-back if it was dirty. -/
theorem doEvictRecallDone_of_recalled (hevict : (getWay s k).state = 5) (hrecalled : recalling s (wayJob k) = false)
    (hops : wayOps s k = []) :
    doEvictRecallDone s k = if (getWay s k).prior = 3 then submitWriteback s k else finishEvict s k := by
  simp only [doEvictRecallDone, hevict, hrecalled, hops, ne_eq, not_true_eq_false, List.isEmpty_nil, Bool.not_true,
    Bool.or_self, Bool.false_eq_true, if_false]

/-- A block whose way no fill has asked for leaves it, and nothing follows. -/
theorem finishEvict_of_noGoal (hgoal : goalOf s k = none) :
    finishEvict s k = markFailed (setGoal (setWay s k {}) k none) k false := by
  simp only [finishEvict, hgoal]

/-! NVMe commands that complete (R293, R294). -/

theorem doFillComplete_of_read (hop : s.tier.ops.find? (fun o => o.way == k && !o.write) = some o) :
    doFillComplete s k =
      pumpOps (forAll (s.tier.ops.filter (·.cmd == o.cmd)) fillDone (answered (dropCmd s o.cmd) o.drive)) := by
  simp only [doFillComplete, hop]

theorem doWritebackComplete_of_write (hop : opOf s k drive true = some o) :
    doWritebackComplete s k drive =
      pumpOps (forAll (s.tier.ops.filter (·.cmd == o.cmd)) writeReported (answered (dropCmd s o.cmd) o.drive)) := by
  simp only [doWritebackComplete, hop]

/-! NVMe commands that fail (R298). -/

/-- What keeps the data path keeps the flash tier. -/
theorem tier_of_dataPath (h : dataPath t = dataPath s) : t.tier = s.tier :=
  show (dataPath t).tier = (dataPath s).tier from congrArg State.tier h

/-- A failure of a command is counted and logged. -/
def failureLogged (s : State) (k drive lba : Nat) (timeout : Bool) : State :=
  faultEntry (bumpF s (if timeout then PCIE.ERRORS_TIMEOUT drive else PCIE.ERRORS_CMD drive)) 25 1 (some (wayPt s k))
    (0x0510 + drive) drive lba

/-- Counting and logging leave the tier's own state alone, so that the drive's run of timeouts is as it was. -/
theorem failureLogged_tier (lba : Nat) : (failureLogged s k drive lba timeout).tier = s.tier :=
  tier_of_dataPath ((dataPath_faultEntry ..).trans dataPath_upd)

/-- The drive's run of timeouts after a failure: one more, or none. -/
def slowNext (s : State) (drive : Nat) (timeout : Bool) : Nat :=
  if timeout then Store.get 0 s.tier.slow drive + 1 else 0

/-- A command that fails for the first time, short of a third timeout in a row, is tried again. -/
theorem doCommandFail_of_first (hop : s.tier.ops.find? (fun o => o.way == k && o.drive == drive) = some o)
    (hfirst : o.again = false) (hslow : slowNext s drive timeout < 3) :
    doCommandFail s k drive timeout = (let s2 := failureLogged s k drive o.lba timeout
      let s3 := { s2 with tier := { s2.tier with slow := Store.set 0 s2.tier.slow drive (slowNext s2 drive timeout) } }
      retryOps (dropCmd s3 o.cmd) drive (s.tier.ops.filter (·.cmd == o.cmd))) := by
  have hrun : ¬3 ≤ slowNext (failureLogged s k drive o.lba timeout) drive timeout := by
    rw [slowNext, failureLogged_tier]
    exact Nat.not_le.mpr hslow
  simp only [slowNext, failureLogged] at hrun
  simp only [doCommandFail, hop, hfirst, slowNext, failureLogged, if_neg hrun, Bool.false_eq_true, if_false]

/-- Settles O21: each clause is the command's own rule under the guard that the module is alive. -/
theorem tierAccesses : Obligations.TierAccesses := by
  unfold Obligations.TierAccesses
  refine ⟨?access, ?wayWait, ?clean, ?dirty, ?waits, ?fill, ?writeback, ?timeout, ?fail⟩
  case access => exact fun s pid tag r k t ha hreq hlook => exec_of_alive rfl ha (doTierAccess_of_resident hreq hlook)
  case wayWait => exact fun s pid tag r k t ha hreq hlook => exec_of_alive rfl ha (doTierAccess_of_resident hreq hlook)
  case clean =>
    exact fun s core set way ha hevict hrecalled hops hclean hgoal =>
      exec_of_alive rfl ha ((doEvictRecallDone_of_recalled hevict hrecalled hops).trans
        ((if_neg hclean).trans (finishEvict_of_noGoal hgoal)))
  case dirty =>
    exact fun s core set way ha hevict hrecalled hops hdirty =>
      exec_of_alive rfl ha ((doEvictRecallDone_of_recalled hevict hrecalled hops).trans (if_pos hdirty))
  case waits => exact fun s core set way ha hstays => exec_of_alive rfl ha (if_pos hstays)
  case fill => exact fun s core set way o ha hop => exec_of_alive rfl ha (doFillComplete_of_read hop)
  case writeback => exact fun s core set way drive o ha hop => exec_of_alive rfl ha (doWritebackComplete_of_write hop)
  case timeout =>
    exact fun s core set way drive o ha hop hfirst hslow =>
      exec_of_alive rfl ha (doCommandFail_of_first (timeout := true) hop hfirst (Nat.succ_lt_succ hslow))
  case fail =>
    exact fun s core set way drive o ha hop hfirst =>
      exec_of_alive rfl ha (doCommandFail_of_first (timeout := false) hop hfirst (Nat.zero_lt_succ 2))

end Sys2Proof.Machine
end

section
/-!
PROOFS. The drives of the flash tier: their loss (R299), rebuilds (R301), flushes (R304), the cache size (R287, R305),
and their assignment, reset and enumeration (R284, R285, R308).
-/

namespace Sys2Proof.Machine

variable {s t u : State} {d pt gib v reason : Nat}

/-- A root port whose link goes down loses its READY drive with reason 5 (R299, R308). -/
theorem doRootDown_of_ready (hup : flag s (PCIE.LINK_STS_UP d) = true)
    (hdown : raise (setB s (PCIE.LINK_STS_UP d) false) (0x0510 + d) 0 = u)
    (hready : getF u (PCIE.DRV_STS_STATE d) = 2) :
    doRootDown s d = driveLost u d 5 := by
  simp only [doRootDown, hup, hdown, driveFails, hready, if_true]

/-! Rebuilds (R301). -/

theorem doRebuild_of_accepted (hidle : s.tier.rebuild = none) (hpaired : windowPaired s d = true)
    (hlost : degradedBy s d = some d) (hready : driveReady s d = true) (hsurvivor : readDrives s (d / 2 * 2) ≠ []) :
    doRebuild s d = (let s1 := setB (setB s TIER.REBUILD_STS_REFUSED false) TIER.REBUILD_STS_BUSY true
      { setF s1 TIER.REBUILD 0 with tier := { s1.tier with rebuild := some d } }) := by
  simp only [doRebuild, hidle, hpaired, hlost, hready, List.isEmpty_eq_false_iff.mpr hsurvivor, Option.isNone_none,
    beq_self_eq_true, Bool.not_false, Bool.and_self, if_true]

theorem doRebuildDone_of_running (hrun : s.tier.rebuild = some d) :
    doRebuildDone s = (let base := d / 2 * 2
      let s1 := copyTo s d (pairLbas s base)
      let t := { s1.tier with rebuild := none, lostOf := Store.del s1.tier.lostOf base }
      raise (setB { s1 with tier := t } TIER.REBUILD_STS_BUSY false) 0x0500 2) := by
  simp only [doRebuildDone, hrun]

/-! Flushes (R304) and the cache size (R287, R305). -/

/-- A flush ends where no way of its partition is being emptied any more. -/
theorem doTierFlushDone_of_emptied (hpump : forAll (waysInUse s pt) pumpEmpty s = u)
    (hflush : flag u (TIER.PT_STS_FLUSHING pt) = true) (hempty : emptying u pt = false) :
    doTierFlushDone s pt = raise (setB u (TIER.PT_STS_FLUSHING pt) false) 0x0500 3 := by
  simp only [doTierFlushDone, hpump, hflush, hempty, Bool.not_false, Bool.and_self, if_true]

theorem doCacheWrite_of_fits (hsize : gib ≤ 32) (hempty : tierEmpty s pt = true) (hfits : cacheFits s pt gib = true) :
    doCacheWrite s pt gib = setF (setB s (TIER.PT_STS_REFUSED pt) false) (TIER.PT_CACHE_GIB pt) gib := by
  have hfield : gib % 64 = gib := Nat.mod_eq_of_lt (by omega)
  simp only [doCacheWrite, hfield, decide_eq_false (Nat.not_lt.mpr hsize), hempty, hfits, Bool.not_true, Bool.or_self,
    Bool.false_eq_true, if_false]

/-- The size of a cache that holds blocks stays. -/
theorem doCacheWrite_of_cached (hcached : tierEmpty s pt = false) :
    doCacheWrite s pt gib = setB s (TIER.PT_STS_REFUSED pt) true := by
  simp only [doCacheWrite, hcached, Bool.not_false, Bool.or_true, Bool.true_or, if_true]

/-! The assignment of drives (R284). -/

/-- The state in which the assignment that `v` names is in force. -/
def driveAssigned (s : State) (d v : Nat) : State :=
  let s1 := setB (setF (setB s (TIER.PT_STS_REFUSED (v % 16)) false) (TIER.DRIVE_PT d) (v % 16)) (TIER.DRIVE_EN d)
    (v.testBit 4)
  setB s1 (TIER.DRIVE_PAIR d) (v.testBit 5 && d % 2 == 0)

/-- An allowed write takes effect; a drive that it enables anew brings its partition a fresh key and a new
configuration. -/
theorem doDriveAssign_of_ok (hok : driveOk s d v = true) :
    doDriveAssign s d v = if v.testBit 4 && !flag s (TIER.DRIVE_EN d)
      then bumpConfigGen (newTierKey (driveAssigned s d v) (v % 16)) (v % 16) else driveAssigned s d v := by
  rw [doDriveAssign, if_pos hok]
  rfl

theorem doDriveAssign_of_enabled (hok : driveOk s d v = true) (hen : v.testBit 4 = true)
    (hwas : flag s (TIER.DRIVE_EN d) = false) :
    doDriveAssign s d v = bumpConfigGen (newTierKey (driveAssigned s d v) (v % 16)) (v % 16) := by
  rw [doDriveAssign_of_ok hok, hen, hwas, Bool.not_false, Bool.and_self, if_pos rfl]

theorem doDriveAssign_of_kept (hok : driveOk s d v = true)
    (hkept : v.testBit 4 = flag s (TIER.DRIVE_EN d) ∨ v.testBit 4 = false) :
    doDriveAssign s d v = driveAssigned s d v := by
  have hold : ¬(v.testBit 4 && !flag s (TIER.DRIVE_EN d)) = true := by
    rcases hkept with h | h <;> simp [h]
  rw [doDriveAssign_of_ok hok, if_neg hold]

/-! The reset and the training of a root port (R285, R308). -/

/-- The port of an unassigned drive can be reset. -/
theorem doPortReset_of_unassigned (hgood : s.boot.badRoots.getLsbD d = false)
    (hfree : flag s (TIER.DRIVE_EN d) = false) :
    doPortReset s d =
      setPerst (setF (setF (setB s (PCIE.LINK_STS_UP d) false) (PCIE.DRV_STS_STATE d) 1) (PCIE.DRV_STS_REASON d) 0) d
        false := by
  simp only [doPortReset, hgood, hfree, Bool.not_false, Bool.true_or, Bool.and_self, if_true]

section
variable {rate lanes speed width lbas : Nat} {flit : Bool} {i : DriveId}
  (hstate : getF s (PCIE.DRV_STS_STATE d) = 1) (hrate : min rate 6 = speed) (hspeed : 0 < speed)
  (hlanes : (if 4 ≤ lanes then 4 else if 2 ≤ lanes then 2 else lanes) = width) (hwidth : 0 < width)
  (hlink : setB (setF (setF (setB (setPerst s d true) (PCIE.LINK_STS_UP d) true) (PCIE.LINK_STS_SPEED d) speed)
    (PCIE.LINK_STS_WIDTH d) width) (PCIE.LINK_STS_FLIT d) flit = t)
include hstate hrate hspeed hlanes hwidth hlink

/-- A drive that links up and meets every requirement of Table 10-1 becomes READY, with its size. -/
theorem doDriveReady_of_met (hmet : driveRefusal i = none) :
    doDriveReady s d rate lanes flit i lbas = (let s2 := setF (setF t (PCIE.DRV_STS_STATE d) 2) (PCIE.NS d) lbas
      { s2 with tier := { s2.tier with size := Store.set 0 s2.tier.size d (min (lbas / 262144) 8192),
                                       gone := s2.tier.gone.filter (· != d) } }) := by
  simp only [doDriveReady, hstate, hrate, hlanes, hlink, hmet, ne_eq, not_true_eq_false, hspeed.ne', hwidth.ne',
    or_self, if_false]

/-- A drive that links up and fails a requirement is REJECTED. -/
theorem doDriveReady_of_refusal (hrefusal : driveRefusal i = some reason) :
    doDriveReady s d rate lanes flit i lbas =
      raise (setF (setF t (PCIE.DRV_STS_STATE d) 3) (PCIE.DRV_STS_REASON d) reason) (0x0510 + d) 1 := by
  simp only [doDriveReady, hstate, hrate, hlanes, hlink, hrefusal, ne_eq, not_true_eq_false, hspeed.ne', hwidth.ne',
    or_self, if_false]

end

/-- Settles O22: each clause is the command's own rule under the guard that the module is alive; a flush and a drive's
request act as they stand. -/
theorem tierDrives : Obligations.TierDrives := by
  unfold Obligations.TierDrives
  refine ⟨?linkDown, ?rebuildGo, ?rebuildDone, ?flush, ?flushDone, ?cache, ?cacheRefused, ?assign, ?assignKept,
    ?portReset, ?ready, ?rejected, ?request⟩
  case linkDown => exact fun s root u ha hup hdown hready => exec_of_alive rfl ha (doRootDown_of_ready hup hdown hready)
  case rebuildGo =>
    exact fun s port ha hidle hpaired hlost hready hsurvivor =>
      exec_of_alive rfl ha (doRebuild_of_accepted hidle hpaired hlost hready hsurvivor)
  case rebuildDone => exact fun s d ha hrun => exec_of_alive rfl ha (doRebuildDone_of_running hrun)
  case flush => exact fun s pt ha => exec_of_alive rfl ha rfl
  case flushDone =>
    exact fun s pt u ha hpump hflush hempty => exec_of_alive rfl ha (doTierFlushDone_of_emptied hpump hflush hempty)
  case cache =>
    exact fun s pt gib ha hsize hempty hfits => exec_of_alive rfl ha (doCacheWrite_of_fits hsize hempty hfits)
  case cacheRefused => exact fun s pt gib ha hcached => exec_of_alive rfl ha (doCacheWrite_of_cached hcached)
  case assign =>
    intro s root v ha hok hen hwas
    have hassign := doDriveAssign_of_enabled hok hen hwas
    rw [driveAssigned, hen] at hassign
    exact exec_of_alive rfl ha hassign
  case assignKept => exact fun s root v ha hok hkept => exec_of_alive rfl ha (doDriveAssign_of_kept hok hkept)
  case portReset => exact fun s root ha hgood hfree => exec_of_alive rfl ha (doPortReset_of_unassigned hgood hfree)
  case ready =>
    exact fun s root rate lanes flit i lbas sp w t ha hstate hrate hspeed hlanes hwidth hlink hmet =>
      exec_of_alive rfl ha (doDriveReady_of_met hstate hrate hspeed hlanes hwidth hlink hmet)
  case rejected =>
    exact fun s root rate lanes flit i lbas sp w reason t ha hstate hrate hspeed hlanes hwidth hlink hrefusal =>
      exec_of_alive rfl ha (doDriveReady_of_refusal hstate hrate hspeed hlanes hwidth hlink hrefusal)
  case request => exact fun s root outside n ha => exec_of_alive rfl ha rfl

end Sys2Proof.Machine
end

section
/-!
PROOFS. Training of a fabric port: what the command of each training state does there (R309 to R318, Tables 11-1 and
11-2).
-/

namespace Sys2Proof.Machine

variable {s : State} {p lane n : Nat} {b x : TsBlock} {good : Option Bool}

/-- A port in any state other than ACTIVE takes no part in traffic. -/
theorem linkActive_of_portState_ne (h : portState s p ≠ 7) : linkActive s p = false := by
  have hstate : (getF s (PORT.LINK_STS_STATE p) == 7) = false := beq_eq_false_iff_ne.mpr h
  rw [linkActive, hstate, Bool.false_and]

/-- RTR says nothing to a port that is not ACTIVE (R318). -/
theorem takeRtr_of_inactive (h : linkActive s p = false) : takeRtr s p b = s := by
  simp only [takeRtr, h, Bool.false_and, Bool.false_eq_true, if_false]

/-- While a port trains, RTR says nothing to it. -/
theorem takeRtr_of_training (hst : portState s p = n) (hn : n ≠ 7) : takeRtr s p b = s :=
  takeRtr_of_inactive (linkActive_of_portState_ne (hst.trans_ne hn))

/-- RTR takes an ACTIVE port into a retrain (R318). -/
theorem takeRtr_of_asked (hact : linkActive s p = true) (hrtr : b.rtr = true) : takeRtr s p b = beginRetrain s p := by
  simp only [takeRtr, hact, hrtr, Bool.and_self, if_true]

theorem doTrain_of_disabled (hst : portState s p = 0) (hen : flag s (PORT.PORT_CTL_EN p) = true) :
    doTrain s p = startCold s p 0 := by
  simp only [doTrain, hst, hen, decide_true, Bool.and_self, if_true]

/-! Training blocks whose CRC passes (R313). -/

section
variable (hcrc : b.crcOk = true)
include hcrc

/-- A TSEQ block of a usable lane in EQUALIZE steps the lane's taps and judges it. -/
theorem doTseq_of_equalize (hst : portState s p = 2) (hlane : (usableLanes s p).contains lane = true) :
    doTseq s p lane b good = (let s1 := notePeer s p b
      let l := getLink s1 p
      let t := Store.get (0, 0, 0) l.taps lane
      let taps := (tapStep t.1 b.coef, tapStep t.2.1 (b.coef / 4), tapStep t.2.2 (b.coef / 16))
      checkEqualize (setLink s1 p { l with
        taps := Store.set (0, 0, 0) l.taps lane taps
        judged := withBit l.judged lane (good.isSome || l.judged.testBit lane)
        good := withBit l.good lane (if good.isSome then good == some true else l.good.testBit lane)
        eqDone := withBit l.eqDone lane (b.eqDone || l.eqDone.testBit lane) }) p) := by
  simp only [doTseq, hcrc, takeRtr_of_training hst (by decide), hst, hlane, Bool.not_true, Bool.and_self, decide_true,
    Bool.false_eq_true, if_false, if_true]

/-- A TS1 block of a good lane in ALIGN notes the lane that the peer names. -/
theorem doTs1_of_align (hst : portState s p = 3) (hlane : (getLink s p).good.testBit lane = true) :
    doTs1 s p lane b = (let s1 := notePeer s p b
      alignLanes (setLink s1 p { getLink s1 p with
        planes := Store.set 0 (getLink s1 p).planes lane (b.plane + 1) }) p) := by
  simp only [doTs1, hcrc, takeRtr_of_training hst (by decide), hst, hlane, Bool.and_self, decide_true, if_true]

/-- A TS2 block in NEGOTIATE makes the run of identical ones longer, or begins a new one; the eighth settles. -/
theorem doTs2_of_negotiate (hst : portState s p = 4)
    (hn : (if (getLink s p).last = some b then (getLink s p).run + 1 else 1) = n) :
    doTs2 s p b = if n = 8 then settleTs2 s p b else setLink s p { getLink s p with last := some b, run := n } := by
  simp only [doTs2, hcrc, takeRtr_of_training hst (by decide), hst, hn, Bool.and_self, decide_true, if_true]

/-- A TS2 block with RTR takes an ACTIVE port into a retrain, and does no more there. -/
theorem doTs2_of_rtr (hrtr : b.rtr = true) (hact : linkActive s p = true)
    (hst : portState (beginRetrain s p) p ≠ 4) : doTs2 s p b = beginRetrain s p := by
  simp only [doTs2, hcrc, takeRtr_of_asked hact hrtr, decide_eq_false hst, Bool.and_false, Bool.false_eq_true, if_false,
    if_true]

/-- The sixteenth TS3 block in CONFIG with the leader's configuration ends it at the follower. -/
theorem doTs3_of_sixteenth (hst : portState s p = 5) (hlast : (getLink s p).last = some x)
    (hsame : (⟨x.lanes, x.width, x.ver, x.nvc, x.afeat⟩ : LinkConf) = ⟨b.lanes, b.width, b.ver, b.nvc, b.afeat⟩)
    (hrun : (getLink s p).run = 15) (hlead : flag s (PORT.LINK_STS_LEADER p) = false) :
    doTs3 s p b = settleTs3 s p b ⟨b.lanes, b.width, b.ver, b.nvc, b.afeat⟩ := by
  simp only [doTs3, hcrc, takeRtr_of_training hst (by decide), hst, hlast, hsame, hrun, hlead, beq_self_eq_true,
    Bool.not_true, Bool.and_self, decide_true, Bool.false_eq_true, if_false, if_true]

end

/-- A TS2 block whose CRC fails is ignored (R313). -/
theorem doTs2_of_badCrc (hcrc : b.crcOk = false) : doTs2 s p b = s := by
  simp only [doTs2, hcrc, Bool.false_and, Bool.false_eq_true, if_false]

/-! The limit of a state and the hold of FAILED (R312, R316). -/

/-- The limit of each state before KEYING gives the state's own number as reason (Table 11-1). -/
theorem limitReason_of_ne_keying (hn : n ≠ 6) : limitReason n = n := if_neg hn

theorem exec_trainStateLimit_of_training {port : Port} (ha : alive s = true) (hst : portState s port = n) (h1 : 1 ≤ n)
    (h5 : n ≤ 5) :
    exec (.trainStateLimit port) s = .next
      (failAttempt (advanceEl s ((getLink s port).since + stateLimit n (retraining s port))) port n) := by
  have hlimited : 1 ≤ n ∧ n ≤ 6 := ⟨h1, by omega⟩
  have hkeying : n ≠ 6 := by omega
  refine exec_of_alive rfl ha ?_
  simp only [hst, if_pos hlimited, if_neg hkeying, limitReason_of_ne_keying hkeying]

/-- After the hold of a cold attempt a new one starts, or the fourth leaves the port disabled (R316). -/
theorem exec_failedHoldEnd_of_cold {port : Port} (ha : alive s = true) (hst : portState s port = 8)
    (hcold : retraining s port = false) (hn : getF s (PORT.TRAIN_STS_ATTEMPT port) = n) :
    exec (.failedHoldEnd port) s = .next (let s1 := advanceEl s ((getLink s port).since + 1000000)
      if n = 3 then raise (failPort s1 port (getF s (PORT.TRAIN_STS_REASON port)) 1) (0x0600 + port) 5
      else startCold s1 port (n + 1)) := by
  refine exec_of_alive rfl ha ?_
  simp only [hst, hcold, hn, Bool.false_eq_true, if_false, if_true]

/-- Settles O23: each clause is the command's own rule in the training state that the clause names. -/
theorem linkTraining : Obligations.LinkTraining := by
  unfold Obligations.LinkTraining
  refine ⟨?train, ?signal, ?tseq, ?ts1, ?ts2, ?ts2Counted, ?ts2Rtr, ?ts2BadCrc, ?ts3, ?limit, ?retry, ?last⟩
  case train => exact fun s port ha hst hen => exec_of_alive rfl ha (doTrain_of_disabled hst hen)
  case signal => exact fun s port ha hst => exec_of_alive rfl ha (if_pos hst)
  case tseq =>
    rintro s port lane block good _ ha rfl hcrc hst hlane
    exact exec_of_alive rfl ha (doTseq_of_equalize hcrc hst hlane)
  case ts1 =>
    rintro s port lane block _ ha rfl hcrc hst hlane
    exact exec_of_alive rfl ha (doTs1_of_align hcrc hst hlane)
  case ts2 =>
    rintro s port block _ ha rfl hcrc hst hlast hrun
    have heighth : (if (getLink s port).last = some (readTs .ts2 block) then (getLink s port).run + 1 else 1) = 8 := by
      rw [if_pos hlast, hrun]
    exact exec_of_alive rfl ha ((doTs2_of_negotiate hcrc hst heighth).trans (if_pos rfl))
  case ts2Counted =>
    rintro s port block _ ha rfl hcrc hst hnew
    exact exec_of_alive rfl ha ((doTs2_of_negotiate hcrc hst (if_neg hnew)).trans (if_neg (by decide)))
  case ts2Rtr =>
    rintro s port block _ ha rfl hcrc hrtr hact hst
    exact exec_of_alive rfl ha (doTs2_of_rtr hcrc hrtr hact hst)
  case ts2BadCrc => exact fun s port block ha hcrc => exec_of_alive rfl ha (doTs2_of_badCrc hcrc)
  case ts3 =>
    rintro s port block _ x ha rfl hcrc hst hlast hsame hrun hlead
    exact exec_of_alive rfl ha (doTs3_of_sixteenth hcrc hst hlast hsame hrun hlead)
  case limit => exact fun s port n ha hst h1 h5 => exec_trainStateLimit_of_training ha hst h1 h5
  case retry =>
    exact fun s port ha hst hcold hleft =>
      (exec_failedHoldEnd_of_cold ha hst hcold rfl).trans (congrArg _ (if_neg hleft.ne))
  case last =>
    exact fun s port ha hst hcold hnone =>
      (exec_failedHoldEnd_of_cold ha hst hcold hnone).trans (congrArg _ (if_pos rfl))

end Sys2Proof.Machine
end

section
/-!
PROOFS. Retraining, lane failures and width changes of a fabric port (R318 to R322).
-/

namespace Sys2Proof.Machine

variable {s : State} {p lane w lanes : Nat}

/-- A lane in use fails: it is marked, and the port retrains (R318). -/
theorem failLane_of_inUse (hact : linkActive s p = true) (huse : bitF s (PORT.LINK_STS_LANES p) lane = true) :
    failLane s p lane = beginRetrain (setBitF s (PORT.LANE_STS_FAILED p) lane true) p := by
  simp only [failLane, hact, huse, Bool.and_self, if_true]

/-! Width changes (R322). -/

/-- A width other than the present one is taken up, counts as degraded below x4 and raises WIDTH_CHANGE. -/
theorem switchWidth_of_ne (hne : w ≠ getF s (PORT.LINK_STS_WIDTH p)) :
    switchWidth s p w lanes = (let s1 := setF (setF s (PORT.LINK_STS_WIDTH p) w) (PORT.LINK_STS_LANES p) lanes
      let s2 := setB s1 (PORT.LINK_STS_DEGRADED p) (decide (w < 3))
      raise (setLink s2 p { getLink s2 p with lwcPend := w }) (0x0600 + p) 8) := if_neg hne

/-- LWC_CMD.GO to a narrower width makes the leader send LWC_GO and switch. -/
theorem doLwcRequest_of_leader (hlwc : lwcAgreed s p = true) (hdet : detOn s = false) (hact : linkActive s p = true)
    (hnarrow : min 3 (w + 1) < getF s (PORT.LINK_STS_WIDTH p)) (hlead : flag s (PORT.LINK_STS_LEADER p) = true) :
    doLwcRequest s p w = (let s1 := setB s (PORT.LWC_CMD_REFUSED p) false
      sendGo (setLink s1 p { getLink s1 p with lwcAsk := min 3 (w + 1) }) p (min 3 (w + 1))) := by
  simp only [doLwcRequest, hlwc, hdet, hact, hlead, hnarrow.not_gt, hnarrow.ne, Bool.not_true, Bool.or_self,
    Bool.false_eq_true, if_false, if_true]

/-- Without LWC the command is refused. -/
theorem doLwcRequest_of_notAgreed (hlwc : lwcAgreed s p = false) :
    doLwcRequest s p w = setB s (PORT.LWC_CMD_REFUSED p) true := by
  simp only [doLwcRequest, hlwc, Bool.not_false, Bool.true_or, if_true]

section
variable {port : Port} (ha : alive s = true) (hact : linkActive s port = true) (hlwc : lwcAgreed s port = true)
include ha hact hlwc

/-- LWC_REQ is answered with LWC_GO at once where no switch of the leader's own is pending. -/
theorem exec_lwcReq_of_leader (hlead : flag s (PORT.LINK_STS_LEADER port) = true)
    (hpend : (getLink s port).lwcPend = 0) :
    exec (.lwcReq port w) s = .next (sendGo s port (min 3 (w + 1))) := by
  refine exec_of_alive rfl ha ?_
  simp only [hact, hlwc, hlead, hpend, ne_eq, not_true_eq_false, Bool.and_self, if_false, if_true]

/-- LWC_GO to a narrower width switches. -/
theorem exec_lwcGo_of_narrower (hpos : 1 ≤ w) (hnarrow : w < getF s (PORT.LINK_STS_WIDTH port)) :
    exec (.lwcGo port w lanes) s = .next (switchWidth s port w lanes) := by
  refine exec_of_alive rfl ha ?_
  simp only [hact, hlwc, decide_eq_true hpos, hnarrow, Bool.and_self, if_true]

end

/-- Settles O24: each clause is the command's own rule under its guard. -/
theorem linkRetraining : Obligations.LinkRetraining := by
  unfold Obligations.LinkRetraining
  refine ⟨?retrain, ?lockLost, ?serAbove, ?serWithin, ?fec, ?request, ?refused, ?req, ?go⟩
  case retrain => exact fun s port ha hact => exec_of_alive rfl ha (if_pos hact)
  case lockLost => exact fun s port lane ha hact huse => exec_of_alive rfl ha (failLane_of_inUse hact huse)
  case serAbove => exact fun s port lane n ha habove => exec_of_alive rfl ha (if_pos habove)
  case serWithin => exact fun s port lane n ha hwithin => exec_of_alive rfl ha (if_neg hwithin.not_gt)
  case fec => exact fun s port n ha hmany => exec_of_alive rfl ha (if_pos hmany)
  case request =>
    exact fun s port w ha hlwc hdet hact hnarrow hlead =>
      exec_of_alive rfl ha (doLwcRequest_of_leader hlwc hdet hact hnarrow hlead)
  case refused => exact fun s port w ha hlwc => exec_of_alive rfl ha (doLwcRequest_of_notAgreed hlwc)
  case req => exact fun s port w ha hact hlwc hlead hpend => exec_lwcReq_of_leader ha hact hlwc hlead hpend
  case go =>
    exact fun s port w lanes ha hact hlwc hpos hnarrow =>
      (exec_lwcGo_of_narrower ha hact hlwc hpos hnarrow).trans (congrArg _ (switchWidth_of_ne hnarrow.ne))

end Sys2Proof.Machine
end

section
/-!
PROOFS. Flits, replay, tags and credit checks of a fabric port (R325 to R331, R337, R341).
-/

namespace Sys2Proof.Machine

variable {s t : State} {p k : Nat} {f : RxFlit} {x : Sending} {freed : List Nat}

/-! A flit arrives (R325 to R330). -/

/-- The expected flit is held and the next one expected, unless it ends its secured frame. -/
theorem takeFlit_of_expected (hseq : f.seq = (getLink s p).e) (hmid : ((getLink s p).e + 1) % 8 ≠ 0) :
    takeFlit s p f = setLink s p { getLink s p with
      held := (getLink s p).held ++ [f], e := ((getLink s p).e + 1) % 4096, waiting := false, nakAt := none } := by
  simp only [takeFlit, if_pos hseq, if_neg hmid]

section
variable (hcarries : linkCarries s p = true)
include hcarries

/-- A flit with a wrong CRC is counted and asked for again. -/
theorem recvFlit_of_badCrc (hcrc : f.crcOk = false) :
    recvFlit s p f = sendNak (bumpF s (PORT.CRC_ERR_COUNT p)) p := by
  simp only [recvFlit, hcarries, hcrc, Bool.not_true, Bool.not_false, Bool.false_eq_true, if_false, if_true]

/-- A flit of the reserved kind is a breach: the port retrains. -/
theorem recvFlit_of_reservedKind (hcrc : f.crcOk = true) (hkind : f.kind = 3) : recvFlit s p f = beginRetrain s p := by
  simp only [recvFlit, hcarries, hcrc, hkind, Bool.not_true, Bool.false_eq_true, if_false, true_or, if_true]

/-- A DATA or CTRL flit without WSW: its ACK and CRET are applied, then it is taken by its sequence number. -/
theorem recvFlit_of_body (hcrc : f.crcOk = true) (hidle : f.kind ≠ 2) (hkind : f.kind ≠ 3) (hrsvd : f.rsvd = false)
    (hwsw : f.wsw = false) (hack : applyAck s p f = some t) :
    recvFlit s p f = takeFlit (applyCret t p f) p f := by
  simp only [recvFlit, hcarries, hcrc, hidle, hkind, hrsvd, hwsw, hack, Bool.not_true, Bool.false_eq_true, or_self,
    if_false]

end

/-! Replay and tags (R331, R341). -/

theorem exec_replayTimer_of_waiting {port : Port} (ha : alive s = true) (hcarries : linkCarries s port = true)
    (hbuffer : (getLink s port).replay ≠ []) :
    exec (.replayTimer port) s = .next (replayFrom
      (advanceEl s ((getLink s port).timerAt + max 500 (getF s (PORT.REPLAY_CTL_TIMER_NS port)))) port
      (getLink s port)) := by
  refine exec_of_alive rfl ha ?_
  simp only [hcarries, List.isEmpty_eq_false_iff.mpr hbuffer, Bool.not_false, Bool.and_self, if_true]

theorem exec_tagFailLimit_of_reached {port : Port} (ha : alive s = true) (hact : linkActive s port = true)
    (hlimit : max 1 (getF s (PORT.TAG_CTL_LIMIT port)) ≤ (getLink s port).tagRun) :
    exec (.tagFailLimit port) s = .next (raise (failPort s port 11 5) (0x0600 + port) 7) := by
  refine exec_of_alive rfl ha ?_
  simp only [hact, decide_eq_true hlimit, Bool.and_self, if_true]

/-! Credits (R337). -/

/-- A check in which every channel is behind by fewer than 256 units shows no leak: the counts are set right. -/
theorem doCreditCheck_of_small (hact : linkActive s p = true) (hcchk : cchkAgreed s p = true)
    (hsmall : ∀ v ∈ upTo (getF s (PORT.LINK_STS_NVC p)), creditGap (getLink s p) v (freed.getD v 0) < 256) :
    doCreditCheck s p freed = (let l := getLink s p
      let gap := fun v => creditGap l v (freed.getD v 0)
      setLink s p { l with known := (upTo (getF s (PORT.LINK_STS_NVC p))).foldl (fun k v =>
        if gap v < 256 then Store.set 0 k v (Store.get 0 k v + gap v) else k) l.known }) := by
  have hnoLeak : ((upTo (getF s (PORT.LINK_STS_NVC p))).any fun v =>
      decide (256 ≤ creditGap (getLink s p) v (freed.getD v 0) ∧
        creditGap (getLink s p) v (freed.getD v 0) ≤ 65280)) = false :=
    List.any_eq_false.mpr fun v hv h => (hsmall v hv).not_ge (of_decide_eq_true h).1
  simp only [doCreditCheck, hact, hcchk, hnoLeak, Bool.and_self, Bool.false_eq_true, if_false, if_true]

/-- A packet that has starved is marked, so that it is counted once. -/
theorem noteStall_of_starved (h : starved s p k = some x) :
    noteStall p s k =
      bumpF (setQueue s p k ({ x with stalled := true } :: (queueOf s p k).tail)) (PORT.CREDIT_STALL_COUNT p) := by
  simp only [noteStall, h]

theorem exec_creditStall_of_notAgreed {port : Port} (ha : alive s = true) (hact : linkActive s port = true)
    (hcchk : cchkAgreed s port = false) :
    exec (.creditStall port) s = .next (forAll queueKinds (noteStall port) s) := by
  refine exec_of_alive rfl ha ?_
  simp only [hact, hcchk, Bool.not_false, Bool.and_self, if_true]

theorem exec_cchkPeriod_of_agreed {port : Port} (ha : alive s = true) (hact : linkActive s port = true)
    (hcchk : cchkAgreed s port = true) :
    exec (.cchkPeriod port) s = .next (let n := getF s (PORT.LINK_STS_NVC port)
      sendCtrl (atPeriodic s (128 + port) (4096 * max 1 (getF s (PORT.CCHK_PERIOD_FRAMES port))) 0) port
        (.creditCheck n ((upTo 8).map fun v =>
          if v < n then Store.get 0 (getLink s port).freed v % 65536 else 0))) := by
  refine exec_of_alive rfl ha ?_
  simp only [hact, hcchk, Bool.and_self, if_true]

/-- Settles O25: each clause is the command's own rule under its guard. -/
theorem linkFlits : Obligations.LinkFlits := by
  unfold Obligations.LinkFlits
  refine ⟨?flit, ?badCrc, ?reserved, ?timer, ?limit, ?tag, ?check, ?stall, ?counted, ?period⟩
  case flit =>
    rintro s port bytes _ t _ ha hcarries rfl hcrc hidle hkind hrsvd hwsw hack rfl hseq hmid
    exact exec_of_alive rfl ha ((recvFlit_of_body hcarries hcrc hidle hkind hrsvd hwsw hack).trans
      (takeFlit_of_expected hseq hmid))
  case badCrc => exact fun s port bytes ha hcarries hcrc => exec_of_alive rfl ha (recvFlit_of_badCrc hcarries hcrc)
  case reserved =>
    exact fun s port bytes ha hcarries hcrc hkind =>
      exec_of_alive rfl ha (recvFlit_of_reservedKind hcarries hcrc hkind)
  case timer => exact fun s port ha hcarries hbuffer => exec_replayTimer_of_waiting ha hcarries hbuffer
  case limit => exact fun s port ha hlimit => exec_of_alive rfl ha (if_pos hlimit)
  case tag => exact fun s port ha hact hlimit => exec_tagFailLimit_of_reached ha hact hlimit
  case check =>
    exact fun s port freed ha hact hcchk hsmall => exec_of_alive rfl ha (doCreditCheck_of_small hact hcchk hsmall)
  case stall => exact fun s port ha hact hcchk => exec_creditStall_of_notAgreed ha hact hcchk
  case counted => exact fun s port k x h => noteStall_of_starved h
  case period => exact fun s port ha hact hcchk => exec_cchkPeriod_of_agreed ha hact hcchk

end Sys2Proof.Machine
end

section
/-!
PROOFS. Steps and runs: every command answers a next state, takes itself alone from the queue, keeps the invariant and
clears no blown fuse (R381, R450).
-/

namespace Sys2Proof.Machine

variable {s t : State} {c : Instr} {F : Store Nat → Prop} {q : List Instr}

/-- No command ends in a fault or a refusal. -/
theorem exec_eq_next (c : Instr) (s : State) : ∃ t, exec c s = .next t := by
  cases c <;> exact ⟨_, rfl⟩

theorem step_eq_next (s : State) : ∃ t, step s = .next t := by
  unfold step
  split
  · exact ⟨_, rfl⟩
  · exact exec_eq_next _ _

theorem Fr.inv (h : Fr q MemOk F s) : Inv s := ⟨h.mem, h.regs, h.log, h.selv⟩

/-- A step takes the front command from the queue and keeps the rest of the frame. -/
theorem step_fr (hF : Blown F) (hs : Inv s) (hf : F s.sec.fuses) (e : step s = .next t) :
    Fr s.pending.tail MemOk F t := by
  have hmem : MemOk s.mem := hs.1
  unfold step at e
  split at e
  next hq =>
    obtain rfl := Host.Outcome.next.inj e
    have hfr : Fr [] MemOk F s := hq ▸ hs.fr hmem hf
    rw [hq]
    exact idle_fr hfr
  next c rest hq =>
    have hrest : Inv { s with pending := rest } := hs
    rw [hq]
    exact exec_fr hF (hrest.fr hmem hf) e

theorem inv_of_step (hs : Inv s) (e : step s = .next t) : Inv t :=
  (step_fr blown_true hs trivial e).inv

/-- From a state that meets the invariant every run is safe, however long. -/
theorem safeFor_of_inv (n : Nat) : ∀ {s : State}, Inv s → SafeFor s n := by
  induction n with
  | zero => exact fun h => h
  | succ n ih =>
    intro s h
    obtain ⟨t, e⟩ := step_eq_next s
    exact ⟨t, e, ih (inv_of_step h e)⟩

/-! Fuses. The laws of the sparse store ask for rising keys, which the invariant does not give for the fuse words: these
two hold of any list. -/

/-- Listing a key changes what no other key reads. -/
theorem Store.get_ins_of_ne_anyOrder {α : Type} {d w : α} {k a : Nat} (h : a ≠ k) (m : Store α) :
    Store.get d (Store.ins m k w) a = Store.get d m a := by
  induction m with
  | nil => simp [Store.ins, Store.get, h]
  | cons e m ih =>
    obtain ⟨j, v⟩ := e
    unfold Store.ins
    split
    next hkj => simp [Store.get, h, ← hkj]
    next hkj =>
      split
      next hlt =>
        have hbelow : a < k → a ≠ j ∧ a < j := by omega
        by_cases hak : a < k
        · simp [Store.get, h, hak, hbelow hak]
        · simp [Store.get, h, hak]
      next => simp [Store.get, ih]

/-- Unlisting a key that reads 0 clears no bit. -/
theorem Store.testBit_get_del {k a i : Nat} {m : Store Nat} (hk : Store.get 0 m k = 0)
    (h : (Store.get 0 m a).testBit i = true) : (Store.get 0 (Store.del m k) a).testBit i = true := by
  induction m with
  | nil => exact h
  | cons e m ih =>
    obtain ⟨j, v⟩ := e
    unfold Store.del
    split
    next hkj =>
      have hv : v = 0 := by simpa [Store.get, hkj] using hk
      grind [Store.get]
    next => split <;> grind [Store.get]

/-- Bits that are blown into a word clear none. -/
theorem blown_testBit (w i : Nat) (P : Prop) : Blown fun m => P → (Store.get 0 m w).testBit i = true := by
  intro m k b h hp
  have hbit := h hp
  unfold Store.set
  split
  next hzero => exact Store.testBit_get_del (Nat.or_eq_zero_iff.mp hzero).1 hbit
  next =>
    by_cases hw : w = k
    · subst hw
      rw [Store.get_ins_self, Nat.testBit_or, hbit, Bool.true_or]
    · rwa [Store.get_ins_of_ne_anyOrder hw]

/-! The obligations. -/

/-- Settles O46: the frame of a step for the predicate that a bit is blown, and the frame over every command outside
`blowsFuse` for the predicate that the fuses are as they were. -/
theorem blownFusesStayBlown : Obligations.BlownFusesStayBlown := by
  unfold Obligations.BlownFusesStayBlown
  constructor
  · exact fun s t hs e w i => (step_fr (blown_testBit w i _) hs id e).fuses
  · intro s c t hs hc e
    have hfr : Fr s.pending MemOk (· = s.sec.fuses) s := hs.fr hs.1 rfl
    exact (exec_fuse_fr hc hfr e).fuses

/-- Settles O44: the frame of a step holds the invariant. -/
theorem stepKeepsTheInvariant : Obligations.StepKeepsTheInvariant := by
  unfold Obligations.StepKeepsTheInvariant
  exact fun s t hs e => inv_of_step hs e

/-- Settles O45: by induction on the length of the run. -/
theorem everyRunIsSafe : Obligations.EveryRunIsSafe := by
  unfold Obligations.EveryRunIsSafe
  exact fun s n hs => safeFor_of_inv n hs

/-- Settles O42: no command stops the module, and the frame of a step holds the queue. -/
theorem stepAnswersAndTakesOneCommand : Obligations.StepAnswersAndTakesOneCommand := by
  unfold Obligations.StepAnswersAndTakesOneCommand
  intro s hs
  obtain ⟨t, e⟩ := step_eq_next s
  exact ⟨t, e, (step_fr blown_true hs trivial e).pending⟩

/-- Settles O41: by the two cases of `step`. -/
theorem stepRunsTheFrontCommand : Obligations.StepRunsTheFrontCommand := by
  unfold Obligations.StepRunsTheFrontCommand
  constructor
  · intro s c l hq
    simp only [step, hq]
  · intro s hq
    simp only [step, hq, idle]

end Sys2Proof.Machine
end

section
/-!
PROOFS. Routing tables, credits of partners and multicast groups: what each command of R359, R360, R363, R366, R369 and
R378 does under the guards of its clause.
-/

namespace Sys2Proof.Machine

variable {s : State} {v pid pt cost g reg : Nat} {rest : List Nat}

/-! Flips of the routing tables (R359, R360). -/

theorem doRouteFlip_of_valid (hok : shadowOk s = true) (hrun : anyRun s = false) (hshut : shadowShut s = false) :
    doRouteFlip s = (let s2 := setB (setF s ROUTE.ROUTE_STS_RESULT 0) ROUTE.ROUTE_STS_DRAINING true
      { s2 with net := { s2.net with drainAt := s2.time.elapsed } }) := by
  simp [doRouteFlip, hok, hrun, hshut]

theorem doRouteFlip_of_invalid (hbad : shadowOk s = false) :
    doRouteFlip s = raise (setF s ROUTE.ROUTE_STS_RESULT 1) 0x0700 1 := by
  simp [doRouteFlip, hbad]

theorem doRouteCopy_of_bankA (hshut : shadowShut s = false) (hact : getF s ROUTE.ROUTE_STS_ACTIVE = 0) :
    doRouteCopy s = (let act := s.net.route.filter fun x => x.1 / 512 == 0
      { s with net := { s.net with route := act ++ act.map fun x => (x.1 % 512 + 512, x.2) } }) := by
  simp [doRouteCopy, hshut, hact]

theorem exec_routeFlipDrained_of_empty (ha : alive s = true) (hd : draining s = true) (hq : routedQueued s = false) :
    exec .routeFlipDrained s = .next (applyFlip s) :=
  exec_of_alive rfl ha (if_pos (by rw [hd, hq]; rfl))

/-- Without AUTOINC a write of TBL_DATA sets its entry alone (R378). -/
theorem doTblData_of_fixed (hshut : shadowShut s = false) (hinc : flag s ROUTE.TBL_ADDR_AUTOINC = false) :
    doTblData s v = { s with net := { s.net with
      route := Store.set 0 s.net.route (tblKey s (1 - getF s ROUTE.ROUTE_STS_ACTIVE)) (v % 2 ^ 32) } } := by
  have hstep : ∀ n, flag { s with net := n } ROUTE.TBL_ADDR_AUTOINC = false := fun _ => hinc
  simp [doTblData, tblStep, hshut, hstep]

/-- Settles O27: each clause is the command's own rule under the guard that the module is alive. -/
theorem routingTables : Obligations.RoutingTables := by
  unfold Obligations.RoutingTables
  refine ⟨?flip, ?flipInvalid, ?copy, ?drained, ?timeout, ?oldBank, ?tblData⟩
  case flip => exact fun s ha hok hrun hshut => exec_of_alive rfl ha (doRouteFlip_of_valid hok hrun hshut)
  case flipInvalid => exact fun s ha hbad => exec_of_alive rfl ha (doRouteFlip_of_invalid hbad)
  case copy => exact fun s ha hshut hact => exec_of_alive rfl ha (doRouteCopy_of_bankA hshut hact)
  case drained => exact fun s ha hd hq => exec_routeFlipDrained_of_empty ha hd hq
  case timeout => exact fun s ha hd => exec_of_alive rfl ha (if_pos hd)
  case oldBank => exact fun s ha hold => exec_of_alive rfl ha (if_pos hold)
  case tblData => exact fun s v ha hshut hinc => exec_of_alive rfl ha (doTblData_of_fixed hshut hinc)

/-! Credits (R363, R366, R368, R425). -/

/-- An unpoliced partition's credit that neither the throttle nor stage C holds back is released. -/
theorem doCreditRelease_of_permitted (howed : Store.get [] s.net.owed pid = cost :: rest)
    (hrate : getF s (SHAPE.POL_CFG_RATE (pidPt s pid)) = 0) (hthr : throttled s pid = false) (hlad : ladder s < 18) :
    doCreditRelease s pid = releaseCredit s pid (pidPt s pid) cost 0 rest := by
  have hstage : ¬ 18 ≤ ladder s := by omega
  simp [doCreditRelease, howed, hrate, hthr, hstage]

theorem doLimitWrite_of_fits (hfits : limitSum s (pidPt s (getF s SHAPE.E2E_ADDR_PID)) (getF s SHAPE.E2E_ADDR_PID) + v % 256
      ≤ 4096 * (viewCores s (pidPt s (getF s SHAPE.E2E_ADDR_PID))).length) :
    doLimitWrite s v =
      setB (setF s (SHAPE.E2E_DATA_LIMIT (getF s SHAPE.E2E_ADDR_PID)) v) SHAPE.E2E_STS_REFUSED false :=
  if_neg fun h => Nat.not_lt.mpr hfits h.2

/-! Multicast groups (R369). -/

theorem doGroupWrite_of_within (hg : getF s ROUTE.MC_SEL_GROUP = g) (h0 : g ≠ 0)
    (hports : ((upTo 48).all fun p => !(getF (putGroup s g reg v) (ROUTE.MC_PORTS g)).testBit p ||
      getF s (PORT.XPORT_CTL_GROUP p) == getF (putGroup s g reg v) (ROUTE.MC_CTL_DIM g)) = true) :
    doGroupWrite s reg v = setB (putGroup s g reg v) ROUTE.MC_STS_REFUSED false := by
  subst hg
  simp only [doGroupWrite, if_neg h0, hports, if_true]

/-- Settles O28: each clause is the command's own rule under the guard that the module is alive. -/
theorem creditsAndGroups : Obligations.CreditsAndGroups := by
  unfold Obligations.CreditsAndGroups
  refine ⟨?release, ?send, ?limit, ?limitRefused, ?group⟩
  case release =>
    exact fun s pid cost rest ha howed hrate hthr hlad =>
      exec_of_alive rfl ha (doCreditRelease_of_permitted howed hrate hthr hlad)
  case send => exact fun s pid ha hst hne => exec_of_alive rfl ha (if_pos ⟨hst, hne⟩)
  case limit => exact fun s v ha hfits => exec_of_alive rfl ha (doLimitWrite_of_fits hfits)
  case limitRefused => exact fun s v ha hst hover => exec_of_alive rfl ha (if_pos ⟨hst, hover⟩)
  case group => exact fun s reg v g ha hg h0 hports => exec_of_alive rfl ha (doGroupWrite_of_within hg h0 hports)

end Sys2Proof.Machine
end

section
/-!
PROOFS. What a register field reads through the operations that every family shares: other fields' writes, events and
the fault log.
-/

namespace Sys2Proof.Machine

variable {s t : State} {f g : Fld} {v w i m n page : Nat} {b : Bool} {α : Type}

/-- Each register is listed once, and field `f` reads `v`. -/
structure Reads (f : Fld) (v : Nat) (s : State) : Prop where
  rising : Store.rising s.regs = true
  read : getF s f = v

/-- Only the registers count. -/
theorem Reads.of_regs (h : Reads f v s) (hr : t.regs = s.regs) : Reads f v t := by
  refine ⟨hr ▸ h.rising, ?_⟩
  rw [← h.read, getF, getF, hr]

theorem reads_setF_self (h : Store.rising s.regs = true) : Reads f (v % 2 ^ f.width) (setF s f v) :=
  ⟨regsRising_setF h, getF_setF_self h⟩

theorem reads_setB_true (h : Store.rising s.regs = true) (hw : f.width = 1) : Reads f 1 (setB s f true) :=
  ⟨regsRising_setF h, (getF_setF_self h).trans (by rw [hw]; rfl)⟩

theorem reads_bumpF_self (h : Store.rising s.regs = true) :
    Reads f (min (getF s f + 1) (2 ^ f.width - 1)) (bumpF s f) :=
  ⟨regsRising_setF h, getF_bumpF_self h⟩

theorem Reads.setF (h : Reads f v s) (hk : f.key ≠ g.key) : Reads f v (setF s g w) :=
  ⟨regsRising_setF h.rising, (getF_setF_of_ne h.rising hk).trans h.read⟩

theorem Reads.setB (h : Reads f v s) (hk : f.key ≠ g.key) : Reads f v (setB s g b) := h.setF hk
theorem Reads.wrapF (h : Reads f v s) (hk : f.key ≠ g.key) : Reads f v (wrapF s g n) := h.setF hk
theorem Reads.setBitF (h : Reads f v s) (hk : f.key ≠ g.key) : Reads f v (setBitF s g i b) := h.setF hk

theorem Reads.ite {p : Prop} [Decidable p] (hs : Reads f v s) (ht : Reads f v t) : Reads f v (if p then s else t) := by
  split <;> assumption

theorem Reads.forAll {l : List α} {step : State → α → State} (h : Reads f v s)
    (hstep : ∀ s, Reads f v s → ∀ x ∈ l, Reads f v (step s x)) : Reads f v (forAll l step s) := by
  induction l generalizing s with
  | nil => exact h
  | cons x l ih =>
    exact ih (hstep s h x List.mem_cons_self) fun s hs y hy => hstep s hs y (List.mem_cons_of_mem x hy)

/-- Two fields lie at different register addresses, or at different bits of one (R12). -/
def fieldsApart (f g : Fld) : Bool :=
  (f.addr != g.addr || f.lsb != g.lsb) && decide (f.addr < 2 ^ 28) && decide (g.addr < 2 ^ 28)
    && decide (f.lsb < 32) && decide (g.lsb < 32)

/-- Fields that lie apart have different keys, whatever their banks. -/
theorem key_ne_of_apart (h : fieldsApart f g = true) : f.key ≠ g.key := by
  simp only [fieldsApart, Bool.and_eq_true, Bool.or_eq_true, bne_iff_ne, decide_eq_true_eq] at h
  simp only [Fld.key]
  omega

theorem flag_of_reads (h : Reads f (n + 1) s) : flag s f = true := by
  simp [flag, h.read]

/-! Messages change no register, events the event bits of their page alone. -/

@[simp] theorem queueEvt_regs (x : EvtMsg) : (queueEvt x s m).regs = s.regs := by
  simp only [queueEvt]
  split
  · rfl
  · split <;> rfl

@[simp] theorem formEvt_regs : (formEvt s page).regs = s.regs := by
  simp only [formEvt]
  split
  · rfl
  · exact forAll_keeps (fun _ _ => queueEvt_regs _) _ _

theorem Reads.raise (h : Reads f v s) (hk : f.key ≠ (HDR.EVT page).key) : Reads f v (raise s page i) := by
  have hset : Reads f v (Machine.setBitF s (HDR.EVT page) i true) := h.setBitF hk
  unfold Machine.raise
  exact (h.ite (hset.of_regs formEvt_regs |>.ite hset)).ite h

/-! What an event leaves alone: all that a register write and a message both leave alone. -/

section
variable {β : Type} {π : State → β} (hreg : ∀ s f v, π (setF s f v) = π s) (hselv : ∀ s m p, π (setSelv s m p) = π s)
include hselv

theorem queueEvt_keeps (x : EvtMsg) (s : State) (m : Nat) : π (queueEvt x s m) = π s := by
  simp only [queueEvt]
  split
  · exact hselv ..
  · split <;> exact hselv ..

theorem formEvt_keeps (s : State) (page : Nat) : π (formEvt s page) = π s := by
  simp only [formEvt]
  split
  · rfl
  · exact forAll_keeps (queueEvt_keeps hselv _) _ _

include hreg

theorem raise_keeps (s : State) (page i : Nat) : π (raise s page i) = π s := by
  simp only [raise]
  split
  · split
    · rfl
    · split
      · exact (formEvt_keeps hselv _ _).trans (hreg ..)
      · exact hreg ..
  · rfl

end

@[simp] theorem raise_log : (raise s page i).log = s.log :=
  raise_keeps (π := State.log) (fun _ _ _ => rfl) (fun _ _ _ => rfl) s page i

@[simp] theorem raise_boot : (raise s page i).boot = s.boot :=
  raise_keeps (π := State.boot) (fun _ _ _ => rfl) (fun _ _ _ => rfl) s page i

@[simp] theorem raise_input : (raise s page i).input = s.input :=
  raise_keeps (π := State.input) (fun _ _ _ => rfl) (fun _ _ _ => rfl) s page i

end Sys2Proof.Machine
end

section
/-!
PROOFS. The fault log (R467): where a fault is placed, and what an overflow leaves.
-/

namespace Sys2Proof.Machine

variable {s : State} {cls code page unit info cause i : Nat} {pt : Option Nat} {rsv : Bool} {f : Fld} {v : Nat}

/-! An entry of the log. -/

theorem logEntry_log : (logEntry s rsv cls code pt page unit info).log = s.log ++
    [⟨getF s FAULT.SEQ_NEXT_SEQ, cls, rsv, s.boot.faultsLost, code, pt, page, unit, s.time.ft, info⟩] := by
  simp only [logEntry]
  split <;> split <;> simp

theorem logEntry_faultsLost : (logEntry s rsv cls code pt page unit info).boot.faultsLost = false := by
  simp only [logEntry]
  split <;> split <;> simp

theorem faultEntry_of_general (h : generalUsed s < 496) :
    faultEntry s cls code pt page unit info = logEntry s false cls code pt page unit info := if_pos h

theorem faultEntry_of_reserved (h : 496 ≤ generalUsed s) (hc : critical cls = true) (hr : reservedUsed s < 16) :
    faultEntry s cls code pt page unit info = logEntry s true cls code pt page unit info := by
  simp only [faultEntry, if_neg (Nat.not_lt.mpr h), hc, if_true, hr]

/-! An overflow. -/

theorem faultEntry_of_lost (h : 496 ≤ generalUsed s) (hc : critical cls = false) :
    faultEntry s cls code pt page unit info = (
      let s1 := setB (bumpF s (FAULT.OVF_COUNT_COUNT cls)) FAULT.LOG_STS_LOST true
      raise { s1 with boot := { s1.boot with faultsLost := true } } 0x0040 2) := by
  simp only [faultEntry, if_neg (Nat.not_lt.mpr h), hc, Bool.false_eq_true, if_false]

theorem faultEntry_of_critical_lost (h : 496 ≤ generalUsed s) (hc : critical cls = true) (hr : 16 ≤ reservedUsed s) :
    faultEntry s cls code pt page unit info = latch (bumpF s (FAULT.OVF_COUNT_COUNT cls)) 3 cls := by
  simp only [faultEntry, if_neg (Nat.not_lt.mpr h), hc, if_true, if_neg (Nat.not_lt.mpr hr)]

/-! The latch (R469). -/

section
variable (hrun : latched s = false)
include hrun

theorem latch_of_running : latch s cause cls = (
    let s2 := setF (setF (setB s FAULT.LOG_STS_LATCHED true) FAULT.FATAL_CAUSE_CAUSE cause) FAULT.FATAL_CAUSE_CLASS cls
    raise { s2 with pwr := { s2.pwr with selfRef := true } } 0x0040 3) := by
  simp only [latch, hrun, Bool.false_eq_true, if_false]

variable (hs : Store.rising s.regs = true)
include hs

theorem reads_latched_latch : Reads FAULT.LOG_STS_LATCHED 1 (latch s cause cls) := by
  have hset : Reads FAULT.LOG_STS_LATCHED 1 (setB s FAULT.LOG_STS_LATCHED true) := reads_setB_true hs rfl
  have hcause := (hset.setF (g := FAULT.FATAL_CAUSE_CAUSE) (w := cause) (key_ne_of_apart rfl)).setF
    (g := FAULT.FATAL_CAUSE_CLASS) (w := cls) (key_ne_of_apart rfl)
  rw [latch_of_running hrun]
  exact Reads.raise (hcause.of_regs rfl) (key_ne_of_apart rfl)

theorem reads_cause_latch : Reads FAULT.FATAL_CAUSE_CAUSE (cause % 4) (latch s cause cls) := by
  have hset : Reads FAULT.FATAL_CAUSE_CAUSE (cause % 4)
    (setF (setB s FAULT.LOG_STS_LATCHED true) FAULT.FATAL_CAUSE_CAUSE cause) := reads_setF_self (regsRising_setF hs)
  have hclass := hset.setF (g := FAULT.FATAL_CAUSE_CLASS) (w := cls) (key_ne_of_apart rfl)
  rw [latch_of_running hrun]
  exact Reads.raise (hclass.of_regs rfl) (key_ne_of_apart rfl)

theorem reads_class_latch : Reads FAULT.FATAL_CAUSE_CLASS (cls % 32) (latch s cause cls) := by
  have hset : Reads FAULT.FATAL_CAUSE_CLASS (cls % 32) (setF (setF (setB s FAULT.LOG_STS_LATCHED true)
    FAULT.FATAL_CAUSE_CAUSE cause) FAULT.FATAL_CAUSE_CLASS cls) :=
    reads_setF_self (regsRising_setF (regsRising_setF hs))
  rw [latch_of_running hrun]
  exact Reads.raise (hset.of_regs rfl) (key_ne_of_apart rfl)

end

theorem latch_log : (latch s cause cls).log = s.log := by
  simp only [latch]
  split <;> simp

theorem latch_input : (latch s cause cls).input = s.input := by
  simp only [latch]
  split <;> simp

/-- What a register reads after the latch, where the latch does not write it. -/
theorem Reads.latch (h : Reads f v s) (hl : f.key ≠ FAULT.LOG_STS_LATCHED.key)
    (hca : f.key ≠ FAULT.FATAL_CAUSE_CAUSE.key) (hcl : f.key ≠ FAULT.FATAL_CAUSE_CLASS.key)
    (he : f.key ≠ (HDR.EVT 0x0040).key) : Reads f v (latch s cause cls) := by
  have hset := (((h.setB (b := true) hl).setF (w := cause) hca).setF (w := cls) hcl)
  exact h.ite (Reads.raise (hset.of_regs rfl) he)

theorem latched_bumpF_ovf (hs : Store.rising s.regs = true) :
    latched (bumpF s (FAULT.OVF_COUNT_COUNT cls)) = latched s :=
  flag_setF_of_ne hs (key_ne_of_apart rfl)

/-- Settles O53: the fault is placed where `faultEntry` places it; the registers it leaves are read past the event. -/
theorem faultPlacement : Obligations.FaultPlacement := by
  unfold Obligations.FaultPlacement
  refine ⟨?general, ?lost, ?reserved, ?overflow⟩
  case general =>
    intro s cls code pt page unit info h
    rw [faultEntry_of_general h]
    exact ⟨logEntry_log, logEntry_faultsLost⟩
  case lost =>
    intro s cls code pt page unit info hs h hc
    have hovf := (reads_bumpF_self (f := FAULT.OVF_COUNT_COUNT cls) hs).setB (g := FAULT.LOG_STS_LOST) (b := true)
      (key_ne_of_apart rfl)
    have hlost : Reads FAULT.LOG_STS_LOST 1 (setB (bumpF s (FAULT.OVF_COUNT_COUNT cls)) FAULT.LOG_STS_LOST true) :=
      reads_setB_true (regsRising_setF hs) rfl
    rw [faultEntry_of_lost h hc]
    refine ⟨raise_log, Reads.read (Reads.raise (hovf.of_regs rfl) (key_ne_of_apart rfl)), ?_, ?_⟩
    · exact flag_of_reads (Reads.raise (hlost.of_regs rfl) (key_ne_of_apart rfl))
    · rw [raise_boot]
  case reserved =>
    intro s cls code pt page unit info h hc hr
    rw [faultEntry_of_reserved h hc hr]
    exact ⟨logEntry_log, logEntry_faultsLost⟩
  case overflow =>
    intro s cls code pt page unit info hs h hc hr hrun
    have hs1 : Store.rising (bumpF s (FAULT.OVF_COUNT_COUNT cls)).regs = true := regsRising_setF hs
    have hrun1 : latched (bumpF s (FAULT.OVF_COUNT_COUNT cls)) = false := (latched_bumpF_ovf hs).trans hrun
    have hlatched : latched (latch (bumpF s (FAULT.OVF_COUNT_COUNT cls)) 3 cls) = true :=
      flag_of_reads (reads_latched_latch hrun1 hs1)
    have hovf := (reads_bumpF_self (f := FAULT.OVF_COUNT_COUNT cls) hs).latch (cause := 3) (cls := cls)
      (key_ne_of_apart rfl) (key_ne_of_apart rfl) (key_ne_of_apart rfl) (key_ne_of_apart rfl)
    have hcls : cls < 16 := of_decide_eq_true hc
    rw [faultEntry_of_critical_lost h hc hr]
    refine ⟨latch_log, hovf.read, hlatched, ?_, (reads_cause_latch hrun1 hs1).read, ?_⟩
    · rw [fatalPin, hlatched, latch_input, Bool.and_true]
      rfl
    · rw [(reads_class_latch hrun1 hs1).read, Nat.mod_eq_of_lt (by omega)]

end Sys2Proof.Machine
end

section
/-!
PROOFS. Event messages (R484) and the event queues of the Selvedge ports (R487).
-/

namespace Sys2Proof.Machine

variable {s : State} {p v i j m n same : Nat} {x : EvtMsg} {f g : Fld}

/-! When a page forms a message. -/

theorem raise_of_set (h : bitF s (HDR.EVT p) i = true) : raise s p i = s := by
  simp only [raise, h, if_true, ite_self]

theorem raise_of_clear (hp : pagePresent s p = true) (h : bitF s (HDR.EVT p) i = false) :
    raise s p i = if bitF s (HDR.EVT_EN p) i then formEvt (setBitF s (HDR.EVT p) i true) p
      else setBitF s (HDR.EVT p) i true := by
  simp only [raise, hp, h, if_true, Bool.false_eq_true, if_false]

/-- PAGE_EVT_EN reads the same after a write of PAGE_EVT. -/
theorem getF_evtEn_setF_evt (hr : Store.rising s.regs = true) :
    getF (setF s (HDR.EVT p) v) (HDR.EVT_EN p) = getF s (HDR.EVT_EN p) := by
  refine getF_setF_of_ne hr ?_
  simp only [Fld.key, HDR.EVT, HDR.EVT_EN]
  omega

theorem evtLive_testBit : (evtLive s p).testBit i = (bitF s (HDR.EVT p) i && bitF s (HDR.EVT_EN p) i) :=
  Nat.testBit_and ..

/-- What is left of `a` without its bits in `b`. -/
theorem testBit_sub_and (a b i : Nat) : (a - (a &&& b)).testBit i = (a.testBit i && !b.testBit i) := by
  have hle (a b : Nat) : a &&& b ≤ a := Nat.and_le_left
  have hmod (a b : Nat) : (a &&& b) % 2 = a % 2 &&& b % 2 := Nat.and_mod_two_pow (n := 1)
  induction i generalizing a b with
  | zero =>
    have hsub := hle a b
    have hlow := hmod a b
    simp only [Nat.testBit_zero]
    rcases Nat.mod_two_eq_zero_or_one a with ha | ha <;> rcases Nat.mod_two_eq_zero_or_one b with hb | hb <;>
      simp only [ha, hb, Nat.zero_and, Nat.and_zero, Nat.and_self] at hlow <;> simp [ha, hb] <;> omega
  | succ i ih =>
    have hhalf : (a - (a &&& b)) / 2 = a / 2 - (a / 2 &&& b / 2) := by
      have hsub := hle a b
      have hlow : (a &&& b) % 2 ≤ a % 2 := by rw [hmod]; exact hle _ _
      rw [← Nat.and_div_two]
      omega
    simp only [Nat.testBit_add_one, hhalf, ih]

/-- A number is not within another once it has a bit that the other lacks. -/
theorem sub_and_ne_zero {a b : Nat} (ha : a.testBit i = true) (hb : b.testBit i = false) : a - (a &&& b) ≠ 0 := by
  intro h0
  have hbit := testBit_sub_and a b i
  simp [h0, ha, hb] at hbit

theorem sub_and_eq_zero {a b : Nat} (h : ∀ i, a.testBit i = true → b.testBit i = true) : a - (a &&& b) = 0 := by
  refine Nat.eq_of_testBit_eq fun i => ?_
  rw [testBit_sub_and, Nat.zero_testBit]
  cases ha : a.testBit i
  · rfl
  · rw [h i ha]; rfl

/-- A write of PAGE_EVT_EN that enables a bit that is 1 forms a message. -/
theorem writeEvtEn_of_gain (hr : Store.rising s.regs = true) (hevt : bitF s (HDR.EVT p) i = true)
    (hen : bitF s (HDR.EVT_EN p) i = false) (hnew : bitF (setF s (HDR.EVT_EN p) v) (HDR.EVT_EN p) i = true) :
    writeEvtEn s p v = formEvt (setF s (HDR.EVT_EN p) v) p := by
  have hkeep : bitF (setF s (HDR.EVT_EN p) v) (HDR.EVT p) i = true := by
    unfold bitF
    rw [getF_setF_of_ne hr, ← bitF, hevt]
    simp only [Fld.key, HDR.EVT, HDR.EVT_EN]
    omega
  have hlive : (evtLive (setF s (HDR.EVT_EN p) v) p).testBit i = true := by rw [evtLive_testBit, hkeep, hnew]; rfl
  have hwas : (evtLive s p).testBit i = false := by rw [evtLive_testBit, hen, Bool.and_false]
  exact if_pos (bne_iff_ne.mpr (sub_and_ne_zero hlive hwas))

theorem writeEvtEn_of_no_gain
    (h : ∀ i, (evtLive (setF s (HDR.EVT_EN p) v) p).testBit i = true → (evtLive s p).testBit i = true) :
    writeEvtEn s p v = setF s (HDR.EVT_EN p) v := by
  exact if_neg (by simp [sub_and_eq_zero h])

/-- A formed message changes no register. -/
theorem getF_formEvt : getF (formEvt s p) f = getF s f := by
  unfold getF
  rw [formEvt_regs]

/-- The state in which the bits of `v` have been cleared and those of `same` set. -/
def clearedEvt (s : State) (p v same : Nat) : State :=
  setF s (HDR.EVT p) ((getF s (HDR.EVT p) - (getF s (HDR.EVT p) &&& v)) ||| same % 2 ^ pageNevt p)

section
variable (hi : i < pageNevt p) (hsame : same.testBit i = true)
include hi hsame

theorem testBit_same : (same % 2 ^ pageNevt p).testBit i = true := by
  simp [hi, hsame]

variable (hr : Store.rising s.regs = true)
include hr

theorem bitF_clearedEvt : bitF (clearedEvt s p v same) (HDR.EVT p) i = true := by
  have hbit := testBit_same hi hsame
  unfold bitF clearedEvt
  rw [getF_setF_self hr, Nat.testBit_mod_two_pow, Nat.testBit_or, hbit, Bool.or_true, Bool.and_true]
  exact decide_eq_true hi

/-- An event in the cycle of the write that clears its bit counts as a new one. -/
theorem clearEvt_of_same (hv : v.testBit i = true) (hen : bitF s (HDR.EVT_EN p) i = true) :
    clearEvt s p v same = formEvt (clearedEvt s p v same) p := by
  have hkeep : bitF (clearedEvt s p v same) (HDR.EVT_EN p) i = true :=
    (congrArg (Nat.testBit · i) (getF_evtEn_setF_evt hr)).trans hen
  have hgone : (getF s (HDR.EVT p) - (getF s (HDR.EVT p) &&& v)).testBit i = false := by
    rw [testBit_sub_and, hv, Bool.not_true, Bool.and_false]
  have hfresh : (same % 2 ^ pageNevt p - (same % 2 ^ pageNevt p &&&
      (getF s (HDR.EVT p) - (getF s (HDR.EVT p) &&& v)))).testBit i = true := by
    rw [testBit_sub_and, testBit_same hi hsame, hgone]; rfl
  refine if_pos (bne_iff_ne.mpr fun h0 => ?_)
  have hboth := congrArg (Nat.testBit · i) h0
  rw [Nat.testBit_and, hfresh, Bool.true_and, Nat.zero_testBit] at hboth
  exact Bool.false_ne_true (hboth.symm.trans hkeep)

end

/-- Settles O54: each clause is the rule of its operation. -/
theorem eventMessages : Obligations.EventMessages := by
  unfold Obligations.EventMessages
  refine ⟨?clear, ?set, ?gain, ?noGain, ?same, ?holdFalls, ?hold, ?form⟩
  case clear => exact fun s p i hp h => raise_of_clear hp h
  case set => exact fun s p i h => raise_of_set h
  case gain => exact fun s p v i hevt hen hnew hr => writeEvtEn_of_gain hr hevt hen hnew
  case noGain => exact fun s p v h => writeEvtEn_of_no_gain h
  case same =>
    intro s p v same i hr hi hv hsame _ hen
    have hform := clearEvt_of_same hi hsame hr hv hen
    have hbit := bitF_clearedEvt (v := v) hi hsame hr
    exact ⟨_, hbit, by rw [hform, bitF, getF_formEvt]; exact hbit, hform⟩
  case holdFalls =>
    intro s p v hold hfall hlive
    exact if_pos (by simp [hold, hfall, hlive])
  case hold => exact fun s p h => if_pos h
  case form => exact fun s p h => if_neg (Bool.eq_false_iff.mp h)

/-! The queue of a port. -/

/-- A port that is not in its reset state reads back as written, in whatever order the ports are listed. -/
theorem getSelv_setSelv {q : SelvPort} (h : q ≠ {}) : getSelv (setSelv s m q) m = q := by
  unfold getSelv setSelv Store.set
  rw [if_neg h]
  exact Store.get_ins_self

theorem ne_default_of_queue {q : SelvPort} (h : q.queue ≠ []) : q ≠ {} := fun e => h (by rw [e])

theorem ne_default_of_out {q : SelvPort} (h : q.out ≠ []) : q ≠ {} := fun e => h (by rw [e])

/-- The queue with the waiting message of the page renewed. -/
def renewed (x : EvtMsg) (l : List EvtMsg) : List EvtMsg :=
  l.map fun y => if y.page = x.page then { x with resync := x.resync || y.resync } else y

theorem getSelv_queueEvt_of_waiting (h : (getSelv s m).queue.any (fun y => y.page == x.page) = true) :
    getSelv (queueEvt x s m) m = { getSelv s m with queue := renewed x (getSelv s m).queue } := by
  have hne : renewed x (getSelv s m).queue ≠ [] := by
    intro h0
    rw [List.map_eq_nil_iff.mp h0] at h
    cases h
  unfold queueEvt
  rw [if_pos h]
  exact getSelv_setSelv (ne_default_of_queue hne)

/-- A message of the renewed queue is another page's as it was, or the page's with the new contents. -/
theorem mem_renewed {y : EvtMsg} {l : List EvtMsg} (h : y ∈ renewed x l) :
    (y.page ≠ x.page ∧ y ∈ l) ∨ (y.page = x.page ∧ y.evt = x.evt ∧ y.en = x.en ∧ y.time = x.time) := by
  obtain ⟨z, hz, rfl⟩ := List.mem_map.mp h
  split
  next => exact .inr ⟨rfl, rfl, rfl, rfl⟩
  next hne => exact .inl ⟨hne, hz⟩

section
variable (hnew : (getSelv s m).queue.any (fun y => y.page == x.page) = false)
include hnew

theorem getSelv_queueEvt_of_full (h : 64 ≤ (getSelv s m).queue.length) :
    getSelv (queueEvt x s m) m = { getSelv s m with seq := ((getSelv s m).seq + 1) % 65536 } := by
  have hne : (getSelv s m).queue ≠ [] := fun h0 => by simp [h0] at h
  simp only [queueEvt, hnew, Bool.false_eq_true, if_false, if_neg (Nat.not_lt.mpr h)]
  exact getSelv_setSelv (ne_default_of_queue hne)

theorem getSelv_queueEvt_of_room (h : (getSelv s m).queue.length < 64) :
    getSelv (queueEvt x s m) m = { getSelv s m with queue := (getSelv s m).queue ++ [x] } := by
  simp only [queueEvt, hnew, Bool.false_eq_true, if_false, if_pos h]
  exact getSelv_setSelv (ne_default_of_queue (List.append_ne_nil_of_right_ne_nil _ (List.cons_ne_nil _ _)))

end

theorem getSelv_sendEvt {l : List EvtMsg} (hq : (getSelv s m).queue = x :: l) (hup : selvUp s m = true) :
    getSelv (sendEvt s m) m = { getSelv s m with
      queue := l, seq := ((getSelv s m).seq + 1) % 65536,
      out := (getSelv s m).out ++ [.event (getSelv s m).seq x.page x.resync x.evt x.en x.time] } := by
  simp only [sendEvt, hq, hup, if_true]
  exact getSelv_setSelv (ne_default_of_out (List.append_ne_nil_of_right_ne_nil _ (List.cons_ne_nil _ _)))

theorem evtPending_iff : evtPending s p = true ↔ ∃ m : Selv, ∃ y ∈ (getSelv s m).queue, y.page = p := by
  simp only [evtPending, List.any_cons, List.any_nil, Bool.or_false, Bool.or_eq_true, List.any_eq_true, beq_iff_eq]
  constructor
  · rintro (h | h)
    · exact ⟨0, h⟩
    · exact ⟨1, h⟩
  · rintro ⟨m, h⟩
    match m with
    | 0 => exact .inl h
    | 1 => exact .inr h

/-- Settles O55: each clause reads the port back after the one write that its case of `queueEvt` or `sendEvt` makes. -/
theorem eventQueue : Obligations.EventQueue := by
  unfold Obligations.EventQueue
  refine ⟨?waiting, ?full, ?room, ?send, ?pending⟩
  case waiting =>
    intro s x m h
    rw [getSelv_queueEvt_of_waiting h]
    exact ⟨rfl, List.length_map .., fun y hy => mem_renewed hy⟩
  case full =>
    intro s x m hnew h
    rw [getSelv_queueEvt_of_full hnew h]
    exact ⟨rfl, rfl⟩
  case room =>
    intro s x m hnew h
    rw [getSelv_queueEvt_of_room hnew h]
    exact ⟨rfl, rfl⟩
  case send =>
    intro s x l m hq hup
    rw [getSelv_sendEvt hq hup]
    exact ⟨rfl, rfl, rfl⟩
  case pending => exact fun s p => evtPending_iff

end Sys2Proof.Machine
end

section
/-!
PROOFS. Register writes: which port may make one (R444, R448, R450, R469), and a write with several action bits (R483, R516).
-/

namespace Sys2Proof.Machine

variable {s : State} {m epoch addr v p o i j n : Nat} {b : Block} {acts : List Nat}

/-! The status of a write. -/

/-- A write from the holding port with the epoch in force, or from the previous holder's port in the window. -/
def mayWrite (s : State) (m epoch : Nat) : Prop :=
  (holder s = some m ∧ epoch = getF s TOP.CTL_STS_EPOCH) ∨ oldWrite s m epoch = true

theorem modeStatus_of_zero (h : modeStatus s addr v = 0) (hl : latched s = true) :
    addr = 0x0000040 ∧ v.testBit 1 = false := by
  unfold modeStatus at h
  split at h
  · cases h
  next hcold => simpa [hl] using hcold

theorem writeStatus_of_zero (h : writeStatus s m epoch addr v = 0) :
    mayWrite s m epoch ∧ modeStatus s addr v = 0 := by
  unfold mayWrite
  simp only [writeStatus] at h
  split at h
  · split at h <;> cases h
  next hfrom =>
    split at h
    · cases h
    next hepoch =>
      split at h
      · cases h
      next =>
        refine ⟨?_, h⟩
        cases hold : oldWrite s m epoch
        · simp only [hold, Bool.not_false, and_true, not_not, ne_eq] at hfrom hepoch
          exact .inl ⟨hfrom, hepoch⟩
        · exact .inr rfl

theorem writeStatus_of_stale (hh : holder s = some m) (he : epoch ≠ getF s TOP.CTL_STS_EPOCH)
    (hold : oldWrite s m epoch = false) : writeStatus s m epoch addr v = 2 := by
  simp [writeStatus, hh, he, hold]

theorem writeStatus_of_uncovered (hold : oldWrite s m epoch = true) (he : epoch ≠ getF s TOP.CTL_STS_EPOCH)
    (hno : noOldWrite addr = true) : writeStatus s m epoch addr v = 2 := by
  simp [writeStatus, hold, he, hno]

theorem oldWrite_of_closed (hw : windowOpen s = false) : oldWrite s m epoch = false := by
  simp [oldWrite, hw]

theorem writeStatus_of_closed (hw : windowOpen s = false) (hm : s.ctl.prevHolder = m + 1)
    (hp : epoch = s.ctl.prevEpoch) (he : epoch ≠ getF s TOP.CTL_STS_EPOCH) : writeStatus s m epoch addr v = 2 := by
  have hold := oldWrite_of_closed (m := m) (epoch := epoch) hw
  by_cases hh : holder s = some m
  · exact writeStatus_of_stale hh he hold
  · simp [writeStatus, hh, hold, hm, ← hp, he]

theorem writeStatus_of_other (hh : holder s ≠ some m) (hm : s.ctl.prevHolder ≠ m + 1) :
    writeStatus s m epoch addr v = 1 := by
  have hold : oldWrite s m epoch = false := by simp [oldWrite, hm]
  simp [writeStatus, hh, hold, hm]

/-- Settles O56: by the order of the tests of `writeStatus`. -/
theorem whoMayWrite : Obligations.WhoMayWrite := by
  unfold Obligations.WhoMayWrite
  refine ⟨?zero, ?stale, ?uncovered, ?closed, ?other⟩
  case zero =>
    intro s m epoch addr v h
    obtain ⟨hmay, hmode⟩ := writeStatus_of_zero h
    exact ⟨hmay, modeStatus_of_zero hmode⟩
  case stale => exact fun s m epoch addr v hh he hold => writeStatus_of_stale hh he hold
  case uncovered => exact fun s m epoch addr v hold he hno => writeStatus_of_uncovered hold he hno
  case closed => exact fun s m epoch addr v hw hm hp he => writeStatus_of_closed hw hm hp he
  case other => exact fun s m epoch addr v hh hm => writeStatus_of_other hh hm

/-! The parts of a register's address. -/

theorem page_of_addr (hp : p < 65536) (ho : o < 4096) : (p * 4096 + o) / 4096 % 65536 = p := by omega

theorem offset_of_addr (ho : o < 4096) (ha : o % 4 = 0) : (p * 4096 + o) % 4096 / 4 * 4 = o := by omega

/-! Several actions in one write (R516). -/

theorem one_lt_filter_length {q : Nat → Bool} (hi : i ∈ acts) (hj : j ∈ acts) (hne : i ≠ j) (hqi : q i = true)
    (hqj : q j = true) : 1 < (acts.filter q).length := by
  have hi' : i ∈ acts.filter q := List.mem_filter.mpr ⟨hi, hqi⟩
  have hj' : j ∈ acts.filter q := List.mem_filter.mpr ⟨hj, hqj⟩
  match hl : acts.filter q with
  | [] => rw [hl] at hi'; cases hi'
  | [x] =>
    rw [hl, List.mem_singleton] at hi' hj'
    exact absurd (hi'.trans hj'.symm) hne
  | _ :: _ :: _ => simp

/-- A write of an open page that sets two of its register's action bits is ignored and flagged. -/
theorem writeReg_of_actions (hp : p < 65536) (ho : o < 4096) (ha : o % 4 = 0) (hb : pageBlock p = some (b, n))
    (hopen : pageOpen s p = true) (hv : v < 2 ^ 32) (hmany : 1 < ((actionBits b o).filter v.testBit).length) :
    writeReg s (p * 4096 + o) v = setB s (HDR.IGNORED p) true := by
  simp only [writeReg, page_of_addr hp ho, offset_of_addr ho ha, Nat.mod_eq_of_lt hv, hb, hopen, hmany, Bool.not_true,
    Bool.false_eq_true, if_false, if_true]
  split <;> rfl

/-- The command registers of R516 that have several action bits: block, offset, bits. -/
def actionRegs : List (Block × Nat × List Nat) :=
  [(Block.ging, 0x040, [0, 1]), (Block.part, 0x400, [4, 5]), (Block.part, 0x514, [0, 1, 2]), (Block.part, 0x608, [0, 1]),
    (Block.part, 0x644, [4, 5]), (Block.xlt, 0x090, [0, 1]), (Block.xlt, 0x168, [4, 5]), (Block.sec, 0x058, [0, 1, 2]),
    (Block.att, 0x0C4, [6, 7]), (Block.key, 0x0C4, [6, 7, 8]), (Block.edac, 0x0A4, [0, 1, 2])]

theorem actionBits_of_mem : ∀ x ∈ actionRegs, actionBits x.1 x.2.1 = x.2.2 := by decide

/-- FAULT_CMD has two bits that act side by side (R468, R473). -/
theorem writeReg_faultCmd_both (hopen : pageOpen s 0x0040 = true) :
    writeReg s 0x40048 3 = setB { s with log := s.log.drop 1 } FAULT.LOG_STS_LOST false := by
  change (if !pageOpen s 0x0040 then s else _) = _
  rw [hopen]
  rfl

/-- Settles O59: a write with two of a register's action bits fails the test that `writeReg` makes first; FAULT_CMD has no
action bits of R516. -/
theorem severalActionsAreIgnored : Obligations.SeveralActionsAreIgnored := by
  unfold Obligations.SeveralActionsAreIgnored
  constructor
  · intro s p v i j b n o acts ha hp ho halign hb hopen hcmd hi hj hne hv hvi hvj
    have hmany : 1 < ((actionBits b o).filter v.testBit).length := by
      rw [actionBits_of_mem _ hcmd]
      exact one_lt_filter_length hi hj hne hvi hvj
    exact exec_of_alive rfl ha (writeReg_of_actions hp ho halign hb hopen hv hmany)
  · exact fun s ha hopen => exec_of_alive rfl ha (writeReg_faultCmd_both hopen)

end Sys2Proof.Machine
end

section
/-!
PROOFS. A module without power, in reset or latched (R437, R469, R506, R507): the guards of the commands.
-/

namespace Sys2Proof.Machine

variable {s : State} {c : Instr} {f : State → State}

theorem whenManaged_of_not (h : managed s = false) : whenManaged s f = s := by simp [whenManaged, h]

theorem whenAlive_of_not_managed (h : managed s = false) : whenAlive s f = s := by simp [whenAlive, alive, h]

theorem whenAlive_of_latched (h : latched s = true) : whenAlive s f = s := by simp [whenAlive, alive, h]

theorem tapOn_of_not_managed (h : managed s = false) : tapOn s = false := by simp [tapOn, h]

/-- The commands of the debug contacts. -/
def atContacts : Instr → Bool
  | .idcode | .msg .. | .scan | .bypass .. => true
  | _ => false

/-- A command that a latched module does not take acts while the module is alive. -/
theorem exec_eq_whenAlive (hc : actsLatched c = false) (s : State) : ∃ f, exec c s = .next (whenAlive s f) := by
  cases c <;> simp only [actsLatched, reduceCtorEq] at hc <;> exact ⟨_, rfl⟩

/-- A command that a latched module takes, of neither the input stage nor the contacts, acts while the management complex
runs. -/
theorem exec_eq_whenManaged (hl : actsLatched c = true) (hu : actsUnmanaged c = false) (ht : atContacts c = false)
    (s : State) : ∃ f, exec c s = .next (whenManaged s f) := by
  cases c <;> simp only [actsLatched, actsUnmanaged, atContacts, reduceCtorEq] at hl hu ht <;> exact ⟨_, rfl⟩

/-- The contacts are dead while the management complex does not run. -/
theorem exec_atContacts_of_not_managed (ht : atContacts c = true) (h : managed s = false) : exec c s = .next s := by
  have htap := tapOn_of_not_managed h
  cases c <;> simp only [atContacts, reduceCtorEq] at ht
  case idcode => simp [exec, execIdcode, htap]
  case msg => simp [exec, execMsg, doMsg, htap]
  case scan => simp [exec, execScan, doScan, htap]
  case bypass => simp [exec, execBypass, htap]

/-- Settles O48: every command but those of the input stage stands behind a guard that the stopped module fails. -/
theorem stoppedModuleIgnoresCommands : Obligations.StoppedModuleIgnoresCommands := by
  unfold Obligations.StoppedModuleIgnoresCommands
  constructor
  · intro s c hm hu
    cases hl : actsLatched c
    · obtain ⟨f, hf⟩ := exec_eq_whenAlive hl s
      rw [hf, whenAlive_of_not_managed hm]
    · cases ht : atContacts c
      · obtain ⟨f, hf⟩ := exec_eq_whenManaged hl hu ht s
        rw [hf, whenManaged_of_not hm]
      · exact exec_atContacts_of_not_managed ht hm
  · intro s c hl hc
    obtain ⟨f, hf⟩ := exec_eq_whenAlive hc s
    rw [hf, whenAlive_of_latched hl]

end Sys2Proof.Machine
end

section
/-!
PROOFS. The state after a reset (R455 to R457, R468): no port holds control.
-/

namespace Sys2Proof.Machine

variable {s t : State} {g : Fld} {v straps cause m : Nat} {b : Bool} {α : Type} {q : List Instr} {F : Store Nat → Prop}

/-! The reset state. -/

theorem inv_reset : Inv State.reset :=
  ⟨rfl, (by decide : Store.rising State.reset.regs = true), ⟨Nat.zero_le _, Nat.zero_le _⟩, fun _ he => nomatch he⟩

/-- A key above every listed one is not listed. -/
theorem Store.get_of_all_below {d : α} {k : Nat} {l : Store α} (h : ∀ e ∈ l, e.1 < k) : Store.get d l k = d := by
  induction l with
  | nil => rfl
  | cons e l ih =>
    have hlt : e.1 < k := h e List.mem_cons_self
    rw [Store.get, if_neg (Nat.ne_of_gt hlt), if_neg (Nat.lt_asymm hlt)]
    exact ih fun x hx => h x (List.mem_cons_of_mem e hx)

/-- No PID is bound: the registers that differ from their tables' values are those of the FUSE page, which lies below. -/
theorem pidState_reset (pid : Nat) : pidState State.reset pid = 0 := by
  have hfuse : ∀ e ∈ State.reset.regs, e.1 < 0x0002000 * 32 := by decide
  refine Store.get_of_all_below fun e he => Nat.lt_of_lt_of_le (hfuse e he) ?_
  simp only [Fld.key, PART.FENCE_STS_STATE]
  omega

/-- Settles O43: by evaluation; the PIDs by the place of their registers. -/
theorem resetState : Obligations.ResetState := by
  unfold Obligations.ResetState
  exact ⟨inv_reset, rfl, rfl, by decide, by decide, by decide, by decide, fun pid => pidState_reset pid, fun _ => rfl⟩

/-! A cold reset (R456, R457). -/

/-- No port holds control, and the epoch is 0. -/
def NoControl (s : State) : Prop := Reads TOP.CTL_STS_HOLDER 0 s ∧ Reads TOP.CTL_STS_EPOCH 0 s

/-- The field is neither the holder nor the epoch. -/
def besideControl (g : Fld) : Bool := fieldsApart TOP.CTL_STS_HOLDER g && fieldsApart TOP.CTL_STS_EPOCH g

theorem NoControl.setF (h : NoControl s) (hg : besideControl g = true) : NoControl (setF s g v) := by
  obtain ⟨hh, he⟩ := h
  obtain ⟨hgh, hge⟩ := Bool.and_eq_true_iff.mp hg
  exact ⟨hh.setF (key_ne_of_apart hgh), he.setF (key_ne_of_apart hge)⟩

theorem NoControl.setB (h : NoControl s) (hg : besideControl g = true) : NoControl (setB s g b) := h.setF hg

theorem NoControl.of_regs (h : NoControl s) (hr : t.regs = s.regs) : NoControl t :=
  ⟨h.1.of_regs hr, h.2.of_regs hr⟩

theorem NoControl.forAll {l : List α} {f : State → α → State} (h : NoControl s)
    (hf : ∀ s x, NoControl s → NoControl (f s x)) : NoControl (forAll l f s) := by
  induction l generalizing s with
  | nil => exact h
  | cons x l ih => exact ih (hf s x h)

theorem noControl_of_no_regs (h : s.regs = []) : NoControl s := by
  constructor <;> exact ⟨by rw [h]; rfl, by rw [getF, h]; rfl⟩

theorem NoControl.showLifecycle (h : NoControl s) : NoControl (showLifecycle s) := (h.setF rfl).setB rfl

theorem NoControl.loadFuses (h : NoControl s) : NoControl (loadFuses s) := by
  unfold Machine.loadFuses
  refine NoControl.forAll ?_ fun s c h => NoControl.setF (NoControl.setF h rfl) rfl
  refine NoControl.setF (NoControl.forAll ?_ fun s i h => NoControl.setF h rfl) rfl
  refine NoControl.setF (NoControl.setF (NoControl.showLifecycle ?_) rfl) rfl
  refine NoControl.setF (NoControl.setF (NoControl.setF ?_ rfl) rfl) rfl
  exact NoControl.setF (NoControl.setF h rfl) rfl

theorem NoControl.showStraps (h : NoControl s) : NoControl (showStraps s v) := by
  unfold Machine.showStraps
  refine NoControl.setF (NoControl.setF (NoControl.setF (NoControl.setF (NoControl.setF ?_ rfl) rfl) rfl) rfl) rfl
  exact NoControl.setF (NoControl.setF (NoControl.setF (NoControl.setF (NoControl.setF h rfl) rfl) rfl) rfl) rfl

theorem NoControl.adoptFirmware (h : NoControl s) : NoControl (adoptFirmware s) := by
  unfold Machine.adoptFirmware
  refine NoControl.setF (NoControl.setF (NoControl.setF (NoControl.setB ?_ rfl) rfl) rfl) rfl
  split
  · exact h.of_regs rfl
  · exact h

theorem NoControl.withGing {x : Gingham} (h : NoControl s) : NoControl { s with ging := x } := h.of_regs rfl

theorem noControl_coldReset : NoControl (coldReset s straps cause) := by
  unfold coldReset
  refine NoControl.setF (NoControl.withGing (NoControl.adoptFirmware ?_)) rfl
  exact NoControl.showStraps (NoControl.loadFuses (noControl_of_no_regs rfl))

theorem holder_of_noControl (h : NoControl s) : holder s = none := by
  simp [holder, h.1.read]

/-- What a cold reset keeps or empties beside the registers: the queue, the fuses, the log and memory. -/
def besideRegs (s : State) : List Instr × Store Nat × List FaultEntry × Store Byte := (s.pending, s.sec.fuses, s.log, s.mem)

@[simp] theorem besideRegs_setF : besideRegs (setF s g v) = besideRegs s := (rfl)
@[simp] theorem besideRegs_setB : besideRegs (setB s g b) = besideRegs s := (rfl)
theorem besideRegs_withGing {x : Gingham} : besideRegs { s with ging := x } = besideRegs s := (rfl)

theorem besideRegs_forAll {l : List α} {f : State → α → State} (hf : ∀ s x, besideRegs (f s x) = besideRegs s) :
    besideRegs (forAll l f s) = besideRegs s := forAll_keeps hf l s

theorem besideRegs_loadFuses : besideRegs (loadFuses s) = besideRegs s := by
  unfold loadFuses
  refine (besideRegs_forAll fun s c => ?_).trans ?_
  · simp only [besideRegs_setF]
  simp only [besideRegs_setF]
  refine (besideRegs_forAll fun s i => besideRegs_setF).trans ?_
  simp only [besideRegs_setF, showLifecycle, besideRegs_setB]

theorem besideRegs_showStraps : besideRegs (showStraps s v) = besideRegs s := by
  simp [showStraps]

theorem besideRegs_adoptFirmware : besideRegs (adoptFirmware s) = besideRegs s := by
  simp only [adoptFirmware, besideRegs_setF, besideRegs_setB]
  split
  · exact (rfl)
  · exact (rfl)

theorem besideRegs_coldReset : besideRegs (coldReset s straps cause) = (s.pending, s.sec.fuses, [], []) := by
  unfold coldReset
  simp only [besideRegs_setF, besideRegs_withGing, besideRegs_adoptFirmware, besideRegs_showStraps,
    besideRegs_loadFuses]
  exact (rfl)

/-! A warm reset (R457). -/

theorem Reads.enterHoldover {f : Fld} (h : Reads f v s) (hst : f.key ≠ FT.FT_STS_STATE.key)
    (hevt : f.key ≠ (HDR.EVT 0x0010).key) : Reads f v (enterHoldover s) := by
  have hset : Reads f v (Machine.setF s FT.FT_STS_STATE 3) := h.setF hst
  have hslew : Reads f v (if s.time.refused then Machine.setF s FT.FT_STS_STATE 3
      else setSlew (Machine.setF s FT.FT_STS_STATE 3) 0) := hset.ite (Reads.of_regs hset rfl)
  exact Reads.raise (Reads.of_regs hslew rfl) hevt

theorem reads_setF_zero {f : Fld} (h : Store.rising s.regs = true) : Reads f 0 (setF s f 0) :=
  ⟨regsRising_setF h, (getF_setF_self h).trans (Nat.zero_mod _)⟩

theorem Reads.withTime {f : Fld} {x : TimeUnit} (h : Reads f v s) : Reads f v { s with time := x } := h.of_regs rfl

theorem Reads.warmControl {f : Fld} (h : Reads f v s) : Reads f v (warmControl s) := h.of_regs rfl

/-- The end of a warm reset, from the write that takes control away. -/
theorem reads_holder_released (h : Store.rising s.regs = true) : Reads TOP.CTL_STS_HOLDER 0
    (let s1 := setB (setF s TOP.CTL_STS_HOLDER 0) TOP.CTL_STS_WINDOW false
     warmControl (enterHoldover { s1 with time := { s1.time with exch := none, within := 0 } })) := by
  have hset : Reads TOP.CTL_STS_HOLDER 0 (setF s TOP.CTL_STS_HOLDER 0) := reads_setF_zero h
  have hwin := hset.setB (g := TOP.CTL_STS_WINDOW) (b := false) (key_ne_of_apart rfl)
  exact Reads.warmControl (Reads.enterHoldover hwin.withTime (key_ne_of_apart rfl) (key_ne_of_apart rfl))

theorem reads_holder_warmReset (h : Fr q MemOk F s) : Reads TOP.CTL_STS_HOLDER 0 (warmReset s) := by
  have hports := forAll_fr (l := [0, 1]) (holdOutputs_fr (announceReset_fr (flushDc_fr h (coresUp s))))
    fun s m h => warmSelv_fr h m
  have hroots := forAll_fr (l := upTo 16) (tierWarm_fr (warmEmpty_fr (portsOff_fr hports))) fun s r h => warmRoot_fr h r
  have hkeys := noteChip_fr hroots fun s h => adoptFirmware_fr (warmKeys_fr (warmRegs_fr h))
  unfold warmReset
  exact reads_holder_released hkeys.regs

/-- Settles O60: the holder's register is followed from the write that clears it to the end of the reset. -/
theorem resetsEndControl : Obligations.ResetsEndControl := by
  unfold Obligations.ResetsEndControl
  constructor
  · intro s straps cause
    have hctl : NoControl (coldReset s straps cause) := noControl_coldReset
    have hrest := besideRegs_coldReset (s := s) (straps := straps) (cause := cause)
    simp only [besideRegs, Prod.mk.injEq] at hrest
    obtain ⟨hpending, hfuses, hlog, hmem⟩ := hrest
    exact ⟨holder_of_noControl hctl, hctl.2.read, hlog, hmem, hfuses, hpending⟩
  · intro s hs
    have hfr : Fr s.pending MemOk (fun _ => True) s := hs.fr hs.1 trivial
    simp [holder, (reads_holder_warmReset hfr).read]

end Sys2Proof.Machine
end

section
/-!
PROOFS. The debug contacts below debug level D2 (R489, R513).
-/

namespace Sys2Proof.Machine

variable {s t u : State} {src a n ir dr tag st k : Nat} {b fixed : Bool} {ws : List Nat}

/-- What a probe below D2 may change: the debug port, two of its registers, the read latch and the count of free values. -/
structure ProbeOnly (s t : State) : Prop where
  state : ∃ d r c l, t = { s with dbg := d, regs := r, freeCtr := c, ctl := { s.ctl with latch := l } }
  rising : Store.rising s.regs = true → Store.rising t.regs = true
  fields : ∀ f : Fld, Store.rising s.regs = true → f.key ≠ DBG.DBG_STS_SCAN.key → f.key ≠ DBG.DBG_ACCESS_COUNT.key →
    getF t f = getF s f

theorem ProbeOnly.refl (s : State) : ProbeOnly s s := ⟨⟨_, _, _, _, rfl⟩, id, fun _ _ _ _ => rfl⟩

theorem ProbeOnly.trans (h₁ : ProbeOnly s t) (h₂ : ProbeOnly t u) : ProbeOnly s u := by
  refine ⟨?_, h₂.rising ∘ h₁.rising, fun f hr hscan hcount => ?_⟩
  · obtain ⟨_, _, _, _, rfl⟩ := h₁.state
    obtain ⟨d, r, c, l, rfl⟩ := h₂.state
    exact ⟨d, r, c, l, rfl⟩
  · exact (h₂.fields f (h₁.rising hr) hscan hcount).trans (h₁.fields f hr hscan hcount)

theorem ProbeOnly.ite {p : Prop} [Decidable p] (ht : ProbeOnly s t) (hu : ProbeOnly s u) :
    ProbeOnly s (if p then t else u) := by
  split <;> assumption

/-- A step that leaves the registers alone. -/
theorem ProbeOnly.of_regs (hst : ∃ d c l, t = { s with dbg := d, freeCtr := c, ctl := { s.ctl with latch := l } }) :
    ProbeOnly s t := by
  obtain ⟨d, c, l, rfl⟩ := hst
  exact ⟨⟨d, s.regs, c, l, rfl⟩, id, fun _ _ _ _ => rfl⟩

theorem probeOnly_setScan : ProbeOnly s (setB s DBG.DBG_STS_SCAN b) :=
  ⟨⟨_, _, _, _, rfl⟩, fun hr => regsRising_setF hr, fun _ hr hscan _ => getF_setF_of_ne hr hscan⟩

theorem probeOnly_countAccesses : ProbeOnly s (addF s DBG.DBG_ACCESS_COUNT n) :=
  ⟨⟨_, _, _, _, rfl⟩, fun hr => regsRising_setF hr, fun _ hr _ hcount => getF_setF_of_ne hr hcount⟩

theorem probeOnly_tapLoad : ProbeOnly s (tapLoad s ir dr) :=
  probeOnly_setScan.trans (.of_regs ⟨_, _, _, rfl⟩)

theorem probeOnly_tapAnswer : ProbeOnly s (tapAnswer s tag st k ws) := .of_regs ⟨_, _, _, rfl⟩

theorem probeOnly_freeNat : ProbeOnly s (freeNat s n).2 := .of_regs ⟨_, _, _, rfl⟩

/-- A read by a source that does not hold control has no read effect (R481): at most its latch of R14 is new. -/
theorem probeOnly_readReg : ProbeOnly s (readReg s src a false).2 := by
  unfold readReg
  simp only [Bool.false_eq_true, if_false]
  split
  · exact .refl s
  split
  · split
    · exact .of_regs ⟨_, _, _, rfl⟩
    · exact .refl s
    · exact .refl s
  · exact .refl s

theorem probeOnly_readBurst : ProbeOnly s (readBurst src false fixed n a s).2 := by
  induction n generalizing a s with
  | zero => exact .refl s
  | succ n ih => exact probeOnly_readReg.trans ih

theorem probeOnly_tapRead : ProbeOnly s (tapRead s tag a n fixed) := by
  unfold tapRead
  split
  · exact probeOnly_tapAnswer
  · exact probeOnly_readBurst.trans (probeOnly_countAccesses.trans probeOnly_tapAnswer)

theorem probeOnly_tapWrite (hlevel : getF s SEC.DEBUG_LEVEL ≠ 2) : ProbeOnly s (tapWrite s tag a fixed ws) := by
  rw [tapWrite, if_neg hlevel]
  exact (probeOnly_freeNat (n := 8)).trans probeOnly_tapAnswer

theorem probeOnly_tapMessage (hlevel : getF s SEC.DEBUG_LEVEL ≠ 2) : ProbeOnly s (tapMessage s ws) := by
  unfold tapMessage
  exact .ite (.refl s) (.ite probeOnly_tapAnswer (.ite probeOnly_tapRead (probeOnly_tapWrite hlevel)))

/-- The debug level is none of the registers that a probe changes. -/
theorem ProbeOnly.level (h : ProbeOnly s t) (hr : Store.rising s.regs = true) :
    getF t SEC.DEBUG_LEVEL = getF s SEC.DEBUG_LEVEL :=
  h.fields SEC.DEBUG_LEVEL hr (key_ne_of_apart rfl) (key_ne_of_apart rfl)

/-- The word of the response that goes out with MSG. -/
def msgOut (s : State) : State :=
  match s.dbg.outWords with
  | [] => tapLoad s 0x10 0
  | w :: rest => tapLoad { s with dbg := { s.dbg with outWords := rest } } 0x10 (w % 2 ^ 32 + 2 ^ 32)

theorem probeOnly_msgOut : ProbeOnly s (msgOut s) := by
  unfold msgOut
  split
  · exact probeOnly_tapLoad
  · exact ProbeOnly.trans (.of_regs ⟨_, _, _, rfl⟩) probeOnly_tapLoad

theorem doMsg_eq (s : State) (word : Nat) (valid : Bool) : doMsg s word valid =
    if tapOn s then
      if valid then
        let ws := (msgOut s).dbg.inWords ++ [word % 2 ^ 32]
        if 2 ≤ ws.length ∧ ws.length = 2 + ws.getD 0 0 / 256 % 256 then
          tapMessage { msgOut s with dbg := { (msgOut s).dbg with inWords := [] } } ws
        else { msgOut s with dbg := { (msgOut s).dbg with inWords := ws } }
      else msgOut s
    else s := rfl

theorem probeOnly_doMsg (hr : Store.rising s.regs = true) (hlevel : getF s SEC.DEBUG_LEVEL ≠ 2) (word : Nat)
    (valid : Bool) : ProbeOnly s (doMsg s word valid) := by
  have hout : ProbeOnly s (msgOut s) := probeOnly_msgOut
  rw [doMsg_eq]
  split
  · split
    · dsimp only
      split
      · have hemptied := hout.trans
          (.of_regs (t := { msgOut s with dbg := { (msgOut s).dbg with inWords := [] } }) ⟨_, _, _, rfl⟩)
        exact hemptied.trans (probeOnly_tapMessage (by rwa [hemptied.level hr]))
      · exact hout.trans (.of_regs ⟨_, _, _, rfl⟩)
    · exact hout
  · exact .refl s

theorem doScan_of_belowD2 (hlevel : getF s SEC.DEBUG_LEVEL ≠ 2) : doScan s = s := by
  simp [doScan, hlevel]

/-- Settles O58: each piece of MSG below D2 is `ProbeOnly`, and the level itself stays as it is. -/
theorem belowD2TheProbeWritesNothing : Obligations.BelowD2TheProbeWritesNothing := by
  unfold Obligations.BelowD2TheProbeWritesNothing
  constructor
  · intro s word valid t f hr hlevel ht
    obtain rfl : doMsg s word valid = t := Host.Outcome.next.inj ht
    have hprobe := probeOnly_doMsg hr hlevel word valid
    refine ⟨?_, hprobe.fields f hr⟩
    obtain ⟨d, r, c, l, hst⟩ := hprobe.state
    rw [hst]
  · intro s hlevel
    exact congrArg Host.Outcome.next (doScan_of_belowD2 hlevel)

end Sys2Proof.Machine
end

section
/-!
PROOFS. Firmware, lifecycle, debug level, field fuses and TRNG: what each command of R381 to R410 and R464 does under the
guards of its clause.
-/

namespace Sys2Proof.Machine

variable {s : State} {v n l r w i bits entry pt : Nat}

/-! Firmware (R392). -/

theorem doFwData_of_autoinc (hinc : flag s SEC.FW_ADDR_AUTOINC = true) :
    doFwData s v = (let o := getF s SEC.FW_ADDR_OFFSET / 4 * 4
      let w := (upTo 4).foldl (fun m k => Store.set 0 m (o + k) (v / 256 ^ k % 256)) s.sec.window
      wrapF { s with sec := { s.sec with window := w } } SEC.FW_ADDR_OFFSET 4) :=
  if_pos hinc

theorem doFwVerify_of_idle (hidle : flag s SEC.FW_STS_BUSY = false) : doFwVerify s = setB s SEC.FW_STS_BUSY true :=
  if_neg (Bool.eq_false_iff.mp hidle)

theorem doSvnCommit_of_sealed (hlc : lifecycle s = 1) (hn : min 64 (getF s SEC.FW_STS_RUN_SVN) = n)
    (hlow : getF s FUSE.SVN_SVN < n) :
    doSvnCommit s = setF (blow (blow s 4 ((2 ^ n - 1) % 2 ^ 32)) 5 ((2 ^ n - 1) / 2 ^ 32)) FUSE.SVN_SVN n := by
  subst hn
  exact if_pos ⟨hlc, hlow⟩

/-! Lifecycle (R409). -/

theorem doLcRma_of_sealed (hbusy : flag s SEC.SEC_STS_LC_BUSY = false) (hlc : lifecycle s = 1) :
    doLcRma s = if Config.rmaTokenOk s.sec.window (getF s FUSE.SERIAL) (getF s FUSE.AVK) then
        lcStart (noteChip (fun s => showLifecycle (blow (blow (zeroise s) 3 0x100) 3 2)) s) 0
      else lcStart s 2 := by
  simp only [doLcRma, hbusy, hlc, Bool.false_eq_true, if_false, ne_eq, not_true_eq_false]

theorem testBit_fuse_blow (hb : (bits % 2 ^ 32).testBit i = true) : (fuse (blow s w bits) w).testBit i = true := by
  have hbit : (fuse s w ||| bits % 2 ^ 32).testBit i = true := by
    rw [Nat.testBit_or, hb, Bool.or_true]
  have hne : fuse s w ||| bits % 2 ^ 32 ≠ 0 := by
    intro hzero
    rw [hzero, Nat.zero_testBit] at hbit
    exact Bool.false_ne_true hbit
  unfold fuse blow Store.set
  rw [if_neg hne, Store.get_ins_self]
  exact hbit

/-- A blown VOID bit shows as VOID. -/
theorem reads_lifecycle_of_void (hr : Store.rising s.regs = true) (hv : (fuse s 3).testBit 2 = true) :
    Reads FUSE.LIFECYCLE_STATE 3 (showLifecycle s) := by
  have hstate : Reads FUSE.LIFECYCLE_STATE 3 (setF s FUSE.LIFECYCLE_STATE 3) :=
    reads_setF_self (f := FUSE.LIFECYCLE_STATE) (v := 3) hr
  have hcode : lifecycleOf (fuse s 3) = 3 := if_pos hv
  rw [showLifecycle, hcode]
  exact hstate.setB (key_ne_of_apart rfl)

theorem Reads.bumpAll {f : Fld} (h : Reads f v s) (hf : fieldsApart f (ATT.GEN 0) = true) : Reads f v (bumpAll s) :=
  h.forAll fun _ hs pt _ => hs.wrapF (key_ne_of_apart (g := ATT.GEN pt) hf)

theorem Reads.noteChip {f : Fld} {g : State → State} (h : Reads f v (g s)) (hf : fieldsApart f (ATT.GEN 0) = true) :
    Reads f v (noteChip g s) := h.ite (h.bumpAll hf)

theorem Reads.lcStart {f : Fld} (h : Reads f v s) (hf : f.key ≠ SEC.SEC_STS_LC_BUSY.key) :
    Reads f v (lcStart s r) := by
  have hbusy : Reads f v (Machine.setB s SEC.SEC_STS_LC_BUSY true) := h.setB hf
  exact hbusy.of_regs rfl

theorem Reads.withSec {f : Fld} {x : Security} (h : Reads f v s) : Reads f v { s with sec := x } := h.of_regs rfl

theorem doLcVoid_of_notVoid (hbusy : flag s SEC.SEC_STS_LC_BUSY = false) (hlc : lifecycle s ≠ 3) :
    doLcVoid s = (let s1 := noteChip (fun s => showLifecycle (blow s 3 4)) s
      lcStart { s1 with sec := { s1.sec with dik := 0, ak := 0, linkKey := [], linkNext := [] } } 0) := by
  rw [doLcVoid, if_neg (Bool.eq_false_iff.mp hbusy), if_neg hlc]

theorem lifecycle_doLcVoid (hr : Store.rising s.regs = true) (hbusy : flag s SEC.SEC_STS_LC_BUSY = false)
    (hlc : lifecycle s ≠ 3) : lifecycle (doLcVoid s) = 3 := by
  have hshown : Reads FUSE.LIFECYCLE_STATE 3 (showLifecycle (blow s 3 4)) :=
    reads_lifecycle_of_void hr (testBit_fuse_blow (by decide))
  have hnoted : Reads FUSE.LIFECYCLE_STATE 3 (noteChip (fun s => showLifecycle (blow s 3 4)) s) :=
    Reads.noteChip hshown rfl
  rw [doLcVoid_of_notVoid hbusy hlc]
  exact (Reads.lcStart hnoted.withSec (key_ne_of_apart rfl)).read

theorem doVoid_of_notVoid (hr : Store.rising s.regs = true) (hbusy : flag s SEC.SEC_STS_LC_BUSY = false)
    (hlc : lifecycle s ≠ 3) :
    doVoid s = (let s1 := noteChip (fun s => showLifecycle (blow s 3 4)) s
      portsOff (lcStart { s1 with sec := { s1.sec with dik := 0, ak := 0, linkKey := [], linkNext := [] } } 0)) := by
  rw [doVoid, if_pos (lifecycle_doLcVoid hr hbusy hlc), doLcVoid_of_notVoid hbusy hlc]

/-! The debug level (R410) and the FIELD entries (R464). -/

theorem doFieldProgram_of_free (hlc : lifecycle s = 1) (hfree : getF s FUSE.FIELD_STS_USED < 64) :
    doFieldProgram s entry = (let used := getF s FUSE.FIELD_STS_USED
      let s1 := setF (blow s (0x4E + used / 2) ((entry % 65536) * 2 ^ (16 * (used % 2))))
        (FUSE.BAD_DATA_ENTRY (64 + used)) entry
      setB (setF s1 FUSE.FIELD_STS_USED (used + 1)) FUSE.FIELD_STS_REFUSED false) :=
  if_pos ⟨hlc, hfree⟩

theorem doFieldProgram_of_refused (h : lifecycle s ≠ 1 ∨ 64 ≤ getF s FUSE.FIELD_STS_USED) :
    doFieldProgram s entry = setB s FUSE.FIELD_STS_REFUSED true := by
  refine if_neg fun ⟨hlc, hfree⟩ => ?_
  rcases h with h | h
  · exact h hlc
  · exact Nat.not_lt.mpr h hfree

/-- Settles O29: each command under the guard of its clause; a VOID that was blown is read back as the lifecycle. -/
theorem firmwareAndLifecycle : Obligations.FirmwareAndLifecycle := by
  unfold Obligations.FirmwareAndLifecycle
  refine ⟨?fwData, ?fwVerify, ?fwStaged, ?fwDiscard, ?svnCommit, ?lcRma, ?lcVoid, ?lcDone, ?permitted, ?refused,
    ?takesEffect, ?field, ?fieldRefused, ?trng⟩
  case fwData => exact fun s v ha hinc => exec_of_alive rfl ha (doFwData_of_autoinc hinc)
  case fwVerify => exact fun s ha hidle => exec_of_alive rfl ha (doFwVerify_of_idle hidle)
  case fwStaged => exact fun s hm hbusy => exec_of_managed rfl hm (if_pos hbusy)
  case fwDiscard => exact fun s ha hstaged => exec_of_alive rfl ha (if_pos hstaged)
  case svnCommit => exact fun s n ha hlc hn hlow => exec_of_alive rfl ha (doSvnCommit_of_sealed hlc hn hlow)
  case lcRma => exact fun s ha hbusy hlc => exec_of_alive rfl ha (doLcRma_of_sealed hbusy hlc)
  case lcVoid => exact fun s ha hr hbusy hlc => exec_of_alive rfl ha (doVoid_of_notVoid hr hbusy hlc)
  case lcDone => exact fun s r hm hnext => exec_of_managed rfl hm (by simp only [hnext])
  case permitted => exact fun s l ha hl => exec_of_alive rfl ha (if_pos hl)
  case refused => exact fun s l ha hl => exec_of_alive rfl ha (if_neg (Bool.eq_false_iff.mp hl))
  case takesEffect =>
    exact fun s l hm hnext hpos hlow => exec_of_managed rfl hm (by simp only [hnext, hpos, hlow, if_true])
  case field => exact fun s entry ha hlc hfree => exec_of_alive rfl ha (doFieldProgram_of_free hlc hfree)
  case fieldRefused => exact fun s entry ha h => exec_of_alive rfl ha (doFieldProgram_of_refused h)
  case trng => exact fun s test hm => exec_of_managed rfl hm rfl

end Sys2Proof.Machine
end

section
/-!
PROOFS. Key slots and key release (R398 to R401).
-/

namespace Sys2Proof.Machine

variable {s : State} {v k c : Nat} {r : Release}

/-! Key slots (R399). -/

theorem doSlotLoad_of_ok (h : slotResult s (slotSel s) 0 = 0) :
    doSlotLoad s = startSlot (setSlotResult s (slotSel s) 0) (slotSel s) 1 := by
  simp only [doSlotLoad, h, if_true]

theorem doSlotLoad_of_refused (h : slotResult s (slotSel s) 0 = c) (hc : c ≠ 0) :
    doSlotLoad s = setSlotResult s (slotSel s) c := by
  simp only [doSlotLoad, h, if_neg hc]

theorem doSlotLock_of_ok (h : slotResult s (slotSel s) 1 = 0) :
    doSlotLock s = startSlot (setSlotResult s (slotSel s) 0) (slotSel s) 2 := by
  simp only [doSlotLock, h, if_true]

theorem doSlotLock_of_refused (h : slotResult s (slotSel s) 1 = c) (hc : c ≠ 0) :
    doSlotLock s = setSlotResult s (slotSel s) c := by
  simp only [doSlotLock, h, if_neg hc]

theorem doSlotClear_of_inUse (hrun : bitF s PART.DRUN_OPEN_OPEN (slotPt s (slotSel s)) = false)
    (hnext : Store.get 0 s.sec.slotNext (slotSel s) = 0) (hused : slotState s (slotSel s) ≠ 0) :
    doSlotClear s = bumpConfigGen
      (dropImageKey (setF (setSlotResult s (slotSel s) 0) (KEY.KSLOT_CTL_STATE (slotSel s)) 0) (slotSel s))
      (slotPt s (slotSel s)) := by
  simp only [doSlotClear, hrun, hnext, hused, Bool.false_eq_true, ne_eq, not_true_eq_false, if_false]

/-! Key release (R400, R401). -/

theorem doRelData_of_fixed (hinc : flag s KEY.REL_ADDR_AUTOINC = false) :
    doRelData s v = (let o := getF s KEY.REL_ADDR_OFFSET / 4 * 4
      { s with sec := { s.sec with
        record := (upTo 4).foldl (fun m k => Store.set 0 m (o + k) (v / 256 ^ k % 256)) s.sec.record } }) :=
  if_neg (Bool.eq_false_iff.mp hinc)

/-- The release pair of the record's partition, its GEN and the slot that it names are good (R400). -/
structure ReleaseFits (s : State) (r : Release) : Prop where
  pt_lt : recordField s 8 1 < 16
  kept : Store.get none s.sec.releases (recordField s 8 1 % 16) = some r
  gen : recordField s 0 8 = r.gen
  configGen : getF s (ATT.GEN (recordField s 8 1 % 16)) = r.gen
  slot_lt : recordField s 9 1 < 16
  slotPt : slotPt s (recordField s 9 1) = recordField s 8 1 % 16
  locked : slotState s (recordField s 9 1) = 2
  settled : Store.get 0 s.sec.slotNext (recordField s 9 1) = 0

/-- The partition and the chip may open a slot (R401). -/
structure MayOpen (s : State) : Prop where
  bound : (ptState s (recordField s 8 1 % 16) == 0) = false
  whole : (ptState s (recordField s 8 1 % 16) == 5) = false
  isSealed : lifecycle s = 1
  debug : getF s SEC.DEBUG_LEVEL < 2
  unstaged : flag s SEC.FW_STS_STAGED = false

/-- A release that fits opens its slot where the record unwraps, and reports 4 where it does not. -/
theorem releaseResult_of_fits (hfits : ReleaseFits s r) (hmay : MayOpen s) :
    releaseResult s = match unwrapKey s r with | none => (4, 0) | some key => (0, key) := by
  obtain ⟨hpt, hkept, hgen, hcfg, hslot, hslotPt, hlocked, hsettled⟩ := hfits
  obtain ⟨hbound, hwhole, hsealed, hdebug, hstaged⟩ := hmay
  have h0 : ¬ ptState s (recordField s 8 1 % 16) = 0 := beq_eq_false_iff_ne.mp hbound
  have h5 : ¬ ptState s (recordField s 8 1 % 16) = 5 := beq_eq_false_iff_ne.mp hwhole
  simp only [releaseResult, hkept]
  rw [if_neg (Nat.not_le.mpr hpt), if_neg (by simp [hgen, hcfg]), if_neg (by simp [hslot, hslotPt, hlocked, hsettled])]
  cases unwrapKey s r with
  | none => rfl
  | some key =>
    dsimp only
    rw [if_neg (by simp [h0, h5, hsealed, hdebug]), if_neg (Bool.eq_false_iff.mp hstaged)]

/-- RELEASE ends with result `c` and no slot opened (R401). -/
def releaseFailed (s : State) (c : Nat) : State :=
  raise (setF (setB { s with sec := { s.sec with relNext := 0 } } KEY.REL_STS_BUSY false) KEY.REL_STS_RESULT c) 0x0022 1

theorem relDone_of_failed (hm : managed s = true) (hnext : s.sec.relNext ≠ 0) (hc : (releaseResult s).1 = c) (h0 : c ≠ 0) :
    exec .relDone s = .next (releaseFailed s c) := by
  refine exec_of_managed rfl hm ?_
  have hne : ¬ (releaseResult s).1 = 0 := hc ▸ h0
  simp only [if_neg hnext, hne, false_and, if_false]
  rw [hc]
  rfl

theorem relDone_of_opened (hm : managed s = true) (hnext : s.sec.relNext ≠ 0) (hlatch : latched s = false)
    (hholder : (holder s).isSome = true) (hres : releaseResult s = (0, k)) :
    exec .relDone s = .next (
      let s0 := setB { s with sec := { s.sec with relNext := 0 } } KEY.REL_STS_BUSY false
      let s3 := setF (dropRelease (setF s0 KEY.REL_STS_RESULT 0) (recordField s 8 1 % 16))
        (KEY.KSLOT_CTL_STATE (recordField s 9 1)) 3
      raise (bumpConfigGen
        { s3 with sec := { s3.sec with imageKey := Store.set 0 s3.sec.imageKey (recordField s 9 1) (k + 1) } }
        (recordField s 8 1 % 16)) 0x0022 1) := by
  refine exec_of_managed rfl hm ?_
  have hheld : (holder s).isNone = false := by
    rw [Option.isNone_eq_false_iff]; exact hholder
  simp only [if_neg hnext, hres, hheld, hlatch, Bool.false_eq_true, or_self, and_false, if_false, if_true]

/-- Settles O30: each command under the guard of its clause; a release by its result. -/
theorem keySlots : Obligations.KeySlots := by
  unfold Obligations.KeySlots
  refine ⟨?load, ?loadRefused, ?lock, ?lockRefused, ?clear, ?evicted, ?relData, ?release, ?relDone, ?relFailed⟩
  case load => exact fun s ha h => exec_of_alive rfl ha (doSlotLoad_of_ok h)
  case loadRefused => exact fun s r ha h hr => exec_of_alive rfl ha (doSlotLoad_of_refused h hr)
  case lock => exact fun s ha h => exec_of_alive rfl ha (doSlotLock_of_ok h)
  case lockRefused => exact fun s r ha h hr => exec_of_alive rfl ha (doSlotLock_of_refused h hr)
  case clear => exact fun s ha hrun hnext hused => exec_of_alive rfl ha (doSlotClear_of_inUse hrun hnext hused)
  case evicted =>
    exact fun s slot t ha hnext hev => exec_of_alive rfl ha (by simp only [hnext, hev, if_true])
  case relData => exact fun s v ha hinc => exec_of_alive rfl ha (doRelData_of_fixed hinc)
  case release => exact fun s ha hidle => exec_of_alive rfl ha (if_neg (Bool.eq_false_iff.mp hidle))
  case relDone =>
    intro s r hm hnext hlatch hholder hpt hkept hgen hcfg hslot hslotPt hlocked hsettled hbound hwhole hsealed hdebug
      hstaged
    have hres := releaseResult_of_fits ⟨hpt, hkept, hgen, hcfg, hslot, hslotPt, hlocked, hsettled⟩
      ⟨hbound, hwhole, hsealed, hdebug, hstaged⟩
    dsimp only
    cases hkey : unwrapKey s r with
    | none =>
      rw [hkey] at hres
      exact relDone_of_failed hm hnext (congrArg Prod.fst hres) (by decide)
    | some key =>
      rw [hkey] at hres
      exact relDone_of_opened hm hnext hlatch hholder hres
  case relFailed => exact fun s r hm hnext hres hr => relDone_of_failed hm hnext hres hr

end Sys2Proof.Machine
end

section
/-!
PROOFS. Quotes and image slots (R397, R398, R402).
-/

namespace Sys2Proof.Machine

variable {s : State} {pt c : Nat}

/-! Quotes (R397). -/

theorem doQuote_of_idle (hidle : flag s ATT.QUOTE_STS_BUSY = false) (hak : s.sec.ak ≠ 0) (htrng : trngFailed s = false) :
    doQuote s pt = (let (seed, s1) := draw s 512
      let body := quoteBody s1 pt (Config.mlkemPublic seed)
      let kept : Release := ⟨seed, sha3 body, getF s1 (ATT.GEN pt), frameOf s1⟩
      quoteStart { s1 with sec := { s1.sec with releases := Store.set none s1.sec.releases pt (some kept) } }
        (body ++ le 4627 (Config.mldsaSign (s1.sec.ak - 1) (Keccak.ofBytes body)))) := by
  rw [doQuote, if_neg (Bool.eq_false_iff.mp hidle), if_neg hak, if_neg (Bool.eq_false_iff.mp htrng)]

theorem doQuote_of_noIdentity (hidle : flag s ATT.QUOTE_STS_BUSY = false) (hak : s.sec.ak = 0) :
    doQuote s pt = setF s ATT.QUOTE_STS_RESULT 1 := by
  rw [doQuote, if_neg (Bool.eq_false_iff.mp hidle), if_pos hak]
  rfl

theorem doAkCertificate_of_idle (hidle : flag s ATT.QUOTE_STS_BUSY = false) (hak : s.sec.ak ≠ 0) :
    doAkCertificate s = quoteStart s (akCertificate s) := by
  rw [doAkCertificate, if_neg (Bool.eq_false_iff.mp hidle), if_neg hak]

theorem doDikPublicKey_of_idle (hidle : flag s ATT.QUOTE_STS_BUSY = false) (hdik : s.sec.dik ≠ 0) :
    doDikPublicKey s = quoteStart s (le 2592 (Config.mldsaPublic (s.sec.dik - 1))) := by
  rw [doDikPublicKey, if_neg (Bool.eq_false_iff.mp hidle), if_neg hdik]

/-! Image slots (R402). -/

theorem doImgBind_of_ok (h : bindResult s (imgSel s) = 0) :
    doImgBind s = (let k := imgSel s
      let pt := getF s (ATT.IMG_CTL_PT k)
      let s1 := setF (setF s (ATT.IMG_RES_RESULT k) 0) (ATT.IMG_RES_STATUS k) 0
      let s3 := recallRange (bumpConfigGen (setF s1 (ATT.IMG_CTL_STATE k) 1) pt) pt k (imgRange s k).1 (imgRange s k).2
      placeImages { s3 with sec := { s3.sec with imgWait := s3.sec.imgWait ++ [k] } }) := by
  simp only [doImgBind, h, if_true]

theorem doImgBind_of_refused (h : bindResult s (imgSel s) = c) (hc : c ≠ 0) :
    doImgBind s = setF (setF s (ATT.IMG_RES_RESULT (imgSel s)) c) (ATT.IMG_RES_STATUS (imgSel s)) 0 := by
  simp only [doImgBind, h, if_neg hc]

theorem doImgUnbind_of_bound (hrun : bitF s PART.DRUN_OPEN_OPEN (getF s (ATT.IMG_CTL_PT (imgSel s))) = false)
    (hstate : 2 ≤ getF s (ATT.IMG_CTL_STATE (imgSel s))) :
    doImgUnbind s = bumpConfigGen
      (setF (setF s (ATT.IMG_CTL_STATE (imgSel s)) 0) (ATT.IMG_RES_RESULT (imgSel s)) 0)
      (getF s (ATT.IMG_CTL_PT (imgSel s))) := by
  simp only [doImgUnbind, hrun, hstate, Bool.false_eq_true, if_false, if_true]

/-- Settles O31: each command under the guard of its clause; an image measurement by the status that it ended with. -/
theorem quotesAndImages : Obligations.QuotesAndImages := by
  unfold Obligations.QuotesAndImages
  refine ⟨?quote, ?noIdentity, ?certificate, ?publicKey, ?done, ?read, ?expiry, ?bind, ?bindRefused, ?measured, ?faulted,
    ?unbind⟩
  case quote => exact fun s pt ha hidle hak htrng => exec_of_alive rfl ha (doQuote_of_idle hidle hak htrng)
  case noIdentity => exact fun s pt ha hidle hak => exec_of_alive rfl ha (doQuote_of_noIdentity hidle hak)
  case certificate => exact fun s ha hidle hak => exec_of_alive rfl ha (doAkCertificate_of_idle hidle hak)
  case publicKey => exact fun s ha hidle hdik => exec_of_alive rfl ha (doDikPublicKey_of_idle hidle hdik)
  case done => exact fun s hm hbusy => exec_of_managed rfl hm (if_pos hbusy)
  case read => exact fun s hm hinc => exec_of_managed rfl hm (if_pos hinc)
  case expiry => exact fun s pt r hm hkept => exec_of_managed rfl hm (by simp only [hkept, dropRelease])
  case bind => exact fun s ha h => exec_of_alive rfl ha (doImgBind_of_ok h)
  case bindRefused => exact fun s r ha h hr => exec_of_alive rfl ha (doImgBind_of_refused h hr)
  case measured =>
    exact fun s slot ha hst => exec_of_alive rfl ha (by simp only [hst, ne_eq, not_true_eq_false, if_false])
  case faulted => exact fun s slot st ha hst hne => exec_of_alive rfl ha (by simp only [hst, if_pos hne])
  case unbind =>
    exact fun s ha hrun hstate => exec_of_alive rfl ha (doImgUnbind_of_bound hrun hstate)

end Sys2Proof.Machine
end

section
/-!
PROOFS. The agreement of link keys (R386 to R391).
-/

namespace Sys2Proof.Machine

variable {s t : State} {p want len c offer acc : Nat} {profS : Bool} {k : KeyX} {ok : KeyX → Bool} {f : KeyX → State}

/-! Where a message is expected (R386). -/

theorem takeKeyx_of_expected (hx : exchange s p = some k) (hlink : linkCarries s p = true) (hprof : linkS s = profS)
    (hok : ok k = true) : takeKeyx s p profS want want ok f = f k := by
  simp [takeKeyx, hx, hlink, hprof, hok]

theorem takeKeyx_of_unexpected (hx : exchange s p = some k) (hlink : linkCarries s p = true)
    (hbad : len ≠ want ∨ linkS s = !profS ∨ ok k = false) : takeKeyx s p profS want len ok f = failExchange s p 4 := by
  have hnot : (len = want && linkS s == profS && ok k) = false := by
    rcases hbad with h | h | h
    · simp [h]
    · simp [h]
    · simp [h]
  simp only [takeKeyx, hx, hlink, hnot, if_true, Bool.false_eq_true, if_false]

/-- A rotation that runs is not joined again. -/
theorem joinRotation_of_running (hx : exchange s p = some k) : joinRotation s p = s := by
  simp [joinRotation, hx]

/-! The messages of profile S (R387). -/

theorem doOffer_of_expected (hlink : linkCarries s p = true) (hprof : linkS s = true) (hx : exchange s p = some k)
    (hcold : k.cold = true) (hlead : leads s p = false) (hscript : k.script = []) (htrng : trngFailed s = false) :
    doOffer s p 4192 c = (let ek := c / 256 ^ 2624 % 256 ^ 1568
      if !peerKnown s p (c % 256 ^ 2592) then failExchange s p 1
      else if !Config.mlkemKeyOk ek then failExchange s p 3
      else
        let (r, s1) := draw s 256
        let (n, s2) := draw s1 256
        let head := join2 2592 (Config.mldsaPublic (s.sec.dik - 1)) (join2 32 n (Config.mlkemCiphertext ek r))
        let acc := join2 4192 head (Config.mldsaSign (s.sec.dik - 1) (join2 4192 c head))
        sendCtrl (setExchange s2 p { k with script := [c, acc], seed := Config.mlkemShared ek r }) p (.keyx 2 8819 acc)) := by
  refine (takeKeyx_of_expected hx hlink hprof (by simp [hcold, hlead, hscript])).trans ?_
  simp only [htrng, Bool.false_eq_true, if_false]

theorem doOffer_of_unexpected (hlink : linkCarries s p = true) (hx : exchange s p = some k)
    (hbad : len ≠ 4192 ∨ linkS s = false ∨ k.cold = false ∨ leads s p = true ∨ k.script ≠ []) :
    doOffer s p len c = failExchange s p 4 := by
  refine takeKeyx_of_unexpected hx hlink ?_
  rcases hbad with h | h | h | h | h
  · exact .inl h
  · exact .inr (.inl h)
  · exact .inr (.inr (by simp [h]))
  · exact .inr (.inr (by simp [h]))
  · exact .inr (.inr (by simp [h]))

theorem doAccept_of_expected (hlink : linkCarries s p = true) (hprof : linkS s = true) (hx : exchange s p = some k)
    (hcold : k.cold = true) (hlead : leads s p = true) (hscript : k.script = [offer]) :
    doAccept s p 8819 c = (if !peerKnown s p (c % 256 ^ 2592) then failExchange s p 1
      else if !Config.mldsaVerify (c % 256 ^ 2592) (join2 4192 offer (c % 256 ^ 4192)) (c / 256 ^ 4192 % 256 ^ 4627) then
        failExchange s p 2
      else
        let conf := Config.mldsaSign (s.sec.dik - 1) (join2 4192 offer c)
        let th := hashOf [(4192, offer), (8819, c), (4627, conf)]
        let s1 := sendCtrl { s with sec := { s.sec with linkTh := Store.set 0 s.sec.linkTh p th } } p (.keyx 3 4627 conf)
        installKeys s1 p { k with script := [offer, c, conf] }
          (keysS s p (Config.mlkemDecapsulate k.seed (c / 256 ^ 2624 % 256 ^ 1568)) th)) := by
  refine (takeKeyx_of_expected hx hlink hprof (by simp [hcold, hlead, hscript])).trans ?_
  simp only [hscript, List.getD_cons_zero]

theorem doConfirm_of_expected (hlink : linkCarries s p = true) (hprof : linkS s = true) (hx : exchange s p = some k)
    (hcold : k.cold = true) (hlead : leads s p = false) (hscript : k.script = [offer, acc]) :
    doConfirm s p 4627 c =
      (if !Config.mldsaVerify (offer % 256 ^ 2592) (join2 4192 offer acc) c then failExchange s p 2
      else
        let th := hashOf [(4192, offer), (8819, acc), (4627, c)]
        let s1 := { s with sec := { s.sec with linkTh := Store.set 0 s.sec.linkTh p th } }
        installKeys s1 p { k with script := [offer, acc, c] } (keysS s p k.seed th)) := by
  refine (takeKeyx_of_expected hx hlink hprof (by simp [hcold, hlead, hscript])).trans ?_
  simp only [hscript, List.getD_cons_zero, List.getD_cons_succ]

/-! Nonces (R388) and rotations (R390). -/

theorem doNonce_of_expected (hlink : linkCarries s p = true) (hprof : linkS s = false) (hx : exchange s p = some k)
    (hnew : k.derived = false) (hrot : c / 256 ^ 32 % 2 ^ 32 = k.rot) :
    doNonce s p 36 c = (let n := c % 256 ^ 32
      installKeys s p { k with script := [c] }
        (if leads s p then keysF s p k.nonce n k.rot else keysF s p n k.nonce k.rot)) := by
  have hjoin : (if linkS s then s else joinRotation s p) = s := by
    rw [joinRotation_of_running hx, ite_self]
  simp only [doNonce, hjoin]
  exact takeKeyx_of_expected hx hlink hprof (by rw [hnew, hrot, Bool.not_false, beq_self_eq_true, Bool.and_self])

theorem doRotOffer_of_expected (hlink : linkCarries s p = true) (hprof : linkS s = true) (hx : exchange s p = some k)
    (hcold : k.cold = false) (hlead : leads s p = false) (hscript : k.script = []) (htrng : trngFailed s = false) :
    doRotOffer s p 1600 c = (let ek := c / 256 ^ 32 % 256 ^ 1568
      if !Config.mlkemKeyOk ek then failExchange s p 3
      else
        let (r, s1) := draw s 256
        let (n, s2) := draw s1 256
        let acc := join2 32 n (Config.mlkemCiphertext ek r)
        let th := rotationHash s p c acc
        let s3 := sendCtrl { s2 with sec := { s2.sec with linkTh := Store.set 0 s2.sec.linkTh p th } } p (.keyx 6 1600 acc)
        installKeys s3 p { k with script := [c, acc] } (keysS s p (Config.mlkemShared ek r) th)) := by
  have hjoin : (if linkS s then joinRotation s p else s) = s := by
    rw [joinRotation_of_running hx, ite_self]
  simp only [doRotOffer, hjoin]
  refine (takeKeyx_of_expected hx hlink hprof (by simp [hcold, hlead, hscript])).trans ?_
  simp only [htrng, Bool.false_eq_true, if_false]

theorem doRotAccept_of_expected (hlink : linkCarries s p = true) (hprof : linkS s = true) (hx : exchange s p = some k)
    (hcold : k.cold = false) (hlead : leads s p = true) (hscript : k.script = [offer]) :
    doRotAccept s p 1600 c = (let th := rotationHash s p offer c
      installKeys { s with sec := { s.sec with linkTh := Store.set 0 s.sec.linkTh p th } } p
        { k with script := [offer, c] }
        (keysS s p (Config.mlkemDecapsulate k.seed (c / 256 ^ 32 % 256 ^ 1568)) th)) := by
  refine (takeKeyx_of_expected hx hlink hprof (by simp [hcold, hlead, hscript])).trans ?_
  simp only [hscript, List.getD_cons_zero]

/-- The end of a rotation: the next keys take over, in each direction at its own time (R389, R390). -/
theorem finishExchange_of_rotation (hderived : k.derived = true) (hready : k.ready = true) (hcold : k.cold = false) :
    finishExchange s p k = (let nx := Store.get (0, 0) s.sec.linkNext p
      let s1 := setF s (KEY.KX_STS_STATE p) 2
      let s2 := { s1 with sec := { s1.sec with
        kx := Store.set none s1.sec.kx p none
        linkKey := Store.set (0, 0) s1.sec.linkKey p (nx.1, (Store.get (0, 0) s.sec.linkKey p).2)
        linkNext := Store.set (0, 0) s1.sec.linkNext p (0, nx.2)
        linkRot := Store.set 0 s1.sec.linkRot p k.rot } }
      let s3 := setF (setF s2 (PORT.FRAMES_TX p) 0) (PORT.KEY_STS_TX_PH p) (1 - getF s (PORT.KEY_STS_TX_PH p))
      bumpF s3 (KEY.KX_STS_ROTATIONS p)) := by
  simp only [finishExchange, hderived, hready, hcold, Bool.and_self, if_true, Bool.false_eq_true, if_false]

theorem doReady_of_expected (hlink : linkCarries s p = true) (hx : exchange s p = some k) (hrot : c % 2 ^ 32 = k.rot) :
    doReady s p 4 c = finishExchange s p { k with ready := true } :=
  takeKeyx_of_expected hx hlink rfl (beq_iff_eq.mpr hrot)

theorem doKeyRotation_of_active
    (ht : atPeriodic s (64 + p) (4096 * 2 ^ rotLog2 s) (4096 * (p * 2 ^ (rotLog2 s - 6))) = t)
    (hlink : linkActive t p = true) (hlead : leads t p = true) (hx : exchange t p = none) :
    doKeyRotation s p = startExchange t p false := by
  simp [doKeyRotation, ht, hlink, hlead, hx]

theorem doKeyRotation_of_inactive
    (ht : atPeriodic s (64 + p) (4096 * 2 ^ rotLog2 s) (4096 * (p * 2 ^ (rotLog2 s - 6))) = t)
    (hlink : linkActive t p = false) : doKeyRotation s p = bumpF t (KEY.KX_STS_SKIPPED p) := by
  simp only [doKeyRotation, ht, hlink, Bool.not_false, if_true]

/-- Settles O32: each message by whether its exchange expects it. -/
theorem keyExchanges : Obligations.KeyExchanges := by
  unfold Obligations.KeyExchanges
  refine ⟨?offer, ?format, ?accept, ?confirm, ?nonce, ?rotOffer, ?rotAccept, ?ready, ?timeout, ?rotation, ?skipped, ?limit⟩
  case offer =>
    exact fun s port c k ha hlink hprof hx hcold hlead hscript htrng =>
      exec_of_alive rfl ha (doOffer_of_expected hlink hprof hx hcold hlead hscript htrng)
  case format => exact fun s port len c k ha hlink hx hbad => exec_of_alive rfl ha (doOffer_of_unexpected hlink hx hbad)
  case accept =>
    exact fun s port c offer k ha hlink hprof hx hcold hlead hscript =>
      exec_of_alive rfl ha (doAccept_of_expected hlink hprof hx hcold hlead hscript)
  case confirm =>
    exact fun s port c offer acc k ha hlink hprof hx hcold hlead hscript =>
      exec_of_alive rfl ha (doConfirm_of_expected hlink hprof hx hcold hlead hscript)
  case nonce =>
    exact fun s port c k ha hlink hprof hx hnew hrot =>
      exec_of_alive rfl ha (doNonce_of_expected hlink hprof hx hnew hrot)
  case rotOffer =>
    exact fun s port c k ha hlink hprof hx hcold hlead hscript htrng =>
      exec_of_alive rfl ha (doRotOffer_of_expected hlink hprof hx hcold hlead hscript htrng)
  case rotAccept =>
    exact fun s port c offer k ha hlink hprof hx hcold hlead hscript =>
      exec_of_alive rfl ha (doRotAccept_of_expected hlink hprof hx hcold hlead hscript)
  case ready =>
    exact fun s port c k ha hlink hx hderived hcold hrot => exec_of_alive rfl ha
      ((doReady_of_expected hlink hx hrot).trans (finishExchange_of_rotation hderived rfl hcold))
  case timeout => exact fun s port k ha hx => exec_of_alive rfl ha (by simp only [hx])
  case rotation =>
    exact fun s port t ha ht hlink hlead hx => exec_of_alive rfl ha (doKeyRotation_of_active ht hlink hlead hx)
  case skipped => exact fun s port t ha ht hlink => exec_of_alive rfl ha (doKeyRotation_of_inactive ht hlink)
  case limit => exact fun s port ha hlim => exec_of_alive rfl ha (if_pos hlim)

end Sys2Proof.Machine
end

section
/-!
PROOFS. The muslin scrub (R405 to R408).
-/

namespace Sys2Proof.Machine

variable {s : State} {pt pid d since : Nat} {x : Scrub}

theorem doScrubGo_of_accepted (hquiet : ptState s pt = 4) (hrun : runOpen s pt = false) (htrng : trngFailed s = false)
    (hmask : scrubMaskOk s pt (getF s PART.SCRUB_CORES_CORES) (getF s PART.SCRUB_DRIVES_DRIVES) = true) :
    doScrubGo s pt = (let (k, s2) := draw (setF s (PART.SCRUB_STS_RESULT pt) 0) 512
      scrubStart { s2 with sec := { s2.sec with kt := k + 1 } } pt ((upTo 16).filter (getF s PART.SCRUB_CORES_CORES).testBit)
        ((upTo 16).filter (getF s PART.SCRUB_DRIVES_DRIVES).testBit)) := by
  simp only [doScrubGo, hquiet, hrun, htrng, hmask, Bool.not_true, Bool.false_eq_true, ne_eq, not_true_eq_false, if_false]

theorem doScrubTimeout_of_awaited
    (hpt : ((upTo 16).find? fun pt => (scrubOf s pt).isSome && (awaitedBy s (scrubJob pt)).contains pid) = some pt)
    (hsince : ((((scrubOf s pt).map (·.owed)).getD []).find? fun o => o.1 == pid) = some (pid, since)) :
    doScrubTimeout s pid = fencePid (advanceEl s (since + 250000)) pid := by
  simp only [doScrubTimeout, hpt, hsince]

theorem doSanitizeDone_of_sanitizing (hstate : getF s (PCIE.DRV_STS_STATE d) = 5) :
    doSanitizeDone s d = (let s1 := setF s (PCIE.DRV_STS_STATE d) 2
      let s2 := { s1 with tier := { s1.tier with
        flash := unkey 31 d s1.tier.flash, unclean := s1.tier.unclean.filter (· != d) } }
      forAll (upTo 16) (fun s pt => setF s (PART.SCRUB_STS_DRIVES_LEFT pt)
        (withBit (getF s (PART.SCRUB_STS_DRIVES_LEFT pt)) d false)) s2) :=
  if_neg (not_not_intro hstate)

theorem doScrubDone_of_over (hx : scrubOf s pt = some x) (hover : scrubOver s pt x = true) :
    doScrubDone s pt = (let cs := x.cores.filter fun c => !lostCore s c
      let old := (tableCores s pt).filter fun c => !lostCore s c
      let s2 := forAll cs scrubCore (carryTables (forAll cs freeCore s) pt old)
      let s3 := forAll x.drives (freeDrive · pt) s2
      let s4 := setScrub { s3 with sec := { s3.sec with kt := 0 } } pt none
      let s5 := setF (setB s4 (PART.SCRUB_STS_BUSY pt) false) (PART.SCRUB_STS_STEP pt) 0
      let s6 := { s5 with parts := { s5.parts with quiesced := setBit16 s5.parts.quiesced pt (!(coresOf s5 pt).isEmpty) } }
      raise (invalidatePt (setB s6 (PART.CFG_STS_COPYING pt) (copyingPt s6 pt)) pt) 0x0030 3) := by
  simp only [doScrubDone, hx, hover, Bool.not_true, Bool.false_eq_true, if_false]

/-- Settles O34: each command of the scrub under the guard of its clause. -/
theorem muslinScrub : Obligations.MuslinScrub := by
  unfold Obligations.MuslinScrub
  refine ⟨?go, ?timeout, ?sanitized, ?done⟩
  case go =>
    intro s pt ha hsel hquiet hrun htrng hmask
    subst hsel
    exact exec_of_alive rfl ha (noteState_congr (doScrubGo_of_accepted hquiet hrun htrng hmask))
  case timeout => exact fun s pid pt e ha hpt hsince => exec_of_alive rfl ha (doScrubTimeout_of_awaited hpt hsince)
  case sanitized => exact fun s root ha hstate => exec_of_alive rfl ha (doSanitizeDone_of_sanitizing hstate)
  case done => exact fun s pt x ha hx hover => exec_of_alive rfl ha (doScrubDone_of_over hx hover)

end Sys2Proof.Machine
end

section
/-!
PROOFS. Power control (R417 to R433, R440): the cap loop, the fast limit, droops, the monitors and telemetry.
-/

namespace Sys2Proof.Machine

variable {s t : State} {c : Nat}

theorem stepUp_of_below (h : freqHalf s c < limitHalf s c) :
    stepUp s c = bumpF (setFreq s c (min (limitHalf s c) (freqHalf s c + 25))) (CLK.TRIM_UP c) :=
  if_pos h

/-- Settles O35: each command under the guard of its clause; the states between are those of the command's own steps. -/
theorem powerControl : Obligations.PowerControl := by
  unfold Obligations.PowerControl
  refine ⟨?capLoop, ?fast, ?within, ?droop, ?stretchEnd, ?deferEnd, ?alarm, ?alarmHeld, ?stepUp, ?filler, ?telemetry⟩
  case capLoop =>
    intro s avg cores dram fab aux input s0 hm h0 _
    subst h0
    exact ⟨_, _, exec_of_managed rfl hm rfl, rfl, rfl⟩
  case fast => exact fun s peak hm hover => exec_of_managed rfl hm (if_neg (Nat.not_le.mpr hover))
  case within => exact fun s peak hm hwithin => exec_of_managed rfl hm (if_pos hwithin)
  case droop =>
    exact fun s core pt hm hup hst howner => exec_of_managed rfl hm
      (by simp only [hup, hst, howner, Bool.not_false, Bool.and_self, if_true])
  case stretchEnd => exact fun s core hm hst => exec_of_managed rfl hm (if_pos hst)
  case deferEnd =>
    intro s core t hm hdefer hst ht hstale
    refine exec_of_managed rfl hm ?_
    simp only [hdefer, hst, ht, hstale, Bool.not_false, Bool.and_self, if_true]
  case alarm =>
    intro s core hm hfloat hblocked
    refine exec_of_managed rfl hm ?_
    simp only [hfloat, hblocked, if_true, Bool.false_eq_true, if_false, stepDown]
  case alarmHeld =>
    intro s core hm hfloat hblocked
    refine exec_of_managed rfl hm ?_
    simp only [hfloat, hblocked, if_true]
  case stepUp =>
    intro s core t hm hfloat hholder ht hblocked hbelow
    refine exec_of_managed rfl hm ?_
    simp only [hfloat, hholder, ht, hblocked, Bool.and_self, if_true, Bool.false_eq_true, if_false,
      stepUp_of_below hbelow]
  case filler =>
    intro s core issued ha hup howner
    refine exec_of_alive rfl ha ?_
    simp only [hup, howner, Bool.and_self, if_true]
  case telemetry =>
    intro s rails dram die supply hm
    exact ⟨_, _, exec_of_managed rfl hm rfl, rfl, rfl⟩

end Sys2Proof.Machine
end

section
/-!
PROOFS. The input stage and the resets (R455 to R457, R506), and the marionette steps (R458 to R461).
-/

namespace Sys2Proof.Machine

variable {s : State} {n ns c ms : Nat} {work : State → Nat × State}

/-! The input stage and the resets. -/

/-- A command that is not held back by the module's mode leads where its meaning does. -/
theorem exec_of_next {i : Instr} {t u : State} (hi : exec i s = .next t) (ht : t = u) : exec i s = .next u := by
  rw [hi, ht]

theorem doResetWarm_of_refused (hc : warmReason s = c) (h0 : c ≠ 0) :
    doResetWarm s = setF (setB s TOP.RESET_STS_REFUSED true) TOP.RESET_STS_REASON c := by
  subst hc
  exact if_neg h0

/-- Settles O37: each command under the guard of its clause. -/
theorem resets : Obligations.Resets := by
  unfold Obligations.Resets
  refine ⟨?applied, ?good, ?low, ?glitch, ?release, ?cold, ?notCool, ?warm, ?refused, ?attach, ?detach⟩
  case applied => exact fun s h => exec_of_next rfl (by simp [h])
  case good => exact fun s happlied hgood => exec_of_next rfl (by simp [happlied, hgood])
  case low => exact fun s ns hgood hcool hlong => exec_of_next rfl (by
    have hnot : ¬ ns < 1000 := by omega
    simp [hgood, hcool, hlong, hnot, holdReset])
  case glitch => exact fun s ns hshort => exec_of_next rfl (by simp [hshort])
  case release => exact fun s straps hgood hvaux hreset => exec_of_next rfl (by simp [hgood, hvaux, hreset])
  case cold => exact fun s hm hcool => exec_of_managed rfl hm (if_pos hcool)
  case notCool => exact fun s hm hhot => exec_of_managed rfl hm (if_neg (Bool.eq_false_iff.mp hhot))
  case warm => exact fun s hm hr => exec_of_managed rfl hm (if_pos hr)
  case refused => exact fun s r hm hr h0 => exec_of_managed rfl hm (doResetWarm_of_refused hr h0)
  case attach => exact fun s hm hoff => exec_of_managed rfl hm (if_neg (Bool.eq_false_iff.mp hoff))
  case detach => exact fun s hm hon => exec_of_managed rfl hm (if_pos hon)

/-! The marionette steps. -/

theorem stepWork_of_ready (h : stepReady s n = true) :
    stepWork s n work = { (work s).2 with boot := { (work s).2.boot with work := (work s).1 + 1 } } := by
  simp only [stepWork, h, if_true]

theorem stepReady_setRefused (hr : Store.rising s.regs = true) :
    stepReady (setB s TOP.SEQ_STS_REFUSED true) n = stepReady s n := by
  have hstate : getF (setB s TOP.SEQ_STS_REFUSED true) TOP.SEQ_STS_STATE = getF s TOP.SEQ_STS_STATE :=
    getF_setF_of_ne hr (key_ne_of_apart rfl)
  have hstep : getF (setB s TOP.SEQ_STS_REFUSED true) TOP.SEQ_STS_STEP = getF s TOP.SEQ_STS_STEP :=
    getF_setF_of_ne hr (key_ne_of_apart rfl)
  simp only [stepReady, stepRunning, hstate, hstep, setB_boot]

theorem stepWork_of_refused (hr : Store.rising s.regs = true) (hready : stepReady s n = false)
    (hallowed : stepAllowed s n = false) : stepWork s n work = setB s TOP.SEQ_STS_REFUSED true := by
  have hseq : doSeqStep s n = setB s TOP.SEQ_STS_REFUSED true := if_neg (Bool.eq_false_iff.mp hallowed)
  simp only [stepWork, hready, hseq, stepReady_setRefused hr, Bool.false_eq_true, if_false]

/-- Settles O38: the twelve steps by the work they share; their ends by the code that was kept. -/
theorem marionetteSteps : Obligations.MarionetteSteps := by
  unfold Obligations.MarionetteSteps
  refine ⟨?m0, ?m1, ?m2, ?m3, ?m4, ?m5, ?m6, ?m7, ?m8, ?m9, ?m10, ?m11, ?refused, ?done, ?fail, ?drive⟩
  case m0 => exact fun s _ ha h => exec_of_alive rfl ha (stepWork_of_ready h)
  case m1 => exact fun s _ _ ha h => exec_of_alive rfl ha (stepWork_of_ready h)
  case m2 => exact fun s ha h => exec_of_alive rfl ha (stepWork_of_ready h)
  case m3 => exact fun s _ _ ha h => exec_of_alive rfl ha (stepWork_of_ready h)
  case m4 => exact fun s ha h => exec_of_alive rfl ha (stepWork_of_ready h)
  case m5 => exact fun s _ ha h => exec_of_alive rfl ha (stepWork_of_ready h)
  case m6 => exact fun s _ ha h => exec_of_alive rfl ha (stepWork_of_ready h)
  case m7 => exact fun s _ ha h => exec_of_alive rfl ha (stepWork_of_ready h)
  case m8 => exact fun s _ ha h => exec_of_alive rfl ha (stepWork_of_ready h)
  case m9 => exact fun s _ ha h => exec_of_alive rfl ha (stepWork_of_ready h)
  case m10 => exact fun s ha h => exec_of_alive rfl ha (stepWork_of_ready h)
  case m11 => exact fun s ha h => exec_of_alive rfl ha (stepWork_of_ready h)
  case refused =>
    exact fun s ha hr hready hallowed => exec_of_alive rfl ha (stepWork_of_refused hr hready hallowed)
  case done =>
    intro s ms ha hrun hwork hend
    refine exec_of_alive rfl ha ?_
    simp only [hrun, hwork, hend, beq_self_eq_true, Bool.and_self, if_true, endStep]
  case fail =>
    intro s code ms ha hrun hwork hcode
    have hne : (s.boot.work != 0) = true := bne_iff_ne.mpr (by omega)
    refine exec_of_alive rfl ha ?_
    simp only [if_pos hwork, hrun, hne, hcode, Bool.and_self, if_true]
  case drive =>
    intro s root ha hrun hstate
    refine exec_of_alive rfl ha ?_
    simp only [hrun, hstate, decide_true, Bool.and_self, if_true]

end Sys2Proof.Machine
end

section
/-!
PROOFS. Register messages, the page header, the fault log and the debug contacts (R448, R468, R478 to R489, R513).
-/

namespace Sys2Proof.Machine

variable {s u : State} {f : SelvFrame} {g : State → State} {b : Block} {d : RegDesc} {fixed : Bool} {data : List Nat}
  {m tag epoch addr n st v p o page same code word w : Nat} {l : List Nat}

/-! Register messages. -/

/-- A message of a good frame is taken with its sender noted. -/
theorem exec_of_frame {i : Instr} {t : State} (hi : exec i s = .next (whenManaged s (onFrame f g))) (hm : managed s = true)
    (hf : frameOk f = true) (hu : noteSender s f = u) (hg : g u = t) : exec i s = .next t := by
  refine exec_of_managed hi hm ?_
  rw [onFrame_of_ok hf, hu, hg]

theorem writeBurst_single_of_ok (hst : writeStatus s m epoch addr v = 0) (hold : oldWrite s m epoch = false)
    (hreset : startsReset s addr v = false) :
    writeBurst m tag epoch fixed [v] addr 0 s = regAnswer (writeReg s addr v) m tag 0 1 [] := by
  simp only [writeBurst, hst, hold, hreset, ne_eq, not_true_eq_false, if_false, Bool.false_and, Bool.false_eq_true,
    Nat.zero_add]

theorem writeBurst_single_of_refused (hst : writeStatus s m epoch addr v = st) (h0 : st ≠ 0) :
    writeBurst m tag epoch fixed [v] addr 0 s =
      regAnswer (countRefused (noteRefusedReset s addr v st) m st) m tag st 0 [] := by
  simp only [writeBurst, hst, if_pos h0]

/-- A REG_WRITE of one word in a message of the right length is a burst of one write. -/
theorem exec_regWrite_single (hm : managed s = true) (hf : frameOk f = true) (hu : noteSender s f = u)
    (hup : selvUp u f.port = true) (hwords : f.words = 3) (hshape : shapeStatus addr 1 fixed = 0) :
    exec (.regWrite f tag epoch addr 1 fixed [v]) s =
      .next (writeBurst f.port tag (epoch % 65536) fixed [v % 2 ^ 32] addr 0 u) := by
  refine exec_of_frame rfl hm hf hu ?_
  simp only [hup, hwords, hshape, List.length_singleton, List.map_cons, List.map_nil, ne_eq, not_true_eq_false, or_self,
    if_true, if_false]

/-! Writes of a register (R483) and of the page header (R484, R485). -/

theorem writeReg_of_open (hp : addr / 4096 % 65536 = p) (ho : addr % 4096 / 4 * 4 = o) (hb : pageBlock p = some (b, n))
    (hopen : pageOpen s p = true) (hd : regAt s p o = some d) (hv : v < 2 ^ 32)
    (hacts : ((actionBits b o).filter v.testBit).length ≤ 1) :
    writeReg s addr v = actReg (flagWrite s p o v d) p b n o v d := by
  simp only [writeReg, hp, ho, Nat.mod_eq_of_lt hv, hb, hopen, hd, if_neg (Nat.not_lt.mpr hacts), Bool.not_true,
    Bool.false_eq_true, if_false]

/-- A header register that takes no action bits. -/
theorem writeReg_of_header (hp : p < 65536) (ho : o < 0x040) (ha : o % 4 = 0) (hb : pageBlock p = some (b, n))
    (hopen : pageOpen s p = true) (hd : headerViews p o = some d) (hv : v < 2 ^ 32) (hacts : actionBits b o = []) :
    writeReg s (p % 65536 * 4096 + o) v = actReg (flagWrite s p o v d) p b n o v d := by
  have hreg : regAt s p o = some d := by
    simp only [regAt, hb, if_pos ho, hd]
  rw [Nat.mod_eq_of_lt hp]
  exact writeReg_of_open (page_of_addr hp (by omega)) (offset_of_addr (by omega) ha) hb hopen hreg hv (by simp [hacts])

theorem exec_pageEvtClear_of_clean (ha : alive s = true) (hp : page < 65536) (hopen : pageOpen s page = true)
    (hv : v < 2 ^ 32) (hclean : v / 2 ^ pageNevt page = 0) (hevt : pageNevt page ≠ 0) :
    exec (.pageEvtClear page v same) s = .next (clearEvt s page v same) := by
  refine exec_of_alive rfl ha ?_
  have hpage : page % 65536 = page := Nat.mod_eq_of_lt hp
  simp only [onPage, hpage, hopen, Nat.mod_eq_of_lt hv, hclean, hevt, ne_eq, not_true_eq_false, or_self, if_true, if_false]

/-! The debug contacts (R513). -/

theorem exec_bypass_of_undefined (hon : tapOn s = true) (h1 : code % 256 ≠ 0x01) (h10 : code % 256 ≠ 0x10)
    (h20 : code % 256 ≠ 0x20) : exec (.bypass code) s = .next (tapLoad s 0xFF 0) := by
  have hundef : [0x01, 0x10, 0x20].contains (code % 256) = false := by
    simp [h1, h10, h20]
  refine exec_of_next rfl ?_
  simp only [hon, hundef, Bool.not_false, Bool.and_self, if_true]

theorem doMsg_of_word (hon : tapOn s = true) (hout : s.dbg.outWords = w :: l) :
    doMsg s word false = tapLoad { s with dbg := { s.dbg with outWords := l } } 0x10 (w % 2 ^ 32 + 2 ^ 32) := by
  rw [doMsg_eq, if_pos hon, if_neg Bool.false_ne_true, msgOut, hout]

theorem doMsg_of_first (hon : tapOn s = true) (hout : s.dbg.outWords = []) (hin : s.dbg.inWords = []) :
    doMsg s word true = (let s1 := tapLoad s 0x10 0
      { s1 with dbg := { s1.dbg with inWords := [word % 2 ^ 32] } }) := by
  have hmsg : msgOut s = tapLoad s 0x10 0 := by
    rw [msgOut, hout]
  have hwords : (tapLoad s 0x10 0).dbg.inWords = [] := hin
  rw [doMsg_eq, if_pos hon, if_pos rfl, hmsg, hwords]
  exact if_neg fun ⟨hlong, _⟩ => absurd hlong (Nat.not_le.mpr Nat.one_lt_two)

theorem doScan_of_D2 (hon : tapOn s = true) (hlevel : getF s SEC.DEBUG_LEVEL = 2) :
    doScan s = (let (v, s1) := freeNat s 32
      setB (tapLoad s1 0x20 v) DBG.DBG_STS_SCAN true) := by
  simp only [doScan, hon, hlevel, beq_self_eq_true, Bool.and_self, if_true]

/-- Settles O40: messages by the tests of their shape and control, writes by the register's place. -/
theorem registerCommands : Obligations.RegisterCommands := by
  unfold Obligations.RegisterCommands
  refine ⟨?read, ?readShape, ?readWords, ?write, ?writeRefused, ?writeWords, ?register, ?evtClear, ?evtEn, ?hold, ?pop,
    ?clearLost, ?idcode, ?bypass, ?msgOut, ?msgIn, ?scan⟩
  case read =>
    intro s f u tag addr n fixed hm hf hu hup hwords hshape
    refine exec_of_frame rfl hm hf hu ?_
    simp only [hup, hwords, hshape, ne_eq, not_true_eq_false, if_true, if_false]
  case readShape =>
    intro s f u tag addr n st fixed hm hf hu hup hwords hshape h0
    refine exec_of_frame rfl hm hf hu ?_
    simp only [hup, hwords, hshape, ne_eq, not_true_eq_false, h0, not_false_eq_true, if_true, if_false]
  case readWords =>
    intro s f u tag addr n fixed hm hf hu hup hwords
    refine exec_of_frame rfl hm hf hu ?_
    simp only [hup, if_pos hwords, if_true]
    rfl
  case write =>
    intro s f u tag epoch addr v fixed hm hf hu hup hwords hshape hst hold hreset
    rw [exec_regWrite_single hm hf hu hup hwords hshape, writeBurst_single_of_ok hst hold hreset]
  case writeRefused =>
    intro s f u tag epoch addr v st fixed hm hf hu hup hwords hshape hst h0
    rw [exec_regWrite_single hm hf hu hup hwords hshape, writeBurst_single_of_refused hst h0]
  case writeWords =>
    intro s f u tag epoch addr n fixed data hm hf hu hup hwords
    refine exec_of_frame rfl hm hf hu ?_
    simp only [hup, if_pos hwords, if_true]
    rfl
  case register =>
    exact fun s addr v p o b n d ha hp ho hb hopen hd hv hacts =>
      exec_of_alive rfl ha (writeReg_of_open hp ho hb hopen hd hv hacts)
  case evtClear =>
    exact fun s page v same ha hp hopen hv hclean hevt => exec_pageEvtClear_of_clean ha hp hopen hv hclean hevt
  case evtEn =>
    exact fun s page v b n d ha hp hb hopen hd hv hacts =>
      exec_of_alive rfl ha (writeReg_of_header hp (by decide) (by decide) hb hopen hd hv hacts)
  case hold =>
    exact fun s page v b n d ha hp hb hopen hd hv hacts =>
      exec_of_alive rfl ha (writeReg_of_header hp (by decide) (by decide) hb hopen hd hv hacts)
  case pop => exact fun s e l ha hlog => exec_of_alive rfl ha (by rw [doFaultPop, hlog, List.drop_one, List.tail_cons])
  case clearLost => exact fun s ha => exec_of_alive rfl ha rfl
  case idcode => exact fun s hon => exec_of_next rfl (if_pos hon)
  case bypass => exact fun s code hon h1 h10 h20 => exec_bypass_of_undefined hon h1 h10 h20
  case msgOut => exact fun s word w l hon hout => exec_of_next rfl (doMsg_of_word hon hout)
  case msgIn => exact fun s word hon hout hin => exec_of_next rfl (doMsg_of_first hon hout hin)
  case scan => exact fun s hon hlevel => exec_of_next rfl (doScan_of_D2 hon hlevel)

end Sys2Proof.Machine
end
